-- ==== Sys2Proof/Word.lean ====
section
/-! DEFINITION. Words of the KX9 (00_scope.md R3): a byte is 8 bits, a half 16, a word 32, a double 64.
A virtual address is 57 bits (03_memory_spaces.md R64). -/

namespace Sys2Proof

abbrev Byte := BitVec 8
abbrev Half := BitVec 16
abbrev Word := BitVec 32
abbrev Dbl := BitVec 64
/-- A 57-bit virtual address, also a PC (R34). -/
abbrev VA := BitVec 57
/-- A 9-bit register field of an instruction (R170). -/
abbrev Reg := BitVec 9
/-- A set of lanes: bit i is lane i (R34). -/
abbrev Lanes := BitVec 32

end Sys2Proof
end

