-- ==== Sys2Proof/Config.lean ====
section
/-! DEFINITION. What an implementation fixes, and the free values: constants without a body, so that nothing
can be proved about the value they take. Each is named in the assumption log. -/

namespace Sys2Proof.Config

/-- The place of the device's stepping in the row of steppings, which starts at 0x01 (R27, "per stepping"). Log entry 10. -/
opaque steppingIndex : BitVec 8

/-- DEVINFO.STEP: 0x01 or more. -/
def stepping : BitVec 8 := if steppingIndex = 0 then 1 else steppingIndex

/-- A value that the manual leaves open and that may differ from use to use; the argument is a serial number
that the step advances (the State field `fresh`). Log entry 9. -/
opaque freeWord : Nat → Word

/-- A special-function result before the bound of Table 7 of R212 is imposed: a fixed function of the input bits.
The first argument names the function by its opcode. Log entry 7. -/
opaque sfu : Nat → Word → Word

/-- An entry of a ROTARY table before the bound of R295 is imposed: arguments base, D and j. Log entry 8. -/
opaque rotaryTheta : Word → Nat → Nat → Word

/-- Byte i, below 64, of the two AES-256 keys that a key epoch stands for, which the management complex draws from its random
source and which never leave the device (R374). Log entry 6. -/
opaque xtsKey : Nat → Nat → Byte

/-- A line of memory after a mapping change sends it to a location that holds other bytes (R403), by serial number
of the change and physical byte address. Log entry 13. -/
opaque remapped : Nat → Nat → Byte

/-- A relabelling's choice (R124: the placement of the new values is not architectural beyond the conditions
stated there): numerator of the share that a subtree keeps, by serial number. Log entry 14. -/
opaque relabelShare : Nat → Nat

/-- The gap that a sampler draws (R438), before it is brought into [PERIOD, 2 x PERIOD - 1]. Log entry 15. -/
opaque sampleGap : Nat → Nat

/-- Signatures, keys and certificates of the management complex (R447 to R449): byte i of the object that the
first two arguments name. Log entry 16. -/
opaque secretByte : Nat → Nat → Nat → Byte

/-- Whether a firmware image's SLH-DSA signature verifies (R447): a fixed function of the image's bytes. Log entry 16. -/
opaque signatureOk : List Byte → Bool

/-- Whether the module's lossless compressor fits an image into the capacity tier is not a value; the image's
format is not architectural (R398). This is one byte of a saved image's body (R416), also not architectural:
arguments serial number and offset. Log entry 17. -/
opaque saveBody : Nat → Nat → Byte

/-- The decoded capacity in bytes of the Type 3 expanders behind a CXL port (R362, R460): what is attached is not the
device's. Log entry 18. -/
opaque cxlCapacity : Nat → Nat

end Sys2Proof.Config
end

