-- ==== Sys2Proof/Syntax.lean ====
section
/-! DEFINITION. The instructions of the Valeel architecture (spec chapters 08 to 12) and the events of the device
(spec/opcode_table.json): one constructor for each row of the table. -/

namespace Sys2Proof

/-- The fields that every instruction word carries beside its operands (R170): U, PN, PG, RT. -/
structure Hdr where
  u : Bool
  pn : Bool
  pg : BitVec 3
  rt : BitVec 2
  deriving DecidableEq, Repr

/-- Source B (R175, R178): a register, a 9-bit literal, or IMM of a 96-bit form. Also the offset of a memory operand (R223). -/
inductive SrcB where
  | reg (r : Reg)
  | lit (l : BitVec 9)
  | imm (w : Word)
  deriving DecidableEq, Repr

/-- Source C (R175): a register or a 9-bit literal. -/
inductive SrcC where
  | reg (r : Reg)
  | lit (l : BitVec 9)
  deriving DecidableEq, Repr

/-- A predicate source (R195): p0 to p6, or pt for 7, possibly negated. -/
structure PSrc where
  idx : BitVec 3
  neg : Bool
  deriving DecidableEq, Repr

/-- Rounding modes (R110). -/
inductive Rm where
  | rn | rz | rm | rp | rna
  deriving DecidableEq, Repr

/-- Element formats (R84 Table 8). -/
inductive Fmt where
  | raw | fp32 | fp16 | bf16 | e4m3 | e5m2 | e2m1 | int8 | int4 | mxfp8e4 | mxfp8e5 | mxfp4 | ts4 | int32
  deriving DecidableEq, Repr

/-- Block geometries (R84 Table 9). -/
inductive Geom where
  | none | b16 | b32 | b64 | graph
  deriving DecidableEq, Repr

/-- Scopes (R89). -/
inductive Scope where
  | group | block | cluster | die | package | system
  deriving DecidableEq, Repr

/-- Atomic order modifiers (R237). -/
inductive AOrd where
  | relaxed | acq | rel | ar
  deriving DecidableEq, Repr

/-- Atomic operations (R238 Table 6). -/
inductive AOp where
  | addN32 | addN64 | minI32 | maxI32 | minN32 | maxN32 | andB32 | orB32 | xorB32 | exchB32 | exchB64
  | incN32 | decN32 | addF32 | minF32 | maxF32
  deriving DecidableEq, Repr

/-- Size codes of loads and stores (R225 Table 2). -/
inductive Size where
  | b32 | b64 | b128 | b8 | b16
  deriving DecidableEq, Repr

/-- Conversion types (R208 Table 6). -/
inductive CType where
  | f32 | f16 | bf16 | e4m3 | e5m2 | e2m1 | i32 | n32 | i16 | n16 | i8 | n8 | i4 | n4
  deriving DecidableEq, Repr

/-- Element widths of pack and unpack (R211). -/
inductive EW where
  | w4 | w8 | w16
  deriving DecidableEq, Repr

/-- Lane-exchange modes (R215). -/
inductive XMode where
  | at | rotinc | rotdec | flip
  deriving DecidableEq, Repr

/-- Modes of `poll` (R216): a word result (mask, count) or a predicate result. -/
inductive PollW where
  | mask | count
  deriving DecidableEq, Repr
inductive PollP where
  | some | every | same
  deriving DecidableEq, Repr

/-- `poll` destination: a vector register, a scalar register (.s), or a predicate (R216). -/
inductive PollDst where
  | vec (m : PollW) (d : Reg)
  | scal (m : PollW) (d : Reg)
  | pred (m : PollP) (d : BitVec 3)
  deriving DecidableEq, Repr

/-- Modes of `kin` (R217). -/
inductive KinMode where
  | mask | lead | rank | alleq
  deriving DecidableEq, Repr

/-- Reduction operations of `fold` and `scan` (R218 Table 9). -/
inductive ROp where
  | iadd | imin | imax | nmin | nmax | and | or | xor | fadd | fmin | fmax
  deriving DecidableEq, Repr

/-- Compare conditions (R219); `num` and `nan` for `fcmp` only. -/
inductive Cond where
  | eq | ne | lt | le | gt | ge | num | nan
  deriving DecidableEq, Repr

/-- `movs` sources (R222 Table 10). -/
inductive SReg where
  | laneid | groupid | ngroups | blockid | nblocks | actmask | bndmask | core | cyclo | cychi | sbeg | send | sfix
  | arg0 | arg1 | arg2 | arg3 | launchcnt | phasecnt | jobcnt | tlablo | tlabhi | tenant
  deriving DecidableEq, Repr

/-- Fence kinds (R242). -/
inductive FKind where
  | sc | acq | rel | ar
  deriving DecidableEq, Repr

/-- Levels of work (R44 Table 6), with 0 for the task level of `cancel` (R304). -/
inductive Level where
  | task | launch | graph | phase | job
  deriving DecidableEq, Repr

/-- Fields of `cntrd` (R309). -/
inductive CField where
  | done | target | stat | usedlo | usedhi
  deriving DecidableEq, Repr

/-- Lane sizes of `cpl` (R265). -/
inductive CSz where
  | b32 | b64 | b128
  deriving DecidableEq, Repr

/-- Which register space a host write without a row of its own reaches (R364 BAR0 of a tenant's function, the
management space of R402 and chapter 24, or the mailbox BAR4 of R446). -/
inductive RegSpace where
  | bar0 (tenant : Nat)
  | mgmt
  | bar4
  deriving DecidableEq, Repr

/-- An update on its way to a die's far-line cache (R23): the die, and the update's place among those on their way to it. -/
structure FarPlace where
  die : Nat
  place : Nat
  deriving DecidableEq, Repr

/-- An access of the host through BAR2 (R370): a read, or a posted write with its relaxed-ordering attribute (R361). -/
inductive HostTlp where
  | read
  | write (relaxed : Bool)
  deriving DecidableEq, Repr

/-- The instructions and events. -/
inductive Instr where
  -- control (09 Table 1)
  | bra (h : Hdr) (off : Word) (tp fp : Byte)
  | brx (h : Hdr) (a : Reg) (off : Word) (tp fp : Byte)
  | call (h : Hdr) (d : Reg) (off : Word) (tp fp : Byte)
  | callx (h : Hdr) (d a : Reg) (off : Word) (tp fp : Byte)
  | ret (h : Hdr) (a : Reg) (tp fp : Byte)
  | exit (h : Hdr)
  | yield (h : Hdr)
  | setprio (h : Hdr) (n : Byte)
  | loopc (h : Hdr) (d : Reg) (off : Word) (tp fp : Byte)
  | brk (h : Hdr) (n : Byte)
  -- integer (09 Table 2)
  | iadd (h : Hdr) (d a : Reg) (b : SrcB) (uns sat : Bool)
  | isub (h : Hdr) (d a : Reg) (b : SrcB) (uns sat : Bool)
  | imul (h : Hdr) (d a : Reg) (b : SrcB) (uns sat : Bool)
  | imulhi (h : Hdr) (d a : Reg) (b : SrcB) (uns : Bool)
  | imad (h : Hdr) (d a : Reg) (b : SrcB) (c : SrcC) (uns sat : Bool)
  | iaddc (h : Hdr) (d a : Reg) (b : SrcB) (ci co : BitVec 3)
  | imin (h : Hdr) (d a : Reg) (b : SrcB) (uns : Bool)
  | imax (h : Hdr) (d a : Reg) (b : SrcB) (uns : Bool)
  | iabs (h : Hdr) (d a : Reg) (sat : Bool)
  | lea (h : Hdr) (d a : Reg) (b : SrcB) (sh : BitVec 5)
  | idot4 (h : Hdr) (d a : Reg) (b : SrcB) (c : SrcC) (ua sat ub : Bool)
  | idot8 (h : Hdr) (d a : Reg) (b : SrcB) (c : SrcC) (ua sat ub : Bool)
  | iclamp (h : Hdr) (d a : Reg) (b : SrcB) (c : SrcC) (uns : Bool)
  -- logic and bit (09 Table 3)
  | and (h : Hdr) (d a : Reg) (b : SrcB)
  | or (h : Hdr) (d a : Reg) (b : SrcB)
  | xor (h : Hdr) (d a : Reg) (b : SrcB)
  | bool3 (h : Hdr) (d a : Reg) (b : SrcB) (c : SrcC) (fn : Byte)
  | shl (h : Hdr) (d a : Reg) (b : SrcB)
  | shr (h : Hdr) (d a : Reg) (b : SrcB)
  | sar (h : Hdr) (d a : Reg) (b : SrcB)
  | rot (h : Hdr) (d a : Reg) (b : SrcB) (right : Bool)
  | bfe (h : Hdr) (d a : Reg) (b : SrcB) (uns : Bool)
  | bfi (h : Hdr) (d a : Reg) (b : SrcB) (c : SrcC)
  | popc (h : Hdr) (d a : Reg)
  | clz (h : Hdr) (d a : Reg)
  | brev (h : Hdr) (d a : Reg)
  | bsel (h : Hdr) (d a : Reg) (b : SrcB) (c : SrcC)
  -- FP32 (09 Table 4)
  | fadd (h : Hdr) (d a : Reg) (b : SrcB) (md : Rm)
  | fsub (h : Hdr) (d a : Reg) (b : SrcB) (md : Rm)
  | fmul (h : Hdr) (d a : Reg) (b : SrcB) (md : Rm)
  | ffma (h : Hdr) (d a : Reg) (b : SrcB) (c : SrcC) (md : Rm)
  | fmin (h : Hdr) (d a : Reg) (b : SrcB)
  | fmax (h : Hdr) (d a : Reg) (b : SrcB)
  | fclamp (h : Hdr) (d a : Reg) (b : SrcB) (c : SrcC)
  | fround (h : Hdr) (d a : Reg) (md : Rm)
  | fdot2 (h : Hdr) (d a : Reg) (b : SrcB) (c : SrcC) (md : Rm) (bf : Bool)
  -- packed half and conversion (09 Table 5, R208 to R211)
  | hadd2 (h : Hdr) (d a : Reg) (b : SrcB) (md : Rm) (bf : Bool)
  | hmul2 (h : Hdr) (d a : Reg) (b : SrcB) (md : Rm) (bf : Bool)
  | hfma2 (h : Hdr) (d a : Reg) (b : SrcB) (c : SrcC) (md : Rm) (bf : Bool)
  | hmin2 (h : Hdr) (d a : Reg) (b : SrcB) (bf : Bool)
  | hmax2 (h : Hdr) (d a : Reg) (b : SrcB) (bf : Bool)
  | cvt (h : Hdr) (d a : Reg) (dt st : CType) (md : Rm) (sat : Bool) (sel : BitVec 4)
  | cvtq (h : Hdr) (d a : Reg) (fmt : Fmt) (ty : BitVec 2) (b16 : Bool)
  | cvtd (h : Hdr) (d a : Reg) (fmt : Fmt)
  | pack (h : Hdr) (d a : Reg) (b : SrcB) (w : EW) (pos : BitVec 3)
  | unpack (h : Hdr) (d a : Reg) (w : EW) (pos : BitVec 3) (zext : Bool)
  -- special functions and lanes (R212 to R218)
  | rcp (h : Hdr) (d a : Reg)
  | rsq (h : Hdr) (d a : Reg)
  | sqrt (h : Hdr) (d a : Reg)
  | ex2 (h : Hdr) (d a : Reg)
  | lg2 (h : Hdr) (d a : Reg)
  | sin (h : Hdr) (d a : Reg)
  | cos (h : Hdr) (d a : Reg)
  | sincos (h : Hdr) (d a : Reg)
  | tanh (h : Hdr) (d a : Reg)
  | lanex (h : Hdr) (d a : Reg) (b : SrcB) (c : SrcC) (mode : XMode) (k : BitVec 3)
  | poll (h : Hdr) (d : PollDst) (p : PSrc)
  | kin (h : Hdr) (d a : Reg) (mode : KinMode)
  | fold (h : Hdr) (d a : Reg) (op : ROp) (s : Bool)
  | scan (h : Hdr) (d a : Reg) (op : ROp) (ex : Bool)
  -- compare, select and move (R219 to R222)
  | icmp (h : Hdr) (p : BitVec 3) (a : Reg) (b : SrcB) (cond : Cond) (uns : Bool)
  | fcmp (h : Hdr) (p : BitVec 3) (a : Reg) (b : SrcB) (cond : Cond)
  | plop (h : Hdr) (p : BitVec 3) (pa pb pc : PSrc) (fn : Byte)
  | sel (h : Hdr) (d a : Reg) (b : SrcB) (pc : PSrc)
  | mov (h : Hdr) (d a : Reg)
  | movi (h : Hdr) (d : Reg) (imm : Word)
  | movs (h : Hdr) (d : Reg) (src : SReg)
  | pmovP2r (h : Hdr) (d : Reg)
  | pmovR2p (h : Hdr) (a : Reg) (mask : BitVec 7)
  | fclass (h : Hdr) (p : BitVec 3) (a : Reg) (mask : BitVec 9)
  -- loads and stores (R223 to R236)
  | ld (h : Hdr) (d a : Reg) (off : SrcB) (sz : Size) (sx home : Bool)
  | st (h : Hdr) (a : Reg) (off : SrcB) (c : SrcC) (sz : Size) (home : Bool)
  | ldx (h : Hdr) (d a : Reg) (off : SrcB) (idx : SrcC) (fmt : Fmt) (geom : Geom)
  | stx (h : Hdr) (a : Reg) (off : SrcB) (idx : Reg) (c : SrcC) (fmt : Fmt) (geom : Geom) (sat : Bool)
  | lds (h : Hdr) (d a : Reg) (off : SrcB) (sz : Size) (sx : Bool)
  | sts (h : Hdr) (a : Reg) (off : SrcB) (c : SrcC) (sz : Size)
  | ldc (h : Hdr) (d a : Reg) (off : SrcB) (sz : Size) (sx : Bool)
  | prefetch (h : Hdr) (a : Reg) (off : SrcB) (far : Bool)
  -- atomics (10 Table 5)
  | atom (h : Hdr) (d a : Reg) (off : SrcB) (c : SrcC) (op : AOp) (scope : Scope) (ord : AOrd)
  | atomcas (h : Hdr) (d a : Reg) (off : SrcB) (c : Reg) (w64 : Bool) (scope : Scope) (ord : AOrd)
  | red (h : Hdr) (a : Reg) (off : SrcB) (c : SrcC) (op : AOp) (scope : Scope) (ord : AOrd)
  | reddet (h : Hdr) (a : Reg) (off : SrcB) (c : SrcC) (op : AOp)
  | atoms (h : Hdr) (d a : Reg) (off : SrcB) (c : SrcC) (op : AOp)
  | atomscas (h : Hdr) (d a : Reg) (off : SrcB) (c : Reg) (w64 : Bool)
  | reds (h : Hdr) (a : Reg) (off : SrcB) (c : SrcC) (op : AOp)
  | redmark (h : Hdr)
  -- synchronisation (R242 to R256)
  | fence (h : Hdr) (kind : FKind) (scope : Scope)
  | wait (h : Hdr) (ld st cp tl : BitVec 6)
  | binit (h : Hdr) (n : BitVec 4) (a : Reg) (off : SrcB)
  | barrive (h : Hdr) (n : BitVec 4) (d : Reg) (cnt : SrcB)
  | barwait (h : Hdr) (n : BitVec 4) (a : Reg)
  | barsync (h : Hdr) (n : BitVec 4) (cnt : SrcB)
  | qinit (h : Hdr) (n : BitVec 3) (es : BitVec 2) (a : Reg) (off : Word) (entries : BitVec 13) (allow : Byte)
  | qpush (h : Hdr) (n : BitVec 3) (a : Reg)
  | qpop (h : Hdr) (n : BitVec 3) (d : Reg)
  | qtry (h : Hdr) (n : BitVec 3) (d : Reg) (p : BitVec 3)
  | chainw (h : Hdr) (a : Reg) (off : SrcB) (c : SrcC) (scope : Scope) (ge : Bool)
  | chainp (h : Hdr) (a : Reg) (off : SrcB) (c : SrcC) (scope : Scope)
  | tokacq (h : Hdr)
  | tokpass (h : Hdr)
  -- copies and tiles (11 Table 1)
  | cpl (h : Hdr) (t a : Reg) (off : Word) (so : Reg) (sz : CSz) (s2g : Bool) (scope : Scope)
  | cpt (h : Hdr) (t row : Reg) (col : SrcC) (td : BitVec 4) (tx : BitVec 3) (s2g : Bool) (scope : Scope)
  | cpr (h : Hdr) (t a : Reg) (td : BitVec 4) (op : AOp) (first count : Byte) (scope : Scope)
  | chkwait (h : Hdr) (td : BitVec 4) (mask : Word) (first : BitVec 7)
  | chktest (h : Hdr) (p : BitVec 3) (td : BitVec 4) (mask : Word) (first : BitVec 7)
  | tdesc (h : Hdr) (td : BitVec 4) (a : Reg) (len : Byte) (fmt geom : BitVec 4) (pitch rows cols : Half)
  | tfree (h : Hdr) (td : BitVec 4)
  | trec (h : Hdr) (tx : BitVec 3) (a : Reg) (off : SrcB)
  | cpcancel (h : Hdr) (t : Reg)
  -- matrix, generators, collectives
  | mma (h : Hdr) (t : Option Reg) (a : Reg) (off : SrcB) (eng res : Bool)
  | mmv (h : Hdr) (t : Option Reg) (a : Reg) (off : SrcB) (eng res : Bool)
  | mprog (h : Hdr) (d : Reg) (eng : Bool)
  | accld (h : Hdr) (t : Reg) (eng : Bool) (td : BitVec 4) (arow : BitVec 9) (acol : BitVec 7)
  | accst (h : Hdr) (t : Reg) (eng : Bool) (td : BitVec 4) (arow : BitVec 9) (acol : BitVec 7) (md : Rm) (sat : Bool)
      (ty : BitVec 2) (epi : Option (BitVec 3 × Reg × Reg))
  | acczero (h : Hdr) (eng : Bool) (arow : SrcB) (nrows : SrcC)
  | mabort (h : Hdr) (eng : Bool)
  | gset (h : Hdr) (g : BitVec 3) (a : Reg) (off : SrcB)
  | gseed (h : Hdr) (g : BitVec 3) (a : Reg)
  | geval (h : Hdr) (d : Reg) (g : BitVec 3) (a : Reg) (b : SrcB)
  | coll (h : Hdr) (t a : Reg) (off : SrcB) (slot : BitVec 3)
  | collwait (h : Hdr) (mask : Byte)
  -- tasks, trace, search, system (12 Table 2)
  | enq (h : Hdr) (r a : Reg) (off : SrcB) (q : SrcC)
  | spawn (h : Hdr) (p : BitVec 3) (a : Reg) (off : Word) (prio : Byte)
  | fork (h : Hdr) (t a : Reg) (off : SrcB)
  | cancel (h : Hdr) (t a : Reg) (level : Level) (b : Option SrcB)
  | cntrd (h : Hdr) (d a : Reg) (field : CField) (free : Bool)
  | cntwait (h : Hdr) (p : BitVec 3) (a : Reg) (b : SrcB)
  | arena (h : Hdr) (d a : Reg) (fmt : Fmt) (geom : Geom) (trk : Bool)
  | tropen (h : Hdr) (r a : Reg) (c : SrcC) (lg : BitVec 5)
  | trclose (h : Hdr) (r a : Reg) (free : Bool)
  | prop (h : Hdr) (t a : Reg)
  | trfork (h : Hdr) (r a : Reg) (b : SrcB)
  | trstat (h : Hdr) (d a : Reg) (sel : BitVec 3)
  | trmark (h : Hdr) (a : Reg) (off : SrcB)
  | nnq (h : Hdr) (t : Reg) (slot : BitVec 4) (a : Reg) (off : SrcB)
  | nnwait (h : Hdr) (mask : Half)
  | nncancel (h : Hdr) (slot : BitVec 4)
  | nngraph (h : Hdr) (r : Reg) (n : BitVec 6) (a : Reg) (off : SrcB)
  | nngraphBump (h : Hdr) (r : Reg) (n : BitVec 6) (long : Bool)
  | nngraphDrop (h : Hdr) (r : Reg) (n : BitVec 6) (long : Bool)
  | trap (h : Hdr) (n : Byte)
  | rti (h : Hdr)
  | csrrd (h : Hdr) (d : Reg) (csr : BitVec 12)
  | csrwr (h : Hdr) (csr : BitVec 12) (a : Reg)
  | tlbinvPage (h : Hdr) (a : Reg) (off : SrcB)
  | tlbinvAll (h : Hdr) (long : Bool)
  | stop (h : Hdr)
  | smark (h : Hdr) (n : Byte) (a : Reg)
  -- events of the groups and the distributor
  | regroupMerge (tid g : Nat)
  | dispatchDecision (tenant core : Nat)
  | queueAging (tenant q : Nat)
  | taskEnd (tid : Nat)
  | budgetCharge (core : Nat)
  | hangDetect (tenant core : Nat)
  | oplogReplay (tid g : Nat)
  | cancelReclaim (id : Nat)
  | forkComplete (id : Nat)
  -- events of the engines
  | chunkLands (id chunk : Nat)
  | cprChunkApply (id chunk : Nat)
  | copyComplete (id : Nat)
  | kblockComplete (core : Nat) (eng : Bool)
  | matrixFetchFault (core : Nat) (eng : Bool)
  | matrixComplete (core : Nat) (eng : Bool)
  | accOpComplete (core : Nat) (eng : Bool)
  | rotaryTableBuilt (tid g : Nat)
  | collectiveComplete (id : Nat)
  | collTimeout (id : Nat)
  | queryStart (id : Nat)
  | expansionRequest (id : Nat)
  | expansionReply (id : Nat)
  | roundMerge (id : Nat)
  | queryComplete (id : Nat)
  | queryCancelArrival (id : Nat)
  -- events of the memory system
  | writeApplyAtPort (id : Nat)
  | farlineUpdate (upd : FarPlace)
  | l1WritebackTimeout (core line : Nat)
  | l1InvalidateTimeout (core line : Nat)
  | reddetAccept (id : Nat)
  | blockRetire (tenant launch : Nat)
  | horizonApply (tenant launch : Nat)
  -- events of the Eventides
  | traceRecord (tenant : Nat)
  | windowForm (tenant handle : Nat)
  | taskCommit (tenant handle : Nat)
  -- events of the memory service and migration engines
  | sharingBreak (id : Nat)
  | arenaPageBack (id : Nat)
  | migratedPageRestore (id : Nat)
  | framePoolRefill (tenant : Nat)
  | migrationPoll (tenant : Nat)
  | migOut (tenant : Nat)
  | migIn (tenant : Nat)
  | migMove (tenant : Nat)
  | migDirect (tenant : Nat)
  | migBadop (tenant : Nat)
  -- events of pre-emption
  | quantumExpiry (tenant core : Nat)
  | contextSaveComplete (tenant core : Nat)
  | shadowSwitch (tenant core : Nat)
  | contextRestoreComplete (tenant core : Nat)
  -- events of the debug units
  | breakpointMatch (tid g : Nat)
  | preciseStop (tid : Nat)
  | samplePoint (core sched : Nat)
  | sampleRecord (core sched : Nat)
  | dbgStop (tenant : Nat)
  | dbgResume (tenant : Nat)
  | dbgStep (tenant : Nat)
  | dbgEnd (tenant : Nat)
  | dbgRead (tenant : Nat)
  | dbgWrite (tenant : Nat)
  | dbgBadarg (tenant : Nat)
  -- events of the host and of tenants' registers
  | spillPoolApply (tenant : Nat)
  | hostRingTake (tenant n : Nat)
  | priGroupSend (tenant : Nat)
  | tenantResetComplete (tenant : Nat)
  -- events of the management complex
  | matrixEngineEnable (island : Nat)
  | islandSetOff (island : Nat)
  | islandSetLow (island : Nat)
  | islandSetFull (island : Nat)
  | islandDrainComplete (island : Nat)
  | rateChange (stack : Nat)
  | rateChangeDeferredStart (stack : Nat)
  | retrainComplete (stack : Nat) (ok : Bool)
  | loadDataReturn (tid g id : Nat)
  | constCacheDrop (core line : Nat)
  -- what the host does
  | keyownWrite (k : Nat) (v : Word)
  | registerWrite (sp : RegSpace) (off : Nat) (v : Word)
  | sriovVfEnable (n : Nat)
  | pqsetWrite (from_ : Nat) (v : Word)
  | hqDoorbell (tenant n : Nat) (v : Word)
  | cqheadWrite (tenant : Nat) (v : Word)
  | dqcfgWrite (tenant q : Nat) (v : Word)
  | watchArm (tenant w : Nat) (v : Word)
  | csrWindowWrite (tenant csr : Nat) (v : Word)
  | bar2Access (tenant : Nat) (off : Nat) (how : HostTlp) (data : List Byte)
  | commWrite (tenant h i : Nat) (v : Word)
  | frrespWrite (tenant : Nat) (v : Word)
  | priResponse (tenant grp code : Nat)
  | tenantReset (tenant : Nat)
  | flr (tenant : Nat)
  | powerMeasure (watts : Nat)
  | patrolScrub (line : Nat) (outcome : Nat)
  | selfRefreshEntry (stack pc : Nat)
  | priReenable (tenant : Nat)
  -- no operands
  | nop | nop96 | nop128 | fillWord
  | coldReset
  | standby
  | islandRampStart
  | mapLoad
  | mapCheckComplete
  | modificationRecord
  | illegalInstr
  | mbRdreg | mbWrreg | mbSetroot | mbIdent | mbAttest | mbStageimg | mbBadop
  deriving DecidableEq, Repr

end Sys2Proof
end

