-- ==== Sys2Proof/WellFormed.lean ====
section
/-! DEFINITION. Which instruction terms an encoding can carry: the checks of R171, R174, R176, R177, R195 and of
each instruction's own field ranges (chapters 08 to 12). A term that fails one has no legal encoding. -/

namespace Sys2Proof

/-- The pair PG = 7, PN = 1 is illegal (R174). -/
def Hdr.guardOk (h : Hdr) : Bool := !(h.pg == 7 && h.pn)

/-- RT names a register source that the instruction reads (R176); `a`, `b`, `c` say which register sources there are. -/
def Hdr.rtOk (h : Hdr) (a b c : Bool) : Bool :=
  match h.rt.toNat with
  | 0 => true
  | 1 => a
  | 2 => b
  | _ => c

def SrcB.isReg : SrcB → Bool
  | .reg _ => true
  | _ => false

def SrcC.isReg : SrcC → Bool
  | .reg _ => true
  | _ => false

/-- Header checks of an instruction: guard, U where the description excludes it (R172), and RT. -/
def hdrOk (h : Hdr) (u a b c : Bool) : Bool := h.guardOk && (u || !h.u) && h.rtOk a b c

/-- Headers by the sources an instruction has: none; a; a and b; a and c; a, b and c. -/
def hk0 (h : Hdr) : Bool := hdrOk h true false false false
def hkA (h : Hdr) : Bool := hdrOk h true true false false
def hkAB (h : Hdr) (b : SrcB) : Bool := hdrOk h true true b.isReg false
def hkAC (h : Hdr) (c : SrcC) : Bool := hdrOk h true true false c.isReg
def hkABC (h : Hdr) (b : SrcB) (c : SrcC) : Bool := hdrOk h true true b.isReg c.isReg

/-- A scalar field holds 448 to 511 (R171). -/
def scalOk (r : Reg) : Bool := decide (448 ≤ r.toNat)
/-- A predicate destination is p0 to p6 (R195). -/
def pdOk (p : BitVec 3) : Bool := p != 7
/-- An offset of a PC-relative form is a multiple of 4 (R179). -/
def offOk (w : Word) : Bool := w.toNat % 4 == 0

/-- Table 10 of R84. -/
def pairOk (f : Fmt) (g : Geom) : Bool :=
  match g with
  | .none => f == .raw || f == .fp32 || f == .fp16 || f == .bf16 || f == .e4m3 || f == .e5m2 || f == .e2m1 ||
      f == .int8 || f == .int4 || f == .int32
  | .b32 => f == .mxfp8e4 || f == .mxfp8e5 || f == .mxfp4 || f == .ts4
  | .b16 => f == .ts4
  | .b64 => f == .ts4
  | .graph => f == .fp32 || f == .fp16 || f == .bf16 || f == .e4m3 || f == .e5m2 || f == .int8

/-- The pairs that `ldx` and `stx` take (R229). -/
def elemPairOk (f : Fmt) (g : Geom) : Bool := f != .raw && g != .graph && pairOk f g

/-- The block formats of `cvtq` and `cvtd` (R209, R210). -/
def blockFmt (f : Fmt) : Bool := f == .mxfp8e4 || f == .mxfp8e5 || f == .mxfp4 || f == .ts4

/-- Width in bits of a conversion type (R208 Table 6). -/
def CType.width : CType → Nat
  | .f32 | .i32 | .n32 => 32
  | .f16 | .bf16 | .i16 | .n16 => 16
  | .e4m3 | .e5m2 | .i8 | .n8 => 8
  | .e2m1 | .i4 | .n4 => 4

def EW.bits : EW → Nat
  | .w4 => 4
  | .w8 => 8
  | .w16 => 16

/-- OP codes of `red` and `reds` (R237 Table 5): 9 and 10 illegal. -/
def redOpOk (o : AOp) : Bool := o != .exchB32 && o != .exchB64
/-- OP codes of `reddet`: 0, 13, 14 and 15. -/
def detOpOk (o : AOp) : Bool := o == .addN32 || o == .addF32 || o == .minF32 || o == .maxF32
/-- OP codes of `cpr` (R273): 0, 2 to 8 and 13 to 15. -/
def cprOpOk (o : AOp) : Bool :=
  o != .addN64 && o != .exchB32 && o != .exchB64 && o != .incN32 && o != .decN32

/-- 8- and 16-bit sizes, the ones that may carry SX (R225). -/
def Size.narrow : Size → Bool
  | .b8 | .b16 => true
  | _ => false

/-- The checks of one term. An event of a unit has no encoding and nothing to check. -/
def wf : Instr → Bool
  | .bra h off _ _ => hk0 h && offOk off
  | .brx h _ _ _ _ => hkA h
  | .call h _ off _ _ => hk0 h && offOk off
  | .callx h _ _ _ _ _ => hkA h
  | .ret h _ _ _ => hkA h
  | .exit h => hk0 h
  | .yield h => hdrOk h false false false false
  | .setprio h _ => hk0 h
  | .loopc h _ off _ _ => hk0 h && offOk off
  | .brk h _ => hdrOk h false false false false
  | .iadd h _ _ b _ _ | .isub h _ _ b _ _ | .imul h _ _ b _ _ => hkAB h b
  | .imulhi h _ _ b _ => hkAB h b
  | .imad h _ _ b c _ _ => hkABC h b c
  | .iaddc h _ _ b _ _ => hkAB h b
  | .imin h _ _ b _ | .imax h _ _ b _ => hkAB h b
  | .iabs h _ _ _ => hkA h
  | .lea h _ _ b _ => hkAB h b
  | .idot4 h _ _ b c _ _ _ | .idot8 h _ _ b c _ _ _ => hkABC h b c
  | .iclamp h _ _ b c _ => hkABC h b c
  | .and h _ _ b | .or h _ _ b | .xor h _ _ b => hkAB h b
  | .bool3 h _ _ b c _ => hkABC h b c
  | .shl h _ _ b | .shr h _ _ b | .sar h _ _ b => hkAB h b
  | .rot h _ _ b _ => hkAB h b
  | .bfe h _ _ b _ => hkAB h b
  | .bfi h _ _ b c => hkABC h b c
  | .popc h _ _ | .clz h _ _ | .brev h _ _ => hkA h
  | .bsel h _ _ b c => hkABC h b c
  | .fadd h _ _ b _ | .fsub h _ _ b _ | .fmul h _ _ b _ => hkAB h b
  | .ffma h _ _ b c _ => hkABC h b c
  | .fmin h _ _ b | .fmax h _ _ b => hkAB h b
  | .fclamp h _ _ b c => hkABC h b c
  | .fround h _ _ _ => hkA h
  | .fdot2 h _ _ b c _ _ => hkABC h b c
  | .hadd2 h _ _ b _ _ | .hmul2 h _ _ b _ _ => hkAB h b
  | .hfma2 h _ _ b c _ _ => hkABC h b c
  | .hmin2 h _ _ b _ | .hmax2 h _ _ b _ => hkAB h b
  | .cvt h _ _ _ st _ _ sel => hkA h && decide (sel.toNat < 32 / st.width)
  | .cvtq h _ _ f ty b16 => hdrOk h false true false false && blockFmt f && (f == .ts4 || (ty == 0 && !b16))
  | .cvtd h _ _ f => hkA h && blockFmt f
  | .pack h _ _ b w pos => hkAB h b && decide (pos.toNat < 32 / w.bits)
  | .unpack h _ _ w pos _ => hkA h && decide (pos.toNat < 32 / w.bits)
  | .rcp h _ _ | .rsq h _ _ | .sqrt h _ _ | .ex2 h _ _ | .lg2 h _ _ | .sin h _ _ | .cos h _ _ | .sincos h _ _
  | .tanh h _ _ => hkA h
  | .lanex h _ _ b c _ k => hdrOk h false true b.isReg c.isReg && decide (k.toNat ≤ 5)
  | .poll h d _ => hdrOk h false false false false &&
      (match d with
       | .vec _ _ => true
       | .scal _ r => scalOk r
       | .pred _ p => pdOk p)
  | .kin h _ _ _ => hdrOk h false true false false
  | .fold h d _ _ s => hdrOk h false true false false && (!s || scalOk d)
  | .scan h _ _ _ _ => hdrOk h false true false false
  | .icmp h p _ b c _ => hkAB h b && pdOk p && c != .num && c != .nan
  | .fcmp h p _ b _ => hkAB h b && pdOk p
  | .plop h p _ _ _ _ => hk0 h && pdOk p
  | .sel h _ _ b _ => hkAB h b
  | .mov h _ _ => hkA h
  | .movi h _ _ => hk0 h
  | .movs h _ _ => hk0 h
  | .pmovP2r h _ => hk0 h
  | .pmovR2p h _ _ => hkA h
  | .fclass h p _ _ => hkA h && pdOk p
  | .ld h _ _ o sz sx _ => hkAB h o && (sz.narrow || !sx)
  | .st h _ o c sz _ => hkABC h o c && !(sz == .b128 && !c.isReg)
  | .ldx h _ _ o idx f g => hkABC h o idx && elemPairOk f g
  | .stx h _ o _ c f g _ => hkABC h o c && elemPairOk f g
  | .lds h _ _ o sz sx => hkAB h o && (sz.narrow || !sx)
  | .sts h _ o c sz => hkABC h o c && !(sz == .b128 && !c.isReg)
  | .ldc h _ _ o sz sx => hkAB h o && (sz.narrow || !sx)
  | .prefetch h _ o _ => hkAB h o
  | .atom h _ _ o c _ _ _ => hkABC h o c
  | .atomcas h _ _ o _ _ _ _ => hkABC h o (.reg 0)
  | .red h _ o c op _ _ => hkABC h o c && redOpOk op
  | .reddet h _ o c op => hkABC h o c && detOpOk op
  | .atoms h _ _ o c _ => hkABC h o c
  | .atomscas h _ _ o _ _ => hkABC h o (.reg 0)
  | .reds h _ o c op => hkABC h o c && redOpOk op
  | .redmark h => hk0 h
  | .fence h _ _ => hk0 h
  | .wait h _ _ _ _ => hk0 h
  | .binit h _ _ o => hkAB h o
  | .barrive h _ _ b => hdrOk h true false b.isReg false
  | .barwait h _ _ => hkA h
  | .barsync h _ b => hdrOk h true false b.isReg false
  | .qinit h _ _ _ _ _ _ => hkA h
  | .qpush h _ _ => hkA h
  | .qpop h _ _ => hk0 h
  | .qtry h _ _ p => hk0 h && pdOk p
  | .chainw h _ o c _ _ => hkABC h o c
  | .chainp h _ o c _ => hkABC h o c
  | .tokacq h | .tokpass h => hk0 h
  | .cpl h t _ _ so _ _ _ => hkAC h (.reg so) && scalOk t
  | .cpt h t _ col _ _ _ _ => hkAC h col && scalOk t
  | .cpr h t _ _ op _ _ _ => hkA h && scalOk t && cprOpOk op
  | .chkwait h _ _ _ => hk0 h
  | .chktest h p _ _ _ => hk0 h && pdOk p
  | .tdesc h _ _ _ _ geom _ _ _ => hkA h && decide (geom.toNat < 8)
  | .tfree h _ => hk0 h
  | .trec h _ _ o => hkAB h o
  | .cpcancel h t => hk0 h && scalOk t
  | .mma h t _ o _ _ | .mmv h t _ o _ _ => hkAB h o && t.all scalOk
  | .mprog h _ _ => hk0 h
  | .accld h t _ _ _ _ => hk0 h && scalOk t
  | .accst h t _ _ _ _ _ _ _ epi => scalOk t &&
      (match epi with
       | none => hk0 h
       | some (_, _, c) => hkAC h (.reg c))
  | .acczero h _ b c => hdrOk h true false b.isReg c.isReg
  | .mabort h _ => hk0 h
  | .gset h _ _ o => hkAB h o
  | .gseed h _ _ => hkA h
  | .geval h _ _ _ b => hkAB h b
  | .coll h t _ o _ => hkAB h o && scalOk t
  | .collwait h _ => hk0 h
  | .enq h r _ o q => hkABC h o q && scalOk r
  | .spawn h p _ off _ => hkA h && pdOk p && offOk off
  | .fork h t _ o => hkAB h o && scalOk t
  | .cancel h t _ l b => scalOk t && (if l == .task then
      (match b with
       | some x => hkAB h x
       | none => false)
      else hkA h && (b == none || b == some (.imm 0)))
  | .cntrd h _ _ _ _ => hkA h
  | .cntwait h p _ b => hkAB h b && pdOk p
  | .arena h _ _ f g _ => hkA h && pairOk f g
  | .tropen h r _ c lg => hkAC h c && scalOk r && decide (20 ≤ lg.toNat)
  | .trclose h r _ _ => hkA h && scalOk r
  | .prop h t _ => hkA h && scalOk t
  | .trfork h r _ b => hkAB h b && scalOk r
  | .trstat h _ _ _ => hkA h
  | .trmark h _ o => hkAB h o
  | .nnq h t _ _ o => hkAB h o && scalOk t
  | .nnwait h _ => hk0 h
  | .nncancel h _ => hk0 h
  | .nngraph h r _ _ o => hkAB h o && scalOk r
  | .nngraphBump h r _ _ | .nngraphDrop h r _ _ => hk0 h && scalOk r
  | .trap h _ => hdrOk h false false false false
  | .rti h => hdrOk h false false false false
  | .csrrd h _ _ => hk0 h
  | .csrwr h _ _ => hkA h
  | .tlbinvPage h _ o => hkAB h o
  | .tlbinvAll h _ => hk0 h
  | .stop h => hk0 h
  | .smark h _ _ => hkA h
  | _ => true

/-- How an instruction's result registers may be taken apart is said in Machine/Operands.lean; here only how long
the word is that carries an operand (R165, R178): a 96-bit form carries IMM. -/
def SrcB.len : SrcB → Nat
  | .imm _ => 12
  | _ => 8

end Sys2Proof
end

