-- ==== Sys2Proof/Decode.lean ====
section
/-! DEFINITION. The decoder and the encoder: instruction lengths and the first word (R165 to R170), register fields,
guards, literals, retention and reserved bits (R171 to R178), and the encodings of chapters 08 to 12.
A word that is no legal encoding decodes to nothing; the machine then raises ILLEGAL_INSTR (R183). -/

namespace Sys2Proof

/-! ### The fields of an instruction -/

/-- The fields of Table 1 of R170 and the immediates of R178. `len` is the length in bytes: 8, 12 or 16. -/
structure Raw where
  len : Nat
  u : Bool
  pg : BitVec 3
  pn : Bool
  opc : BitVec 8
  dst : BitVec 9
  sa : BitVec 9
  sb : BitVec 9
  sc : BitVec 9
  rt : BitVec 2
  litb : Bool
  litc : Bool
  mod : BitVec 9
  imm : Word
  imm2 : Word
  deriving DecidableEq, Repr

/-- Bits lo + n - 1 to lo of a number. -/
def bitsAt (w lo n : Nat) : BitVec n := BitVec.ofNat n (w / 2 ^ lo)
def bitAt (w i : Nat) : Bool := w / 2 ^ i % 2 == 1

/-- LEN of R165 in bytes; 0 for LEN = 0b00. -/
def lenOf (w : Nat) : Nat := if w % 4 == 0 then 0 else 4 + 4 * (w % 4)

/-- The fields of the number whose bit 0 is bit 0 of the first word. -/
def Raw.ofNat (w : Nat) : Raw where
  len := lenOf w
  u := bitAt w 2
  pg := bitsAt w 3 3
  pn := bitAt w 6
  opc := bitsAt w 7 8
  dst := bitsAt w 15 9
  sa := bitsAt w 24 9
  sb := bitsAt w 33 9
  sc := bitsAt w 42 9
  rt := bitsAt w 51 2
  litb := bitAt w 53
  litc := bitAt w 54
  mod := bitsAt w 55 9
  imm := if lenOf w ≤ 8 then 0 else bitsAt w 64 32
  imm2 := if lenOf w ≤ 12 then 0 else bitsAt w 96 32

/-- The number that carries the fields. -/
def Raw.toNat (r : Raw) : Nat :=
  (r.len - 4) / 4 + r.u.toNat * 2 ^ 2 + r.pg.toNat * 2 ^ 3 + r.pn.toNat * 2 ^ 6 + r.opc.toNat * 2 ^ 7 +
  r.dst.toNat * 2 ^ 15 + r.sa.toNat * 2 ^ 24 + r.sb.toNat * 2 ^ 33 + r.sc.toNat * 2 ^ 42 + r.rt.toNat * 2 ^ 51 +
  r.litb.toNat * 2 ^ 53 + r.litc.toNat * 2 ^ 54 + r.mod.toNat * 2 ^ 55 + r.imm.toNat * 2 ^ 64 + r.imm2.toNat * 2 ^ 96

def Raw.hdr (r : Raw) : Hdr := ⟨r.u, r.pn, r.pg, r.rt⟩
/-- Source B, or the offset of a memory operand (R175, R178, R223). -/
def Raw.b (r : Raw) : SrcB := if r.len == 8 then (if r.litb then .lit r.sb else .reg r.sb) else .imm r.imm
def Raw.c (r : Raw) : SrcC := if r.litc then .lit r.sc else .reg r.sc
/-- Bit i, and bits lo + n - 1 to lo, of MOD. -/
def Raw.mb (r : Raw) (i : Nat) : Bool := r.mod.getLsbD i
def Raw.mf (r : Raw) (lo n : Nat) : BitVec n := r.mod.extractLsb' lo n
/-- The same of MOD2 (R178). -/
def Raw.nb (r : Raw) (i : Nat) : Bool := r.sb.getLsbD i
def Raw.nf (r : Raw) (lo n : Nat) : BitVec n := r.sb.extractLsb' lo n
/-- The same of IMM and IMM2. -/
def Raw.jf (r : Raw) (lo n : Nat) : BitVec n := r.imm.extractLsb' lo n
def Raw.kf (r : Raw) (lo n : Nat) : BitVec n := r.imm2.extractLsb' lo n

/-! ### Codes of modifier fields -/

def Rm.code : Rm → Nat
  | .rn => 0 | .rz => 1 | .rm => 2 | .rp => 3 | .rna => 4
/-- Table 5 of R110. -/
def Rm.ofCode : Nat → Option Rm
  | 0 => some .rn | 1 => some .rz | 2 => some .rm | 3 => some .rp | 4 => some .rna | _ => none

def Fmt.code : Fmt → Nat
  | .raw => 0 | .fp32 => 1 | .fp16 => 2 | .bf16 => 3 | .e4m3 => 4 | .e5m2 => 5 | .e2m1 => 6 | .int8 => 7
  | .int4 => 8 | .mxfp8e4 => 9 | .mxfp8e5 => 10 | .mxfp4 => 11 | .ts4 => 12 | .int32 => 13
/-- Table 8 of R84. -/
def Fmt.ofCode : Nat → Option Fmt
  | 0 => some .raw | 1 => some .fp32 | 2 => some .fp16 | 3 => some .bf16 | 4 => some .e4m3 | 5 => some .e5m2
  | 6 => some .e2m1 | 7 => some .int8 | 8 => some .int4 | 9 => some .mxfp8e4 | 10 => some .mxfp8e5
  | 11 => some .mxfp4 | 12 => some .ts4 | 13 => some .int32 | _ => none

def Geom.code : Geom → Nat
  | .none => 0 | .b16 => 1 | .b32 => 2 | .b64 => 3 | .graph => 4
/-- Table 9 of R84. -/
def Geom.ofCode : Nat → Option Geom
  | 0 => some .none | 1 => some .b16 | 2 => some .b32 | 3 => some .b64 | 4 => some .graph | _ => Option.none

def Scope.code : Scope → Nat
  | .group => 0 | .block => 1 | .cluster => 2 | .die => 3 | .package => 4 | .system => 5
/-- Table 1 of R89. -/
def Scope.ofCode : Nat → Option Scope
  | 0 => some .group | 1 => some .block | 2 => some .cluster | 3 => some .die | 4 => some .package
  | 5 => some .system | _ => none

def AOrd.code : AOrd → Nat
  | .relaxed => 0 | .acq => 1 | .rel => 2 | .ar => 3
def AOrd.ofCode : Nat → Option AOrd
  | 0 => some .relaxed | 1 => some .acq | 2 => some .rel | 3 => some .ar | _ => none

def AOp.code : AOp → Nat
  | .addN32 => 0 | .addN64 => 1 | .minI32 => 2 | .maxI32 => 3 | .minN32 => 4 | .maxN32 => 5 | .andB32 => 6
  | .orB32 => 7 | .xorB32 => 8 | .exchB32 => 9 | .exchB64 => 10 | .incN32 => 11 | .decN32 => 12 | .addF32 => 13
  | .minF32 => 14 | .maxF32 => 15
/-- Table 6 of R238. -/
def AOp.ofCode : Nat → Option AOp
  | 0 => some .addN32 | 1 => some .addN64 | 2 => some .minI32 | 3 => some .maxI32 | 4 => some .minN32
  | 5 => some .maxN32 | 6 => some .andB32 | 7 => some .orB32 | 8 => some .xorB32 | 9 => some .exchB32
  | 10 => some .exchB64 | 11 => some .incN32 | 12 => some .decN32 | 13 => some .addF32 | 14 => some .minF32
  | 15 => some .maxF32 | _ => none

def Size.code : Size → Nat
  | .b32 => 0 | .b64 => 1 | .b128 => 2 | .b8 => 3 | .b16 => 4
/-- Table 2 of R225. -/
def Size.ofCode : Nat → Option Size
  | 0 => some .b32 | 1 => some .b64 | 2 => some .b128 | 3 => some .b8 | 4 => some .b16 | _ => none

def CType.code : CType → Nat
  | .f32 => 0 | .f16 => 1 | .bf16 => 2 | .e4m3 => 3 | .e5m2 => 4 | .e2m1 => 5 | .i32 => 6 | .n32 => 7 | .i16 => 8
  | .n16 => 9 | .i8 => 10 | .n8 => 11 | .i4 => 12 | .n4 => 13
/-- Table 6 of R208. -/
def CType.ofCode : Nat → Option CType
  | 0 => some .f32 | 1 => some .f16 | 2 => some .bf16 | 3 => some .e4m3 | 4 => some .e5m2 | 5 => some .e2m1
  | 6 => some .i32 | 7 => some .n32 | 8 => some .i16 | 9 => some .n16 | 10 => some .i8 | 11 => some .n8
  | 12 => some .i4 | 13 => some .n4 | _ => none

def EW.code : EW → Nat
  | .w4 => 0 | .w8 => 1 | .w16 => 2
def EW.ofCode : Nat → Option EW
  | 0 => some .w4 | 1 => some .w8 | 2 => some .w16 | _ => none

def XMode.code : XMode → Nat
  | .at => 0 | .rotinc => 1 | .rotdec => 2 | .flip => 3
def XMode.ofCode : Nat → Option XMode
  | 0 => some .at | 1 => some .rotinc | 2 => some .rotdec | 3 => some .flip | _ => none

def KinMode.code : KinMode → Nat
  | .mask => 0 | .lead => 1 | .rank => 2 | .alleq => 3
def KinMode.ofCode : Nat → Option KinMode
  | 0 => some .mask | 1 => some .lead | 2 => some .rank | 3 => some .alleq | _ => none

def ROp.code : ROp → Nat
  | .iadd => 0 | .imin => 1 | .imax => 2 | .nmin => 3 | .nmax => 4 | .and => 5 | .or => 6 | .xor => 7 | .fadd => 8
  | .fmin => 9 | .fmax => 10
/-- Table 9 of R218. -/
def ROp.ofCode : Nat → Option ROp
  | 0 => some .iadd | 1 => some .imin | 2 => some .imax | 3 => some .nmin | 4 => some .nmax | 5 => some .and
  | 6 => some .or | 7 => some .xor | 8 => some .fadd | 9 => some .fmin | 10 => some .fmax | _ => none

def Cond.code : Cond → Nat
  | .eq => 0 | .ne => 1 | .lt => 2 | .le => 3 | .gt => 4 | .ge => 5 | .num => 6 | .nan => 7
def Cond.ofCode : Nat → Option Cond
  | 0 => some .eq | 1 => some .ne | 2 => some .lt | 3 => some .le | 4 => some .gt | 5 => some .ge | 6 => some .num
  | 7 => some .nan | _ => none

def SReg.code : SReg → Nat
  | .laneid => 0 | .groupid => 1 | .ngroups => 2 | .blockid => 3 | .nblocks => 4 | .actmask => 5 | .bndmask => 6
  | .core => 7 | .cyclo => 8 | .cychi => 9 | .sbeg => 10 | .send => 11 | .sfix => 12 | .arg0 => 13 | .arg1 => 14
  | .arg2 => 15 | .arg3 => 16 | .launchcnt => 17 | .phasecnt => 18 | .jobcnt => 19 | .tlablo => 20 | .tlabhi => 21
  | .tenant => 22
/-- Table 10 of R222. -/
def SReg.ofCode : Nat → Option SReg
  | 0 => some .laneid | 1 => some .groupid | 2 => some .ngroups | 3 => some .blockid | 4 => some .nblocks
  | 5 => some .actmask | 6 => some .bndmask | 7 => some .core | 8 => some .cyclo | 9 => some .cychi | 10 => some .sbeg
  | 11 => some .send | 12 => some .sfix | 13 => some .arg0 | 14 => some .arg1 | 15 => some .arg2 | 16 => some .arg3
  | 17 => some .launchcnt | 18 => some .phasecnt | 19 => some .jobcnt | 20 => some .tlablo | 21 => some .tlabhi
  | 22 => some .tenant | _ => none

def FKind.code : FKind → Nat
  | .sc => 0 | .acq => 1 | .rel => 2 | .ar => 3
def FKind.ofCode : Nat → Option FKind
  | 0 => some .sc | 1 => some .acq | 2 => some .rel | 3 => some .ar | _ => none

def Level.code : Level → Nat
  | .task => 0 | .launch => 1 | .graph => 2 | .phase => 3 | .job => 4
/-- Table 6 of R44, and 0 for the task level (R304). -/
def Level.ofCode : Nat → Option Level
  | 0 => some .task | 1 => some .launch | 2 => some .graph | 3 => some .phase | 4 => some .job | _ => none

def CField.code : CField → Nat
  | .done => 0 | .target => 1 | .stat => 2 | .usedlo => 3 | .usedhi => 4
/-- FIELD of R309. -/
def CField.ofCode : Nat → Option CField
  | 0 => some .done | 1 => some .target | 2 => some .stat | 3 => some .usedlo | 4 => some .usedhi | _ => none

def CSz.code : CSz → Nat
  | .b32 => 0 | .b64 => 1 | .b128 => 2
def CSz.ofCode : Nat → Option CSz
  | 0 => some .b32 | 1 => some .b64 | 2 => some .b128 | _ => none

def PSrc.field (p : PSrc) : BitVec 9 := BitVec.ofNat 9 (p.idx.toNat + 8 * p.neg.toNat)
def PSrc.ofField (f : BitVec 9) : PSrc := ⟨f.extractLsb' 0 3, f.getLsbD 3⟩

/-! ### What each opcode uses of a word -/

/-- What a register field of an opcode holds. -/
inductive FUse where
  /-- reserved: 0, with its literal bit 0 -/
  | no
  /-- a register that is read or written, no literal -/
  | reg
  /-- a register or a literal (LITB, LITC) -/
  | rl
  /-- a scalar field, 448 to 511, that is written or named (R171) -/
  | scal
  /-- a predicate source (R195) -/
  | psrc
  /-- a predicate destination (R195) -/
  | pdst
  deriving DecidableEq, Repr

def FUse.ok (f : FUse) (v : BitVec 9) (lit : Bool) : Bool :=
  match f with
  | .no => v == 0 && !lit
  | .reg => !lit
  | .rl => true
  | .scal => decide (448 ≤ v.toNat) && !lit
  | .psrc => decide (v.toNat < 16) && !lit
  | .pdst => decide (v.toNat < 7) && !lit

/-- What an opcode uses: `ls` its lengths, `uni` whether U = 1 is allowed, the four register fields (`dr`: whether
DST is a destination is of no concern here), and the masks of the bits of MOD, MOD2, IMM and IMM2 it defines. -/
structure Shape where
  ls : List Nat
  uni : Bool := true
  d : FUse := .no
  a : FUse := .no
  b : FUse := .no
  c : FUse := .no
  mod : Nat := 0
  mod2 : Nat := 0
  imm : Nat := 0
  imm2 : Nat := 0

/-- RT names a register source that the opcode reads, never a literal nor SB of a longer form (R176). -/
def Shape.rtOk (s : Shape) (r : Raw) : Bool :=
  match r.rt.toNat with
  | 0 => true
  | 1 => s.a == .reg
  | 2 => (s.b == .reg || s.b == .rl) && r.len == 8 && !r.litb
  | _ => (s.c == .reg || s.c == .rl) && !r.litc

/-- A field keeps within a mask. -/
def within {n : Nat} (v : BitVec n) (mask : Nat) : Bool := v &&& ~~~ (BitVec.ofNat n mask) == 0

/-- R168, R171, R172, R174, R176, R177, R178: the checks that one shape makes of the fields. -/
def Shape.legal (s : Shape) (r : Raw) : Bool :=
  s.ls.contains r.len && (s.uni || !r.u) && !(r.pg == 7 && r.pn) &&
  s.d.ok r.dst false && s.a.ok r.sa false && s.c.ok r.sc r.litc && within r.mod s.mod &&
  (if r.len == 8 then s.b.ok r.sb r.litb
   else !r.litb && within r.sb s.mod2 && within r.imm (if s.b == .rl then 0xFFFFFFFF else s.imm) &&
     within r.imm2 s.imm2) &&
  s.rtOk r

/-! ### The decoder -/

def l8 : List Nat := [8]
def l12 : List Nat := [12]
def l16 : List Nat := [16]
def lb : List Nat := [8, 12]

/-- The shape of an opcode in the variant that the modifier fields choose; none for an unassigned opcode (R182).
The spec leaves open what K is without `.gK`; the model takes a nonzero K with EPI = 0 as illegal (log entry 73). -/
def shapeOf (r : Raw) : Option Shape :=
  match r.opc.toNat with
  | 0x01 => some { ls := l12, mod := 0xFF, mod2 := 0xFF, imm := 0xFFFFFFFC }
  | 0x02 => some { ls := l12, a := .reg, mod := 0xFF, mod2 := 0xFF, imm := 0xFFFFFFFF }
  | 0x03 => some { ls := l12, d := .reg, mod := 0xFF, mod2 := 0xFF, imm := 0xFFFFFFFC }
  | 0x04 => some { ls := l12, d := .reg, a := .reg, mod := 0xFF, mod2 := 0xFF, imm := 0xFFFFFFFF }
  | 0x05 => some { ls := l12, a := .reg, mod := 0xFF, mod2 := 0xFF }
  | 0x06 => some { ls := l8 }
  | 0x07 => some { ls := l8, uni := false }
  | 0x08 => some { ls := l8, mod := 0xFF }
  | 0x09 => some { ls := l12, d := .reg, mod := 0xFF, mod2 := 0xFF, imm := 0xFFFFFFFC }
  | 0x0B => some { ls := l8, uni := false, mod := 0xFF }
  | 0x10 | 0x11 | 0x12 => some { ls := lb, d := .reg, a := .reg, b := .rl, mod := 3 }
  | 0x13 => some { ls := lb, d := .reg, a := .reg, b := .rl, mod := 1 }
  | 0x14 => some { ls := lb, d := .reg, a := .reg, b := .rl, c := .rl, mod := 3 }
  | 0x15 => some { ls := lb, d := .reg, a := .reg, b := .rl, mod := 0x3F }
  | 0x16 | 0x17 => some { ls := lb, d := .reg, a := .reg, b := .rl, mod := 1 }
  | 0x18 => some { ls := l8, d := .reg, a := .reg, mod := 2 }
  | 0x19 => some { ls := lb, d := .reg, a := .reg, b := .rl, mod := 0x1F }
  | 0x1A | 0x1B => some { ls := lb, d := .reg, a := .reg, b := .rl, c := .rl, mod := 7 }
  | 0x1C => some { ls := lb, d := .reg, a := .reg, b := .rl, c := .rl, mod := 1 }
  | 0x20 | 0x21 | 0x22 | 0x24 | 0x25 | 0x26 => some { ls := lb, d := .reg, a := .reg, b := .rl }
  | 0x23 => some { ls := lb, d := .reg, a := .reg, b := .rl, c := .rl, mod := 0xFF }
  | 0x27 | 0x28 => some { ls := lb, d := .reg, a := .reg, b := .rl, mod := 1 }
  | 0x29 | 0x2D => some { ls := lb, d := .reg, a := .reg, b := .rl, c := .rl }
  | 0x2A | 0x2B | 0x2C => some { ls := l8, d := .reg, a := .reg }
  | 0x30 | 0x31 | 0x32 => some { ls := lb, d := .reg, a := .reg, b := .rl, mod := 7 }
  | 0x33 => some { ls := lb, d := .reg, a := .reg, b := .rl, c := .rl, mod := 7 }
  | 0x34 | 0x35 => some { ls := lb, d := .reg, a := .reg, b := .rl }
  | 0x36 => some { ls := lb, d := .reg, a := .reg, b := .rl, c := .rl }
  | 0x37 => some { ls := l8, d := .reg, a := .reg, mod := 7 }
  | 0x38 => some { ls := lb, d := .reg, a := .reg, b := .rl, c := .rl, mod := 0x17 }
  | 0x40 | 0x41 => some { ls := lb, d := .reg, a := .reg, b := .rl, mod := 0x17 }
  | 0x42 => some { ls := lb, d := .reg, a := .reg, b := .rl, c := .rl, mod := 0x17 }
  | 0x43 | 0x44 => some { ls := lb, d := .reg, a := .reg, b := .rl, mod := 0x10 }
  | 0x45 => some { ls := l12, d := .reg, a := .reg, mod := 0xFF, mod2 := 0xFF }
  | 0x46 => some { ls := l8, uni := false, d := .reg, a := .reg, mod := 0x7F }
  | 0x47 => some { ls := l8, d := .reg, a := .reg, mod := 0xF }
  | 0x48 => some { ls := lb, d := .reg, a := .reg, b := .rl, mod := 0x1F }
  | 0x49 => some { ls := l8, d := .reg, a := .reg, mod := 0x3F }
  | 0x50 | 0x51 | 0x52 | 0x53 | 0x54 | 0x55 | 0x56 | 0x57 | 0x58 => some { ls := l8, d := .reg, a := .reg }
  | 0x5A => some { ls := lb, uni := false, d := .reg, a := .reg, b := .rl, c := .rl, mod := 0x1F }
  | 0x5B => some { ls := l8, uni := false, a := .psrc,
                   d := if 2 ≤ (r.mf 0 3).toNat then .pdst else if r.mb 4 then .scal else .reg,
                   mod := if 2 ≤ (r.mf 0 3).toNat then 7 else 0x17 }
  | 0x5C => some { ls := l8, uni := false, d := .reg, a := .reg, mod := 3 }
  | 0x5D => some { ls := l8, uni := false, d := if r.mb 4 then .scal else .reg, a := .reg, mod := 0x1F }
  | 0x5E => some { ls := l8, uni := false, d := .reg, a := .reg, mod := 0x2F }
  | 0x60 => some { ls := lb, d := .pdst, a := .reg, b := .rl, mod := 0xF }
  | 0x61 => some { ls := lb, d := .pdst, a := .reg, b := .rl, mod := 7 }
  | 0x62 => some { ls := l8, d := .pdst, a := .psrc, b := .psrc, c := .psrc, mod := 0xFF }
  | 0x63 => some { ls := lb, d := .reg, a := .reg, b := .rl, c := .psrc }
  | 0x64 => some { ls := l8, d := .reg, a := .reg }
  | 0x65 => some { ls := l12, d := .reg, imm := 0xFFFFFFFF }
  | 0x66 => some { ls := l8, d := .reg, mod := 0xFF }
  | 0x67 => some (if r.mb 0 then { ls := l8, a := .reg, mod := 0xFF } else { ls := l8, d := .reg, mod := 1 })
  | 0x68 => some { ls := l8, d := .pdst, a := .reg, mod := 0x1FF }
  | 0x70 => some { ls := lb, d := .reg, a := .reg, b := .rl, mod := 0x1F }
  | 0x71 => some { ls := lb, a := .reg, b := .rl, c := .rl, mod := 0x17 }
  | 0x72 => some { ls := lb, d := .reg, a := .reg, b := .rl, c := .rl, mod := 0x7F }
  | 0x73 => some { ls := lb, d := .reg, a := .reg, b := .rl, c := .rl, mod := 0xFF }
  | 0x74 | 0x76 => some { ls := lb, d := .reg, a := .reg, b := .rl, mod := 0xF }
  | 0x75 => some { ls := lb, a := .reg, b := .rl, c := .rl, mod := 7 }
  | 0x77 => some { ls := lb, a := .reg, b := .rl, mod := 1 }
  | 0x80 => some { ls := lb, d := .reg, a := .reg, b := .rl, c := .rl, mod := 0x1FF }
  | 0x81 => some { ls := lb, d := .reg, a := .reg, b := .rl, c := .reg, mod := 0x1F1 }
  | 0x82 => some { ls := lb, a := .reg, b := .rl, c := .rl, mod := 0x1FF }
  | 0x83 => some { ls := lb, a := .reg, b := .rl, c := .rl, mod := 0xF }
  | 0x84 => some { ls := lb, d := .reg, a := .reg, b := .rl, c := .rl, mod := 0xF }
  | 0x85 => some { ls := lb, d := .reg, a := .reg, b := .rl, c := .reg, mod := 1 }
  | 0x86 => some { ls := lb, a := .reg, b := .rl, c := .rl, mod := 0xF }
  | 0x87 => some { ls := l8 }
  | 0x90 => some { ls := l8, mod := 0x1F }
  | 0x91 => some { ls := l12, imm := 0x3F3F3F3F }
  | 0x92 => some { ls := lb, d := .reg, b := .rl, mod := 0xF }
  | 0x93 => some { ls := l8, a := .reg, mod := 0xF }
  | 0x94 => some { ls := lb, b := .rl, mod := 0xF }
  | 0x95 => some { ls := l8, a := .reg, mod := 7 }
  | 0x96 => some { ls := l8, d := .reg, mod := 7 }
  | 0x97 => some { ls := l8, d := .reg, c := .pdst, mod := 7 }
  | 0x98 => some { ls := l16, a := .reg, mod := 0x1F, imm := 0xFFFFFFFF, imm2 := 0xFF1FFF }
  | 0x99 => some { ls := lb, a := .reg, b := .rl, c := .rl, mod := 0xF }
  | 0x9A => some { ls := lb, a := .reg, b := .rl, c := .rl, mod := 7 }
  | 0x9B | 0x9C => some { ls := l8 }
  | 0x9D => some { ls := lb, a := .reg, b := .rl, mod := 0xF }
  | 0xA0 => some { ls := l12, d := .scal, a := .reg, c := .reg, mod := 7, mod2 := 7, imm := 0xFFFFFFFF }
  | 0xA1 => some { ls := l12, d := .scal, a := .reg, c := .rl, mod := 0xFF, mod2 := 7 }
  | 0xA2 => some { ls := l12, d := .scal, a := .reg, mod := 0xFF, mod2 := 7, imm := 0xFFFF }
  | 0xA3 => some { ls := l12, mod := 0xF, mod2 := 0x7F, imm := 0xFFFFFFFF }
  | 0xA4 => some { ls := l12, d := .pdst, mod := 0xF, mod2 := 0x7F, imm := 0xFFFFFFFF }
  | 0xA5 => some { ls := l16, a := .reg, mod := 0xF, imm := 0xFFFF7FFF, imm2 := 0xFFFFFFFF }
  | 0xA6 => some { ls := l8, mod := 0xF }
  | 0xA7 => some { ls := lb, a := .reg, b := .rl, mod := 7 }
  | 0xA8 => some { ls := l8, a := .scal }
  | 0xB0 | 0xB1 => some { ls := lb, d := if r.mb 1 then .scal else .no, a := .reg, b := .rl, mod := 7 }
  | 0xB2 => some { ls := l8, d := .reg, mod := 1 }
  | 0xB3 => some { ls := l12, d := .scal, mod := 0x1F, imm := 0x7F01FF }
  | 0xB4 => some (if r.nb 2 then { ls := l12, d := .scal, a := .reg, c := .reg, mod := 0x1FF, mod2 := 0x3F, imm := 0x7F01FF }
                  else { ls := l12, d := .scal, mod := 0x1FF, mod2 := 3, imm := 0x7F01FF })
  | 0xB5 => some { ls := l8, b := .rl, c := .rl, mod := 1 }
  | 0xB6 => some { ls := l8, mod := 1 }
  | 0xC0 => some { ls := lb, a := .reg, b := .rl, mod := 7 }
  | 0xC1 => some { ls := l8, a := .reg, mod := 7 }
  | 0xC2 => some { ls := lb, d := .reg, a := .reg, b := .rl, mod := 7 }
  | 0xC3 => some { ls := lb, d := .scal, a := .reg, b := .rl, mod := 7 }
  | 0xC4 => some { ls := l8, mod := 0xFF }
  | 0xD0 => some { ls := lb, d := .scal, a := .reg, b := .rl, c := .rl }
  | 0xD1 => some { ls := l12, d := .pdst, a := .reg, mod := 0xFF, imm := 0xFFFFFFFC }
  | 0xD2 => some { ls := lb, d := .scal, a := .reg, b := .rl }
  | 0xD3 => some (if r.mf 0 3 == 0 then { ls := lb, d := .scal, a := .reg, b := .rl, mod := 7 }
                  else { ls := lb, d := .scal, a := .reg, mod := 7 })
  | 0xD4 => some { ls := l8, d := .reg, a := .reg, mod := 0xF }
  | 0xD5 => some { ls := lb, d := .pdst, a := .reg, b := .rl }
  | 0xD6 => some { ls := l8, d := .reg, a := .reg, mod := 0xFF }
  | 0xE0 => some { ls := l8, d := .scal, a := .reg, c := .rl, mod := 0x1F }
  | 0xE1 => some { ls := l8, d := .scal, a := .reg, mod := 1 }
  | 0xE2 => some { ls := l8, d := .scal, a := .reg }
  | 0xE3 => some { ls := lb, d := .scal, a := .reg, b := .rl }
  | 0xE4 => some { ls := l8, d := .reg, a := .reg, mod := 7 }
  | 0xE5 => some { ls := lb, a := .reg, b := .rl }
  | 0xE6 => some { ls := lb, d := .scal, a := .reg, b := .rl, mod := 0xF }
  | 0xE7 => some { ls := l12, imm := 0xFFFF }
  | 0xE8 => some { ls := l8, mod := 0xF }
  | 0xE9 => some (if r.mf 6 2 == 0 then { ls := lb, d := .scal, a := .reg, b := .rl, mod := 0xFF }
                  else { ls := lb, d := .scal, mod := 0xFF })
  | 0xF0 => some { ls := l8, uni := false, mod := 0xFF }
  | 0xF1 => some { ls := l8, uni := false }
  | 0xF2 => some { ls := l12, d := .reg, imm := 0xFFF }
  | 0xF3 => some { ls := l12, a := .reg, imm := 0xFFF }
  | 0xF4 => some (if r.mb 0 then { ls := lb, mod := 1 } else { ls := lb, a := .reg, b := .rl, mod := 1 })
  | 0xF5 => some { ls := l8 }
  | 0xF6 => some { ls := l8, a := .reg, mod := 0xFF }
  | _ => none

/-- The instruction that legal fields name; none where a modifier code is undefined (R177). -/
def build (r : Raw) : Option Instr :=
  let h := r.hdr
  let d := r.dst
  let a := r.sa
  let b := r.b
  let c := r.c
  let p := r.dst.extractLsb' 0 3
  let tp := r.mf 0 8
  let fp := r.nf 0 8
  let rm := Rm.ofCode (r.mf 0 3).toNat
  let sz := Size.ofCode (r.mf 0 3).toNat
  let scp := Scope.ofCode (r.nf 0 3).toNat
  match r.opc.toNat with
  | 0x01 => some (.bra h r.imm tp fp)
  | 0x02 => some (.brx h a r.imm tp fp)
  | 0x03 => some (.call h d r.imm tp fp)
  | 0x04 => some (.callx h d a r.imm tp fp)
  | 0x05 => some (.ret h a tp fp)
  | 0x06 => some (.exit h)
  | 0x07 => some (.yield h)
  | 0x08 => some (.setprio h tp)
  | 0x09 => some (.loopc h d r.imm tp fp)
  | 0x0B => some (.brk h tp)
  | 0x10 => some (.iadd h d a b (r.mb 0) (r.mb 1))
  | 0x11 => some (.isub h d a b (r.mb 0) (r.mb 1))
  | 0x12 => some (.imul h d a b (r.mb 0) (r.mb 1))
  | 0x13 => some (.imulhi h d a b (r.mb 0))
  | 0x14 => some (.imad h d a b c (r.mb 0) (r.mb 1))
  | 0x15 => some (.iaddc h d a b (r.mf 0 3) (r.mf 3 3))
  | 0x16 => some (.imin h d a b (r.mb 0))
  | 0x17 => some (.imax h d a b (r.mb 0))
  | 0x18 => some (.iabs h d a (r.mb 1))
  | 0x19 => some (.lea h d a b (r.mf 0 5))
  | 0x1A => some (.idot4 h d a b c (r.mb 0) (r.mb 1) (r.mb 2))
  | 0x1B => some (.idot8 h d a b c (r.mb 0) (r.mb 1) (r.mb 2))
  | 0x1C => some (.iclamp h d a b c (r.mb 0))
  | 0x20 => some (.and h d a b)
  | 0x21 => some (.or h d a b)
  | 0x22 => some (.xor h d a b)
  | 0x23 => some (.bool3 h d a b c tp)
  | 0x24 => some (.shl h d a b)
  | 0x25 => some (.shr h d a b)
  | 0x26 => some (.sar h d a b)
  | 0x27 => some (.rot h d a b (r.mb 0))
  | 0x28 => some (.bfe h d a b (r.mb 0))
  | 0x29 => some (.bfi h d a b c)
  | 0x2A => some (.popc h d a)
  | 0x2B => some (.clz h d a)
  | 0x2C => some (.brev h d a)
  | 0x2D => some (.bsel h d a b c)
  | 0x30 => rm.map (.fadd h d a b)
  | 0x31 => rm.map (.fsub h d a b)
  | 0x32 => rm.map (.fmul h d a b)
  | 0x33 => rm.map (.ffma h d a b c)
  | 0x34 => some (.fmin h d a b)
  | 0x35 => some (.fmax h d a b)
  | 0x36 => some (.fclamp h d a b c)
  | 0x37 => rm.map (.fround h d a)
  | 0x38 => rm.map (fun m => .fdot2 h d a b c m (r.mb 4))
  | 0x40 => rm.map (fun m => .hadd2 h d a b m (r.mb 4))
  | 0x41 => rm.map (fun m => .hmul2 h d a b m (r.mb 4))
  | 0x42 => rm.map (fun m => .hfma2 h d a b c m (r.mb 4))
  | 0x43 => some (.hmin2 h d a b (r.mb 4))
  | 0x44 => some (.hmax2 h d a b (r.mb 4))
  | 0x45 => do
      let dt ← CType.ofCode (r.mf 0 4).toNat
      let st ← CType.ofCode (r.mf 4 4).toNat
      let m ← Rm.ofCode (r.nf 0 3).toNat
      if (r.nf 4 4).toNat < 32 / st.width then some (.cvt h d a dt st m (r.nb 3) (r.nf 4 4)) else none
  | 0x46 => do
      let f ← Fmt.ofCode (r.mf 0 4).toNat
      if blockFmt f && (f == .ts4 || (r.mf 4 2 == 0 && !r.mb 6)) then some (.cvtq h d a f (r.mf 4 2) (r.mb 6)) else none
  | 0x47 => do
      let f ← Fmt.ofCode (r.mf 0 4).toNat
      if blockFmt f then some (.cvtd h d a f) else none
  | 0x48 => do
      let w ← EW.ofCode (r.mf 0 2).toNat
      if (r.mf 2 3).toNat < 32 / w.bits then some (.pack h d a b w (r.mf 2 3)) else none
  | 0x49 => do
      let w ← EW.ofCode (r.mf 0 2).toNat
      if (r.mf 2 3).toNat < 32 / w.bits then some (.unpack h d a w (r.mf 2 3) (r.mb 5)) else none
  | 0x50 => some (.rcp h d a)
  | 0x51 => some (.rsq h d a)
  | 0x52 => some (.sqrt h d a)
  | 0x53 => some (.ex2 h d a)
  | 0x54 => some (.lg2 h d a)
  | 0x55 => some (.sin h d a)
  | 0x56 => some (.cos h d a)
  | 0x57 => some (.sincos h d a)
  | 0x58 => some (.tanh h d a)
  | 0x5A => do
      let m ← XMode.ofCode (r.mf 0 2).toNat
      if (r.mf 2 3).toNat ≤ 5 then some (.lanex h d a b c m (r.mf 2 3)) else none
  | 0x5B =>
      let q := PSrc.ofField a
      match (r.mf 0 3).toNat with
      | 0 => some (.poll h (if r.mb 4 then .scal .mask d else .vec .mask d) q)
      | 1 => some (.poll h (if r.mb 4 then .scal .count d else .vec .count d) q)
      | 2 => some (.poll h (.pred .some p) q)
      | 3 => some (.poll h (.pred .every p) q)
      | 4 => some (.poll h (.pred .same p) q)
      | _ => none
  | 0x5C => (KinMode.ofCode (r.mf 0 2).toNat).map (.kin h d a)
  | 0x5D => (ROp.ofCode (r.mf 0 4).toNat).map (fun o => .fold h d a o (r.mb 4))
  | 0x5E => (ROp.ofCode (r.mf 0 4).toNat).map (fun o => .scan h d a o (r.mb 5))
  | 0x60 => do
      let q ← Cond.ofCode (r.mf 0 3).toNat
      if q == .num || q == .nan then none else some (.icmp h p a b q (r.mb 3))
  | 0x61 => (Cond.ofCode (r.mf 0 3).toNat).map (.fcmp h p a b)
  | 0x62 => some (.plop h p (PSrc.ofField a) (PSrc.ofField r.sb) (PSrc.ofField r.sc) tp)
  | 0x63 => some (.sel h d a b (PSrc.ofField r.sc))
  | 0x64 => some (.mov h d a)
  | 0x65 => some (.movi h d r.imm)
  | 0x66 => (SReg.ofCode tp.toNat).map (.movs h d)
  | 0x67 => some (if r.mb 0 then .pmovR2p h a (r.mf 1 7) else .pmovP2r h d)
  | 0x68 => some (.fclass h p a r.mod)
  | 0x70 => do
      let s ← sz
      if s.narrow || !r.mb 3 then some (.ld h d a b s (r.mb 3) (r.mb 4)) else none
  | 0x71 => do
      let s ← sz
      if s == .b128 && r.litc then none else some (.st h a b c s (r.mb 4))
  | 0x72 => do
      let f ← Fmt.ofCode (r.mf 0 4).toNat
      let g ← Geom.ofCode (r.mf 4 3).toNat
      if elemPairOk f g then some (.ldx h d a b c f g) else none
  | 0x73 => do
      let f ← Fmt.ofCode (r.mf 0 4).toNat
      let g ← Geom.ofCode (r.mf 4 3).toNat
      if elemPairOk f g then some (.stx h a b d c f g (r.mb 7)) else none
  | 0x74 => do
      let s ← sz
      if s.narrow || !r.mb 3 then some (.lds h d a b s (r.mb 3)) else none
  | 0x75 => do
      let s ← sz
      if s == .b128 && r.litc then none else some (.sts h a b c s)
  | 0x76 => do
      let s ← sz
      if s.narrow || !r.mb 3 then some (.ldc h d a b s (r.mb 3)) else none
  | 0x77 => some (.prefetch h a b (r.mb 0))
  | 0x80 => do
      let o ← AOp.ofCode (r.mf 0 4).toNat
      let s ← Scope.ofCode (r.mf 4 3).toNat
      let q ← AOrd.ofCode (r.mf 7 2).toNat
      some (.atom h d a b c o s q)
  | 0x81 => do
      let s ← Scope.ofCode (r.mf 4 3).toNat
      let q ← AOrd.ofCode (r.mf 7 2).toNat
      some (.atomcas h d a b r.sc (r.mb 0) s q)
  | 0x82 => do
      let o ← AOp.ofCode (r.mf 0 4).toNat
      let s ← Scope.ofCode (r.mf 4 3).toNat
      let q ← AOrd.ofCode (r.mf 7 2).toNat
      if redOpOk o then some (.red h a b c o s q) else none
  | 0x83 => do
      let o ← AOp.ofCode (r.mf 0 4).toNat
      if detOpOk o then some (.reddet h a b c o) else none
  | 0x84 => (AOp.ofCode (r.mf 0 4).toNat).map (.atoms h d a b c)
  | 0x85 => some (.atomscas h d a b r.sc (r.mb 0))
  | 0x86 => do
      let o ← AOp.ofCode (r.mf 0 4).toNat
      if redOpOk o then some (.reds h a b c o) else none
  | 0x87 => some (.redmark h)
  | 0x90 => do
      let k ← FKind.ofCode (r.mf 0 2).toNat
      let s ← Scope.ofCode (r.mf 2 3).toNat
      some (.fence h k s)
  | 0x91 => some (.wait h (r.jf 0 6) (r.jf 8 6) (r.jf 16 6) (r.jf 24 6))
  | 0x92 => some (.barrive h (r.mf 0 4) d b)
  | 0x93 => some (.barwait h (r.mf 0 4) a)
  | 0x94 => some (.barsync h (r.mf 0 4) b)
  | 0x95 => some (.qpush h (r.mf 0 3) a)
  | 0x96 => some (.qpop h (r.mf 0 3) d)
  | 0x97 => some (.qtry h (r.mf 0 3) d (r.sc.extractLsb' 0 3))
  | 0x98 => some (.qinit h (r.mf 0 3) (r.mf 3 2) a r.imm (r.kf 0 13) (r.kf 16 8))
  | 0x99 => (Scope.ofCode (r.mf 0 3).toNat).map (fun s => .chainw h a b c s (r.mb 3))
  | 0x9A => (Scope.ofCode (r.mf 0 3).toNat).map (.chainp h a b c)
  | 0x9B => some (.tokacq h)
  | 0x9C => some (.tokpass h)
  | 0x9D => some (.binit h (r.mf 0 4) a b)
  | 0xA0 => do
      let s ← CSz.ofCode (r.mf 0 2).toNat
      let sc ← scp
      some (.cpl h d a r.imm r.sc s (r.mb 2) sc)
  | 0xA1 => scp.map (.cpt h d a c (r.mf 0 4) (r.mf 4 3) (r.mb 7))
  | 0xA2 => do
      let o ← AOp.ofCode (r.mf 0 4).toNat
      let sc ← scp
      if cprOpOk o then some (.cpr h d a (r.mf 4 4) o (r.jf 0 8) (r.jf 8 8) sc) else none
  | 0xA3 => some (.chkwait h (r.mf 0 4) r.imm (r.nf 0 7))
  | 0xA4 => some (.chktest h p (r.mf 0 4) r.imm (r.nf 0 7))
  | 0xA5 => some (.tdesc h (r.mf 0 4) a (r.jf 0 8) (r.jf 8 4) (r.jf 12 4) (r.jf 16 16) (r.kf 0 16) (r.kf 16 16))
  | 0xA6 => some (.tfree h (r.mf 0 4))
  | 0xA7 => some (.trec h (r.mf 0 3) a b)
  | 0xA8 => some (.cpcancel h a)
  | 0xB0 => some (.mma h (if r.mb 1 then some d else none) a b (r.mb 0) (r.mb 2))
  | 0xB1 => some (.mmv h (if r.mb 1 then some d else none) a b (r.mb 0) (r.mb 2))
  | 0xB2 => some (.mprog h d (r.mb 0))
  | 0xB3 => some (.accld h d (r.mb 0) (r.mf 1 4) (r.jf 0 9) (r.jf 16 7))
  | 0xB4 => (Rm.ofCode (r.mf 5 3).toNat).map (fun m =>
      .accst h d (r.mb 0) (r.mf 1 4) (r.jf 0 9) (r.jf 16 7) m (r.mb 8) (r.nf 0 2)
        (if r.nb 2 then some (r.nf 3 3, a, r.sc) else none))
  | 0xB5 => some (.acczero h (r.mb 0) b c)
  | 0xB6 => some (.mabort h (r.mb 0))
  | 0xC0 => some (.gset h (r.mf 0 3) a b)
  | 0xC1 => some (.gseed h (r.mf 0 3) a)
  | 0xC2 => some (.geval h d (r.mf 0 3) a b)
  | 0xC3 => some (.coll h d a b (r.mf 0 3))
  | 0xC4 => some (.collwait h tp)
  | 0xD0 => some (.enq h d a b c)
  | 0xD1 => some (.spawn h p a r.imm tp)
  | 0xD2 => some (.fork h d a b)
  | 0xD3 => do
      let l ← Level.ofCode (r.mf 0 3).toNat
      some (.cancel h d a l (if l == .task then some b else if r.len == 8 then none else some (.imm r.imm)))
  | 0xD4 => (CField.ofCode (r.mf 0 3).toNat).map (fun f => .cntrd h d a f (r.mb 3))
  | 0xD5 => some (.cntwait h p a b)
  | 0xD6 => do
      let f ← Fmt.ofCode (r.mf 0 4).toNat
      let g ← Geom.ofCode (r.mf 4 3).toNat
      if pairOk f g then some (.arena h d a f g (r.mb 7)) else none
  | 0xE0 => if 20 ≤ (r.mf 0 5).toNat then some (.tropen h d a c (r.mf 0 5)) else none
  | 0xE1 => some (.trclose h d a (r.mb 0))
  | 0xE2 => some (.prop h d a)
  | 0xE3 => some (.trfork h d a b)
  | 0xE4 => some (.trstat h d a (r.mf 0 3))
  | 0xE5 => some (.trmark h a b)
  | 0xE6 => some (.nnq h d (r.mf 0 4) a b)
  | 0xE7 => some (.nnwait h (r.jf 0 16))
  | 0xE8 => some (.nncancel h (r.mf 0 4))
  | 0xE9 =>
      match (r.mf 6 2).toNat with
      | 0 => some (.nngraph h d (r.mf 0 6) a b)
      | 1 => some (.nngraphBump h d (r.mf 0 6) (r.len == 12))
      | 2 => some (.nngraphDrop h d (r.mf 0 6) (r.len == 12))
      | _ => none
  | 0xF0 => some (.trap h tp)
  | 0xF1 => some (.rti h)
  | 0xF2 => some (.csrrd h d (r.jf 0 12))
  | 0xF3 => some (.csrwr h (r.jf 0 12) a)
  | 0xF4 => some (if r.mb 0 then .tlbinvAll h (r.len == 12) else .tlbinvPage h a b)
  | 0xF5 => some (.stop h)
  | 0xF6 => some (.smark h tp a)
  | _ => none

/-- The three `nop` forms have every field but LEN and PG at 0 and PG = 7 (R180). -/
def decodeNop (w : Nat) : Option Instr :=
  if w % 2 ^ 64 == 0x39 then some .nop
  else if w % 2 ^ 96 == 0x3A then some .nop96
  else if w % 2 ^ 128 == 0x3B then some .nop128
  else none

/-- The fill word of R166. -/
def fillBits : Nat := 0x4B58F11C

/-- Decode the instruction whose bit 0 is bit 0 of `w`: the instruction and its length in bytes. -/
def decodeNat (w : Nat) : Option (Instr × Nat) :=
  if w % 4 == 0 then
    if w % 2 ^ 32 == fillBits then some (.fillWord, 4) else none
  else
    let r := Raw.ofNat w
    if r.opc == 0 then (decodeNop w).map (fun i => (i, r.len))
    else
      match shapeOf r with
      | none => none
      | some s => if s.legal r then (build r).map (fun i => (i, r.len)) else none

/-- The number that bytes stand for, lowest address first (R3). -/
def leNat : List Byte → Nat
  | [] => 0
  | b :: bs => b.toNat + 256 * leNat bs

/-- n bytes of a number, lowest first. -/
def leBytes : Nat → Nat → List Byte
  | 0, _ => []
  | n + 1, w => BitVec.ofNat 8 w :: leBytes n (w / 256)

/-- Decode from bytes in memory order; bytes that are not there count as 0. -/
def decode (bs : List Byte) : Option (Instr × Nat) := decodeNat (leNat bs)

/-- The instruction that this decoder reads from bits numbered as the opcode table numbers them: the bits above
`nbits` are 0, up to the longest instruction. The words stand in memory low word first (R165). -/
def decodeTableWord (nbits w : Nat) : Option Instr :=
  (decode (leBytes 16 (w % 2 ^ nbits))).map (·.1)

/-! ### The encoder -/

/-- A word with a header and an opcode, every other field 0. -/
def rawOf (h : Hdr) (opc : Nat) : Raw :=
  { len := 8, u := h.u, pg := h.pg, pn := h.pn, opc := BitVec.ofNat 8 opc, dst := 0, sa := 0, sb := 0, sc := 0,
    rt := h.rt, litb := false, litc := false, mod := 0, imm := 0, imm2 := 0 }

def Raw.setD (r : Raw) (d : BitVec 9) : Raw := { r with dst := d }
def Raw.setP (r : Raw) (p : BitVec 3) : Raw := { r with dst := p.setWidth 9 }
def Raw.setA (r : Raw) (a : BitVec 9) : Raw := { r with sa := a }
def Raw.setB (r : Raw) (b : SrcB) : Raw :=
  match b with
  | .reg x => { r with sb := x }
  | .lit x => { r with sb := x, litb := true }
  | .imm w => { r with len := 12, imm := w }
def Raw.setC (r : Raw) (c : SrcC) : Raw :=
  match c with
  | .reg x => { r with sc := x }
  | .lit x => { r with sc := x, litc := true }
def Raw.setM (r : Raw) (m : Nat) : Raw := { r with mod := BitVec.ofNat 9 m }
/-- A 96-bit form with MOD2 and IMM. -/
def Raw.long (r : Raw) (m2 : Nat) (i : Word) : Raw := { r with len := 12, sb := BitVec.ofNat 9 m2, imm := i }
/-- A 128-bit form. -/
def Raw.long2 (r : Raw) (i j : Word) : Raw := { r with len := 16, imm := i, imm2 := j }

/-- The three-operand form that most instructions have. -/
def dab (h : Hdr) (opc : Nat) (d a : Reg) (b : SrcB) (m : Nat) : Raw := (((rawOf h opc).setD d).setA a |>.setB b).setM m
def da (h : Hdr) (opc : Nat) (d a : Reg) (m : Nat) : Raw := (((rawOf h opc).setD d).setA a).setM m
def dabc (h : Hdr) (opc : Nat) (d a : Reg) (b : SrcB) (c : SrcC) (m : Nat) : Raw := (dab h opc d a b m).setC c
def d0 (h : Hdr) (opc : Nat) (d : Reg) (m : Nat) : Raw := ((rawOf h opc).setD d).setM m
def branch (h : Hdr) (opc : Nat) (d a : Reg) (off : Word) (tp fp : Byte) : Raw :=
  (da h opc d a tp.toNat).long fp.toNat off

/-- The fields of an instruction with a legal encoding; none for an event of a unit and for the nop forms and the
fill word, whose words are given whole in `encodeNat`. -/
def fields : Instr → Option Raw
  | .bra h off tp fp => some (branch h 0x01 0 0 off tp fp)
  | .brx h a off tp fp => some (branch h 0x02 0 a off tp fp)
  | .call h d off tp fp => some (branch h 0x03 d 0 off tp fp)
  | .callx h d a off tp fp => some (branch h 0x04 d a off tp fp)
  | .ret h a tp fp => some (branch h 0x05 0 a 0 tp fp)
  | .exit h => some (rawOf h 0x06)
  | .yield h => some (rawOf h 0x07)
  | .setprio h n => some ((rawOf h 0x08).setM n.toNat)
  | .loopc h d off tp fp => some (branch h 0x09 d 0 off tp fp)
  | .brk h n => some ((rawOf h 0x0B).setM n.toNat)
  | .iadd h d a b u s => some (dab h 0x10 d a b (u.toNat + 2 * s.toNat))
  | .isub h d a b u s => some (dab h 0x11 d a b (u.toNat + 2 * s.toNat))
  | .imul h d a b u s => some (dab h 0x12 d a b (u.toNat + 2 * s.toNat))
  | .imulhi h d a b u => some (dab h 0x13 d a b u.toNat)
  | .imad h d a b c u s => some (dabc h 0x14 d a b c (u.toNat + 2 * s.toNat))
  | .iaddc h d a b ci co => some (dab h 0x15 d a b (ci.toNat + 8 * co.toNat))
  | .imin h d a b u => some (dab h 0x16 d a b u.toNat)
  | .imax h d a b u => some (dab h 0x17 d a b u.toNat)
  | .iabs h d a s => some (da h 0x18 d a (2 * s.toNat))
  | .lea h d a b sh => some (dab h 0x19 d a b sh.toNat)
  | .idot4 h d a b c ua s ub => some (dabc h 0x1A d a b c (ua.toNat + 2 * s.toNat + 4 * ub.toNat))
  | .idot8 h d a b c ua s ub => some (dabc h 0x1B d a b c (ua.toNat + 2 * s.toNat + 4 * ub.toNat))
  | .iclamp h d a b c u => some (dabc h 0x1C d a b c u.toNat)
  | .and h d a b => some (dab h 0x20 d a b 0)
  | .or h d a b => some (dab h 0x21 d a b 0)
  | .xor h d a b => some (dab h 0x22 d a b 0)
  | .bool3 h d a b c f => some (dabc h 0x23 d a b c f.toNat)
  | .shl h d a b => some (dab h 0x24 d a b 0)
  | .shr h d a b => some (dab h 0x25 d a b 0)
  | .sar h d a b => some (dab h 0x26 d a b 0)
  | .rot h d a b r => some (dab h 0x27 d a b r.toNat)
  | .bfe h d a b u => some (dab h 0x28 d a b u.toNat)
  | .bfi h d a b c => some (dabc h 0x29 d a b c 0)
  | .popc h d a => some (da h 0x2A d a 0)
  | .clz h d a => some (da h 0x2B d a 0)
  | .brev h d a => some (da h 0x2C d a 0)
  | .bsel h d a b c => some (dabc h 0x2D d a b c 0)
  | .fadd h d a b m => some (dab h 0x30 d a b m.code)
  | .fsub h d a b m => some (dab h 0x31 d a b m.code)
  | .fmul h d a b m => some (dab h 0x32 d a b m.code)
  | .ffma h d a b c m => some (dabc h 0x33 d a b c m.code)
  | .fmin h d a b => some (dab h 0x34 d a b 0)
  | .fmax h d a b => some (dab h 0x35 d a b 0)
  | .fclamp h d a b c => some (dabc h 0x36 d a b c 0)
  | .fround h d a m => some (da h 0x37 d a m.code)
  | .fdot2 h d a b c m f => some (dabc h 0x38 d a b c (m.code + 16 * f.toNat))
  | .hadd2 h d a b m f => some (dab h 0x40 d a b (m.code + 16 * f.toNat))
  | .hmul2 h d a b m f => some (dab h 0x41 d a b (m.code + 16 * f.toNat))
  | .hfma2 h d a b c m f => some (dabc h 0x42 d a b c (m.code + 16 * f.toNat))
  | .hmin2 h d a b f => some (dab h 0x43 d a b (16 * f.toNat))
  | .hmax2 h d a b f => some (dab h 0x44 d a b (16 * f.toNat))
  | .cvt h d a dt st m s sel =>
      some ((da h 0x45 d a (dt.code + 16 * st.code)).long (m.code + 8 * s.toNat + 16 * sel.toNat) 0)
  | .cvtq h d a f ty b16 => some (da h 0x46 d a (f.code + 16 * ty.toNat + 64 * b16.toNat))
  | .cvtd h d a f => some (da h 0x47 d a f.code)
  | .pack h d a b w pos => some (dab h 0x48 d a b (w.code + 4 * pos.toNat))
  | .unpack h d a w pos z => some (da h 0x49 d a (w.code + 4 * pos.toNat + 32 * z.toNat))
  | .rcp h d a => some (da h 0x50 d a 0)
  | .rsq h d a => some (da h 0x51 d a 0)
  | .sqrt h d a => some (da h 0x52 d a 0)
  | .ex2 h d a => some (da h 0x53 d a 0)
  | .lg2 h d a => some (da h 0x54 d a 0)
  | .sin h d a => some (da h 0x55 d a 0)
  | .cos h d a => some (da h 0x56 d a 0)
  | .sincos h d a => some (da h 0x57 d a 0)
  | .tanh h d a => some (da h 0x58 d a 0)
  | .lanex h d a b c m k => some (dabc h 0x5A d a b c (m.code + 4 * k.toNat))
  | .poll h d p =>
      let r := (rawOf h 0x5B).setA p.field
      some (match d with
        | .vec m x => (r.setD x).setM (if m == .mask then 0 else 1)
        | .scal m x => (r.setD x).setM ((if m == .mask then 0 else 1) + 16)
        | .pred .some x => (r.setP x).setM 2
        | .pred .every x => (r.setP x).setM 3
        | .pred .same x => (r.setP x).setM 4)
  | .kin h d a m => some (da h 0x5C d a m.code)
  | .fold h d a o s => some (da h 0x5D d a (o.code + 16 * s.toNat))
  | .scan h d a o e => some (da h 0x5E d a (o.code + 32 * e.toNat))
  | .icmp h p a b c u => some ((dab h 0x60 0 a b (c.code + 8 * u.toNat)).setP p)
  | .fcmp h p a b c => some ((dab h 0x61 0 a b c.code).setP p)
  | .plop h p pa pb pc fn =>
      some ({ (da h 0x62 0 pa.field fn.toNat) with sb := pb.field, sc := pc.field }.setP p)
  | .sel h d a b pc => some { (dab h 0x63 d a b 0) with sc := pc.field }
  | .mov h d a => some (da h 0x64 d a 0)
  | .movi h d i => some ((d0 h 0x65 d 0).long 0 i)
  | .movs h d s => some (d0 h 0x66 d s.code)
  | .pmovP2r h d => some (d0 h 0x67 d 0)
  | .pmovR2p h a m => some (da h 0x67 0 a (1 + 2 * m.toNat))
  | .fclass h p a m => some ((da h 0x68 0 a m.toNat).setP p)
  | .ld h d a o s x hm => some (dab h 0x70 d a o (s.code + 8 * x.toNat + 16 * hm.toNat))
  | .st h a o c s hm => some (dabc h 0x71 0 a o c (s.code + 16 * hm.toNat))
  | .ldx h d a o i f g => some (dabc h 0x72 d a o i (f.code + 16 * g.code))
  | .stx h a o i c f g s => some (dabc h 0x73 i a o c (f.code + 16 * g.code + 128 * s.toNat))
  | .lds h d a o s x => some (dab h 0x74 d a o (s.code + 8 * x.toNat))
  | .sts h a o c s => some (dabc h 0x75 0 a o c s.code)
  | .ldc h d a o s x => some (dab h 0x76 d a o (s.code + 8 * x.toNat))
  | .prefetch h a o f => some (dab h 0x77 0 a o f.toNat)
  | .atom h d a o c op s q => some (dabc h 0x80 d a o c (op.code + 16 * s.code + 128 * q.code))
  | .atomcas h d a o c w s q => some (dabc h 0x81 d a o (.reg c) (w.toNat + 16 * s.code + 128 * q.code))
  | .red h a o c op s q => some (dabc h 0x82 0 a o c (op.code + 16 * s.code + 128 * q.code))
  | .reddet h a o c op => some (dabc h 0x83 0 a o c op.code)
  | .atoms h d a o c op => some (dabc h 0x84 d a o c op.code)
  | .atomscas h d a o c w => some (dabc h 0x85 d a o (.reg c) w.toNat)
  | .reds h a o c op => some (dabc h 0x86 0 a o c op.code)
  | .redmark h => some (rawOf h 0x87)
  | .fence h k s => some ((rawOf h 0x90).setM (k.code + 4 * s.code))
  | .wait h a b c d => some ((rawOf h 0x91).long 0
      (BitVec.ofNat 32 (a.toNat + 2 ^ 8 * b.toNat + 2 ^ 16 * c.toNat + 2 ^ 24 * d.toNat)))
  | .barrive h n d b => some (dab h 0x92 d 0 b n.toNat)
  | .barwait h n a => some (da h 0x93 0 a n.toNat)
  | .barsync h n b => some (dab h 0x94 0 0 b n.toNat)
  | .qpush h n a => some (da h 0x95 0 a n.toNat)
  | .qpop h n d => some (d0 h 0x96 d n.toNat)
  | .qtry h n d p => some { (d0 h 0x97 d n.toNat) with sc := p.setWidth 9 }
  | .qinit h n e a off en al => some ((da h 0x98 0 a (n.toNat + 8 * e.toNat)).long2 off
      (BitVec.ofNat 32 (en.toNat + 2 ^ 16 * al.toNat)))
  | .chainw h a o c s ge => some (dabc h 0x99 0 a o c (s.code + 8 * ge.toNat))
  | .chainp h a o c s => some (dabc h 0x9A 0 a o c s.code)
  | .tokacq h => some (rawOf h 0x9B)
  | .tokpass h => some (rawOf h 0x9C)
  | .binit h n a o => some (dab h 0x9D 0 a o n.toNat)
  | .cpl h t a off so z g s => some (((da h 0xA0 t a (z.code + 4 * g.toNat)).setC (.reg so)).long s.code off)
  | .cpt h t a col td tx g s =>
      some (((da h 0xA1 t a (td.toNat + 16 * tx.toNat + 128 * g.toNat)).setC col).long s.code 0)
  | .cpr h t a td op f n s => some ((da h 0xA2 t a (op.code + 16 * td.toNat)).long s.code
      (BitVec.ofNat 32 (f.toNat + 2 ^ 8 * n.toNat)))
  | .chkwait h td m f => some ((d0 h 0xA3 0 td.toNat).long f.toNat m)
  | .chktest h p td m f => some (((d0 h 0xA4 0 td.toNat).setP p).long f.toNat m)
  | .tdesc h td a len f g pitch rows cols => some ((da h 0xA5 0 a td.toNat).long2
      (BitVec.ofNat 32 (len.toNat + 2 ^ 8 * f.toNat + 2 ^ 12 * g.toNat + 2 ^ 16 * pitch.toNat))
      (BitVec.ofNat 32 (rows.toNat + 2 ^ 16 * cols.toNat)))
  | .tfree h td => some (d0 h 0xA6 0 td.toNat)
  | .trec h tx a o => some (dab h 0xA7 0 a o tx.toNat)
  | .cpcancel h t => some (da h 0xA8 0 t 0)
  | .mma h t a o e r => some (dab h 0xB0 (t.getD 0) a o (e.toNat + 2 * t.isSome.toNat + 4 * r.toNat))
  | .mmv h t a o e r => some (dab h 0xB1 (t.getD 0) a o (e.toNat + 2 * t.isSome.toNat + 4 * r.toNat))
  | .mprog h d e => some (d0 h 0xB2 d e.toNat)
  | .accld h t e td ar ac => some ((d0 h 0xB3 t (e.toNat + 2 * td.toNat)).long 0
      (BitVec.ofNat 32 (ar.toNat + 2 ^ 16 * ac.toNat)))
  | .accst h t e td ar ac m s ty epi =>
      let i : Word := BitVec.ofNat 32 (ar.toNat + 2 ^ 16 * ac.toNat)
      let md := e.toNat + 2 * td.toNat + 32 * m.code + 256 * s.toNat
      some (match epi with
        | none => (d0 h 0xB4 t md).long ty.toNat i
        | some (g, a, c) => (((da h 0xB4 t a md).setC (.reg c)).long (ty.toNat + 4 + 8 * g.toNat) i))
  | .acczero h e b c => some (dabc h 0xB5 0 0 b c e.toNat)
  | .mabort h e => some (d0 h 0xB6 0 e.toNat)
  | .gset h g a o => some (dab h 0xC0 0 a o g.toNat)
  | .gseed h g a => some (da h 0xC1 0 a g.toNat)
  | .geval h d g a b => some (dab h 0xC2 d a b g.toNat)
  | .coll h t a o sl => some (dab h 0xC3 t a o sl.toNat)
  | .collwait h m => some (d0 h 0xC4 0 m.toNat)
  | .enq h r a o q => some (dabc h 0xD0 r a o q 0)
  | .spawn h p a off n => some (((da h 0xD1 0 a n.toNat).setP p).long 0 off)
  | .fork h t a o => some (dab h 0xD2 t a o 0)
  | .cancel h t a l b =>
      some (match b with
        | none => da h 0xD3 t a l.code
        | some x => dab h 0xD3 t a x l.code)
  | .cntrd h d a f fr => some (da h 0xD4 d a (f.code + 8 * fr.toNat))
  | .cntwait h p a b => some ((dab h 0xD5 0 a b 0).setP p)
  | .arena h d a f g t => some (da h 0xD6 d a (f.code + 16 * g.code + 128 * t.toNat))
  | .tropen h r a c lg => some ((da h 0xE0 r a lg.toNat).setC c)
  | .trclose h r a f => some (da h 0xE1 r a f.toNat)
  | .prop h t a => some (da h 0xE2 t a 0)
  | .trfork h r a b => some (dab h 0xE3 r a b 0)
  | .trstat h d a s => some (da h 0xE4 d a s.toNat)
  | .trmark h a o => some (dab h 0xE5 0 a o 0)
  | .nnq h t sl a o => some (dab h 0xE6 t a o sl.toNat)
  | .nnwait h m => some ((rawOf h 0xE7).long 0 (m.setWidth 32))
  | .nncancel h sl => some (d0 h 0xE8 0 sl.toNat)
  | .nngraph h r n a o => some (dab h 0xE9 r a o n.toNat)
  | .nngraphBump h r n lg =>
      let x := d0 h 0xE9 r (n.toNat + 64)
      some (if lg then x.long 0 0 else x)
  | .nngraphDrop h r n lg =>
      let x := d0 h 0xE9 r (n.toNat + 128)
      some (if lg then x.long 0 0 else x)
  | .trap h n => some ((rawOf h 0xF0).setM n.toNat)
  | .rti h => some (rawOf h 0xF1)
  | .csrrd h d n => some ((d0 h 0xF2 d 0).long 0 (n.setWidth 32))
  | .csrwr h n a => some ((da h 0xF3 0 a 0).long 0 (n.setWidth 32))
  | .tlbinvPage h a o => some (dab h 0xF4 0 a o 0)
  | .tlbinvAll h lg =>
      let x := d0 h 0xF4 0 1
      some (if lg then x.long 0 0 else x)
  | .stop h => some (rawOf h 0xF5)
  | .smark h n a => some (da h 0xF6 0 a n.toNat)
  | _ => none

/-- Length in bytes and bits of an instruction; none for an event, which has no encoding. -/
def encodeNat : Instr → Option (Nat × Nat)
  | .nop => some (8, 0x39)
  | .nop96 => some (12, 0x3A)
  | .nop128 => some (16, 0x3B)
  | .fillWord => some (4, fillBits)
  | i => (fields i).map (fun r => (r.len, r.toNat))

/-- The bytes of an instruction in memory order; empty for an event. -/
def encode (i : Instr) : List Byte :=
  match encodeNat i with
  | none => []
  | some (n, w) => leBytes n w

/-- Instructions that have an encoding; the other terms are events of units. -/
def encodable (i : Instr) : Bool := (encodeNat i).isSome

end Sys2Proof
end

