-- ==== Sys2Proof/Machine/Map.lean ====
section
/-! DEFINITION. Sparse data by a natural-number key: lists of key and value pairs with keys strictly rising, so that
equal maps are equal lists; a map with a default lists no key that holds the default. And the list helpers that the
whole machine uses. -/

namespace Sys2Proof.Machine

open Host

abbrev Map (α : Type) := List (Nat × α)

/-- The value at a key. -/
def mget {α : Type} : Map α → Nat → Option α
  | [], _ => none
  | (k, v) :: m, x => if x = k then some v else mget m x

/-- The value at a key, or the default of the map. -/
def mgetD {α : Type} (d : α) (m : Map α) (x : Nat) : α := (mget m x).getD d

/-- The map with a key set. -/
def mput {α : Type} : Map α → Nat → α → Map α
  | [], x, v => [(x, v)]
  | (k, w) :: m, x, v =>
    if x < k then (x, v) :: (k, w) :: m
    else if x = k then (x, v) :: m
    else (k, w) :: mput m x v

/-- The map without a key. -/
def mdel {α : Type} (m : Map α) (x : Nat) : Map α := m.filter (fun p => p.1 != x)

/-- Setting a key of a map with a default: the default is not listed. -/
def mputD {α : Type} [DecidableEq α] (d : α) (m : Map α) (x : Nat) (v : α) : Map α :=
  if v = d then mdel m x else mput m x v

/-- A change of the value at a key that is listed. -/
def mmod {α : Type} (m : Map α) (x : Nat) (f : α → α) : Map α :=
  match mget m x with
  | none => m
  | some v => mput m x (f v)

/-- Keys strictly rise, and all lie at or above a bound. -/
def mapFrom {α : Type} : Nat → Map α → Bool
  | _, [] => true
  | n, (k, _) :: m => decide (n ≤ k) && mapFrom (k + 1) m

/-- The canonical form of a map. -/
def mapOk {α : Type} (m : Map α) : Bool := mapFrom 0 m

/-- The canonical form of a map with a default. -/
def mapOkD {α : Type} [DecidableEq α] (d : α) (m : Map α) : Bool := mapOk m && m.all (fun p => decide (p.2 ≠ d))

/-- 0 to n - 1. -/
def upTo (n : Nat) : List Nat := List.range n

/-- The lowest key from `lo` (at most `n` tries) that satisfies p. -/
def firstKey (p : Nat → Bool) : Nat → Nat → Option Nat
  | 0, _ => none
  | n + 1, lo => if p lo then some lo else firstKey p n (lo + 1)

/-- A number put into a rising list that holds no number twice. -/
def insertNat (x : Nat) : List Nat → List Nat
  | [] => [x]
  | y :: l => if x < y then x :: y :: l else if x = y then y :: l else y :: insertNat x l

/-- Bit i of a lane set. -/
def has (m : Lanes) (i : Nat) : Bool := m.getLsbD i

/-- The set of one lane. -/
def oneLane (i : Nat) : Lanes := BitVec.ofNat 32 (2 ^ i)

/-- The lanes of a set, ascending. -/
def lanesOf (m : Lanes) : List Nat := (List.range 32).filter (has m)

/-- The lanes that satisfy a predicate. -/
def maskOf (p : Nat → Bool) : Lanes := (List.range 32).foldl (fun m i => if p i then m ||| oneLane i else m) 0

/-- The lowest lane of a set; 0 for the empty set. -/
def lowest (m : Lanes) : Nat := (lanesOf m).headD 0

/-- The number of lanes in a set. -/
def lcount (m : Lanes) : Nat := (lanesOf m).length

/-- Floor of a / 2^k as the low word and the words above it. -/
def lo32 (n : Nat) : Word := BitVec.ofNat 32 n
def hi32 (n : Nat) : Word := BitVec.ofNat 32 (n / 2 ^ 32)

/-- The 64-bit value of a low and a high word. -/
def pair (lo hi : Word) : Nat := lo.toNat + 2 ^ 32 * hi.toNat

/-- The smaller of two naturals after saturation. -/
def satTo (n bound : Nat) : Nat := if n ≤ bound then n else bound

end Sys2Proof.Machine
end

