-- ==== Sys2Proof/Machine/Aes.lean ====
section
/-! DEFINITION. AES-256-XTS, the cipher that R86 and R374 name: AES-256 on 16-byte blocks, its inverse, and the tweak of a
block of a 128-byte line. -/

namespace Sys2Proof.Machine

/-! ### The field of 256 elements -/

/-- Multiplication by x modulo x^8 + x^4 + x^3 + x + 1. -/
def xtime (b : Byte) : Byte := (b <<< 1) ^^^ (if b.msb then 0x1B else 0)

/-- The product: n bits of the second factor from bit 0 up. -/
def gmulFrom : Nat → Byte → Byte → Byte
  | 0, _, _ => 0
  | n + 1, a, b => (if b.getLsbD 0 then a else 0) ^^^ gmulFrom n (xtime a) (b >>> 1)
def gmul (a b : Byte) : Byte := gmulFrom 8 a b

/-- The inverse, which is the 254th power; 0 for 0. -/
def ginv (a : Byte) : Byte :=
  let a2 := gmul a a
  let a3 := gmul a2 a
  let a6 := gmul a3 a3
  let a12 := gmul a6 a6
  let a15 := gmul a12 a3
  let a30 := gmul a15 a15
  let a60 := gmul a30 a30
  let a120 := gmul a60 a60
  let a240 := gmul a120 a120
  gmul (gmul a240 a12) a2

def subByte (a : Byte) : Byte :=
  let b := ginv a
  b ^^^ b.rotateLeft 1 ^^^ b.rotateLeft 2 ^^^ b.rotateLeft 3 ^^^ b.rotateLeft 4 ^^^ 0x63
def unsubByte (a : Byte) : Byte := ginv (a.rotateLeft 1 ^^^ a.rotateLeft 3 ^^^ a.rotateLeft 6 ^^^ 0x05)

/-! ### AES-256 -/

def xorBytes (a b : List Byte) : List Byte := List.zipWith (· ^^^ ·) a b

/-- The words of the key schedule, of 4 bytes each, the latest first: n more. -/
def keyWords : Nat → Byte → List (List Byte) → List (List Byte)
  | 0, _, ws => ws
  | n + 1, rc, ws =>
    let i := ws.length
    let t := ws.headD []
    let f : List Byte :=
      if i % 8 = 0 then xorBytes ((t.drop 1 ++ t.take 1).map subByte) [rc, 0, 0, 0]
      else if i % 8 = 4 then t.map subByte else t
    keyWords n (if i % 8 = 0 then xtime rc else rc) (xorBytes (ws.getD 7 []) f :: ws)

/-- The 15 round keys of a key of 32 bytes. -/
def roundKeys (key : List Byte) : List (List Byte) :=
  let ws := (keyWords 52 1 (((List.range 8).map (fun i => (key.drop (4 * i)).take 4)).reverse)).reverse
  (List.range 15).map (fun r => ((ws.drop (4 * r)).take 4).flatten)

/-- Row r of the block shifted left by r places; and right. -/
def shiftRows (b : List Byte) : List Byte := (List.range 16).map (fun i => b.getD ((i + 4 * (i % 4)) % 16) 0)
def unshiftRows (b : List Byte) : List Byte := (List.range 16).map (fun i => b.getD ((i + 12 * (i % 4)) % 16) 0)

/-- Every column multiplied by the circulant matrix of four elements. -/
def mixWith (m : List Byte) (b : List Byte) : List Byte :=
  (List.range 16).map (fun i => (List.range 4).foldl (fun x j => x ^^^ gmul (m.getD ((j + 4 - i % 4) % 4) 0) (b.getD (i / 4 * 4 + j) 0)) 0)

/-- A block under the cipher and under its inverse. -/
def aesEnc (key b : List Byte) : List Byte :=
  let ks := roundKeys key
  let mid := ((ks.drop 1).take 13).foldl (fun x k => xorBytes (mixWith [2, 3, 1, 1] (shiftRows (x.map subByte))) k)
    (xorBytes b (ks.headD []))
  xorBytes (shiftRows (mid.map subByte)) (ks.getD 14 [])
def aesDec (key b : List Byte) : List Byte :=
  let ks := roundKeys key
  let mid := ((ks.drop 1).take 13).reverse.foldl (fun x k => mixWith [14, 11, 13, 9] (xorBytes ((unshiftRows x).map unsubByte) k))
    (xorBytes b (ks.getD 14 []))
  xorBytes ((unshiftRows mid).map unsubByte) (ks.headD [])

/-! ### XTS -/

/-- The tweak multiplied by x in the field of 2^128 elements, lowest byte first. -/
def xtsDouble (t : List Byte) : List Byte :=
  (List.range 16).map (fun i =>
    let up : Byte := if i = 0 then (if (t.getD 15 0).msb then 0x87 else 0) else ((t.getD (i - 1) 0 : Byte) >>> 7)
    ((t.getD i 0 : Byte) <<< 1) ^^^ up)

/-- The tweak of block j of a data unit under the second key. -/
def xtsTweak (key : List Byte) (unit : Nat) : Nat → List Byte
  | 0 => aesEnc (key.drop 32) (leBytes 16 unit)
  | j + 1 => xtsDouble (xtsTweak key unit j)

def xtsEnc (key : List Byte) (unit j : Nat) (b : List Byte) : List Byte :=
  let t := xtsTweak key unit j
  xorBytes (aesEnc (key.take 32) (xorBytes b t)) t
def xtsDec (key : List Byte) (unit j : Nat) (b : List Byte) : List Byte :=
  let t := xtsTweak key unit j
  xorBytes (aesDec (key.take 32) (xorBytes b t)) t

end Sys2Proof.Machine
end

