-- ==== Sys2Proof/Machine/Fp.lean ====
section
/-! DEFINITION. Floating-point values, exactly: the formats of R101 and R102, rounding (R110), narrowing (R111),
exact sums and products with one rounding (R103, R104, R112), and conversions to and from integers. -/

namespace Sys2Proof.Machine

/-- A decoded value: a NaN, an infinity, or (-1)^neg x m x 2^e, with a sign of zero. -/
inductive FV where
  | nan
  | inf (neg : Bool)
  | fin (neg : Bool) (m : Nat) (e : Int)
  deriving DecidableEq, Repr

/-- How the top codes of a format are used (R101 Table 1). -/
inductive Top where
  /-- infinities and NaNs in the top exponent -/
  | ieee
  /-- E4M3: only the all-ones code is a NaN, no infinity -/
  | nanOnly
  /-- E2M1: every code is finite -/
  | none
  deriving DecidableEq, Repr

/-- A floating-point format: exponent and mantissa bits and bias. -/
structure FloatFmt where
  eb : Nat
  mb : Nat
  bias : Int
  top : Top
  deriving DecidableEq, Repr

def fp32 : FloatFmt := ⟨8, 23, 127, .ieee⟩
def fp16 : FloatFmt := ⟨5, 10, 15, .ieee⟩
def bf16 : FloatFmt := ⟨8, 7, 127, .ieee⟩
def e4m3 : FloatFmt := ⟨4, 3, 7, .nanOnly⟩
def e5m2 : FloatFmt := ⟨5, 2, 15, .ieee⟩
def e2m1 : FloatFmt := ⟨2, 1, 1, .none⟩

/-- Total width. -/
def FloatFmt.width (f : FloatFmt) : Nat := 1 + f.eb + f.mb
/-- The largest finite code without its sign. -/
def FloatFmt.maxFin (f : FloatFmt) : Nat :=
  match f.top with
  | .ieee => (2 ^ f.eb - 1) * 2 ^ f.mb - 1
  | .nanOnly => 2 ^ (f.eb + f.mb) - 2
  | .none => 2 ^ (f.eb + f.mb) - 1
/-- The canonical NaN (R101 Table 1); +0 for E2M1, which has none (R111 Table 6). -/
def FloatFmt.cnan (f : FloatFmt) : Nat :=
  match f.top with
  | .ieee => (2 ^ f.eb - 1) * 2 ^ f.mb + 2 ^ (f.mb - 1)
  | .nanOnly => 2 ^ (f.eb + f.mb) - 1
  | .none => 0
def FloatFmt.infCode (f : FloatFmt) : Nat := (2 ^ f.eb - 1) * 2 ^ f.mb
/-- The exponent of one unit of a subnormal. -/
def FloatFmt.emin (f : FloatFmt) : Int := 1 - f.bias - f.mb
/-- The sign bit of a code. -/
def FloatFmt.signed (f : FloatFmt) (neg : Bool) (c : Nat) : Nat := if neg then 2 ^ (f.eb + f.mb) + c else c

/-- The value of a code (R102). -/
def decodeF (f : FloatFmt) (bits : Nat) : FV :=
  let neg := bits / 2 ^ (f.eb + f.mb) % 2 == 1
  let e := bits / 2 ^ f.mb % 2 ^ f.eb
  let m := bits % 2 ^ f.mb
  if f.top == .ieee && e == 2 ^ f.eb - 1 then (if m == 0 then .inf neg else .nan)
  else if f.top == .nanOnly && e == 2 ^ f.eb - 1 && m == 2 ^ f.mb - 1 then .nan
  else if e == 0 then .fin neg m f.emin
  else .fin neg (2 ^ f.mb + m) (f.emin + (e : Int) - 1)

/-- m / 2^sh rounded to an integer by a mode (R110). -/
def roundShift (md : Rm) (neg : Bool) (m sh : Nat) : Nat :=
  let n := m / 2 ^ sh
  let r := m % 2 ^ sh
  let up := match md with
    | .rn => decide (2 * r > 2 ^ sh) || (2 * r == 2 ^ sh && n % 2 == 1)
    | .rz => false
    | .rm => neg && r != 0
    | .rp => !neg && r != 0
    | .rna => decide (2 * r ≥ 2 ^ sh) && sh != 0
  if up then n + 1 else n

/-- m x 2^e as an integer, rounded. -/
def roundAt (md : Rm) (neg : Bool) (m : Nat) (e : Int) : Nat :=
  if 0 ≤ e then m * 2 ^ e.toNat else roundShift md neg m (-e).toNat

/-- What a magnitude above the largest finite becomes (R111 Table 6). -/
def overflowF (f : FloatFmt) (md : Rm) (sat neg : Bool) : Nat :=
  if sat then f.signed neg f.maxFin
  else match f.top with
    | .none => f.signed neg f.maxFin
    | .nanOnly => f.cnan
    | .ieee =>
      let toInf := match md with
        | .rn | .rna => true
        | .rz => false
        | .rm => neg
        | .rp => !neg
      f.signed neg (if toInf then f.infCode else f.maxFin)

/-- The code of the rounded value (R110, R111). -/
def roundF (f : FloatFmt) (md : Rm) (sat : Bool) : FV → Nat
  | .nan => f.cnan
  | .inf neg =>
    if sat then f.signed neg f.maxFin
    else match f.top with
      | .ieee => f.signed neg f.infCode
      | .nanOnly => f.cnan
      | .none => f.signed neg f.maxFin
  | .fin neg m e =>
    if m == 0 then f.signed neg 0
    else
      let q : Int := max ((Nat.log2 m : Int) + e - f.mb) f.emin
      let n := roundAt md neg m (e - q)
      let c := ((q - f.emin).toNat) * 2 ^ f.mb + n
      if f.maxFin < c then overflowF f md sat neg else f.signed neg c

def FV.neg : FV → FV
  | .nan => .nan
  | .inf s => .inf (!s)
  | .fin s m e => .fin (!s) m e

def FV.isNan : FV → Bool
  | .nan => true
  | _ => false

def FV.isInf : FV → Bool
  | .inf _ => true
  | _ => false

def FV.sign : FV → Bool
  | .nan => false
  | .inf s => s
  | .fin s _ _ => s

def FV.isZero : FV → Bool
  | .fin _ m _ => m == 0
  | _ => false

/-- The integer of a finite value in units of 2^u, for u not above its exponent. -/
def FV.units (u : Int) : FV → Int
  | .fin s m e => let k : Int := (m : Int) * 2 ^ (e - u).toNat; if s then -k else k
  | _ => 0

def FV.expo : FV → Int
  | .fin _ _ e => e
  | _ => 0

/-- The exact product (R205: 0 x infinity is a NaN). -/
def mulV (a b : FV) : FV :=
  match a, b with
  | .nan, _ => .nan
  | _, .nan => .nan
  | .inf s, .inf t => .inf (s != t)
  | .inf s, .fin t m _ => if m == 0 then .nan else .inf (s != t)
  | .fin s m _, .inf t => if m == 0 then .nan else .inf (s != t)
  | .fin s m e, .fin t n g => .fin (s != t) (m * n) (e + g)

/-- The exact sum of terms, with the sign of a zero sum by R103. -/
def sumV (md : Rm) (ts : List FV) : FV :=
  if ts.any FV.isNan then .nan
  else if ts.any (· == .inf true) && ts.any (· == .inf false) then .nan
  else if ts.any (· == .inf true) then .inf true
  else if ts.any (· == .inf false) then .inf false
  else
    let u := ts.foldl (fun u t => min u t.expo) (ts.headD (.fin false 0 0)).expo
    let k : Int := ts.foldl (fun k t => k + t.units u) 0
    if k == 0 then
      .fin (if ts.all FV.sign then !ts.isEmpty else if ts.all (fun t => !t.sign) then false else md == .rm) 0 u
    else .fin (decide (k < 0)) k.natAbs u

/-- Comparison of two values that are not NaNs, -0 equal to +0. -/
def cmpV (a b : FV) : Ordering :=
  match a, b with
  | .inf s, .inf t => if s == t then .eq else if s then .lt else .gt
  | .inf s, _ => if s then .lt else .gt
  | _, .inf t => if t then .gt else .lt
  | x, y =>
    let u := min x.expo y.expo
    compare (x.units u) (y.units u)

/-- The same with -0 below +0 (R206). -/
def cmpZ (a b : FV) : Ordering :=
  if a.isZero && b.isZero then (if a.sign == b.sign then .eq else if a.sign then .lt else .gt) else cmpV a b

/-- A value rounded to an integer by a mode; infinities and NaNs give none. -/
def toIntV (md : Rm) : FV → Option Int
  | .fin s m e => let n := roundAt md s m e; some (if s then -(n : Int) else n)
  | _ => none

def ofInt (i : Int) : FV := .fin (decide (i < 0)) i.natAbs 0

/-- x / y for integers as a value with `p` bits below the point and a sticky bit below those: right for every
rounding to fewer bits. -/
def quotV (neg : Bool) (x y p : Nat) : FV :=
  let n := x * 2 ^ p / y
  .fin neg (2 * n + if x * 2 ^ p % y == 0 then 0 else 1) (-(p : Int) - 1)

/-! ### FP32 in words -/

def f32 (w : Word) : FV := decodeF fp32 w.toNat
def toF32 (md : Rm) (v : FV) : Word := BitVec.ofNat 32 (roundF fp32 md false v)
/-- The canonical FP32 NaN (R104). -/
def nan32 : Word := 0x7FC00000
def f32add (md : Rm) (a b : Word) : Word := toF32 md (sumV md [f32 a, f32 b])
def f32sub (md : Rm) (a b : Word) : Word := toF32 md (sumV md [f32 a, (f32 b).neg])
def f32mul (md : Rm) (a b : Word) : Word := toF32 md (mulV (f32 a) (f32 b))
def f32fma (md : Rm) (a b c : Word) : Word := toF32 md (sumV md [mulV (f32 a) (f32 b), f32 c])

/-- fmin and fmax of R206 on codes of a format. -/
def minMaxF (f : FloatFmt) (max : Bool) (a b : Nat) : Nat :=
  match (decodeF f a).isNan, (decodeF f b).isNan with
  | true, true => f.cnan
  | true, false => b
  | false, true => a
  | false, false =>
    let o := cmpZ (decodeF f a) (decodeF f b)
    if max then (if o == .lt then b else a) else (if o == .gt then b else a)

def f32min (a b : Word) : Word := BitVec.ofNat 32 (minMaxF fp32 false a.toNat b.toNat)
def f32max (a b : Word) : Word := BitVec.ofNat 32 (minMaxF fp32 true a.toNat b.toNat)

/-- fround (R205): an integral value by the mode; infinities and zeros return themselves, a NaN is canonical. -/
def f32round (md : Rm) (a : Word) : Word :=
  match f32 a with
  | .nan => nan32
  | .inf _ => a
  | .fin s m e => if m == 0 then a else BitVec.ofNat 32 (roundF fp32 .rn false (.fin s (roundAt md s m e) 0))

/-- Class bits of `fclass` (R220). -/
def classBit (a : Word) : Nat :=
  match f32 a with
  | .nan => 8
  | .inf true => 0
  | .inf false => 7
  | .fin s m _ =>
    if m == 0 then (if s then 3 else 4)
    else if m < 2 ^ 23 then (if s then 2 else 5)
    else (if s then 1 else 6)

/-- The operand of an integer at a width, signed or unsigned. -/
def asInt (sgn : Bool) (w n : Nat) : Int :=
  let m := n % 2 ^ w
  if sgn && decide (2 ^ (w - 1) ≤ m) then (m : Int) - 2 ^ w else m

/-- The range of an integer type. -/
def intMin (sgn : Bool) (w : Nat) : Int := if sgn then -(2 ^ (w - 1)) else 0
def intMax (sgn : Bool) (w : Nat) : Int := if sgn then 2 ^ (w - 1) - 1 else 2 ^ w - 1
def clampInt (sgn : Bool) (w : Nat) (i : Int) : Int := max (intMin sgn w) (min i (intMax sgn w))
/-- The low w bits of an integer. -/
def intBits (w : Nat) (i : Int) : Nat := (i % 2 ^ w).toNat

end Sys2Proof.Machine
end

