-- ==== Sys2Proof/Machine/Formats.lean ====
section
/-! DEFINITION. Element and block formats: places of elements and scale bytes (R105, R106, R230), decoding (R107 to
R109), narrowing (R111, R231) and the choice of a block scale (R118). -/

namespace Sys2Proof.Machine

/-- The floating-point format of plain elements, or of the elements of an MX block. -/
def elemFloat : Fmt → Option FloatFmt
  | .fp32 => some fp32
  | .fp16 => some fp16
  | .bf16 => some bf16
  | .e4m3 | .mxfp8e4 => some e4m3
  | .e5m2 | .mxfp8e5 => some e5m2
  | .e2m1 | .mxfp4 => some e2m1
  | _ => none

/-- Bits of one element; a RAW element is a byte (R267). -/
def elemBits : Fmt → Nat
  | .fp32 | .int32 => 32
  | .fp16 | .bf16 => 16
  | .e4m3 | .e5m2 | .int8 | .raw | .mxfp8e4 | .mxfp8e5 => 8
  | .e2m1 | .int4 | .mxfp4 | .ts4 => 4

def fmtInt : Fmt → Bool
  | .int8 | .int4 | .int32 => true
  | _ => false

/-- Elements per block of a geometry (R106 Table 2); 1 outside block formats. -/
def blockSize : Geom → Nat
  | .b16 => 16
  | .b32 => 32
  | .b64 => 64
  | _ => 1

/-- Bytes of n packed elements (R105). -/
def packedBytes (f : Fmt) (n : Nat) : Nat := (n * elemBits f + 7) / 8

/-- Block bytes E, scale area H and blocks per sheet N (R106 Table 2). -/
def sheetShape (f : Fmt) (g : Geom) : Nat × Nat × Nat :=
  match blockSize g * elemBits f / 8 with
  | 8 => (8, 512, 448)
  | 16 => (16, 256, 240)
  | _ => (32, 128, 124)

/-- Where element i of an array stands: byte offset, whether it is the high nibble, and the offset of its scale byte
in a block format (R230). -/
structure Place where
  off : Nat
  high : Bool
  scale : Option Nat
  deriving DecidableEq, Repr

def placeOf (f : Fmt) (g : Geom) (i : Nat) : Place :=
  if blockFmt f then
    let (e, h, n) := sheetShape f g
    let bs := blockSize g
    let q := i / bs
    let base := 4096 * (q / n)
    let k := i % bs
    { off := base + h + e * (q % n) + k * elemBits f / 8,
      high := elemBits f == 4 && k % 2 == 1, scale := some (base + q % n) }
  else
    { off := i * elemBits f / 8, high := elemBits f == 4 && i % 2 == 1, scale := none }

/-- Bytes that an element occupies. -/
def elemBytes (f : Fmt) : Nat := (elemBits f + 7) / 8

/-- The code in the bytes that an element occupies. -/
def codeIn (f : Fmt) (high : Bool) (raw : Nat) : Nat :=
  if elemBits f == 4 then (if high then raw / 16 % 16 else raw % 16) else raw % 2 ^ elemBits f

/-- The bytes with a code set; the other nibble of a shared byte is kept. -/
def codeInto (f : Fmt) (high : Bool) (raw code : Nat) : Nat :=
  if elemBits f == 4 then (if high then raw % 16 + 16 * (code % 16) else raw / 16 * 16 + code % 16)
  else code % 2 ^ elemBits f

/-- Magnitudes of the TS4 codes, in halves (R108 Table 4). -/
def ts4Half (ty c : Nat) : Nat :=
  match ty with
  | 1 => ([0, 1, 2, 3, 4, 6, 8, 12] : List Nat).getD c 0
  | 2 => ([0, 2, 4, 8, 16, 32, 64, 128] : List Nat).getD c 0
  | _ => ([0, 2, 4, 6, 8, 10, 12, 16] : List Nat).getD c 0

/-- The value of a TS4 code without its scale. -/
def ts4Val (ty c : Nat) : FV :=
  if ty == 0 then ofInt (asInt true 4 c)
  else .fin (decide (8 ≤ c % 16)) (ts4Half ty (c % 8)) (-1)

/-- A value times a power of two. -/
def scaleV (e : Int) : FV → FV
  | .fin s m g => .fin s m (g + e)
  | v => v

/-- The exact value of an element code under its scale byte (R102, R107, R108). -/
def elemVal (f : Fmt) (scale code : Nat) : FV :=
  match f with
  | .ts4 =>
    if scale % 64 == 63 then .nan else scaleV ((scale % 64 : Nat) - 32) (ts4Val (scale / 64 % 4) code)
  | .mxfp8e4 | .mxfp8e5 | .mxfp4 =>
    if scale % 256 == 255 then .nan
    else match elemFloat f with
      | some ff => scaleV ((scale % 256 : Nat) - 127) (decodeF ff code)
      | none => .nan
  | _ =>
    match elemFloat f with
    | some ff => decodeF ff code
    | none => ofInt (asInt (f != .raw) (elemBits f) code)

/-- An element as the FP32 word, or the sign-extended INT32 word, that `ldx` and `accld` write (R109, R231). -/
def elemWord (f : Fmt) (scale code : Nat) : Word :=
  if fmtInt f || f == .raw then BitVec.ofInt 32 (asInt true (elemBits f) code)
  else if f == .fp32 then BitVec.ofNat 32 code
  else toF32 .rn (elemVal f scale code)

/-- What `ldx` writes and `stx` stores of FP32 elements are converted too, so that a NaN is the canonical one (R104, R231). -/
def ldxWord (f : Fmt) (scale code : Nat) : Word := if f == .fp32 then toF32 .rn (elemVal f scale code) else elemWord f scale code

def absV : FV → FV
  | .fin _ m e => .fin false m e
  | .inf _ => .inf false
  | .nan => .nan

/-- |a - b| of finite values. -/
def distV (a b : FV) : FV := absV (sumV .rn [a, b.neg])

/-- The TS4 code whose value times the scale is nearest to y; a tie goes to the code with bit 0 clear, zero to +0. -/
def ts4Nearest (ty : Nat) (e : Int) (y : FV) : Nat :=
  (List.range 16).foldl (fun best c =>
    if ty != 0 && c == 8 then best
    else
      match cmpV (distV y (scaleV e (ts4Val ty c))) (distV y (scaleV e (ts4Val ty best))) with
      | .lt => c
      | .eq => if c % 2 == 0 && best % 2 == 1 then c else best
      | .gt => best) 0

/-- The element code of y under a scale byte (R118 step 3); 0 under the NaN code and for a NaN or an infinity (R231). -/
def blockCode (f : Fmt) (scale : Nat) (y : FV) : Nat :=
  match y with
  | .nan | .inf _ => 0
  | .fin _ _ _ =>
    if f == .ts4 then
      if scale % 64 == 63 then 0 else ts4Nearest (scale / 64 % 4) ((scale % 64 : Nat) - 32) y
    else if scale % 256 == 255 then 0
    else match elemFloat f with
      | some ff =>
        let c := roundF ff .rn true (scaleV (127 - (scale % 256 : Nat)) y)
        if c % 2 ^ (ff.eb + ff.mb) == 0 then 0 else c
      | none => 0

/-- The constant Q of R118 Table 7. -/
def scaleQ (f : Fmt) (ty : Nat) : Nat :=
  match f with
  | .mxfp8e4 => 448
  | .mxfp8e5 => 57344
  | .mxfp4 => 6
  | _ => match ty with
    | 0 => 7
    | 1 => 6
    | 2 => 64
    | _ => 8

/-- The largest scale exponent code and the bias of the exponent (R118 Table 7). -/
def scaleTop (f : Fmt) : Nat := if f == .ts4 then 62 else 254
def scaleBias (f : Fmt) : Nat := if f == .ts4 then 32 else 127

/-- The scale byte of a block (R118 steps 1 and 2); `ty` is the TS4 type. -/
def blockScale (f : Fmt) (ty : Nat) (ys : List FV) : Nat :=
  let base := if f == .ts4 then 64 * ty else 0
  if ys.any (fun y => y.isNan || y.isInf) then base + scaleTop f + 1
  else
    let amax := ys.foldl (fun m y => if cmpV m (absV y) == .lt then absV y else m) (.fin false 0 0)
    let fits := fun (c : Nat) =>
      cmpV amax (.fin false (scaleQ f ty) ((c : Int) - scaleBias f)) != .gt
    base + ((firstKey fits (scaleTop f + 1) 0).getD (scaleTop f))

/-- A block quantised: scale byte and codes (R118). -/
def quantBlock (f : Fmt) (ty : Nat) (ys : List FV) : Nat × List Nat :=
  let s := blockScale f ty ys
  (s, ys.map (blockCode f s))

/-- The code of a datum of `stx`, `cpt` or `accst` in a plain format (R111, R231, R287): `w` is FP32 data for
floating-point formats and INT32 data for integer formats. -/
def plainCode (f : Fmt) (md : Rm) (sat : Bool) (w : Word) : Nat :=
  if f == .fp32 || f == .int32 then w.toNat
  else if fmtInt f then
    let i := asInt true 32 w.toNat
    intBits (elemBits f) (if sat then clampInt true (elemBits f) i else i)
  else match elemFloat f with
    | some ff => roundF ff md sat (f32 w)
    | none => w.toNat % 256

/-- The code that `stx` stores in a plain format. -/
def stxCode (f : Fmt) (sat : Bool) (w : Word) : Nat := if f == .fp32 then (toF32 .rn (f32 w)).toNat else plainCode f .rn sat w

/-- The padding of a sheet's scale area: its offset in the sheet and its bytes (R106). -/
def sheetPad (f : Fmt) (g : Geom) : Nat × Nat :=
  let (_, h, n) := sheetShape f g
  (n, h - n)

end Sys2Proof.Machine
end

