-- ==== Sys2Proof/Machine/Approx.lean ====
section
/-! DEFINITION. The bounds of the special functions (R212 Table 7, R295): true values to far more bits than a bound
needs, in integers scaled by 2^fixBits, and the choice of a result inside the bound. A result is the free value
of Config where that lies within the bound, and the correctly rounded value otherwise (log entry 7). -/

namespace Sys2Proof.Machine

def fixBits : Nat := 320
def fixOne : Int := 2 ^ fixBits
def fmul (a b : Int) : Int := a * b / fixOne
def fdiv (a b : Int) : Int := a * fixOne / b

/-- Sum of x^k / k! over odd or even or all k, by terms: `t` is the current term, `k` its index, `st` the step. -/
def expSeries (x2 : Int) (st : Nat) : Nat → Nat → Int → Int
  | 0, _, _ => 0
  | n + 1, k, t =>
    let t1 := fmul t x2 / ((k + 1) * (if st == 2 then k + 2 else 1))
    t + expSeries x2 st n (k + st) t1

/-- e^x, sin x and cos x for small scaled x. -/
def expFix (x : Int) : Int := expSeries x 1 90 0 fixOne
def cosFix (x : Int) : Int := expSeries (-(fmul x x)) 2 90 0 fixOne
def sinFix (x : Int) : Int := expSeries (-(fmul x x)) 2 90 1 x

/-- Sum of s^k z^(2k+1) / (2k+1), s = 1 for atanh and -1 for atan. -/
def atanSeries (z2 : Int) (s : Int) : Nat → Nat → Int → Int
  | 0, _, _ => 0
  | n + 1, k, p => p / (2 * k + 1) + atanSeries z2 s n (k + 1) (s * fmul p z2)

def atanhFix (z : Int) : Int := atanSeries (fmul z z) 1 210 0 z
def atanFix (z : Int) : Int := atanSeries (fmul z z) (-1) 210 0 z

def ln2Fix : Int := 2 * atanhFix (fixOne / 3)
def piFix : Int := 16 * atanFix (fixOne / 5) - 4 * atanFix (fixOne / 239)

/-- A finite value scaled. -/
def toFix : FV → Int
  | .fin s m e =>
    let k : Int := if 0 ≤ e + fixBits then (m : Int) * 2 ^ (e + fixBits).toNat else (m : Int) / 2 ^ (-(e + fixBits)).toNat
    if s then -k else k
  | _ => 0

def ofFix (k : Int) : FV := .fin (decide (k < 0)) k.natAbs (-(fixBits : Int))

/-- The power of two at or below a positive value: floor of log2. -/
def topBit : FV → Int
  | .fin _ m e => (Nat.log2 m : Int) + e
  | _ => 0

/-- `n` units in the last place of an FP32 value near t, and a margin far below that for the error of t. -/
def ulps (n : Nat) (t : FV) : FV :=
  let u : Int := max (topBit t) (-126) - 23
  .fin false (n * 2 ^ 60 + 1) (u - 60)

def absBound (k : Nat) : FV := .fin false (2 ^ 80 + 1) (-(k : Int) - 80)

/-- A result within a bound of the true value. -/
def sfuPick (op : Nat) (a : Word) (t bound : FV) : Word :=
  let c := Config.sfu op a
  let v := f32 c
  if !v.isNan && !v.isInf && cmpV (distV v t) bound != .gt then c else toF32 .rn t

/-- 2^x of a scaled x: integral part in the exponent, the rest by the series. -/
def pow2V (x : Int) : FV :=
  let n := x / fixOne
  let f := x - n * fixOne
  .fin false (expFix (fmul f ln2Fix)).natAbs (n - fixBits)

/-- log2 of a positive value, scaled. -/
def log2Fix (a : FV) : Int :=
  match a with
  | .fin _ m e =>
    let k := Nat.log2 m
    let mant : Int := (m : Int) * fixOne / 2 ^ k
    ((k : Int) + e) * fixOne + fdiv (2 * atanhFix (fdiv (mant - fixOne) (mant + fixOne))) ln2Fix
  | _ => 0

/-- A power of two. -/
def isPow2 : FV → Bool
  | .fin _ m _ => m != 0 && m == 2 ^ Nat.log2 m
  | _ => false

/-- The integer square root: bits of the root from the top, `n` of them. -/
def isqrtGo : Nat → Nat → Nat → Nat
  | 0, _, r => r
  | n + 1, x, r => if (r + 2 ^ n) * (r + 2 ^ n) ≤ x then isqrtGo n x (r + 2 ^ n) else isqrtGo n x r
def isqrt (x : Nat) : Nat := isqrtGo (Nat.log2 x / 2 + 1) x 0

/-- The square root of a positive value with `p` bits and a sticky bit. -/
def sqrtV (m : Nat) (e : Int) (p : Nat) : FV :=
  let m2 := if e % 2 == 0 then m else 2 * m
  let e2 := if e % 2 == 0 then e else e - 1
  let x := m2 * 2 ^ (2 * p)
  let r := isqrt x
  .fin false (2 * r + if r * r == x then 0 else 1) (e2 / 2 - p - 1)

/-- sin or cos of the reduced angle (the reduction modulo 2 pi is exact far below the bound). -/
def sinV (a : FV) : FV := ofFix (sinFix (toFix a - (toFix a / (2 * piFix)) * (2 * piFix) - piFix) * -1)
def cosV (a : FV) : FV := ofFix (cosFix (toFix a - (toFix a / (2 * piFix)) * (2 * piFix) - piFix) * -1)

/-- tanh of a finite value. -/
def tanhV (a : FV) : FV :=
  let x := (toFix a).natAbs
  let e := expFix (-(2 * (x : Int)) / 64)
  let e2 := fmul e e; let e4 := fmul e2 e2; let e8 := fmul e4 e4; let e16 := fmul e8 e8
  let e32 := fmul e16 e16; let e64 := fmul e32 e32
  let t := fdiv (fixOne - e64) (fixOne + e64)
  ofFix (if a.sign then -t else t)

def infW (neg : Bool) : Word := if neg then 0xFF800000 else 0x7F800000
def zeroW (neg : Bool) : Word := if neg then 0x80000000 else 0
def oneW (neg : Bool) : Word := if neg then 0xBF800000 else 0x3F800000

/-- The special functions on a word: Table 7 and Table 8 of R212 and R213. -/
def sfuRcp (a : Word) : Word :=
  match f32 a with
  | .nan => nan32
  | .inf s => zeroW s
  | .fin s m e =>
    if m == 0 || cmpV (.fin false m e) (.fin false 1 (-128)) == .lt then infW s
    else
      let q := quotV s 1 m 300
      let t := scaleV (-e) q
      if isPow2 (.fin s m e) then toF32 .rn t else sfuPick 0x50 a t (ulps 1 t)

def sfuRsq (a : Word) : Word :=
  match f32 a with
  | .nan => nan32
  | .inf s => if s then nan32 else zeroW false
  | .fin s m e =>
    if m == 0 then infW s
    else if s then nan32
    else
      match sqrtV m e 200 with
      | .fin _ r g => let t := scaleV (-g) (quotV false 1 r 500); sfuPick 0x51 a t (ulps 2 t)
      | _ => nan32

def sfuSqrt (a : Word) : Word :=
  match f32 a with
  | .nan => nan32
  | .inf s => if s then nan32 else infW false
  | .fin s m e => if m == 0 then zeroW s else if s then nan32 else toF32 .rn (sqrtV m e 60)

def sfuEx2 (a : Word) : Word :=
  match f32 a with
  | .nan => nan32
  | .inf s => if s then zeroW false else infW false
  | .fin s m e =>
    let v := FV.fin s m e
    if cmpV v (.fin false 128 0) != .lt then infW false
    else if cmpV v (.fin true 150 0) == .lt then zeroW false
    else
      let t := pow2V (toFix v)
      if toFix v % fixOne == 0 && cmpV v (.fin true 149 0) != .lt then toF32 .rn (.fin false 1 (toFix v / fixOne))
      else sfuPick 0x53 a t (ulps 2 t)

def sfuLg2 (a : Word) : Word :=
  match f32 a with
  | .nan => nan32
  | .inf s => if s then nan32 else infW false
  | .fin s m e =>
    let v := FV.fin s m e
    if m == 0 then infW true
    else if s then nan32
    else if isPow2 v then toF32 .rn (ofInt (topBit v))
    else
      let t := ofFix (log2Fix v)
      if cmpV v (.fin false 1 (-1)) != .lt && cmpV v (.fin false 2 0) != .gt then sfuPick 0x54 a t (absBound 22)
      else sfuPick 0x54 a t (ulps 2 t)

def sfuSin (a : Word) : Word :=
  match f32 a with
  | .nan | .inf _ => nan32
  | .fin s m e => if m == 0 then zeroW s else sfuPick 0x55 a (sinV (.fin s m e)) (absBound 21)

def sfuCos (a : Word) : Word :=
  match f32 a with
  | .nan | .inf _ => nan32
  | .fin s m e => if m == 0 then oneW false else sfuPick 0x56 a (cosV (.fin s m e)) (absBound 21)

def sfuTanh (a : Word) : Word :=
  match f32 a with
  | .nan => nan32
  | .inf s => oneW s
  | .fin s m e =>
    if m == 0 then zeroW s
    else if cmpV (.fin false m e) (.fin false 9 0) != .lt then oneW s
    else sfuPick 0x58 a (tanhV (.fin s m e)) (absBound 21)

/-- Entry j of a ROTARY table: within 2^-21 of base^(-2j/D) (R295). -/
def rotaryEntry (base : Word) (d j : Nat) : Word :=
  let t := pow2V (-(log2Fix (f32 base)) * (2 * (j : Int)) / d)
  let c := Config.rotaryTheta base d j
  let v := f32 c
  if !v.isNan && !v.isInf && cmpV (distV v t) (absBound 21) != .gt then c else toF32 .rn t

end Sys2Proof.Machine
end

