-- ==== Sys2Proof/Machine/State.lean ====
section
/-! DEFINITION. The state of the whole device as plain data: groups and their frontiers (02), registers, scratchpad
and tiles (03), the engines' operations (11), the distributor (02, 12, 19), traces (06), queries (07), the memory
system (04, 10, 20, 21), pre-emption and debug (22, 23), the host's side (19) and the management complex (24).
Fields marked M are the model's own; the log entry that explains each is named. -/

namespace Sys2Proof.Machine

open Host

/-! ### Groups -/

/-- A blocking wait (R37) with the operands captured at issue. -/
inductive Wait where
  /-- barrier n, until its phase is not `phase` (R246) -/
  | bar (n phase : Nat)
  /-- `qpush` of these entries, in blocking order `ord` (R250) -/
  | push (n : Nat) (entries : List (List Word)) (ord : Nat)
  /-- `qpop` into d for these lanes -/
  | pop (n : Nat) (d : Reg) (u : Bool) (act : Lanes) (ord : Nat)
  /-- `chainw` on the word at va (R253) -/
  | chain (va : Nat) (w : Word) (ge : Bool) (scope : Scope)
  /-- `tokacq` (R256) -/
  | tok
  /-- `cntwait` on an entry, with its predicate destination (R310) -/
  | cnt (p : BitVec 3) (act : Lanes) (u : Bool) (idx thr : Nat)
  deriving DecidableEq, Repr

/-- One frontier entry (R34). `blk` is BLK with the wait and the instruction's length; `pend` the pending set of a
yielded entry (R40), by the M identity `id`. -/
structure Entry where
  id : Nat
  pc : VA
  mask : Lanes
  prio : Byte
  starve : Half
  yld : Bool
  pend : List Nat
  blk : Option (Wait × Nat)
  deriving DecidableEq, Repr

/-- One lane's part of a global access: the address that it accesses and the memory operand's own address, the element
index of `ldx` and `stx`, its data, and what its translation gave: physical address, key, whether the access is made at
the home port, TSO, ORDSH, and whether the page is tracked. -/
structure LaneAcc where
  lane : Nat
  addr : Nat
  base : Nat
  idx : Nat
  data : List Word
  pa : Nat
  key : Nat
  port : Bool
  tso : Bool
  ordsh : Bool
  trk : Bool
  deriving DecidableEq, Repr

/-- What a per-lane global access does; `u` says that its destination is written as R172 states. -/
inductive MemOp where
  | load (d : Reg) (u : Bool) (sz : Size) (sx home const : Bool)
  | store (sz : Size) (home : Bool)
  | loadx (d : Reg) (u : Bool) (f : Fmt) (g : Geom)
  | storex (f : Fmt) (g : Geom) (sat : Bool)
  | atom (d : Reg) (u : Bool) (op : AOp) (scope : Scope) (ord : AOrd)
  | cas (d : Reg) (u : Bool) (w64 : Bool) (scope : Scope) (ord : AOrd)
  | red (op : AOp) (scope : Scope) (ord : AOrd)
  | reddet (op : AOp) (seq : Nat)
  deriving DecidableEq, Repr

/-- An operand-log entry (R57, R462): the faulted lanes, the lanes whose destination waits, the level at issue. -/
structure OpEntry where
  id : Nat
  pc : VA
  len : Nat
  prio : Byte
  user : Bool
  act : Lanes
  dst : Lanes
  op : MemOp
  lanes : List LaneAcc
  served : Bool
  /-- the cause and the lanes concerned, once it is known that the fault cannot be served -/
  failed : Option (Byte × Lanes)
  /-- resume points of the lanes that return when it has been replayed (R462); none for an entry that the log took at issue -/
  resume : List (Nat × VA × Byte)
  deriving DecidableEq, Repr

/-- An outstanding load or atomic (R244 LD): its accesses, and the old values that an atomic has already read. -/
structure LoadRec where
  op : MemOp
  act : Lanes
  lanes : List LaneAcc
  vals : List (Nat × List Word)
  deriving DecidableEq, Repr

/-- Trap mode (R60 to R62, R462): the handler frontier, the trapped bundle, the priority its entry had, the lanes
that have executed `rti`, the resume points of a replay trap, and the logged instruction it concerns. -/
structure TrapMode where
  hfront : List Entry
  bundle : Lanes
  prio : Byte
  rti : Lanes
  resume : List (Nat × VA × Byte)
  logged : Option OpEntry
  deriving DecidableEq, Repr

/-- A group (R33, R34) with its registers (R67), trap-state CSRs (R63), operand log, outstanding operations and SEQ. -/
structure Group where
  sched : Nat
  slot : Nat
  front : List Entry
  trap : Option TrapMode
  ecause : Byte
  epc : VA
  emask : Lanes
  ebmask : Lanes
  eaddr : VA
  /-- v0 to v511: key 32 x register + lane -/
  v : Map Word
  /-- s0 to s63 -/
  sr : Map Word
  /-- p0 to p6, one bit per lane -/
  pr : Map Lanes
  /-- tokens that are scoreboard-pending (R78) -/
  toks : List Nat
  /-- scalar registers that a later operation named as its token: what an earlier load brings them is not kept (R262, R345). By
  register, the number below which an operation counts as earlier -/
  passed : Map Nat
  oplog : List OpEntry
  loads : Map LoadRec
  /-- store instructions not yet accepted (R244 ST): writes still to be accepted -/
  stores : Map Nat
  seq : Half
  cychi : Word
  /-- the stamp of the writes that the group's reads have returned (04, R97) -/
  seen : List Nat
  /-- registers that hold an uncorrectable error (R409 Table 8): 32 x n + lane for vector register n, 16384 + n for s_n -/
  rbad : List Nat
  /-- M: the group found its instruction unable to issue (an engine wait or the scoreboard); cleared by any step
  that may change that -/
  stall : Bool
  /-- the entry whose instruction waits on a late result: no other is chosen meanwhile (R36) -/
  sel : Option Nat
  /-- the PC exempt from breakpoint matching after a RESUME or STEP (R428) -/
  exempt : Option VA
  /-- M: STEP allows one more issue (R430) -/
  steps : Nat
  deriving DecidableEq, Repr

/-! ### Blocks -/

/-- The hidden tag of a scratchpad word (R80, R248). -/
inductive Tag where
  | bar (n : Nat)
  | queue (n : Nat) (pusher : Option Nat)
  deriving DecidableEq, Repr

/-- A defined tile (R266 Table 2) with its ownership bitmap and read counts (R73). -/
structure Tile where
  base : Nat
  len : Nat
  fmt : Fmt
  geom : Geom
  pitch : Nat
  rows : Nat
  cols : Nat
  own : BitVec 128
  rcnt : Map Nat
  deriving DecidableEq, Repr

/-- A loaded tensor-record slot (R269). -/
structure TRec where
  base : Nat
  rows : Nat
  cols : Nat
  rstride : Nat
  fmt : Fmt
  geom : Geom
  deriving DecidableEq, Repr

/-- A progress register (R282); `op` is M: the operation that it describes. -/
structure Prog where
  op : Nat
  pblk : Nat
  state : Nat
  kdone : Nat
  deriving DecidableEq, Repr

/-- Where a block stands (R421, R426, R414). -/
inductive RunState where
  | running
  /-- stopped by debug, with the dump cause -/
  | stopped
  /-- held under TRAPCTL.HOLD, with the group that trapped, the PC and the bundle -/
  | held (trapped : Option (Nat × VA × Lanes))
  deriving DecidableEq, Repr

/-- A task record (R305 Table 5). -/
structure TaskRec where
  entry : VA
  args : List Word
  scopew : Nat
  blocks : Nat
  nt : Nat
  it : Nat
  dep1c : Nat
  dep1t : Nat
  dep0c : Nat
  dep0t : Nat
  parent : Nat
  prio : Byte
  scratch : Nat
  regs : Nat
  groups : Nat
  accg : Nat
  trw : Bool
  ordered : Bool
  stream : Bool
  det : Bool
  level : Nat
  deriving DecidableEq, Repr

/-- What a task knows of its launch (R49, R134, R222): the record, the blocks that `movs nblocks` reads, whether a B was
fixed, the counter entries of its launch, phase and job, and the scope words of selectors 1 to 4 (R291). -/
structure Origin where
  trec : TaskRec
  nblk : Nat
  launchcnt : Nat
  phasecnt : Nat
  jobcnt : Nat
  scopes : List Nat
  deriving DecidableEq, Repr

/-- A task: one execution of one block (R42). -/
structure Task where
  tenant : Nat
  core : Nat
  launch : Nat
  blk : Nat
  entry : VA
  prio : Byte
  args : List Word
  org : Origin
  ngrp : Nat
  granules : Nat
  scratchSize : Nat
  accRows : Nat
  groups : Map Group
  scratch : Map Byte
  /-- scratchpad words, and accumulator elements by key, that hold an uncorrectable error (R409 Table 8) -/
  sbad : List Nat
  abad0 : List Nat
  abad1 : List Nat
  tags : Map Tag
  tds : Map Tile
  txs : Map TRec
  gens : Map (BitVec 256)
  building : List Nat
  bars : Map Nat
  queues : Map Nat
  qord : Nat
  acc0 : Map Word
  acc1 : Map Word
  prog0 : Prog
  prog1 : Prog
  phases : Word
  run : RunState
  /-- saved out of its core (R414) -/
  saved : Bool
  /-- a precise stop requested, with its cause and breakpoint numbers (R426, R433) -/
  stopReq : Option (Nat × Nat)
  /-- the trace handle and task record of a traced task (R121) -/
  traced : Option (Nat × Nat)
  /-- run by a propagation (R134): it counts for no counter entry -/
  prop : Bool
  /-- created by `spawn` or by a propagation, not by the expansion of its launch -/
  spawned : Bool
  chargedAt : Nat
  faulted : Bool
  deriving DecidableEq, Repr

/-! ### Engine operations -/

/-- What a copy moves (R271 to R273), with the private copies of R263. -/
inductive CopyKind where
  /-- lanes with global address and scratchpad offset -/
  | cpl (sz : Nat) (s2g : Bool) (lanes : List (Nat × Nat × Nat))
  | cpt (s2g : Bool) (td : Nat) (tile : Tile) (tx : TRec) (row col : Nat)
  | cpr (op : AOp) (td : Nat) (tile : Tile) (dst first count : Nat)
  deriving DecidableEq, Repr

/-- A copy in flight: its units not yet done and done, and an ending that only waits to be written. -/
structure CopyOp where
  tid : Nat
  g : Nat
  tok : Nat
  user : Bool
  scope : Scope
  kind : CopyKind
  todo : List Nat
  done : List Nat
  ending : Option Nat
  deriving DecidableEq, Repr

/-- A matrix operand (R278 Table 6) with private copies. -/
structure MOperand where
  kind : Nat
  row0 : Nat
  col0 : Nat
  addr : Nat
  stride : Nat
  fmt : Fmt
  geom : Geom
  td : Nat
  tile : Option Tile
  tx : Option TRec
  gen : BitVec 256
  pro : Option (BitVec 256)
  deriving DecidableEq, Repr

/-- What an operation of a matrix engine's queue does (R280, R285 to R287). -/
inductive MatKind where
  | mul (a b : MOperand) (m n kb arow acol : Nat) (zero : Bool)
  | accld (td : Nat) (tile : Tile) (arow acol : Nat)
  | accst (td : Nat) (tile : Tile) (arow acol : Nat) (md : Rm) (sat : Bool) (ty : Nat)
      (epi : Option (BitVec 256 × Nat × Nat))
  | acczero (arow n : Nat)
  deriving DecidableEq, Repr

/-- One operation in the queue of a matrix engine (R281). `chunks` are the tile chunks it still holds for reading:
descriptor and chunk. -/
structure MatOp where
  id : Nat
  tid : Nat
  g : Nat
  tok : Option Nat
  user : Bool
  kind : MatKind
  scopes : List Nat
  kdone : Nat
  faulted : Bool
  ending : Option Nat
  deriving DecidableEq, Repr

/-- A collective operation of one rank (R296 to R299). -/
structure CollOp where
  tid : Nat
  g : Nat
  tenant : Nat
  tok : Nat
  user : Bool
  slot : Nat
  die : Nat
  addr : Nat
  /-- 0 before its descriptor is read, 1 before its contribution is sent, 2 after -/
  stage : Nat
  comm : Nat
  seqno : Nat
  src : Nat
  dst : Nat
  resid : Nat
  count : Nat
  nrank : Nat
  rank : Nat
  root : Nat
  kind : Nat
  fmt : Fmt
  geom : Geom
  ty : Nat
  timeout : Nat
  started : Nat
  bad : Option Nat
  /-- the elements that this rank sends, decoded (R116) -/
  sent : List Word
  /-- the contributions of other ranks that have arrived: rank, the agreed fields, elements -/
  peers : List (Nat × List Nat × List Word)
  deriving DecidableEq, Repr

/-- What a rank of this module has sent, kept for the other ranks after its own operation has ended (R297). -/
structure CollPart where
  comm : Nat
  seqno : Nat
  rank : Nat
  fields : List Nat
  elems : List Word
  deriving DecidableEq, Repr

/-- A query (R151 to R156). Of a round, `cand` are the expansions whose replies have not arrived, `asked` those that their
engines have not taken, `reps` the replies in the order of the round: triples of id, distance and filter result, and the
status of a failing step. `read` says that the descriptor has been read, `spill` names the 4 KiB frames of the spill region,
`written` that the result stands in memory and only the token is awaited; `denied` are pages that could not be served, so that
the step which needs them fails, and `verSeen` says that the version granule has been read (R163). -/
structure Query where
  tid : Nat
  g : Nat
  tenant : Nat
  tok : Nat
  user : Bool
  slot : Nat
  engine : Nat
  addr : Nat
  job : Nat
  traced : Option (Nat × Nat)
  started : Bool
  cancelled : Bool
  vis : List Word
  beam : List (Word × Word × Bool)
  res : List (Word × Word)
  hops : Nat
  rounds : Nat
  cand : List Word
  asked : List Word
  reps : List (Word × List (Word × Word × Bool) × Option Nat)
  status : Option Nat
  qv : List Word
  hdr : BitVec 512
  graph : Option (BitVec 1280)
  read : Bool
  spill : List Nat
  written : Bool
  denied : List Nat
  verSeen : Bool
  deriving DecidableEq, Repr

/-- An `nnq` that waits for a place of a full engine (R152). -/
structure LevWait where
  engine : Nat
  tid : Nat
  g : Nat
  pc : VA
  deriving DecidableEq, Repr

/-- A cancellation in progress (R316): the entries it marked, and its token. -/
structure CancelOp where
  tenant : Nat
  tok : Option (Nat × Nat × Nat)
  entries : List Nat
  tasks : List Nat
  value : Nat
  status : Nat
  deriving DecidableEq, Repr

/-- A fork in progress (R312, R313). -/
structure ForkOp where
  tenant : Nat
  tid : Nat
  g : Nat
  tok : Nat
  user : Bool
  job : Nat
  addr : Nat
  cancelled : Bool
  deriving DecidableEq, Repr

/-! ### The distributor -/

/-- STATUS of a counter entry in use (R44 Table 7); a FREE entry is not listed. -/
inductive CStat where
  | open | done | cancelled | budget | faulted
  deriving DecidableEq, Repr

/-- A counter entry (R44 Table 7), its scope word (R291), and M: whether a task or child ended FAULTED (R45). -/
structure Counter where
  used : Nat
  budget : Nat
  parent : Nat
  status : CStat
  level : Nat
  target : Nat
  done : Nat
  scopew : Nat
  bad : Bool
  /-- some block of its launches, or of the entries below it, has been dispatched (R319 STARTED) -/
  began : Bool
  deriving DecidableEq, Repr

/-- A launch being expanded (R49, R52, R255 to R258): its place in the order of enqueueing, the next block, B of a STREAM launch, the blocks retired and
published, those whose ends have been counted, the holder of the commit token (its block index; blocks below have
passed it), the horizon, and the tasks ended per block that are not yet counted. -/
structure Launch where
  trec : TaskRec
  ord : Nat
  queue : Nat
  next : Nat
  strB : Option Nat
  retired : List Nat
  published : List Nat
  token : Nat
  horizon : Nat
  ends : Map Nat
  /-- blocks that a task-level cancel dropped before they started -/
  dropped : List Nat
  aborted : Bool
  deriving DecidableEq, Repr

/-- A device queue (R51): launches waiting, the cycle its age counts from, whether a task has been dispatched from it, and
the whole milliseconds by which its priority has risen. -/
structure DevQueue where
  recs : List Nat
  since : Nat
  fired : Bool
  bump : Nat
  deriving DecidableEq, Repr

/-- A task in the spawn store (R464). -/
structure Spawned where
  launch : Nat
  blk : Nat
  entry : VA
  prio : Byte
  args : List Word
  org : Origin
  traced : Option (Nat × Nat)
  prop : Bool
  cancelled : Bool
  deriving DecidableEq, Repr

/-- A context: one tenant on one core (R43): since when it is resident, its hang count (R54), a save or restore under
way, and a SHADOW context switched out of the running half (R413, R414). -/
inductive CtxPhase where
  | resident | saving | saved | restoring | shadow
  deriving DecidableEq, Repr

structure Context where
  since : Nat
  hang : Nat
  phase : CtxPhase
  check : List Cell
  deriving DecidableEq, Repr

/-! ### Traces -/

/-- A write record (R126 Table 4): the granule and its undo value, or in a prior record its prior value. -/
structure WRec where
  gran : Nat
  old : List Byte
  deriving DecidableEq, Repr

/-- A task of a trace (R126 Table 2, R130 Table 7). `rd`, `wr` and `kids` are the recorded sets in record order;
`nrd`, `nkids` and `prior` those of the current re-execution (a granule that it wrote stands in `prior` once, with the value
that it held before). `win` says that the task lies in the window of R135, `rerun`
that this propagation has started it before, `fresh` that it is recorded afresh under R143, `late` that a modification
reached it while RECORDING. -/
structure TTask where
  org : Origin
  label : Nat
  limit : Nat
  site : VA
  entry : VA
  args : List Word
  parent : Nat
  top : Bool
  blk : Nat
  launch : Nat
  state : Nat
  ordv : Bool
  old : Bool
  newt : Bool
  cursor : Nat
  rd : List Nat
  wr : List WRec
  kids : List Nat
  nrd : List Nat
  prior : List WRec
  nkids : List Nat
  lastMatch : Nat
  rerun : Bool
  squashBy : Option Nat
  win : Bool
  prio : Byte
  fresh : Bool
  late : Bool
  /-- it has no record: its parent runs without recording, or the record did not fit (R131) -/
  norec : Bool
  /-- created by the re-execution of its parent now in progress (R136) -/
  born : Bool
  deriving DecidableEq, Repr

/-- A propagation (R133, R134): the token that started it, the propagating job, and the tokens of later `prop`s. -/
structure PropRun where
  tid : Nat
  g : Nat
  tok : Nat
  job : Nat
  root : Nat
  started : Bool
  others : List (Nat × Nat × Nat)
  /-- the propagating job is cancelled (R142) -/
  cancelled : Bool
  deriving DecidableEq, Repr

/-- A trace (R120, R121, R126 Table 1), with the translating root through which its region and its restores are reached. -/
structure Trace where
  base : Nat
  root : Nat
  lg : Nat
  eventide : Nat
  target : Nat
  job : Nat
  tstate : Nat
  part : Option Nat
  ntop : Nat
  gap : Nat
  rootCursor : Nat
  creexec : Nat
  cspliced : Nat
  cdiscard : Nat
  cnew : Nat
  viol : List (Nat × Nat × Nat × Nat)
  tasks : Map TTask
  serial : Nat
  prop : Option PropRun
  rerec : Bool
  /-- M: records to be written to the region, and how many stand there -/
  dirty : Bool
  wrote : Nat
  deriving DecidableEq, Repr

/-- What a core tells the Eventide (TRACE_RECORD): a read, or a first write with the granule's earlier contents. -/
inductive TrEvent where
  | read (handle task gran : Nat)
  | write (handle task gran : Nat) (old : List Byte)
  deriving DecidableEq, Repr

/-! ### The memory system -/

/-- A granule of a TRK page that is stored to: its number, the translating root that it was reached through, and the
trace of the storing task (R121, R132). -/
structure Gran where
  gran : Nat
  root : Nat
  own : Option Nat
  deriving DecidableEq, Repr

/-- A write in flight to a home port (R90): its die, place in the die's order, stamp, physical line and bytes, the key
it is written under, the store instruction it belongs to, the granules of TRK pages that it stores to, and the addresses of
written words that carry an uncorrectable error into their line (R409 Table 8). -/
structure Wr where
  id : Nat
  die : Nat
  seqno : Nat
  stamp : List Nat
  line : Nat
  bytes : Map Byte
  keyid : Nat
  owner : Option (Nat × Nat × Nat)
  tenant : Nat
  grans : List Gran
  err : List Nat
  deriving DecidableEq, Repr

/-- A line of an L1 (R81): bytes filled (none when only written), bytes written (the mask), the cycles of R94, the stamp of the
writes that the filled bytes show, and the written words that hold an uncorrectable error (R409).
L1 lines, constant-cache lines and far-line lines are keyed by 256 x line number + key identifier. -/
structure L1Line where
  fill : List Byte
  dirty : Map Byte
  tfill : Nat
  tdirty : Nat
  keyid : Nat
  tenant : Nat
  grans : List Gran
  stamp : List Nat
  mbad : List Nat
  deriving DecidableEq, Repr

/-- A line of a constant cache (R233) or of a far-line cache (R23), with the stamp of the writes it shows. -/
structure RLine where
  data : List Byte
  stamp : List Nat
  tfill : Nat
  deriving DecidableEq, Repr

/-- An update on its way to a far-line cache (R23). -/
structure FarUpd where
  line : Nat
  bytes : Map Byte
  keyid : Nat
  stamp : List Nat
  origin : Nat
  deriving DecidableEq, Repr

/-- A cached translation (R386): the root and virtual page, its size, the leaf's words, SHR on its path; `host` is the host's
completion for a host-mapped page (R383). -/
structure TlbEntry where
  tenant : Nat
  root : Nat
  vpage : Nat
  bytes : Nat
  w0 : Nat
  w1 : Nat
  shr : Bool
  leaf : Nat
  host : Bool
  deriving DecidableEq, Repr

/-- A non-leaf entry in the walker cache of a die (R386): its address and words, and the range below it. -/
structure NonLeaf where
  tenant : Nat
  at_ : Nat
  w0 : Nat
  w1 : Nat
  lo : Nat
  size : Nat
  deriving DecidableEq, Repr

/-- A change of an arena generation that a core's copy has not received (R396): the generation that it still holds, and the
cycle of the broadcast. -/
structure GenLag where
  tenant : Nat
  job : Nat
  old : Nat
  at_ : Nat
  deriving DecidableEq, Repr

/-- A held or spilled ordered reduction (R257, R258): its key, place, operation and datum, the granules of a TRK page that it
stores to, and `run`: 0 while the line's entry holds it, n + 1 in run n of the spill pool, 2^32 in a run that was dropped
(R259). -/
structure RedOp where
  tenant : Nat
  launch : Nat
  blk : Nat
  seq : Nat
  g : Nat
  lane : Nat
  order : Nat
  pa : Nat
  va : Nat
  keyid : Nat
  op : AOp
  d : Word
  accepted : Bool
  run : Nat
  owner : Option (Nat × Nat × Nat)
  grans : List Gran
  deriving DecidableEq, Repr

/-- A modification record queued at a port (R132). -/
structure ModRec where
  tenant : Nat
  what : Gran
  deriving DecidableEq, Repr

/-- One core: caches, the core TLB and the walk-ahead TLB of its tile walker (R386), the two matrix queues, of each scheduler
the slot that issued last (R36), and the broadcasts of arena generations that have not reached it (R395, R396). -/
structure Core where
  last : Map Nat
  l1 : Map L1Line
  cc : Map RLine
  iw : Map (List Byte)
  tlb : List TlbEntry
  wtlb : List TlbEntry
  lag : List GenLag
  ma0 : List MatOp
  ma1 : List MatOp
  deriving DecidableEq, Repr

/-- One die: its far-line cache and the updates on their way to it, its vector clock (04), and its walker cache (R386). -/
structure Die where
  far : Map RLine
  farq : List FarUpd
  clock : List Nat
  walks : List NonLeaf
  deriving DecidableEq, Repr

/-! ### Faults on their way, and the host's side -/

/-- Who needs a page: an operand-log entry, a copy, a matrix operation, a query, and so on (R371). -/
inductive Needer where
  | log (tid g id : Nat)
  | copy (id : Nat)
  | mat (core : Nat) (eng : Bool) (id : Nat)
  | query (id : Nat)
  | coll (id : Nat)
  | fork (id : Nat)
  | group (tid g : Nat)
  | fetch (tid g : Nat)
  | eventide (handle : Nat)
  /-- a party that has ended while a request of its pages still awaits its answer (R317) -/
  | gone
  deriving DecidableEq, Repr

/-- What serves a fault (R391 Table 6). -/
inductive Service where
  | pri | arena | migrated | share | wpw | request
  deriving DecidableEq, Repr

/-- A need of pages that one service serves (R371, R373): the pages still to be served or requested, the pages of
each page-request group outstanding, and the address of the access that raised it; every page that the need has had (its
instruction replays only as a whole), and the cycle of the fault (R373). -/
structure Need where
  tenant : Nat
  who : Needer
  svc : Service
  write : Bool
  pages : List Nat
  out : Map (List Nat)
  src : Nat
  va : Nat
  all : List Nat
  at_ : Nat
  deriving DecidableEq, Repr

/-- A page request sent to the host (R371), or the Stop Marker of a reset (R376): its PASID where PASIDV is valid, the page, the
group's index, L, and whether it reads and writes. -/
structure PriMsg where
  tenant : Nat
  pasid : Option Nat
  stop : Bool
  page : Nat
  grp : Nat
  last : Bool
  rd : Bool
  wr : Bool
  deriving DecidableEq, Repr

/-- A migration under way (R398): the command's slot, its words, and the step reached. -/
structure MigRun where
  cmd : BitVec 256
  step : Nat
  deriving DecidableEq, Repr

/-- What a sampler follows (R438 to R440): the group, the cycle of the sample point, whether it follows a fetch, and once the
instruction has issued its record with the load that it awaits. -/
structure SampTag where
  tid : Nat
  g : Nat
  at_ : Nat
  fetch : Bool
  note : Option Nat
  load : Option Nat
  deriving DecidableEq, Repr

/-- A sampler (R438): the cycle of its next sample point, the slot that it chose last, and what it follows. -/
structure Sampler where
  next : Nat
  rot : Nat
  tag : Option SampTag
  deriving DecidableEq, Repr

/-- A host's write that stands in a function's queue: of a word of BAR0, or of bytes through BAR2 (R361, R364, R370). -/
inductive HostWrite where
  | reg (off : Nat) (v : Word)
  | mem (off : Nat) (data : List Byte)
  deriving DecidableEq, Repr

/-- A tenant (R364): its CSRs and function registers by number and offset (unlisted ones hold their reset value),
its counter table, launches, queues, spawn store, traces, graph table, arenas and host rings. -/
structure Tenant where
  enabled : Bool
  csr : Map Word
  heldCsr : List (Nat × Word)
  freg : Map Word
  ctr : Map Counter
  launches : Map Launch
  queues : Map DevQueue
  rrq : Nat
  spawns : List Spawned
  traces : Map Trace
  trq : List TrEvent
  graphs : Map (BitVec 1280)
  /-- free 64 KiB frames of the frame store (R392), and free 4 KiB pieces carved from one -/
  frames : List Nat
  pieces : List Nat
  /-- live arena allocations: first granule, job and granules (R395) -/
  arenas : Map (Nat × Nat)
  /-- frames and windows of an arena's job, to be returned (R396) -/
  arenaFrames : List (Nat × Nat)
  gen : Map Nat
  /-- roots of forked jobs (R313, R385) -/
  roots : Map Nat
  /-- share counts above 1 of frames and tables (R394), and the 2 MiB frames whose pieces are counted -/
  shares : Map Nat
  splits : List Nat
  comms : Map (List Word)
  collSeq : Map Nat
  collSent : List CollPart
  hqTail : Map Word
  hqHead : Map Word
  cqTail : Nat
  cqPend : List (BitVec 128)
  /-- the host's PRI allowance A and whether PRI is enabled (an input) -/
  priA : Nat
  /-- the supplied host translations: virtual page, with the PASID above it (`atsKey`), to host bus page with R and W (an input) -/
  ats : Map (Nat × Bool × Bool)
  ctxs : Map Context
  /-- host writes that stand behind a BAR2 write which waits for a write-protect window, that write first (R367, R391) -/
  posted : List HostWrite
  /-- saves into the slot of each core (R416) -/
  saves : Map Nat
  mig : Option MigRun
  /-- a reset under way, and whether an FLR asked for it (R376) -/
  resetting : Bool
  resetFlr : Bool
  /-- the block, by launch and block index, whose dump a debug command awaits (R430) -/
  dbgWait : Option (Nat × Nat)
  /-- blocks that a STOP met before their dispatch -/
  preStop : List (Nat × Nat)
  samplers : Map Sampler
  deriving DecidableEq, Repr

/-- An island that ramps (R442): since when, the spacing of its engines, and how many of the two of each core are enabled. -/
structure Ramp where
  island : Nat
  at_ : Nat
  mspace : Nat
  engines : Nat
  deriving DecidableEq, Repr

/-- The management complex (21, 24): registers by management offset (unlisted ones hold their reset value), the
mailbox, boot, power and flash. -/
structure Mgmt where
  mreg : Map Word
  mbox : Map Word
  /-- 0 before a cold reset; 1 to 5 the step of R441 reached; 6 done -/
  boot : Nat
  /-- cycle at which the latest island began to ramp (R442), and the islands still to start -/
  rampAt : Nat
  ramping : List Ramp
  toStart : List Nat
  /-- the level in force of each island, 1 LOW or 2 FULL (unlisted ones are FULL), those that power control has lowered
  (R445), and those whose latest request was refused (R444) -/
  level : Map Nat
  lowered : List Nat
  refused : List Nat
  /-- module power at the latest measurement -/
  watts : Nat
  /-- the two banks of the module flash (R447) -/
  banks : List (List Byte)
  runBank : Option Nat
  fusedSvn : Nat
  svnIncs : Nat
  /-- stacks that are being trained: the rate asked for (R408, R441) -/
  retrain : Map Nat
  standby : Bool
  deriving DecidableEq, Repr

/-- Something that holds an uncorrectable error from now on (R31, R409 Table 8): a scratchpad word, a register (as `Group.rbad`
numbers them), an accumulator element, a written word of an L1 line, the state of a query. -/
inductive Upset where
  | scratch (tid a : Nat)
  | reg (tid g n : Nat)
  | acc (tid : Nat) (engine : Bool) (k : Nat)
  | line (core key a : Nat)
  | query (id : Nat)
  deriving DecidableEq, Repr

/-- M: one turn of the script that chooses what happens next (log entry 1). -/
inductive Turn where
  /-- an event of the table, or a host's act -/
  | ev (i : Instr)
  /-- the named group issues -/
  | issue (tid g : Nat)
  /-- the named group's instruction waits on a late result (R36) -/
  | late (tid g : Nat)
  /-- a host's store to its own memory -/
  | hostMem (a : Nat) (bs : List Byte)
  /-- the host's translation of a virtual page of a tenant under a PASID changes: bus page, R and W, or none -/
  | ats (tenant : Nat) (pasid : Option Nat) (vpage : Nat) (page : Option (Nat × Bool × Bool))
  /-- the host's allowance of page requests changes (R371) -/
  | priAllow (tenant a : Nat)
  /-- an island fails to start (R441) -/
  | islandFail (i : Nat)
  /-- the contribution of a rank of another module to a collective arrives (R296) -/
  | peer (id rank : Nat) (fields : List Nat) (elems : List Word)
  /-- the host reads n bytes at an offset of a register space (R364, R365, R369, R446) -/
  | hostLoad (sp : RegSpace) (off n : Nat)
  /-- accesses of the management complex to a range of host memory fail from now on (R446) -/
  | hostFails (a n : Nat)
  /-- an uncorrectable error arises -/
  | upset (u : Upset)
  /-- a TLB of a core (its tile walker's, or its own), or the walker cache of a die, loses an entry (R386: sizes are open) -/
  | tlbEvict (c : Nat) (tile : Bool) (n : Nat)
  | walkEvict (d n : Nat)
  /-- a broadcast of an arena's generation reaches a core (R396) -/
  | genArrive (c t job : Nat)
  /-- the engine clears the entries of a granule of an arena that has ended (R396) -/
  | arenaClear (t root va : Nat)
  deriving DecidableEq, Repr

/-- The device. -/
structure State where
  /-- M: turns to take before the default schedule goes on (log entry 1) -/
  script : List Turn
  /-- M: the group and task whose instruction a meaning acts for -/
  cur : Option (Nat × Nat)
  /-- device cycle count (R7) -/
  cycle : Nat
  /-- M: serial number for tasks, operations and entries -/
  serial : Nat
  /-- M: the free-value counter (log entry 9) -/
  fresh : Nat
  /-- M: the group that issued last -/
  last : Nat × Nat
  /-- disabled cores of a KX9-1024 (R26); none on a KX9-1152 -/
  disabled : List Nat
  tasks : Map Task
  tens : Map Tenant
  rrTen : Nat
  cores : Map Core
  dies : Map Die
  /-- main memory and capacity tier, by physical address, as plaintext under the key of its last write -/
  mem : List Cell
  /-- key epoch of each 16-byte unit's last write (R86) -/
  ukey : Map Nat
  /-- current epoch of each key identifier (R374), and the latest epoch drawn -/
  kepoch : Map Nat
  epochs : Nat
  /-- stamp of the writes applied to a line -/
  lstamp : Map (List Nat)
  /-- uncorrectable lines: 128-byte line numbers (R409) -/
  bad : List Nat
  wq : List Wr
  reds : List RedOp
  modq : List ModRec
  copies : Map CopyOp
  colls : Map CollOp
  queries : Map Query
  /-- packets that wait for a place of a full Levanter engine, in the order in which they reached it (R152) -/
  levq : List LevWait
  cancels : Map CancelOp
  forks : Map ForkOp
  needs : Map Need
  hostMem : List Cell
  /-- ranges of host memory in which an access of the management complex fails (an input) -/
  hostBad : List (Nat × Nat)
  /-- page requests sent to the host -/
  pri : List PriMsg
  /-- M: what the host's latest read of the device returned -/
  hostRead : List Byte
  msi : List (Nat × Nat)
  /-- regions of memory whose contents a mapping change left open, with a serial number (R403) -/
  remapped : Map Nat
  /-- 64 KiB frames whose contents an arena left unspecified, with a serial number (R315) -/
  loose : Map Nat
  /-- images of MIGRATED pages in the capacity tier: 4 KiB page number there, and bytes (R382, R398) -/
  images : Map Nat
  /-- capacity-tier frames that DIRECT commands have filled (R398), likewise -/
  direct : Map Nat
  mgmt : Mgmt
  deriving DecidableEq, Repr

/-! ### Reset -/

/-- A register with a reset value that is not 0: CTXMODE, FAIRT, HANGT (R41), PQUANT (R410), SMPER (R425) and DEVINFO
(R27). -/
def csrReset (c : Nat) : Word :=
  match c with
  | 0x020 => 3
  | 0x021 => 0x100
  | 0x022 => 0x1A
  | 0x051 => 0x33F
  | 0x085 => 0x10000
  | _ => 0

/-- Row i of the recommended matrix (R406 Table 9). -/
def matrixRow (i : Nat) : Nat :=
  match i with
  | 0 => 1 | 1 => 2 | 2 => 4
  | 3 => 0x10000 | 4 => 0x20000 | 5 => 8 | 6 => 0x10
  | 15 => 0x120 | 16 => 0x240 | 17 => 0x480
  | n => if n < 15 then 2 ^ (n + 1) else 2 ^ n

/-- Reset values of the management registers (R402 Table 3, R442, R443). -/
def mregReset (o : Nat) : Word :=
  if 0x100 ≤ o ∧ o < 0x900 then BitVec.ofNat 32 (matrixRow ((o - 0x100) / 4 % 32))
  else if 0xB00 ≤ o ∧ o < 0xB20 then 0x400
  else if o = 0xC40 then 0x5A0
  else if o = 0xD00 then 0x400006A4
  else if 0xD40 ≤ o ∧ o < 0xDA0 then 2
  else 0

def Tenant.reset (enabled : Bool) : Tenant :=
  { enabled := enabled, csr := [], heldCsr := [], freg := [], ctr := [], launches := [], queues := [], rrq := 0,
    spawns := [], traces := [], trq := [], graphs := [], frames := [], pieces := [], arenas := [], arenaFrames := [],
    gen := [], roots := [], shares := [], splits := [], comms := [], collSeq := [], collSent := [], hqTail := [], hqHead := [], cqTail := 0,
    cqPend := [], priA := 0, ats := [], ctxs := [], posted := [], saves := [], mig := none, resetting := false, resetFlr := false,
    dbgWait := none, preStop := [], samplers := [] }

def Core.reset : Core := { last := [], l1 := [], cc := [], iw := [], tlb := [], wtlb := [], lag := [], ma0 := [], ma1 := [] }
def Die.reset : Die := { far := [], farq := [], clock := [0, 0, 0, 0], walks := [] }

def Mgmt.reset : Mgmt :=
  { mreg := [], mbox := [], boot := 0, rampAt := 0, ramping := [], toStart := [], level := [], lowered := [],
    refused := [], watts := 0, banks := [[], []], runBank := none, fusedSvn := 0, svnIncs := 0, retrain := [],
    standby := false }

/-- A new entry. -/
def Entry.new (id : Nat) (pc : VA) (mask : Lanes) (prio : Byte) : Entry :=
  { id := id, pc := pc, mask := mask, prio := prio, starve := 0, yld := false, pend := [], blk := none }

/-- A group at its start (R69, R192): all 32 lanes at the entry PC, every register 0. -/
def Group.start (sched slot id : Nat) (pc : VA) (prio : Byte) : Group :=
  { sched := sched, slot := slot, front := [Entry.new id pc 0xFFFFFFFF prio], trap := none, ecause := 0, epc := 0,
    emask := 0, ebmask := 0, eaddr := 0, v := [], sr := [], pr := [], toks := [], oplog := [], loads := [],
    stores := [], passed := [], seq := 0, cychi := 0, seen := [0, 0, 0, 0], rbad := [], stall := false, sel := none, exempt := none, steps := 0 }

def Prog.idle : Prog := ⟨0, 0, 0, 0⟩

/-- The record of a launch of one block of one group, and a task's view of it. -/
def TaskRec.blank : TaskRec :=
  { entry := 0, args := [0, 0, 0, 0], scopew := 0, blocks := 1, nt := 0, it := 0, dep1c := 0, dep1t := 0, dep0c := 0,
    dep0t := 0, parent := 0, prio := 0, scratch := 0, regs := 0, groups := 0, accg := 0, trw := false, ordered := false,
    stream := false, det := false, level := 1 }
def Origin.blank : Origin := { trec := TaskRec.blank, nblk := 1, launchcnt := 0, phasecnt := 0, jobcnt := 0, scopes := [] }

/-- A task at its start (R69, R71). -/
def Task.start (tenant core launch blk : Nat) (entry : VA) (prio : Byte) (args : List Word) (org : Origin)
    (ngrp granules scratch acc : Nat) : Task :=
  { tenant := tenant, core := core, launch := launch, blk := blk, entry := entry, prio := prio, args := args, org := org,
    ngrp := ngrp, granules := granules, scratchSize := scratch, accRows := acc, groups := [], scratch := [], sbad := [], abad0 := [], abad1 := [],
    tags := [], tds := [], txs := [], gens := [], building := [], bars := [], queues := [], qord := 0, acc0 := [],
    acc1 := [], prog0 := Prog.idle, prog1 := Prog.idle, phases := 0, run := .running, saved := false, stopReq := none,
    traced := none, prop := false, spawned := false, chargedAt := 0, faulted := false }

/-- The device right at power-on, before the cold reset sequence of R441: every register at its reset value, every
island OFF, no tenant but the physical function, no work, nothing listed in memory. -/
def State.reset : State :=
  { script := [], cur := none, cycle := 0, serial := 0, fresh := 0, last := (0, 0), disabled := [], tasks := [],
    tens := [(0, Tenant.reset true)], rrTen := 0, cores := [], dies := [], mem := [], ukey := [], kepoch := [],
    epochs := 0, lstamp := [], bad := [], wq := [], reds := [], modq := [], copies := [], colls := [], queries := [], levq := [],
    cancels := [], forks := [], needs := [], hostMem := [], hostBad := [], pri := [], hostRead := [], msi := [], remapped := [], loose := [], images := [], direct := [],
    mgmt := Mgmt.reset }

/-! ### How a step may stop -/

/-- Why the machine stops. -/
inductive Fault where
  /-- A meaning is asked to act for a group that does not exist or has no selected entry. Raised by every per-lane and
  group-level instruction; no step raises it, because a step selects the entry first. Safe. -/
  | noBundle
  deriving DecidableEq, Repr

/-- Why an instruction has no meaning. -/
inductive Refusal where
  /-- Not modelled yet. Raised by an arm of exec whose instruction has no meaning. Safe. -/
  | notModelled (mnemonic : String)
  deriving DecidableEq, Repr

end Sys2Proof.Machine
end

