-- ==== Sys2Proof/Machine/Mem.lean ====
section
/-! DEFINITION. Memory at its home: the line mapping (R400, R401, R404, R460), bytes under keys (R86, R374),
uncorrectable lines (R409), and little-endian access to physical and host memory. A physical address below 2^39 is an
HBM address; `tierBase` + a is capacity-tier address a; `hostBase` + a is host bus address a. -/

namespace Sys2Proof.Machine

open Host

def tierBase : Nat := 2 ^ 40
def hostBase : Nat := 2 ^ 48
def lineBytes : Nat := 128

/-- Bits lo + n - 1 to lo of a number. -/
def nb (w lo n : Nat) : Nat := w / 2 ^ lo % 2 ^ n

/-- Parity of the bits of a 32-bit number. -/
def parity (x : Nat) : Bool := (List.range 32).foldl (fun p i => p != (x / 2 ^ i % 2 == 1)) false

/-- A management register by offset, with its reset value where it was never written. -/
def mregGet (s : State) (o : Nat) : Word := mgetD (mregReset o) s.mgmt.mreg o

/-- Row i of the matrix in force for region r (R401, R402). -/
def matRow (s : State) (r i : Nat) : Nat := (mregGet s (0x100 + 128 * r + 4 * i)).toNat

/-- Bit i of the location vector of a physical address (R400, R401). -/
def locBit (s : State) (pa i : Nat) : Bool := parity (matRow s (nb pa 35 4) i &&& nb pa 7 32)

/-- The location vector. -/
def locVec (s : State) (pa : Nat) : Nat :=
  (List.range 32).foldl (fun o i => if locBit s pa i then o + 2 ^ i else o) 0

/-- The home stack of an HBM line (R404). -/
def homeStack (s : State) (pa : Nat) : Nat := nb (locVec s pa) 15 3

/-- The capacity of a CXL port; both together hold at most 4 TiB (R362). -/
def cxlCap (port : Nat) : Nat :=
  let c0 := min (Config.cxlCapacity 0) (2 ^ 42)
  if port = 0 then c0 else min (Config.cxlCapacity 1) (2 ^ 42 - c0)

/-- The home die of a line (R404, R460); host memory is reached over the link of die 0. -/
def homeDie (s : State) (pa : Nat) : Nat :=
  if hostBase ≤ pa then 0
  else if tierBase ≤ pa then (if pa - tierBase < cxlCap 0 then 0 else 3)
  else homeStack s pa / 2

/-- The key epoch of an identifier (R374). -/
def keyEpoch (s : State) (k : Nat) : Nat := mgetD 0 s.kepoch k

/-- The plaintext byte stored at an address; 0 where nothing is listed (log entry 5). -/
def rawByte (s : State) (pa : Nat) : Byte := mgetD 0 s.mem pa

/-- The plaintext of a 16-byte unit. -/
def rawUnit (s : State) (u : Nat) : List Byte := (List.range 16).map (fun i => rawByte s (16 * u + i))

/-- The two keys of an epoch. -/
def xtsKeys (e : Nat) : List Byte := (List.range 64).map (Config.xtsKey e)

/-- A 16-byte unit stored under one epoch's keys and read under another's: the data unit is the 128-byte line, and the tweak
is bits 38:7 of its address (R86, R374). -/
def recrypt (e e1 u : Nat) (bs : List Byte) : List Byte :=
  xtsDec (xtsKeys e1) (u / 8 % 2 ^ 32) (u % 8) (xtsEnc (xtsKeys e) (u / 8 % 2 ^ 32) (u % 8) bs)

/-- One byte of HBM or of the capacity tier read under a key (R86): what the last write under the same key left, the
decryption of what a write under another key left, and for a unit not written since its location changed hands an
unspecified byte (R403, R315); a unit that was never written reads 0 (log entry 5). -/
def readByte (s : State) (k pa : Nat) : Byte :=
  let u := pa / 16
  match mget s.ukey u with
  | some e => if e = keyEpoch s k then rawByte s pa
              else (recrypt e (keyEpoch s k) u (rawUnit s u)).getD (pa % 16) 0
  | none =>
    match (mget s.loose (pa / 2 ^ 16)).orElse (fun _ => mget s.remapped (pa / 2 ^ 35)) with
    | some n => Config.remapped n pa
    | none => 0

/-- The canonical form of a memory: addresses rise, and no byte is listed that reads as one that is not listed does. -/
def Memory.wf (m : List Cell) : Bool := mapOkD (0 : Byte) m

/-- The memory with one plaintext byte set, in canonical form. -/
def putByte (m : List Cell) (pa : Nat) (b : Byte) : List Cell := mputD (0 : Byte) m pa b

/-- One byte written under a key. The unit is then wholly under that key: its other bytes become what a read under
the key gave before. -/
def writeByte (s : State) (k pa : Nat) (b : Byte) : State :=
  let u := pa / 16
  if mget s.ukey u = some (keyEpoch s k) then { s with mem := putByte s.mem pa b }
  else
    let m := (List.range 16).foldl (fun m i => putByte m (16 * u + i) (readByte s k (16 * u + i))) s.mem
    { s with mem := putByte m pa b, ukey := mput s.ukey u (keyEpoch s k) }

/-- Host memory. -/
def readHost (s : State) (a : Nat) : Byte := mgetD 0 s.hostMem a
def writeHost (s : State) (a : Nat) (b : Byte) : State := { s with hostMem := putByte s.hostMem a b }

/-- One byte at any physical place. -/
def readPa (s : State) (k pa : Nat) : Byte := if hostBase ≤ pa then readHost s (pa - hostBase) else readByte s k pa
def writePa (s : State) (k pa : Nat) (b : Byte) : State :=
  if hostBase ≤ pa then writeHost s (pa - hostBase) b else writeByte s k pa b

/-- n bytes from an address, and a list of bytes written from an address. -/
def readPas (s : State) (k pa n : Nat) : List Byte := (List.range n).map (fun i => readPa s k (pa + i))
def writePas (s : State) (k : Nat) : Nat → List Byte → State
  | _, [] => s
  | pa, b :: bs => writePas (writePa s k pa b) k (pa + 1) bs

/-- A line, or for a capacity-tier frame a 64-byte block, holds an uncorrectable error (R409 Table 8). The list holds
64-byte block numbers. -/
def blockBad (s : State) (pa : Nat) : Bool := s.bad.contains (pa / 64)

/-- The protected unit of an address takes an uncorrectable error: both halves of an HBM line, or a tier block. Host memory is
not the device's. -/
def markBad (s : State) (pa : Nat) : State :=
  if hostBase ≤ pa || blockBad s pa then s
  else { s with bad := s.bad ++ (if tierBase ≤ pa then [pa / 64] else [pa / 128 * 2, pa / 128 * 2 + 1]) }

/-- The bytes of the protected unit of an address: the 128-byte line in HBM, the 64-byte block in the tier. -/
def unitBase (pa : Nat) : Nat := if tierBase ≤ pa then pa / 64 * 64 else pa / 128 * 128
def unitSize (pa : Nat) : Nat := if tierBase ≤ pa then 64 else 128

/-- Whether a set of bytes covers the whole protected unit of an address. -/
def coversUnit (bytes : Map Byte) (pa : Nat) : Bool :=
  (List.range (unitSize pa)).all (fun i => (mget bytes (unitBase pa + i)).isSome)

/-- A write applied at its home port, byte by byte; the bytes that fall in an uncorrectable unit which the write does
not cover whole are discarded, and a unit covered whole loses its error (R409). -/
def applyBytes (s : State) (k : Nat) (bytes : Map Byte) : State :=
  let s1 := bytes.foldl (fun s p =>
    if blockBad s p.1 && !coversUnit bytes p.1 then s else writePa s k p.1 p.2) s
  { s1 with bad := s1.bad.filter (fun b => !coversUnit bytes (64 * b)) }

/-- A number in little-endian bytes at a physical address. -/
def readNum (s : State) (k pa n : Nat) : Nat := leNat (readPas s k pa n)
def writeNum (s : State) (k pa n w : Nat) : State := writePas s k pa (leBytes n w)

end Sys2Proof.Machine
end

