-- ==== Sys2Proof/Machine/Translate.lean ====
section
/-! DEFINITION. Translation (R378 to R391): the page-table walk, malformed entries, permissions, A and D bits, the TLB
of a core, the translating root of a job, and which party serves a fault. -/

namespace Sys2Proof.Machine

/-! ### Tenants, CSRs, jobs -/

def tenant (s : State) (t : Nat) : Tenant := mgetD (Tenant.reset false) s.tens t
def setTenant (s : State) (t : Nat) (x : Tenant) : State := { s with tens := mput s.tens t x }
def modTenant (s : State) (t : Nat) (f : Tenant → Tenant) : State := setTenant s t (f (tenant s t))

/-- A CSR of a tenant as stored; one never written holds its reset value. -/
def csrGet (s : State) (t c : Nat) : Word := mgetD (csrReset c) (tenant s t).csr c
def csrSet (s : State) (t c : Nat) (w : Word) : State :=
  modTenant s t (fun x => { x with csr := mputD (csrReset c) x.csr c w })
/-- A function register of a tenant by BAR0 offset (R364 Table 1). -/
def fregGet (s : State) (t o : Nat) : Word := mgetD 0 (tenant s t).freg o
def fregSet (s : State) (t o : Nat) (w : Word) : State :=
  modTenant s t (fun x => { x with freg := mputD 0 x.freg o w })

/-- The address in a LO and a HI CSR: LO bits 31:n and HI bits 24:0 (R385, R412, R421). -/
def csrAddr (s : State) (t c n : Nat) : Nat :=
  (csrGet s t c).toNat / 2 ^ n * 2 ^ n + 2 ^ 32 * nb (csrGet s t (c + 1)).toNat 0 25

/-- A counter entry; none where it is FREE. -/
def counter (s : State) (t i : Nat) : Option Counter := if i = 0 then none else mget (tenant s t).ctr i

/-- The PARENT chain of an entry, the entry itself first; `n` bounds its length (a chain has at most 4,095 entries). -/
def chainFrom (s : State) (t : Nat) : Nat → Nat → List Nat
  | 0, _ => []
  | n + 1, i =>
    match counter s t i with
    | none => []
    | some c => i :: chainFrom s t n c.parent

def chainOf (s : State) (t i : Nat) : List Nat := chainFrom s t 4096 i

/-- The nearest entry of a level on the chain of an entry; 0 when there is none. -/
def levelAbove (s : State) (t i level : Nat) : Nat :=
  ((chainOf s t i).find? (fun j => (counter s t j).any (fun c => c.level == level))).getD 0

/-- The enclosing job of an entry (R44 Table 6: level 4). -/
def jobOf (s : State) (t i : Nat) : Nat := levelAbove s t i 4

/-- The tenant root (R385). -/
def tenantRoot (s : State) (t : Nat) : Nat :=
  (csrGet s t 0x040).toNat / 2 ^ 13 * 2 ^ 13 + 2 ^ 32 * nb (csrGet s t 0x041).toNat 0 7

/-- The root of the nearest job on the chain that `fork` created, else the tenant root (R385). -/
def rootOfEntry (s : State) (t i : Nat) : Nat :=
  match (chainOf s t i).find? (fun j => (mget (tenant s t).roots j).isSome) with
  | some j => mgetD 0 (tenant s t).roots j
  | none => tenantRoot s t

/-- The key identifier under which tables are read and written (R385: TBASEHI.TKEY). -/
def tableKey (s : State) (t : Nat) : Nat := nb (csrGet s t 0x041).toNat 24 8

/-- Whether a tenant owns a key identifier (R374); identifier 0 belongs to the management complex. -/
def ownsKey (s : State) (t k : Nat) : Bool :=
  let w := (fregGet s 0 (0x40000 + 4 * k)).toNat
  k != 0 && nb w 7 1 == 1 && nb w 0 4 == t

/-- The default identifier of a tenant (R374); 0 when it has none. -/
def defaultKey (s : State) (t : Nat) : Nat :=
  (firstKey (fun k => ownsKey s t k && nb (fregGet s 0 (0x40000 + 4 * k)).toNat 6 1 == 1) 255 1).getD 0

/-! ### The walk -/

/-- A translation: the leaf's words and address, the bytes it maps, and whether the path had SHR = 1. -/
structure Xl where
  w0 : Nat
  w1 : Nat
  leaf : Nat
  bytes : Nat
  shr : Bool
  host : Bool
  deriving DecidableEq, Repr

/-- Where a walk ends. -/
inductive Walk where
  | leaf (x : Xl)
  | malformed
  /-- the tenant does not own TBASEHI.TKEY, under which its tables are read (R374, R385) -/
  | denied
  /-- V = 0: the kind NPK, the entry's words and its address, and SHR on the path (R382) -/
  | absent (npk : Nat) (w0 w1 addr : Nat) (shr : Bool)
  | host (w0 w1 : Nat)
  deriving DecidableEq, Repr

/-- Bytes that a leaf with a page size code maps (R379). -/
def pageBytes (ps : Nat) : Nat :=
  match ps with
  | 0 => 2 ^ 12
  | 1 => 2 ^ 16
  | 2 => 2 ^ 21
  | _ => 2 ^ 30

/-- The page size codes of a level (R378 Table 1). -/
def psAllowed (level ps : Nat) : Bool :=
  match level with
  | 0 => ps == 0 || ps == 1
  | 1 => ps == 2
  | 2 => ps == 3
  | _ => false

/-- PLACE and PSEL as R380 allows them. -/
def placeOk (place psel : Nat) : Bool :=
  match place with
  | 0 => psel == 0
  | 1 => decide (psel < 4)
  | 2 => true
  | _ => false

/-- R381 for a leaf. -/
def leafOk (level w0 w1 : Nat) : Bool :=
  let ps := nb w0 2 2
  let addr := w0 / 2 ^ 12 * 2 ^ 12
  psAllowed level ps && nb w0 10 2 == 0 && nb w1 0 9 == 0 && addr % pageBytes ps == 0 &&
  placeOk (nb w1 23 2) (nb w1 25 3) && (nb w1 14 1 == 0 || nb w0 5 1 == 1) &&
  (if nb w1 15 1 == 0 then decide (addr + pageBytes ps ≤ 2 ^ 39)
   else nb w1 23 2 == 0 && decide (addr + pageBytes ps ≤ cxlCap 0 + cxlCap 1))

/-- R381 for a non-leaf entry that is not host-mapped: a table is aligned to its 8 KiB (R378). -/
def tableOk (level w0 w1 : Nat) : Bool :=
  level != 0 && nb w0 2 8 == 0 && nb w0 11 1 == 0 && nb w0 12 1 == 0 && w1 == 0 &&
  decide (w0 / 2 ^ 12 * 2 ^ 12 < 2 ^ 39)

/-- R379, R383 for a host-mapped L4 entry: no field of a leaf but S and X, ADDR 0, and PLACE, PSEL, KEYID, AGEN, ARENA, TIER, COW, WPW 0. -/
def hostOk (w0 w1 : Nat) : Bool :=
  w0 / 2 ^ 12 == 0 && nb w0 2 4 == 0 && nb w0 8 2 == 0 && nb w1 0 9 == 0 && nb w1 13 3 == 0 && nb w1 23 41 == 0

/-- The words of an entry at its home. -/
def entryWords (s : State) (tk a : Nat) : Nat × Nat := (readNum s tk a 8, readNum s tk (a + 8) 8)

/-- The walk from a table at a level (R378, R386), by the entries that `look` gives: `n` counts levels left, level n - 1 next. -/
def walkFrom (look : Nat → Nat × Nat) (va : Nat) : Nat → Nat → Bool → Walk
  | 0, _, _ => .malformed
  | n + 1, table, shr =>
    let a := table + 16 * nb va (12 + 9 * n) 9
    let w0 := (look a).1
    let w1 := (look a).2
    if nb w0 0 1 == 0 then .absent (nb w0 1 3) w0 w1 a shr
    else if nb w0 1 1 == 1 then
      if leafOk n w0 w1 then .leaf { w0 := w0, w1 := w1, leaf := a, bytes := pageBytes (nb w0 2 2), shr := shr, host := false }
      else .malformed
    else if n == 4 && nb w0 11 1 == 1 then (if hostOk w0 w1 then .host w0 w1 else .malformed)
    else if tableOk n w0 w1 then walkFrom look va n (w0 / 2 ^ 12 * 2 ^ 12) (shr || nb w0 10 1 == 1)
    else .malformed

/-- The walk afresh (R388): every entry as it stands at its home. -/
def walk (s : State) (t root va : Nat) : Walk :=
  if ownsKey s t (tableKey s t) then walkFrom (entryWords s (tableKey s t)) va 5 root false else .denied

/-- A core is numbered 144 x cluster + 12 y + x (R412); its cluster and its die. -/
def clusterOf (c : Nat) : Nat := c / 144
def dieOf (c : Nat) : Nat := c / 288

def core (s : State) (c : Nat) : Core := mgetD Core.reset s.cores c
def setCore (s : State) (c : Nat) (x : Core) : State := { s with cores := mputD Core.reset s.cores c x }
def die (s : State) (d : Nat) : Die := mgetD Die.reset s.dies d
def setDie (s : State) (d : Nat) (x : Die) : State := { s with dies := mputD Die.reset s.dies d x }

/-- An entry as a die's walkers see it: from the walker cache, which holds non-leaf entries, else from its home (R386, R390). -/
def dieWords (s : State) (d t va a : Nat) : Nat × Nat :=
  match (die s d).walks.find? (fun e => e.tenant == t && e.at_ == a && e.lo == va / e.size * e.size) with
  | some e => (e.w0, e.w1)
  | none => entryWords s (tableKey s t) a

/-- The walk through a die's walker cache. -/
def walkDie (s : State) (d t root va : Nat) : Walk :=
  if ownsKey s t (tableKey s t) then walkFrom (dieWords s d t va) va 5 root false else .denied

/-- The non-leaf entries that such a walk passes. -/
def nodesFrom (look : Nat → Nat × Nat) (t va : Nat) : Nat → Nat → List NonLeaf
  | 0, _ => []
  | n + 1, table =>
    let a := table + 16 * nb va (12 + 9 * n) 9
    let w0 := (look a).1
    let w1 := (look a).2
    let size := 2 ^ (12 + 9 * n)
    if nb w0 0 2 == 1 && !(n == 4 && nb w0 11 1 == 1) then
      { tenant := t, at_ := a, w0 := w0, w1 := w1, lo := va / size * size, size := size } ::
        nodesFrom look t va n (w0 / 2 ^ 12 * 2 ^ 12)
    else []

/-- Non-leaf entries kept by a die's walkers. -/
def keepNodes (s : State) (d : Nat) (ns : List NonLeaf) : State :=
  let x := die s d
  setDie s d { x with walks := ns.filter (fun e => !x.walks.contains e) ++ x.walks }

/-! ### Access -/

/-- What an access wants of a page. -/
structure Want where
  r : Bool
  w : Bool
  x : Bool
  user : Bool
  deriving DecidableEq, Repr

/-- How an access to a page ends: a physical address with the leaf's words; a fault that the named service may serve;
or a fault that cannot be served, with its cause. -/
inductive Acc where
  | ok (pa : Nat) (x : Xl)
  | serve (v : Service)
  | fail (cause : Byte)
  deriving DecidableEq, Repr

def causePage : Byte := 0x09
def causeProt : Byte := 0x0A
def causeFmt : Byte := 0x0B

/-- A fault of a page that cannot be served: a status of `nngraph` and of a query, where other instructions trap (R463). -/
def pageCause (c : Byte) : Bool := c == causePage || c == causeProt

/-- R384: permissions of a leaf. -/
def permOk (w : Want) (w0 : Nat) : Bool :=
  (!w.r || nb w0 4 1 == 1) && (!w.w || nb w0 5 1 == 1) && (!w.x || nb w0 6 1 == 1) && (!w.user || nb w0 7 1 == 0)

/-- Who translates (R386): a party without a TLB of its own, a core's lanes and fetches through the core TLB, or the engines of
a core through its tile walker. -/
inductive Via where
  | fresh
  | core (c : Nat)
  | tile (c : Nat)
  deriving DecidableEq, Repr

/-- The core of a translation. -/
def Via.at : Via → Option Nat
  | .fresh => none
  | .core c => some c
  | .tile c => some c

/-- The current generation of a job's arena (R395). -/
def arenaGen (s : State) (t j : Nat) : Nat := mgetD 0 (tenant s t).gen j

/-- The generation that a translation is compared with: the core's copy (R395, R396). -/
def genSeen (s : State) (v : Via) (t j : Nat) : Nat :=
  match v.at.bind (fun c => (core s c).lag.find? (fun l => l.tenant == t && l.job == j)) with
  | some l => l.old
  | none => arenaGen s t j

/-- R391 on a leaf: permissions, key ownership, generation, the write-protect window, sharing. -/
def judgeLeaf (s : State) (v : Via) (t va : Nat) (w : Want) (x : Xl) : Acc :=
  let arena := nb x.w1 36 12
  if !permOk w x.w0 then .fail causeProt
  else if !x.host && !ownsKey s t (nb x.w1 28 8) then .fail causeProt
  else if nb x.w1 9 2 == 3 then .fail causeProt
  else if arena != 0 && nb x.w1 48 16 != genSeen s v t arena then .fail causePage
  else if w.w && nb x.w1 13 1 == 1 then .serve .wpw
  else if w.w && (nb x.w1 14 1 == 1 || x.shr) then .serve .share
  else
    let base := x.w0 / 2 ^ 12 * 2 ^ 12 + va % x.bytes
    .ok (if x.host then hostBase + base else if nb x.w1 15 1 == 1 then tierBase + base else base) x

/-- The fault region is enabled (R373). -/
def regionOn (s : State) (t : Nat) : Bool :=
  let z := nb (fregGet s t 0x208).toNat 0 5
  decide (6 ≤ z) && decide (z ≤ 16)

/-- The PASID under which a function translates host-mapped pages (R364, R371, R383); none while PASIDV is not VALID. -/
def pasidOf (s : State) (t : Nat) : Option Nat :=
  let p := (fregGet s t 0xC).toNat
  if nb p 31 1 = 1 then some (nb p 0 20) else none

/-- Where the host's translations of a page stand: under a PASID, or under none. -/
def atsKey (pasid : Option Nat) (vpage : Nat) : Nat := vpage % 2 ^ 45 + 2 ^ 45 * ((pasid.map (· + 1)).getD 0)

/-- R383: a page of a host-mapped range, by the host's translation (an input) and the L4 entry. -/
def judgeHost (s : State) (v : Via) (t va : Nat) (w : Want) (w0 w1 : Nat) : Acc :=
  let miss := if nb (fregGet s t 0x4).toNat 3 1 == 1 then Acc.fail causePage else Acc.serve .pri
  match mget (tenant s t).ats (atsKey (pasidOf s t) (va / 2 ^ 12)) with
  | none => miss
  | some (page, r, wr) =>
    if (w.r && !r) || (w.w && !wr) then miss
    else judgeLeaf s v t va w
      { w0 := page * 2 ^ 12 + 0x303 + 2 ^ 4 * r.toNat + 2 ^ 5 * wr.toNat + 2 ^ 6 * nb w0 6 2, w1 := w1, leaf := 0,
        bytes := 2 ^ 12, shr := nb w0 10 1 == 1, host := true }

/-- A walk judged (R388, R391): every row of Table 6 from the top down. -/
def judge (s : State) (v : Via) (t va : Nat) (w : Want) : Walk → Acc
  | .leaf x => judgeLeaf s v t va w x
  | .malformed => .fail causePage
  | .denied => .fail causeProt
  | .host w0 w1 => judgeHost s v t va w w0 w1
  | .absent npk _ w1 _ _ =>
    let arena := nb w1 36 12
    if (npk == 1 || npk == 2) && !ownsKey s t (nb w1 28 8) then .fail causeProt
    else if arena != 0 && nb w1 48 16 != genSeen s v t arena then .fail causePage
    else match npk with
      | 1 => .serve .arena
      | 2 => .serve .migrated
      | _ => if regionOn s t then .serve .request else .fail causePage

/-- One word of a table entry written at its home (R385); far copies of the line leave. -/
def tableWord (s : State) (t a w : Nat) : State :=
  let s1 := writeNum s (tableKey s t) a 8 w
  (upTo 4).foldl (fun s d =>
    let x := die s d
    setDie s d { x with far := x.far.filter (fun p => p.1 / 256 != a / lineBytes) }) s1

/-! ### TLBs (R386 to R390) -/

/-- The TLB that a translation looks in. -/
def tlbOf (s : State) (v : Via) : List TlbEntry :=
  match v with
  | .fresh => []
  | .core c => (core s c).tlb
  | .tile c => (core s c).wtlb

def setTlb (s : State) (v : Via) (l : List TlbEntry) : State :=
  match v with
  | .fresh => s
  | .core c => let k := core s c; setCore s c { k with tlb := l }
  | .tile c => let k := core s c; setCore s c { k with wtlb := l }

/-- The cached translations that cover an address. -/
def tlbHits (l : List TlbEntry) (t root va : Nat) : List TlbEntry :=
  l.filter (fun e => e.tenant == t && e.root == root && va / e.bytes == e.vpage)

/-- Of those, the smallest (R389). -/
def tlbFind (l : List TlbEntry) (t root va : Nat) : Option TlbEntry :=
  (tlbHits l t root va).foldl (fun b e =>
    match b with
    | none => some e
    | some f => if e.bytes < f.bytes then some e else b) none

/-- A lookup that finds two sizes drops the larger from that TLB (R389). -/
def tlbOne (s : State) (v : Via) (t root va : Nat) : State :=
  match tlbFind (tlbOf s v) t root va with
  | none => s
  | some e =>
    if (tlbHits (tlbOf s v) t root va).all (fun f => decide (f.bytes ≤ e.bytes)) then s
    else setTlb s v ((tlbOf s v).filter (fun f => !((tlbHits (tlbOf s v) t root va).contains f && decide (e.bytes < f.bytes))))

def TlbEntry.xl (e : TlbEntry) : Xl := { w0 := e.w0, w1 := e.w1, leaf := e.leaf, bytes := e.bytes, shr := e.shr, host := e.host }

/-- What a cached translation gives; nothing where it does not permit the access, or where D is still to be set (R387). -/
def seeTlb (s : State) (v : Via) (t va : Nat) (w : Want) (e : TlbEntry) : Option Acc :=
  match judgeLeaf s v t va w e.xl with
  | .ok pa x => if w.w && nb e.w0 9 1 == 0 then none else some (Acc.ok pa x)
  | _ => none

/-- A lookup: where two sizes cover the address, the access takes the stricter of their permissions (R389). -/
def lookTlb (s : State) (v : Via) (t root va : Nat) (w : Want) : Option Acc :=
  if (tlbHits (tlbOf s v) t root va).all (fun f => (seeTlb s v t va w f).isSome) then
    (tlbFind (tlbOf s v) t root va).bind (seeTlb s v t va w)
  else none

/-- A translation filled into the TLB. -/
def fillTlb (s : State) (v : Via) (t root va : Nat) (x : Xl) : State :=
  let e : TlbEntry := { tenant := t, root := root, vpage := va / x.bytes, bytes := x.bytes, w0 := x.w0, w1 := x.w1,
                        shr := x.shr, leaf := x.leaf, host := x.host }
  setTlb s v (e :: (tlbOf s v).filter (fun f => !(f.tenant == t && f.root == root && va / f.bytes == f.vpage)))

/-- Setting A, and D on a write, at the entry's home (R387). -/
def markLeaf (s : State) (t : Nat) (x : Xl) (wr : Bool) : State × Xl :=
  let w0 := x.w0 ||| 2 ^ 8 ||| (if wr then 2 ^ 9 else 0)
  if x.host || w0 == x.w0 then (s, x)
  else
    let k := tableKey s t
    let cur := readNum s k x.leaf 8
    (tableWord s t x.leaf (cur ||| 2 ^ 8 ||| (if wr then 2 ^ 9 else 0)), { x with w0 := w0 })

/-- The end of a walk that permits the access: A and D set, the translation filled, and the non-leaf entries of the path kept
by the die's walkers. -/
def walked (s : State) (v : Via) (t root va : Nat) (w : Want) (look : Nat → Nat × Nat) (wk : Walk) : Option (State × Acc) :=
  match judge s v t va w wk with
  | .ok pa x =>
    let (s1, x1) := markLeaf s t x w.w
    let s2 := fillTlb s1 v t root va x1
    let s3 := match v.at with
      | none => s2
      | some c => keepNodes s2 (dieOf c) (nodesFrom look t va 5 root)
    some (s3, .ok pa x1)
  | _ => none

/-- A walk through the walker cache of the die, where there is one; its entries may be stale (R390). -/
def walkStale (s : State) (v : Via) (t root va : Nat) (w : Want) : Option (State × Acc) :=
  match v.at with
  | none => none
  | some c =>
    if (die s (dieOf c)).walks.isEmpty then none
    else walked s v t root va w (dieWords s (dieOf c) t va) (walkDie s (dieOf c) t root va)

/-- One access: through the TLB where that permits it, else by a walk through the walker cache where that permits it, else by
a walk afresh (R388), whose judgement stands. -/
def access (s : State) (v : Via) (t root va : Nat) (w : Want) : State × Acc :=
  match lookTlb s v t root va w with
  | some a => (tlbOne s v t root va, a)
  | none =>
    let s0 := tlbOne s v t root va
    match walkStale s0 v t root va w with
    | some r => r
    | none =>
      (walked s0 v t root va w (entryWords s0 (tableKey s0 t)) (walk s0 t root va)).getD
        (s0, judge s0 v t va w (walk s0 t root va))

/-! Attributes of a translated page (R380, R83). -/
def Xl.fmt (x : Xl) : Nat := nb x.w1 16 4
def Xl.geom (x : Xl) : Nat := nb x.w1 20 3
def Xl.key (x : Xl) : Nat := nb x.w1 28 8
def Xl.trk (x : Xl) : Bool := nb x.w1 9 1 == 1
def Xl.const (x : Xl) : Bool := nb x.w1 10 1 == 1
def Xl.tso (x : Xl) : Bool := nb x.w1 11 1 == 1
def Xl.ordsh (x : Xl) : Bool := nb x.w1 12 1 == 1

/-- The page's FMT and GEOM form a pair of Table 10 of R84. -/
def Xl.legal (x : Xl) : Bool :=
  match Fmt.ofCode x.fmt, Geom.ofCode x.geom with
  | some f, some g => pairOk f g
  | _, _ => false

/-- The page carries an asserted format (R85). -/
def Xl.carries (x : Xl) (f : Fmt) (g : Geom) : Bool := x.fmt == f.code && x.geom == g.code

/-- Bytes of two accesses overlap. -/
def overlaps (a n b m : Nat) : Bool := decide (a < b + m) && decide (b < a + n)

/-- Translations dropped in every TLB, and non-leaf entries in every walker cache (R330). -/
def dropTlb (s : State) (p : TlbEntry → Bool) (q : NonLeaf → Bool) : State :=
  { s with
    cores := s.cores.map (fun (c, k) =>
      (c, { k with tlb := k.tlb.filter (fun e => !p e), wtlb := k.wtlb.filter (fun e => !p e) }))
    dies := s.dies.map (fun (d, x) => (d, { x with walks := x.walks.filter (fun e => !q e) })) }

/-- Every translation of a tenant that covers part of a range of n bytes (`tlbinv.page`: of a page). -/
def shootRange (s : State) (t lo n : Nat) : State :=
  dropTlb s (fun e => e.tenant == t && overlaps (e.vpage * e.bytes) e.bytes lo n)
    (fun e => e.tenant == t && overlaps e.lo e.size lo n)
def shootPage (s : State) (t va : Nat) : State := shootRange s t (va / 2 ^ 12 * 2 ^ 12) (2 ^ 12)
def shootAll (s : State) (t : Nat) : State := dropTlb s (fun e => e.tenant == t) (fun e => e.tenant == t)

/-- A new tenant root: translations cached before stay those of the tenant root until they are shot down (R385). -/
def retagRoot (s : State) (t old new : Nat) : State :=
  let tag := fun (r : Nat) => if r = old then new else r
  let tlb := fun (l : List TlbEntry) => l.map (fun e => if e.tenant == t then { e with root := tag e.root } else e)
  let gran := fun (l : List Gran) => l.map (fun g => { g with root := tag g.root })
  let s1 := { s with
    cores := s.cores.map (fun (c, k) =>
      (c, { k with tlb := tlb k.tlb, wtlb := tlb k.wtlb,
                   l1 := k.l1.map (fun p => (p.1, if p.2.tenant = t then { p.2 with grans := gran p.2.grans } else p.2)) }))
    wq := s.wq.map (fun w => if w.tenant = t then { w with grans := gran w.grans } else w)
    reds := s.reds.map (fun r => if r.tenant = t then { r with grans := gran r.grans } else r)
    modq := s.modq.map (fun m => if m.tenant = t then { m with what := { m.what with root := tag m.what.root } } else m) }
  modTenant s1 t (fun x => { x with traces := x.traces.map (fun p =>
    (p.1, { p.2 with root := tag p.2.root, prop := p.2.prop.map (fun r => { r with root := tag r.root }) })) })

end Sys2Proof.Machine
end

