-- ==== Sys2Proof/Machine/Frontier.lean ====
section
/-! DEFINITION. Frontiers: selection (R36), fairness counts (R39), yield and pending sets (R40), splits and merges
(R35, R38, R197, R199), as functions of a list of entries; and access to the tasks and groups of a state. -/

namespace Sys2Proof.Machine

/-! ### Tasks and groups of a state -/

def task (s : State) (tid : Nat) : Option Task := mget s.tasks tid
def setTask (s : State) (tid : Nat) (t : Task) : State := { s with tasks := mput s.tasks tid t }
def modTask (s : State) (tid : Nat) (f : Task → Task) : State := { s with tasks := mmod s.tasks tid f }
def group (s : State) (tid g : Nat) : Option Group := (task s tid).bind (fun t => mget t.groups g)
def modGroup (s : State) (tid g : Nat) (f : Group → Group) : State :=
  modTask s tid (fun t => { t with groups := mmod t.groups g f })

/-- The frontier that issues: the handler's in trap mode, else the user's (R60, R61). -/
def Group.live (g : Group) : List Entry :=
  match g.trap with
  | some tm => tm.hfront
  | none => g.front

/-- The group with the issuing frontier changed. -/
def Group.setLive (g : Group) (f : List Entry) : Group :=
  match g.trap with
  | some tm => { g with trap := some { tm with hfront := f } }
  | none => { g with front := f }

/-! ### Selection -/

def Entry.eligible (e : Entry) : Bool := e.blk.isNone && !e.yld

/-- R36 rule 2: the higher PRIO, then the lower PC. -/
def betterHead (a b : Entry) : Bool :=
  decide (b.prio.toNat < a.prio.toNat) || (a.prio == b.prio && decide (a.pc.toNat < b.pc.toNat))

/-- R36 rule 1: the highest STARVE, then as rule 2. -/
def betterStarved (a b : Entry) : Bool :=
  decide (b.starve.toNat < a.starve.toNat) || (a.starve == b.starve && betterHead a b)

/-- The best entry of a list. Of two that neither rule tells apart (equal PRIO at one PC, between two regrouping points) the
one that stands first in the frontier's list: DESIGN CHOICE (log entry 70). -/
def bestBy (better : Entry → Entry → Bool) (es : List Entry) : Option Entry :=
  es.foldl (fun b e =>
    match b with
    | none => some e
    | some f => if better e f then some e else b) none

/-- The selected entry of a frontier (R36). -/
def selectEntry (fair : Bool) (limit : Nat) (es : List Entry) : Option Entry :=
  let el := es.filter Entry.eligible
  match (if fair then bestBy betterStarved (el.filter (fun e => decide (limit ≤ e.starve.toNat))) else none) with
  | some e => some e
  | none => bestBy betterHead el

/-- The entry that a group issues (R36): while its instruction waits on a late result no other entry is chosen. -/
def Group.select (fair : Bool) (limit : Nat) (g : Group) : Option Entry :=
  match g.live.find? (fun e => g.sel == some e.id && e.eligible) with
  | some e => some e
  | none => selectEntry fair limit g.live

/-! ### Issue accounting -/

def satInc16 (h : Half) : Half := if h == 0xFFFF then h else h + 1

/-- A yielded entry whose pending set has become empty is eligible again (R40). -/
def settleYield (es : List Entry) : List Entry :=
  es.map (fun e => if e.yld && e.pend.isEmpty then { e with yld := false } else e)

/-- Entries that have issued, blocked or left no longer hold a yielded entry back (R40). -/
def releasePend (ids : List Nat) (es : List Entry) : List Entry :=
  settleYield (es.map (fun e => { e with pend := e.pend.filter (fun i => !ids.contains i) }))

/-- The counts of R39 when entry `id` issues (without FAIR every count stays 0), and its departure from every pending set. -/
def noteIssue (fair : Bool) (id : Nat) (es : List Entry) : List Entry :=
  releasePend [id] (es.map (fun e =>
    if e.id == id then { e with starve := 0 }
    else { e with starve := if fair then satInc16 e.starve else 0 }))

/-! ### Entries replaced -/

/-- The frontier with entry `id` replaced by others, in its place. -/
def replaceEntry (id : Nat) (new : List Entry) (es : List Entry) : List Entry :=
  es.flatMap (fun e => if e.id == id then new else [e])

/-- Lanes removed from every entry; an entry left without lanes leaves (R34). -/
def dropLanes (m : Lanes) (es : List Entry) : List Entry :=
  let es1 := (es.map (fun e => { e with mask := e.mask &&& ~~~ m }))
  let gone := (es1.filter (fun e => e.mask == 0)).map (·.id)
  releasePend gone (es1.filter (fun e => e.mask != 0))

/-- The entries of a branch (R197): one per distinct target, in ascending PC order; an entry that holds a lane sent to
the target takes the target priority. `n` is the first new identity. -/
def branchEntries (n : Nat) (bundle sent : Lanes) (tgt : Nat → VA) (tp fp : Byte) : List Entry :=
  let pcs := ((lanesOf bundle).map (fun i => (tgt i).toNat)).foldl (fun l x => insertNat x l) []
  pcs.mapIdx (fun k pc =>
    let m := maskOf (fun i => has bundle i && (tgt i).toNat == pc)
    Entry.new (n + k) (BitVec.ofNat 57 pc) m (if (m &&& sent) != 0 then tp else fp))

/-- Two unblocked entries at one PC merged (R38): the first keeps its identity. -/
def mergeTwo (a b : Entry) : Entry :=
  { id := a.id, pc := a.pc, mask := a.mask ||| b.mask,
    prio := if b.prio.toNat ≤ a.prio.toNat then a.prio else b.prio,
    starve := if b.starve.toNat ≤ a.starve.toNat then a.starve else b.starve,
    yld := a.yld && b.yld,
    pend := if a.yld && b.yld then ((a.pend ++ b.pend).filter (fun i => i != a.id && i != b.id)).dedup else [],
    blk := none }

/-- One entry taken into a list of merged ones. -/
def mergeInto (e : Entry) : List Entry → List Entry
  | [] => [e]
  | a :: es => if a.blk.isNone && e.blk.isNone && a.pc == e.pc then mergeTwo a e :: es else a :: mergeInto e es

/-- Every merge of a regrouping point (R38), with the identities that vanish taken out of the pending sets. -/
def mergeAll (es : List Entry) : List Entry :=
  let out := es.foldl (fun acc e => mergeInto e acc) []
  let gone := (es.map (·.id)).filter (fun i => !(out.map (·.id)).contains i)
  releasePend gone out

/-- The entries that merge at a PC, for the event record of R436. -/
def mergeGroups (es : List Entry) : List (List Entry) :=
  let un := es.filter (fun e => e.blk.isNone)
  ((un.map (·.pc)).dedup.map (fun pc => un.filter (fun e => e.pc == pc))).filter (fun l => decide (2 ≤ l.length))

/-- The lanes of a frontier. -/
def frontMask (es : List Entry) : Lanes := es.foldl (fun m e => m ||| e.mask) 0

/-- R40: an entry sets YLD; its pending set is every other unblocked, not yielded entry; with none YLD clears at once. -/
def setYield (id : Nat) (es : List Entry) : List Entry :=
  let others := (es.filter (fun e => e.id != id && e.eligible)).map (·.id)
  settleYield (es.map (fun e => if e.id == id then { e with yld := true, pend := others } else e))

/-- Lane masks of a frontier are non-empty and pairwise disjoint (R34). -/
def frontOk : List Entry → Bool
  | [] => true
  | e :: es => e.mask != 0 && es.all (fun f => (e.mask &&& f.mask) == 0) && frontOk es

end Sys2Proof.Machine
end

