-- ==== Sys2Proof/Machine/Cache.lean ====
section
/-! DEFINITION. How global memory is seen from a die (03 R81, R82; 04 R90, R94, R97 and "How the device keeps causal
order"; R23; R405): writes in flight with stamps, the far-line caches, the L1s, write-back and invalidation. -/

namespace Sys2Proof.Machine

open Host

/-! ### Places -/

def cacheKey (pa key : Nat) : Nat := 256 * (pa / lineBytes) + key
def lineOfKey (k : Nat) : Nat := k / 256

/-- A request counted at LOCREQ or REMREQ of a die (R405). -/
def countReq (s : State) (d pa : Nat) : State :=
  if hostBase ≤ pa then s
  else
    let o := (if homeDie s pa = d then 0xA00 else 0xA10) + 4 * d
    { s with mgmt := { s.mgmt with mreg := mputD (mregReset o) s.mgmt.mreg o (mregGet s o + 1) } }

/-! ### Vector clocks -/

def maxStamp (a b : List Nat) : List Nat := List.zipWith max a b
def stampAt (a : List Nat) (d : Nat) : Nat := a.getD d 0

/-- The reading die merges the stamp of the write it returns. -/
def observe (s : State) (d : Nat) (st : List Nat) : State :=
  let x := die s d
  setDie s d { x with clock := maxStamp x.clock st }

def lineStamp (s : State) (line : Nat) : List Nat := mgetD [0, 0, 0, 0] s.lstamp line

/-! ### Writes in flight -/

/-- A write leaves a die for its home port (R90): stamp and place in the die's order. -/
def sendWriteErr (s : State) (d keyid t : Nat) (line : Nat) (bytes : Map Byte) (owner : Option (Nat × Nat × Nat))
    (grans : List Gran) (err : List Nat) : State :=
  let x := die s d
  let n := stampAt x.clock d + 1
  let clock := x.clock.set d n
  let s1 := setDie s d { x with clock := clock }
  { s1 with
    serial := s1.serial + 1
    wq := s1.wq ++ [{ id := s1.serial, die := d, seqno := n, stamp := clock, line := line, bytes := bytes,
                      keyid := keyid, owner := owner, tenant := t, grans := grans, err := err }] }
def sendWrite (s : State) (d keyid t : Nat) (line : Nat) (bytes : Map Byte) (owner : Option (Nat × Nat × Nat))
    (grans : List Gran) : State := sendWriteErr s d keyid t line bytes owner grans []

/-- Some write of a stamp is still on its way. -/
def pendingBelow (s : State) (st : List Nat) : Bool := s.wq.any (fun w => decide (w.seqno ≤ stampAt st w.die))

/-- The home port holds the stores of other parties to the spill region of a running query (R156). -/
def spillHolds (s : State) (line : Nat) : Bool := s.queries.any (fun p => p.2.spill.contains (line / 32))

/-- The stack that homes a line retrains, and its port accepts no request (R408). -/
def retraining (s : State) (pa : Nat) : Bool := decide (pa < tierBase) && (mget s.mgmt.retrain (homeStack s pa)).isSome

/-- Accesses wait while their stack retrains (R408), and those to a region of main memory while a new matrix of it is about to
take effect (R402): MAPSTAT.BUSY is 1, and every ordered reduction accepted for it has been applied (log entry 72). -/
def mapHolds (s : State) (pa : Nat) : Bool :=
  retraining s pa ||
  (nb (mregGet s 4).toNat 31 1 == 1 && pa / 2 ^ 35 == nb (mregGet s 0).toNat 4 4 &&
    !s.reds.any (fun r => r.accepted && r.pa / 2 ^ 35 == pa / 2 ^ 35))

/-- Accepted reductions of a line that lie below their launch's horizon and are not applied yet (R258). -/
def redsDue (s : State) (line : Nat) : Bool :=
  s.reds.any (fun r => r.accepted && r.pa / lineBytes == line &&
    ((mget (tenant s r.tenant).launches r.launch).any (fun l => decide (r.blk < l.horizon))))

/-- A home port applies a write only after every write that its stamp names. -/
def applicable (s : State) (w : Wr) : Bool :=
  !s.wq.any (fun v => v.id != w.id && decide (v.seqno ≤ stampAt w.stamp v.die)) && !spillHolds s w.line

/-- A die has a write on its way to a line. -/
def wrPending (s : State) (d line : Nat) : Bool := s.wq.any (fun w => w.die == d && w.line == line)

/-- R132: the port queues one modification record per granule. A further store adds none: where it belongs to another trace, the
record stands for a store of no trace, which each trace takes as a modification. -/
def queueMods (s : State) (t : Nat) (grans : List Gran) : State :=
  grans.foldl (fun s g =>
    let same := fun (m : ModRec) => m.tenant == t && m.what.gran == g.gran && m.what.root == g.root
    if s.modq.any same then
      { s with modq := s.modq.map (fun m =>
          if same m && m.what.own != g.own then { m with what := { m.what with own := none } } else m) }
    else { s with modq := s.modq ++ [{ tenant := t, what := g }] }) s

/-- The updates that the home port sends to the far-line caches that hold a line. -/
def sendUpdates (s : State) (line keyid origin : Nat) (bytes : Map Byte) (stamp : List Nat) : State :=
  (upTo 4).foldl (fun s d =>
    if homeDie s (line * lineBytes) = d then s
    else
      let x := die s d
      if x.far.any (fun p => lineOfKey p.1 == line) then
        setDie s d { x with farq := x.farq ++ [{ line := line, bytes := bytes, keyid := keyid, stamp := stamp, origin := origin }] }
      else s) s

/-- A store instruction's write is accepted: ST falls when its last one is (R244). -/
def storeAccepted (s : State) (owner : Option (Nat × Nat × Nat)) : State :=
  match owner with
  | none => s
  | some (tid, g, n) => modGroup s tid g (fun gr =>
      { gr with stall := false, stores :=
          match mget gr.stores n with
          | none => gr.stores
          | some k => if k ≤ 1 then mdel gr.stores n else mput gr.stores n (k - 1) })

/-- Bytes applied to a line at its home port, with everything that follows from it. -/
def applyAtHome (s : State) (origin keyid t line : Nat) (bytes : Map Byte) (stamp : List Nat)
    (grans : List Gran) : State :=
  let s1 := applyBytes s keyid bytes
  let s2 := { s1 with lstamp := mput s1.lstamp line (maxStamp (lineStamp s1 line) stamp) }
  queueMods (sendUpdates s2 line keyid origin bytes stamp) t grans

/-- WRITE_APPLY_AT_PORT: words that carry an error leave their line with it (R409 Table 8). -/
def applyWrite (s : State) (w : Wr) : State :=
  let s1 := { s with wq := s.wq.filter (fun v => v.id != w.id) }
  storeAccepted (w.err.foldl markBad (applyAtHome s1 w.die w.keyid w.tenant w.line w.bytes w.stamp w.grans)) w.owner

/-! ### The far-line cache -/

def patch (base : Nat) (data : List Byte) (bytes : Map Byte) : List Byte :=
  data.mapIdx (fun i b => mgetD b bytes (base + i))

/-- One update applied to a die's far-line cache. -/
def applyUpd (x : Die) (u : FarUpd) : Die :=
  { x with far := x.far.map (fun p =>
      if lineOfKey p.1 == u.line && p.1 % 256 == u.keyid then
        (p.1, { p.2 with data := patch (u.line * lineBytes) p.2.data u.bytes, stamp := maxStamp p.2.stamp u.stamp })
      else p) }

/-- A stamp names the write that an update carries. -/
def named (st : List Nat) (u : FarUpd) : Bool := decide (stampAt u.stamp u.origin ≤ stampAt st u.origin)

/-- The updates of a queue that satisfy p, with those that come before one of them in causal order or at its line; and the
rest. Both keep their order. -/
structure Split where
  take : List FarUpd
  keep : List FarUpd
  lines : List Nat
  stamp : List Nat

def splitUpds (p : Nat → FarUpd → Bool) (us : List FarUpd) : Split :=
  us.zipIdx.foldr (fun q (z : Split) =>
    if p q.2 q.1 || z.lines.contains q.1.line || named z.stamp q.1 then
      { z with take := q.1 :: z.take, lines := q.1.line :: z.lines, stamp := maxStamp z.stamp q.1.stamp }
    else { z with keep := q.1 :: z.keep }) { take := [], keep := [], lines := [], stamp := [0, 0, 0, 0] }

/-- A far-line cache applies the updates that satisfy p, and before each those that its stamp names (04): an update never
shows before its causes, nor the writes of one line out of coherence order; updates that neither order relates may be
applied either way round. -/
def catchUp (p : Nat → FarUpd → Bool) (x : Die) : Die :=
  let z := splitUpds p x.farq
  z.take.foldl applyUpd { x with farq := z.keep }

/-- Every update on its way applied. -/
def drainFar (x : Die) : Die := x.farq.foldl applyUpd { x with farq := [] }

/-- Lines of a far-line cache (R23: 32 MiB) and of an L1 (R19 Table 2: 256 KiB). -/
def farLines : Nat := 2 ^ 18
def l1Lines : Nat := 2 ^ 11

/-- A line put into a far-line cache, which drops the line of its lowest key when it is full: which line leaves is the model's
choice (log entry 69). -/
def farPut (x : Die) (k : Nat) (l : RLine) : Die :=
  { x with far := mput (if (mget x.far k).isNone && decide (farLines ≤ x.far.length) then x.far.drop 1 else x.far) k l }

/-- A die reads a line under a key: at its home port, or through its far-line cache when the home is another die and
`far` allows it. A die's own earlier write to the line, and any write to it that a read at the home port has returned, is
never hidden by an update still on its way (R92 edge 1), and a line that enters the far-line cache never shows a write before
its causes. The stamp of what is returned is merged. -/
def dieRead (s : State) (d pa keyid : Nat) (far : Bool) : State × List Byte :=
  let line := pa / lineBytes
  let base := line * lineBytes
  let atHome := fun (s : State) => (observe s d (lineStamp s line), readPas s keyid base lineBytes)
  let s0 := countReq s d base
  if homeDie s base = d ∨ hostBase ≤ base then atHome s0
  else
    let s1 := setDie s0 d (catchUp (fun _ u => u.line == line && (!far || u.origin == d)) (die s0 d))
    if !far then atHome s1
    else
      match mget (die s1 d).far (cacheKey base keyid) with
      | some l => (observe s1 d l.stamp, l.data)
      | none =>
        let s2 := setDie s1 d (catchUp (fun _ u => u.line == line || named (lineStamp s1 line) u) (die s1 d))
        let data := readPas s2 keyid base lineBytes
        let l : RLine := { data := data, stamp := lineStamp s2 line, tfill := s2.cycle }
        (observe (setDie s2 d (farPut (die s2 d) (cacheKey base keyid) l)) d l.stamp, data)

/-- The stamp of what a die's read of a line returns, as the state after the read shows it. -/
def readStamp (s : State) (d pa keyid : Nat) (far : Bool) : List Nat :=
  let line := pa / lineBytes
  if far && homeDie s (line * lineBytes) != d then
    ((mget (die s d).far (cacheKey pa keyid)).map (·.stamp)).getD (lineStamp s line)
  else lineStamp s line

/-! ### The L1 -/

/-- Write back the masked bytes of an L1 line (R81, R82); the line then holds nothing written. -/
def writeBack (s : State) (c k : Nat) : State :=
  match mget (core s c).l1 k with
  | none => s
  | some l =>
    if l.dirty.isEmpty then s
    else
      let s1 := countReq (sendWriteErr s (dieOf c) l.keyid l.tenant (lineOfKey k) l.dirty none l.grans
        (l.mbad.map (4 * ·))) (dieOf c) (lineOfKey k * lineBytes)
      let x := core s1 c
      let fill := if l.fill.isEmpty then [] else patch (lineOfKey k * lineBytes) l.fill l.dirty
      setCore s1 c { x with l1 := if fill.isEmpty then mdel x.l1 k else mput x.l1 k { l with fill := fill, dirty := [], grans := [], mbad := [] } }

def dropLine (s : State) (c k : Nat) : State :=
  let x := core s c
  setCore s c { x with l1 := mdel x.l1 k }

/-- The L1 writes back and invalidates every copy of a physical line (R81). -/
def flushLine (s : State) (c pa : Nat) : State :=
  let ks := ((core s c).l1.map (·.1)).filter (fun k => lineOfKey k == pa / lineBytes)
  ks.foldl (fun s k => dropLine (writeBack s c k) c k) s

/-- Every masked byte written back (R82), and every line invalidated. -/
def writeBackAll (s : State) (c : Nat) : State := ((core s c).l1.map (·.1)).foldl (fun s k => writeBack s c k) s
def invalidateL1 (s : State) (c : Nat) : State := let x := core s c; setCore s c { x with l1 := [] }
def invalidateCC (s : State) (c : Nat) : State := let x := core s c; setCore s c { x with cc := [] }

/-- Room for a line in the L1 (R19 Table 2): when it is full, the line of the lowest key is written back and leaves. Which line
leaves is the model's choice (log entry 69); any line may leave at any other time (R81, R94). -/
def l1Room (s : State) (c k : Nat) : State :=
  if (mget (core s c).l1 k).isNone && decide (l1Lines ≤ (core s c).l1.length) then
    match (core s c).l1.head? with
    | some p => dropLine (writeBack s c p.1) c p.1
    | none => s
  else s

/-- A store held in the L1 (R81). A word written whole loses its error. -/
def l1Store (s : State) (c t pa keyid : Nat) (bytes : List Byte) (gran : List Gran) : State :=
  let k := cacheKey pa keyid
  let s := l1Room s c k
  let x := core s c
  let l := (mget x.l1 k).getD { fill := [], dirty := [], tfill := s.cycle, tdirty := s.cycle, keyid := keyid, tenant := t,
                                grans := [], stamp := [0, 0, 0, 0], mbad := [] }
  let td := if l.dirty.isEmpty then s.cycle else l.tdirty
  let dirty := (bytes.mapIdx (fun i b => (i, b))).foldl (fun m p => mput m (pa + p.1) p.2) l.dirty
  let mbad := l.mbad.filter (fun w => !(decide (pa ≤ 4 * w) && decide (4 * w + 4 ≤ pa + bytes.length)))
  setCore s c { x with l1 := mput x.l1 k { l with dirty := dirty, tdirty := td, grans := (l.grans ++ gran).dedup, mbad := mbad } }

/-- Bytes read through the L1, filling the line where it does not hold them (R81). -/
def l1Read (s : State) (c t pa keyid n : Nat) : State × List Byte :=
  let k := cacheKey pa keyid
  let get := fun (l : L1Line) => (List.range n).map (fun i =>
    (mget l.dirty (pa + i)).getD (l.fill.getD ((pa + i) % lineBytes) 0))
  let held := fun (l : L1Line) => !l.fill.isEmpty || (List.range n).all (fun i => (mget l.dirty (pa + i)).isSome)
  let fill := fun (s : State) (l : L1Line) =>
    let (s1, data) := dieRead s (dieOf c) pa keyid true
    let l1 := { l with fill := data, tfill := s.cycle, stamp := readStamp s1 (dieOf c) pa keyid true }
    let x := core s1 c
    (setCore s1 c { x with l1 := mput x.l1 k l1 }, get l1)
  match mget (core s c).l1 k with
  | some l => if held l then (s, get l) else fill s l
  | none =>
    let s := l1Room s c k
    fill s { fill := [], dirty := [], tfill := s.cycle, tdirty := s.cycle, keyid := keyid, tenant := t, grans := [],
             stamp := [0, 0, 0, 0], mbad := [] }

/-- Bytes read through the constant cache (R233). -/
def ccRead (s : State) (c pa keyid n : Nat) : State × List Byte :=
  let k := cacheKey pa keyid
  let get := fun (l : RLine) => (List.range n).map (fun i => l.data.getD ((pa + i) % lineBytes) 0)
  match mget (core s c).cc k with
  | some l => (s, get l)
  | none =>
    let (s1, data) := dieRead s (dieOf c) pa keyid true
    let l : RLine := { data := data, stamp := readStamp s1 (dieOf c) pa keyid true, tfill := s.cycle }
    let x := core s1 c
    (setCore s1 c { x with cc := mput x.cc k l }, get l)

/-- Bytes read at the home port (R81: TSO and ORDSH pages, `.home`). -/
def homeRead (s : State) (d pa keyid n : Nat) : State × List Byte :=
  let (s1, data) := dieRead s d pa keyid false
  (s1, (List.range n).map (fun i => data.getD ((pa + i) % lineBytes) 0))

/-- Bytes that an engine of a die reads (never through an L1). -/
def engRead (s : State) (d pa keyid n : Nat) : State × List Byte :=
  let (s1, data) := dieRead s d pa keyid true
  (s1, (List.range n).map (fun i => data.getD ((pa + i) % lineBytes) 0))

/-- Bytes as a map from physical address. -/
def bytesAt (pa : Nat) (bs : List Byte) : Map Byte := bs.mapIdx (fun i b => (pa + i, b))

/-- An indivisible read and write at the home port (R90, R240): the die's clock is advanced for its write, which is
applied at once. -/
def homeWrite (s : State) (d keyid t pa : Nat) (bs : List Byte) (gran : List Gran) : State :=
  let x := die s d
  let clock := x.clock.set d (stampAt x.clock d + 1)
  applyAtHome (setDie s d { x with clock := clock }) d keyid t (pa / lineBytes) (bytesAt pa bs) clock gran

/-- The L1 (written back first, R82) and the constant cache (R233) of a core invalidated. -/
def dropCaches (s : State) (c : Nat) : State := invalidateCC (invalidateL1 (writeBackAll s c) c) c

/-- The acquire-class action of a handover (R76, R79, R46, R100) and of `fence.sc`: the caches of the core are invalidated, and
for die scope and wider the far-line cache takes every update on its way. -/
def acqAct (s : State) (c : Nat) (scope : Scope) : State :=
  match scope with
  | .group | .block => s
  | .cluster => dropCaches s c
  | _ =>
    let s1 := dropCaches s c
    setDie s1 (dieOf c) (drainFar (die s1 (dieOf c)))

end Sys2Proof.Machine
end

