-- ==== Sys2Proof/Machine/Vm.lean ====
section
/-! DEFINITION. The memory service engine (R391 to R396, R398): table entries, the frame store, page copies, share counts,
the break of sharing, the backing of arena pages, the restore of migrated pages, and an access that is served on the
spot. -/

namespace Sys2Proof.Machine

open Host

/-! ### Table entries (R379 to R382) -/

/-- Field lo, n of a number replaced. -/
def setF (w lo n v : Nat) : Nat := w - nb w lo n * 2 ^ lo + v % 2 ^ n * 2 ^ lo

def entry0 (s : State) (t a : Nat) : Nat := readNum s (tableKey s t) a 8
def entry1 (s : State) (t a : Nat) : Nat := readNum s (tableKey s t) (a + 8) 8

/-- Both words of an entry written at its home. -/
def tablePut (s : State) (t a w0 w1 : Nat) : State := tableWord (tableWord s t a w0) t (a + 8) w1

/-- The entries of a page: the 16 of an aligned group for 64 KiB (R381), else one. -/
def leafSlots (a ps : Nat) : List Nat := if ps = 1 then (upTo 16).map (fun i => a / 256 * 256 + 16 * i) else [a]

/-- A page's entries rewritten; each keeps its own A and D. -/
def putLeaf (s : State) (t a ps w0 w1 : Nat) : State :=
  (leafSlots a ps).foldl (fun s b => tablePut s t b (setF w0 8 2 (nb (entry0 s t b) 8 2)) w1) s

/-- The frame or table that word 0 points at, as a physical address. -/
def pointed (w0 w1 : Nat) : Nat := w0 / 2 ^ 12 * 2 ^ 12 + (if nb w1 15 1 = 1 then tierBase else 0)

/-- The entries that a walk passes, from level 4 down to the one that ends it. -/
def pathFrom (s : State) (t va : Nat) : Nat → Nat → List Nat
  | 0, _ => []
  | n + 1, table =>
    let a := table + 16 * nb va (12 + 9 * n) 9
    let w0 := entry0 s t a
    if nb w0 0 2 == 1 && !(n == 4 && nb w0 11 1 == 1) then a :: pathFrom s t va n (w0 / 2 ^ 12 * 2 ^ 12) else [a]

def pathOf (s : State) (t root va : Nat) : List Nat := pathFrom s t va 5 root

/-! ### The frame store (R392) -/

/-- FSTAT.CFGERR set (R364). -/
def cfgErr (s : State) (t : Nat) : State := fregSet s t 0x4 (fregGet s t 0x4 ||| 2)

/-- An entry of the pool ring, as it stands at its home; none where its page cannot be read. -/
def poolEntry (s : State) (t va : Nat) : State × Option Nat :=
  match access s .fresh t (tenantRoot s t) va { r := true, w := false, x := false, user := false } with
  | (s1, .ok pa x) => (s1, some (readNum s1 x.key pa 8))
  | (s1, _) => (s1, none)

/-- Entries taken from the pool ring while FPFREE is below 64; at most n of them. -/
def refill : Nat → State → Nat → State
  | 0, s, _ => s
  | n + 1, s, t =>
    let z := nb (csrGet s t 0x044).toNat 0 5
    let hd := (csrGet s t 0x046).toNat
    if z < 4 ∨ 16 < z ∨ csrGet s t 0x045 = csrGet s t 0x046 ∨ 64 ≤ (tenant s t).frames.length then s
    else match poolEntry s t (csrAddr s t 0x042 12 + 8 * (hd % 2 ^ z)) with
      | (s1, none) => s1
      | (s1, some e) =>
        let s2 := csrSet s1 t 0x046 (BitVec.ofNat 32 (hd + 1))
        if e % 2 ^ 16 = 0 ∧ e < 2 ^ 39 then refill n (modTenant s2 t (fun x => { x with frames := x.frames ++ [e / 2 ^ 16] })) t
        else refill n (cfgErr s2 t) t

/-- A frame comes from a region of the kind that PLACE and PSEL name (R404, R461): the home that a leaf's word 1 asks for. -/
def frameFits (s : State) (w1 pa : Nat) : Bool :=
  nb (mregGet s (0x900 + 4 * nb pa 35 4)).toNat 0 2 == nb w1 23 2 &&
  (match nb w1 23 2 with
   | 0 => true
   | 1 => nb pa 33 2 == nb w1 25 3
   | _ => nb pa 32 3 == nb w1 25 3)

/-- A 64 KiB frame from the store, after the pool ring is taken: its physical address. -/
def takeFrame (s : State) (t : Nat) (fits : State → Nat → Bool) : Option (State × Nat) :=
  let s1 := refill 70000 s t
  ((tenant s1 t).frames.find? (fun f => fits s1 (2 ^ 16 * f))).map (fun f =>
    (modTenant s1 t (fun x => { x with frames := x.frames.erase f }), 2 ^ 16 * f))

/-- A store frame carved into 4 KiB pieces. -/
def carve (s : State) (t : Nat) (fits : State → Nat → Bool) : Option State :=
  (takeFrame s t fits).map (fun p => modTenant p.1 t (fun x =>
    { x with pieces := x.pieces ++ (upTo 16).map (fun i => p.2 / 2 ^ 12 + i) }))

/-- A 4 KiB piece that satisfies p, carved when none is there. -/
def takeWhere (s : State) (t : Nat) (fits : State → Nat → Bool) (p : List Nat → Nat → Bool) : Option (State × Nat) :=
  let pick := fun (s : State) => (tenant s t).pieces.find? (p (tenant s t).pieces)
  match pick s with
  | some k => some (s, k)
  | none => (carve s t fits).bind (fun s1 => (pick s1).map (fun k => (s1, k)))

/-- A 4 KiB frame. -/
def takePiece (s : State) (t : Nat) (fits : State → Nat → Bool) : Option (State × Nat) :=
  (takeWhere s t fits (fun _ k => fits s (2 ^ 12 * k))).map (fun p =>
    (modTenant p.1 t (fun x => { x with pieces := x.pieces.filter (fun k => k != p.2) }), 2 ^ 12 * p.2))

/-- An 8 KiB table, every entry EMPTY. -/
def takeTable (s : State) (t : Nat) : Option (State × Nat) :=
  (takeWhere s t (fun _ _ => true) (fun l k => k % 2 == 0 && l.contains (k + 1))).map (fun p =>
    let s1 := modTenant p.1 t (fun x => { x with pieces := x.pieces.filter (fun k => k != p.2 && k != p.2 + 1) })
    ((upTo 512).foldl (fun s i => tablePut s t (2 ^ 12 * p.2 + 16 * i) 0 0) s1, 2 ^ 12 * p.2))

/-- A frame of a page size, homed as a leaf's word 1 asks. -/
def takePage (s : State) (t ps w1 : Nat) : Option (State × Nat) :=
  if ps = 0 then takePiece s t (fun s pa => frameFits s w1 pa) else takeFrame s t (fun s pa => frameFits s w1 pa)

/-- A freed HBM page returns to the store; a capacity-tier frame is software's, and the engine's note of it goes. -/
def freePage (s : State) (t pa ps : Nat) : State :=
  if tierBase ≤ pa then { s with direct := mdel s.direct ((pa - tierBase) / 2 ^ 12) }
  else modTenant s t (fun x =>
    if ps = 0 then { x with pieces := x.pieces ++ [pa / 2 ^ 12] } else { x with frames := x.frames ++ [pa / 2 ^ 16] })

/-- Frames and pieces in use by an arena, to be returned with it (R396). -/
def noteArena (s : State) (t job : Nat) (old new : Option Nat) : State :=
  if job = 0 then s
  else modTenant s t (fun x =>
    let kept := x.arenaFrames.filter (fun p => !(p.1 == job && old == some p.2))
    { x with arenaFrames := kept ++ (new.map (fun f => (job, f))).toList })

/-! ### Share counts (R394)

They stand by 4 KiB number: that of a table, frame or image at its own, and that of a 2 MiB frame which some tree has split
into 64 KiB pages at each of its pieces. -/

/-- The places at which the count of a range of n bytes stands. -/
def sharePlaces (s : State) (t pa n : Nat) : List Nat :=
  if n < 2 ^ 21 then [pa / 2 ^ 12]
  else
    let cut := ((upTo (n / 2 ^ 21)).map (fun i => pa / 2 ^ 21 + i)).filter ((tenant s t).splits.contains ·)
    if cut.isEmpty then [pa / 2 ^ 12] else cut.flatMap (fun f => (upTo 32).map (fun g => 2 ^ 9 * f + 16 * g))

/-- The count of a range: of a split frame, the largest of its pieces. -/
def shareOf (s : State) (t pa n : Nat) : Nat :=
  ((sharePlaces s t pa n).map (mgetD 1 (tenant s t).shares)).foldl max 1
def shareMod (s : State) (t pa n : Nat) (f : Nat → Nat) : State :=
  modTenant s t (fun x => { x with
    shares := (sharePlaces s t pa n).foldl (fun m k => mputD 1 m k (f (mgetD 1 m k))) x.shares })
def shareUp (s : State) (t pa n : Nat) : State := shareMod s t pa n (· + 1)
def shareDown (s : State) (t pa n : Nat) : State := shareMod s t pa n (· - 1)

/-- A large page is split in some tree: from now on the pieces of its 2 MiB frames are counted, each as the whole was. -/
def markSplit (s : State) (t pa n : Nat) : State :=
  let k := shareOf s t pa n
  let new := ((upTo (n / 2 ^ 21)).map (fun i => pa / 2 ^ 21 + i)).filter (fun f => !(tenant s t).splits.contains f)
  modTenant s t (fun x => { x with
    splits := x.splits ++ new
    shares := (new.flatMap (fun f => (upTo 32).map (fun g => 2 ^ 9 * f + 16 * g))).foldl (fun m i => mputD 1 m i k) x.shares })

/-! ### Copies of pages -/

def inFrame (pa n x : Nat) : Bool := decide (pa ≤ x) && decide (x < pa + n)

/-- The L1s write back and drop every line of a frame. -/
def flushFrame (s : State) (pa n : Nat) : State :=
  s.cores.foldl (fun s c => (c.2.l1.map (·.1)).foldl (fun s k =>
    if inFrame pa n (lineOfKey k * lineBytes) then dropLine (writeBack s c.1 k) c.1 k else s) s) s

/-- Accesses translated to a frame are still on their way. -/
def frameBusy (s : State) (pa n : Nat) : Bool :=
  s.wq.any (fun w => inFrame pa n (w.line * lineBytes)) ||
  s.tasks.any (fun p => p.2.groups.any (fun q => q.2.loads.any (fun l =>
    l.2.vals.isEmpty && l.2.lanes.any (fun la => inFrame pa n la.pa))))

/-- Ordered reductions held or spilled for a line of a frame. -/
def redsIn (s : State) (pa n : Nat) : Bool := s.reds.any (fun r => inFrame pa n r.pa)

/-- Every cache drops the lines of a frame that is given new contents. -/
def dropFrame (s : State) (pa n : Nat) : State :=
  let s1 := (s.cores.map (·.1)).foldl (fun s c =>
    let x := core s c
    setCore s c { x with l1 := x.l1.filter (fun p => !inFrame pa n (lineOfKey p.1 * lineBytes))
                         cc := x.cc.filter (fun p => !inFrame pa n (lineOfKey p.1 * lineBytes))
                         iw := x.iw.filter (fun p => !inFrame pa n (p.1 / 256 * 32)) }) s
  (upTo 4).foldl (fun s d =>
    let x := die s d
    setDie s d { x with far := x.far.filter (fun p => !inFrame pa n (lineOfKey p.1 * lineBytes)) }) s1

/-- Whether any protected unit of a frame is uncorrectable. -/
def frameBad (s : State) (pa n : Nat) : Bool := s.bad.any (fun b => inFrame pa n (64 * b))

/-- Blocks of 64 bytes of a frame that are uncorrectable after a copy into it: those of the source, widened to the unit of
the destination. -/
def badAfter (s : State) (src dst n : Nat) : List Nat :=
  (upTo (n / unitSize dst)).flatMap (fun i =>
    if (upTo (unitSize dst / 64)).any (fun j => blockBad s (src + i * unitSize dst + 64 * j)) then
      (upTo (unitSize dst / 64)).map (fun j => (dst + i * unitSize dst) / 64 + j)
    else [])

/-- n bytes of memory copied under one key; an uncorrectable unit stays one (log entry 24). -/
def copyPage (s : State) (key src dst n : Nat) : State :=
  let s1 := dropFrame (writePas s key dst (readPas s key src n)) dst n
  { s1 with bad := s1.bad.filter (fun b => !inFrame dst n (64 * b)) ++ badAfter s src dst n }

/-! ### How a service ends -/

inductive Svc where
  | done (s : State)
  /-- accesses that must end first have been sent on their way, or are still there -/
  | again (s : State)
  | noFrame
  | bad (cause : Byte)
  deriving DecidableEq, Repr

/-! ### Breaks of sharing (R394) -/

/-- One entry of a table that becomes two: the copy, with the marks and the share counts of R394. -/
def copyEntry (s : State) (t src dst i : Nat) : State :=
  let w0 := entry0 s t src
  let w1 := entry1 s t src
  let both := fun (s : State) (v0 v1 : Nat) => tablePut (if v0 = w0 ∧ v1 = w1 then s else tablePut s t src v0 v1) t dst v0 v1
  if nb w0 0 2 = 1 then shareUp (both s (setF w0 10 1 1) w1) t (pointed w0 0) (2 ^ 13)
  else
    let cow := if nb w0 5 1 = 1 then setF w1 14 1 1 else w1
    if nb w0 0 1 = 1 then
      let s1 := both s w0 cow
      if nb w0 2 2 = 1 ∧ i % 16 ≠ 0 then s1 else shareUp s1 t (pointed w0 w1) (pageBytes (nb w0 2 2))
    else if nb w0 1 3 = 2 then
      let s1 := both s w0 cow
      let at_ := tierBase + w0 / 2 ^ 12 * 2 ^ 12
      if mget s.images (w0 / 2 ^ 12) = some (2 ^ 16) ∧ i % 16 ≠ 0 then s1 else shareUp s1 t at_ (2 ^ 12)
    else both s w0 w1

/-- The table below an entry with SHR = 1 becomes the writer's own; none without a frame. -/
def breakTable (s : State) (t a : Nat) : Option State :=
  let w0 := entry0 s t a
  let tb := w0 / 2 ^ 12 * 2 ^ 12
  if shareOf s t tb (2 ^ 13) ≤ 1 then some (tablePut s t a (setF w0 10 1 0) (entry1 s t a))
  else (takeTable s t).map (fun p =>
    let s2 := (upTo 512).foldl (fun s i => copyEntry s t (tb + 16 * i) (p.2 + 16 * i) i) p.1
    tablePut (shareDown s2 t tb (2 ^ 13)) t a (p.2 + setF (w0 % 2 ^ 12) 10 1 0) (entry1 s t a))

/-- A 2 MiB page as a table of 64 KiB pages (R390): the table. -/
def splitTable (s : State) (t w0 w1 : Nat) : Option (State × Nat) :=
  (takeTable s t).map (fun p =>
    let fr := w0 / 2 ^ 12 * 2 ^ 12
    ((upTo 512).foldl (fun s i =>
      tablePut s t (p.2 + 16 * i) (fr + i / 16 * 2 ^ 16 + setF (w0 % 2 ^ 12) 2 2 1) w1) p.1, p.2))

/-- A large leaf replaced by tables of 64 KiB pages, each of them shared as the whole was (R394). -/
def splitLeaf (s0 : State) (t a w0 w1 : Nat) : Option State :=
  let s := markSplit s0 t (pointed w0 w1) (pageBytes (nb w0 2 2))
  if nb w0 2 2 = 2 then (splitTable s t w0 w1).map (fun p => tablePut p.1 t a (p.2 + 1) 0)
  else
    (takeTable s t).bind (fun p =>
      ((upTo 512).foldl (fun (acc : Option State) i => acc.bind (fun s =>
        (splitTable s t (w0 + i * 2 ^ 21) w1).map (fun q => tablePut q.1 t (p.2 + 16 * i) (q.2 + 1) 0))) (some p.1)).map
        (fun s => tablePut s t a (p.2 + 1) 0))

/-- Held reductions made through a tree follow its page to a new frame (log entry 24). -/
def moveReds (s : State) (t root old new n : Nat) : State :=
  { s with reds := s.reds.map (fun r =>
      if r.tenant == t && inFrame old n r.pa && rootOfEntry s t r.launch == root then { r with pa := r.pa - old + new } else r) }

/-- A leaf with COW = 1 becomes the writer's own. -/
def breakLeaf (s : State) (t root va a : Nat) : Svc :=
  let w0 := entry0 s t a
  let w1 := entry1 s t a
  let ps := nb w0 2 2
  let n := pageBytes ps
  let fr := pointed w0 w1
  if shareOf s t fr n ≤ 1 then .done (shootPage (putLeaf s t a ps w0 (setF w1 14 1 0)) t va)
  else
    let s1 := flushFrame s fr n
    if frameBusy s1 fr n then .again s1
    else match takePage s1 t ps w1 with
      | none => .noFrame
      | some (s2, f) =>
        let s3 := shareDown (copyPage s2 (nb w1 28 8) fr f n) t fr n
        let s4 := noteArena (moveReds s3 t root fr f n) t (nb w1 36 12) none (some f)
        .done (shootPage (putLeaf s4 t a ps (f + w0 % 2 ^ 12) (setF (setF w1 14 1 0) 15 1 0)) t va)

/-- The shared table or frame on the path of an address that a break would act on first. -/
def breakTarget (s : State) (t root va : Nat) : Option Nat :=
  let path := pathOf s t root va
  match path.find? (fun a => nb (entry0 s t a) 0 2 == 1 && nb (entry0 s t a) 10 1 == 1) with
  | some a => some (entry0 s t a / 2 ^ 12)
  | none => path.getLast?.map (fun a => pointed (entry0 s t a) (entry1 s t a) / 2 ^ 12)

/-- A sharing fault served: down the path, then at the leaf. `k` bounds the tables and splits on the way. -/
def breakFrom : Nat → State → Nat → Nat → Nat → Svc
  | 0, s, _, _, _ => .again s
  | k + 1, s, t, root, va =>
    let path := pathOf s t root va
    match path.find? (fun a => nb (entry0 s t a) 0 2 == 1 && nb (entry0 s t a) 10 1 == 1) with
    | some a =>
      match breakTable s t a with
      | none => .noFrame
      | some s1 => breakFrom k (shootPage s1 t va) t root va
    | none =>
      match path.getLast? with
      | none => .done s
      | some a =>
        let w0 := entry0 s t a
        let w1 := entry1 s t a
        if nb w0 0 2 ≠ 3 ∨ nb w1 14 1 = 0 then .done (shootPage s t va)
        else if 2 ≤ nb w0 2 2 ∧ 1 < shareOf s t (pointed w0 w1) (pageBytes (nb w0 2 2)) then
          match splitLeaf s t a w0 w1 with
          | none => .noFrame
          | some s1 => breakFrom k (shootPage s1 t va) t root va
        else breakLeaf s t root va a

def breakShare (s : State) (t root va : Nat) : Svc := breakFrom 8 s t root va

/-! ### Arena pages (R391, R395) -/

/-- A 64 KiB frame whose contents are unspecified (R315): free values until they are written. -/
def loosen (s : State) (pa : Nat) : State :=
  let s1 := dropFrame s pa (2 ^ 16)
  { s1 with serial := s1.serial + 1, loose := mput s1.loose (pa / 2 ^ 16) s1.serial,
            mem := s1.mem.filter (fun c => !inFrame pa (2 ^ 16) c.1),
            ukey := s1.ukey.filter (fun u => !inFrame pa (2 ^ 16) (16 * u.1)),
            bad := s1.bad.filter (fun b => !inFrame pa (2 ^ 16) (64 * b)) }

/-- First touch: a store frame is mapped, readable and writable (log entry 25). -/
def backArena (s : State) (t a w1 : Nat) : Svc :=
  match takeFrame s t (fun s pa => frameFits s w1 pa) with
  | none => .noFrame
  | some (s1, f) => .done (noteArena (putLeaf (loosen s1 f) t a 1 (f + 0x37) w1) t (nb w1 36 12) none (some f))

/-! ### MIGRATED pages (R382, R398) -/

/-- The bytes of the page whose image stands at a capacity-tier address; none where the engine made none there. -/
def imageBytes (s : State) (w0 : Nat) : Option Nat := mget s.images (w0 / 2 ^ 12)

/-- An image is freed once no entry names it. -/
def dropImage (s : State) (t w0 : Nat) : State :=
  let at_ := tierBase + w0 / 2 ^ 12 * 2 ^ 12
  if 1 < shareOf s t at_ (2 ^ 12) then shareDown s t at_ (2 ^ 12) else { s with images := mdel s.images (w0 / 2 ^ 12) }

/-- A MIGRATED page restored to a store frame; an uncorrectable image makes the whole page so (R409). -/
def restorePage (s : State) (t a w0 w1 : Nat) : Svc :=
  match imageBytes s w0 with
  | none => .bad causePage
  | some n =>
    let ps := if n = 2 ^ 12 then 0 else 1
    let src := tierBase + w0 / 2 ^ 12 * 2 ^ 12
    match takePage s t ps w1 with
    | none => .noFrame
    | some (s1, f) =>
      let s2 := copyPage s1 (nb w1 28 8) src f n
      let s3 := if frameBad s src n then
          { s2 with bad := s2.bad.filter (fun b => !inFrame f n (64 * b)) ++ (upTo (n / 64)).map (fun i => f / 64 + i) }
        else s2
      let s4 := noteArena (dropImage s3 t w0) t (nb w1 36 12) none (some f)
      .done (putLeaf s4 t a ps (f + nb w0 4 6 * 2 ^ 4 + 4 * ps + 3) (setF (setF w1 15 1 0) 13 1 0))

/-! ### Service on the spot -/

/-- How an access that the engine serves at once stands. -/
inductive Reach where
  | ok (s : State) (pa : Nat) (x : Xl)
  | wait (s : State)
  | need (s : State) (v : Service)
  | bad (s : State) (cause : Byte)
  deriving DecidableEq, Repr

/-- One service by the memory service engine, by the fresh walk of an address. -/
def serveOnce (s : State) (t root va : Nat) (v : Service) : Svc :=
  match v, walk s t root va with
  | .share, _ => breakShare s t root va
  | .arena, .absent _ _ w1 a _ => backArena s t a w1
  | .migrated, .absent _ w0 w1 a _ => restorePage s t a w0 w1
  | _, _ => .again s

/-- An access with every fault that the memory service engine serves served on the way. -/
def reach : Nat → State → Nat → Nat → Nat → Want → Reach
  | 0, s, _, _, _, _ => .wait s
  | k + 1, s, t, root, va, want =>
    match access s .fresh t root va want with
    | (s1, .ok pa x) =>
      -- a store to the spill region of a running query waits for its end (R156)
      if !x.legal then .bad s1 causeFmt else if want.w && spillHolds s1 (pa / lineBytes) then .wait s1 else .ok s1 pa x
    | (s1, .fail cause) => .bad s1 cause
    | (s1, .serve .wpw) => .wait s1
    | (s1, .serve .pri) => .need s1 .pri
    | (s1, .serve .request) => .need s1 .request
    | (s1, .serve v) =>
      match serveOnce s1 t root va v with
      | .done s2 => reach k s2 t root va want
      | .again s2 => .wait s2
      | .noFrame => if regionOn s1 t then .need s1 .request else .bad s1 causePage
      | .bad cause => .bad s1 cause

end Sys2Proof.Machine
end

