-- ==== Sys2Proof/Machine/Device.lean ====
section
/-! DEFINITION. What units of the device do to memory on their own account: ring records in a tenant's memory
(R421, R434), fault records (R373), interrupts (R361), virtual core numbers (R28), token writes (R78, R79), and
engine accesses with their faults. -/

namespace Sys2Proof.Machine

/-- Core (x, y) of a cluster enabled (R26). -/
def coreEnabled (s : State) (c : Nat) : Bool := decide (c < 1152) && !s.disabled.contains c

/-- The virtual index of a core: its place among the enabled cores of its cluster in ascending (y, x) (R28). -/
def virtCore (s : State) (c : Nat) : Nat :=
  ((List.range (c % 144)).filter (fun i => coreEnabled s (144 * clusterOf c + i))).length

/-- DEVINFO (R27): 0x09 in bits 31:24, the stepping, enabled cores per cluster, dies times two and stacks. -/
def devinfo (s : State) : Word :=
  BitVec.ofNat 32 (0x09 * 2 ^ 24 + Config.stepping.toNat * 2 ^ 16 +
    ((List.range 144).filter (fun i => coreEnabled s i)).length * 2 ^ 8 + 0x8 * 2 ^ 4 + 0x4)

/-- An interrupt of a function (R361). -/
def raiseMsi (s : State) (t vec : Nat) : State := { s with msi := s.msi ++ [(t, vec)] }

/-- Chunks of an address range that stay within one line: offset and length. -/
def lineChunks : Nat → Nat → Nat → List (Nat × Nat)
  | 0, _, _ => []
  | k + 1, va, n => if n = 0 then [] else
      let m := min n (lineBytes - va % lineBytes)
      (va, m) :: lineChunks k (va + m) (n - m)

def chunksOf (va n : Nat) : List (Nat × Nat) := lineChunks (n / lineBytes + 2) va n

/-- A unit reads n bytes of a tenant's memory from the home ports, faults that the memory service engine serves being served
on the way (R391); none where a page does not allow it or would have to wait. -/
def devRead (s : State) (t root va n : Nat) (user : Bool) : State × Option (List Byte) :=
  (chunksOf va n).foldl (fun (acc : State × Option (List Byte)) c =>
    match acc with
    | (s, none) => (s, none)
    | (s, some out) =>
      match reach 8 s t root c.1 { r := true, w := false, x := false, user := user } with
      | .ok s1 pa x => (s1, some (out ++ readPas s1 x.key pa c.2))
      | _ => (s, none)) (s, some [])

/-- The granules of a range of a TRK page, each with the trace that stores to it. -/
def gransOf (x : Xl) (root va n : Nat) (own : Option Nat) : List Gran :=
  if x.trk && !x.const then (List.range ((va + n - 1) / 32 - va / 32 + 1)).map (fun i => ⟨va / 32 + i, root, own⟩) else []

/-- A unit writes bytes to a tenant's memory at the home ports, as `devRead` reads; false where a page does not take them. The write is a
modification where its page is tracked (R121, R132). -/
def devWrite (s : State) (d t root va : Nat) (bs : List Byte) (user : Bool) (own : Option Nat) : State × Bool :=
  (chunksOf va bs.length).foldl (fun (acc : State × Bool) c =>
    match acc with
    | (s, false) => (s, false)
    | (s, true) =>
      match reach 8 s t root c.1 { r := false, w := true, x := false, user := user } with
      | .ok s1 pa x =>
        (homeWrite s1 d x.key t pa ((bs.drop (c.1 - va)).take c.2) (gransOf x root c.1 c.2 own), true)
      | _ => (s, false)) (s, true)

/-! ### Fault records (R373) -/

/-- A page as fault records name it. -/
structure FaultAt where
  job : Nat
  core : Nat
  g : Nat
  src : Nat
  cause : Byte
  va : Nat
  wr : Bool
  rd : Bool
  /-- the cycle of the fault, where it lies before that of the record -/
  stamp : Option Nat := none
  deriving DecidableEq, Repr

/-- The 32 bytes of a fault record (R373 Table 4). -/
def faultRecord (s : State) (t : Nat) (f : FaultAt) (req : Bool) (prgi : Nat) (l : Bool) : Nat :=
  let pasid := (fregGet s t 0xC).toNat
  f.rd.toNat + 2 * f.wr.toNat + 4 * l.toNat + 8 * prgi + 2 ^ 12 * (f.va / 2 ^ 12 % 2 ^ 52) +
  2 ^ 64 * (if nb pasid 31 1 == 1 then nb pasid 0 20 else 0) + 2 ^ 128 * req.toNat + 2 ^ 152 * f.cause.toNat +
  2 ^ 160 * (f.src % 16) + 2 ^ 164 * (f.g % 16) + 2 ^ 169 * virtCore s f.core + 2 ^ 177 * clusterOf f.core +
  2 ^ 180 * (f.job % 2 ^ 12) + 2 ^ 192 * ((f.stamp.getD s.cycle) % 2 ^ 64)

/-- Records in the fault region: written and not yet consumed. -/
def frUsed (s : State) (t : Nat) : Nat := ((fregGet s t 0x210) - (fregGet s t 0x20C)).toNat
def frFull (s : State) (t : Nat) : Bool := decide (2 ^ nb (fregGet s t 0x208).toNat 0 5 ≤ frUsed s t)

/-- One record appended: at slot FRTAIL of the region in HBM, under the tenant's default key (log entry 19). -/
def putFault (s : State) (t : Nat) (f : FaultAt) (req : Bool) (prgi : Nat) (l : Bool) : State :=
  let tail := (fregGet s t 0x210).toNat
  let base := (fregGet s t 0x200).toNat / 2 ^ 12 * 2 ^ 12 + 2 ^ 32 * (fregGet s t 0x204).toNat
  let pa := base + 32 * (tail % 2 ^ nb (fregGet s t 0x208).toNat 0 5)
  let s1 := writeNum s (defaultKey s t) pa 32 (faultRecord s t f req prgi l)
  raiseMsi (fregSet s1 t 0x210 (BitVec.ofNat 32 (tail + 1))) t 1

/-- A report record (R373): dropped with FROVF when the region is full, nothing when it is disabled. -/
def faultReport (s : State) (t : Nat) (f : FaultAt) : State :=
  if !regionOn s t then s
  else if frFull s t then fregSet s t 0x4 (fregGet s t 0x4 ||| 4)
  else putFault s t f false 0 true

/-! ### Rings in tenant memory (R421, R434) -/

/-- Units of `sz` bytes appended to a ring whose base CSRs are at `base`, whose size, head and tail CSRs are given:
as many as are free, and the first of them changed by `trunc` when some are missing. The number written is returned;
none where the ring is disabled or full. A ring page that allows no write counts as full (log entry 20). -/
def ringPut (s : State) (t base size head tail sz : Nat) (units : List Nat) (trunc : Nat → Nat) : State × Nat :=
  let z := nb (csrGet s t size).toNat 0 5
  let tl := (csrGet s t tail).toNat
  let free := 2 ^ z - (csrGet s t tail - csrGet s t head).toNat
  if z < 6 ∨ 16 < z then (s, 0)
  else
    let us := units.take free
    let us1 := if us.length < units.length then us.mapIdx (fun i u => if i = 0 then trunc u else u) else us
    let (s1, ok) := (us1.mapIdx (fun i u => (i, u))).foldl (fun (acc : State × Bool) iu =>
      match acc with
      | (s, false) => (s, false)
      | (s, true) => devWrite s 0 t (tenantRoot s t) (csrAddr s t base 12 + sz * ((tl + iu.1) % 2 ^ z))
          (leBytes sz iu.2) false none) (s, true)
    if !ok ∨ us1.isEmpty then (s1, 0)
    else (csrSet s1 t tail (BitVec.ofNat 32 (tl + us1.length)), us1.length)

/-! ### Needs of pages that end (R317) -/

/-- The needs of a party end. A request that awaits its answer keeps its place until the answer arrives, which then changes
nothing. -/
def dropNeeds (s : State) (p : Needer → Bool) : State :=
  { s with needs := s.needs.filterMap (fun x =>
      if !p x.2.who then some x
      else if x.2.out.isEmpty then none
      else some (x.1, { x.2 with who := .gone, pages := [] })) }

/-- A party belongs to a task. -/
def needOf (s : State) (tid : Nat) (w : Needer) : Bool :=
  match w with
  | .log d _ _ => d == tid
  | .group d _ => d == tid
  | .fetch d _ => d == tid
  | .copy id => (mget s.copies id).any (fun o => o.tid == tid)
  | .coll id => (mget s.colls id).any (fun o => o.tid == tid)
  | .query id => (mget s.queries id).any (fun o => o.tid == tid)
  | .fork id => (mget s.forks id).any (fun o => o.tid == tid)
  | .mat c e id =>
    ((if e then (core s c).ma1 else (core s c).ma0)).any (fun o => o.id == id && o.tid == tid)
  | .eventide _ => false
  | .gone => false

/-! ### Tokens and group notices -/

/-- A group may find its instruction able to issue again. -/
def wakeGroup (s : State) (tid g : Nat) : State := modGroup s tid g (fun x => { x with stall := false })
def wakeTask (s : State) (tid : Nat) : State :=
  modTask s tid (fun t => { t with groups := t.groups.map (fun p => (p.1, { p.2 with stall := false })) })
def wakeAll (s : State) : State :=
  { s with tasks := s.tasks.map (fun p =>
      (p.1, { p.2 with groups := p.2.groups.map (fun q => (q.1, { q.2 with stall := false })) })) }

/-- Hardware writes a pending token once, at completion (R78). An instruction that reads it sees every effect of the operation
(R79, R146): the acquire of the task's core is made here, before any read (log entry 78). -/
def writeToken (s : State) (tid g tok : Nat) (w : Word) : State :=
  let s1 := match mget s.tasks tid with
    | some k => acqAct s k.core .package
    | none => s
  modGroup s1 tid g (fun x =>
    { x with sr := mputD 0 x.sr tok w, toks := x.toks.filter (fun k => k != tok), stall := false,
             rbad := x.rbad.filter (fun k => k != 16384 + tok) })

/-- A token becomes pending (R78). An earlier load of the register does not hold the operation up, and its late data is not kept
(R262, R345). -/
def pendToken (s : State) (tid g tok : Nat) : State :=
  modGroup s tid g (fun x => { x with toks := x.toks ++ [tok], passed := mput x.passed tok s.serial })

/-- The scalar register that a token or scalar field names (R171). -/
def scalIdx (r : Reg) : Nat := r.toNat - 448

/-- A status word (R303). -/
def statusWord (status value : Nat) : Word := BitVec.ofNat 32 (status * 2 ^ 24 + satTo value (2 ^ 24 - 1))

/-- The translating root of a task (R385, R134). -/
def propRoot (s : State) (t : Task) : Option Nat :=
  if t.prop then
    t.traced.bind (fun h => (mget (tenant s t.tenant).traces h.1).bind (fun tr => tr.prop.map (·.root)))
  else none
def rootOf (s : State) (t : Task) : Nat := (propRoot s t).getD (rootOfEntry s t.tenant t.launch)

/-- The job of a task, for records and charges: the enclosing job, or for a propagation's task the propagating job (R134). -/
def chargeJob (s : State) (t : Task) : Nat :=
  if t.prop then
    (t.traced.bind (fun h => (mget (tenant s t.tenant).traces h.1).bind (fun tr => tr.prop.map (·.job)))).getD 0
  else jobOf s t.tenant t.launch

/-! ### Free values -/

/-- The next free word (log entry 9), and the state that has used it. -/
def takeFree (s : State) : State × Word := ({ s with fresh := s.fresh + 1 }, Config.freeWord s.fresh)

/-! ### Tagged-instruction sampling (R438 to R440): how following ends when a group or block goes away -/

/-- The head of a frontier (R36 rule 2); with none selectable, the entry that R440 names. -/
def headPc (es : List Entry) : Nat :=
  match bestBy betterHead (es.filter Entry.eligible) with
  | some e => e.pc.toNat
  | none => ((bestBy betterHead es).map (fun e => e.pc.toNat)).getD 0

/-- A saturating count in a CSR. -/
def csrCount (s : State) (t c : Nat) : State :=
  let w := csrGet s t c
  if w == 0xFFFFFFFF then s else csrSet s t c (w + 1)

/-- The fields of a sampling record (R439 Table 11) that do not depend on the instruction; a sampler's key is 4 x core +
scheduler. -/
def sampleBase (s : State) (t : Task) (key g : Nat) (pc bmask at_ : Nat) : Nat :=
  2 ^ 186 * (key % 4) + 2 ^ 188 * g + 2 ^ 192 * clusterOf (key / 4) + 2 ^ 195 * virtCore s (key / 4) +
  2 ^ 300 * t.phases.toNat + 2 ^ 332 * t.launch + 2 ^ 344 * t.blk + 2 ^ 368 * (at_ % 2 ^ 48) + 2 ^ 416 * bmask + 2 ^ 455 * pc

/-- A record written to the sample ring; one that finds no room is counted in SMLOST (R440). -/
def putSample (s : State) (t r : Nat) : State :=
  let (s1, n) := ringPut s t 0x080 0x082 0x083 0x084 64 [r] id
  if n = 0 then csrCount s1 t 0x087 else s1

def setTag (s : State) (t key : Nat) (g : Option SampTag) : State :=
  modTenant s t (fun x => { x with samplers := mmod x.samplers key (fun y => { y with tag := g }) })

/-- Tags of groups that leave before their tagged instruction issues: slips, and no record. -/
def slipTags (s : State) (t : Nat) (p : SampTag → Bool) : State :=
  (tenant s t).samplers.foldl (fun (s : State) q =>
    match q.2.tag with
    | some g => if g.note.isNone && p g then csrCount (setTag s t q.1 none) t 0x086 else s
    | none => s) s

/-- The record of a tag whose block is cancelled, TERM CANCEL: its instruction's so far, or that of the head. -/
def cancelNote (s : State) (t : Task) (key : Nat) (g : SampTag) : Option Nat :=
  match g.note with
  | some 0 => none
  | some r => some (r + 2 ^ 205 * 4)
  | none =>
    (mget t.groups g.g).map (fun x =>
      let head := bestBy betterHead (x.live.filter Entry.eligible)
      sampleBase s t key g.g (headPc x.live) ((head.map (fun e => e.mask.toNat)).getD 0) g.at_ + 2 ^ 205 * 4 +
        2 ^ 212 * ((Config.freeWord s.fresh).toNat % 2 ^ 8))

/-- Tags of a block that is cancelled (R440). -/
def cancelTags (s : State) (tid : Nat) (t : Task) : State :=
  (tenant s t.tenant).samplers.foldl (fun (s : State) q =>
    match q.2.tag with
    | none => s
    | some g =>
      if g.tid != tid then s
      else match cancelNote s t q.1 g with
        | none => s
        | some r => putSample (setTag { s with fresh := s.fresh + 1 } t.tenant q.1 none) t.tenant r) s

end Sys2Proof.Machine
end

