-- ==== Sys2Proof/Machine/Dist.lean ====
section
/-! DEFINITION. The distributor's counters (R44 to R48), counter dependences (R47), watches and the completion ring
(R368, R369), budgets (R56), the end of a task (R45, R198) and the marking of a cancellation (R48, R316). -/

namespace Sys2Proof.Machine

/-! ### Completion entries -/

def cqSize (s : State) (t : Nat) : Nat := nb (fregGet s t 0x108).toNat 0 5
def cqOn (s : State) (t : Nat) : Bool := decide (4 ≤ cqSize s t) && decide (cqSize s t ≤ 16)
/-- The device has 2^CQSIZE entries unconsumed past CQHEAD (R368). -/
def cqFull (s : State) (t : Nat) : Bool :=
  decide (2 ^ cqSize s t ≤ (BitVec.ofNat 32 (tenant s t).cqTail - fregGet s t 0x10C).toNat)

/-- One entry written to host memory with its PHASE, and MSI-X vector 0 (R368). -/
def cqWrite (s : State) (t : Nat) (e : BitVec 128) : State :=
  let n := (tenant s t).cqTail
  let base := (fregGet s t 0x100).toNat / 2 ^ 12 * 2 ^ 12 + 2 ^ 32 * (fregGet s t 0x104).toNat
  let phase := if n / 2 ^ cqSize s t % 2 = 0 then 1 else 0
  let s1 := (leBytes 16 (e.toNat + phase)).zipIdx.foldl (fun s p =>
    writeHost s (base + 16 * (n % 2 ^ cqSize s t) + p.2) p.1) s
  raiseMsi (modTenant s1 t (fun x => { x with cqTail := n + 1 })) t 0

/-- An entry that waits while the ring is full (R368: watch events are held until CQHEAD advances). -/
def cqPut (s : State) (t : Nat) (e : BitVec 128) : State :=
  if !cqOn s t then s
  else if cqFull s t || !(tenant s t).cqPend.isEmpty then modTenant s t (fun x => { x with cqPend := x.cqPend ++ [e] })
  else cqWrite s t e

/-- Held entries written as far as the ring has room. -/
def cqDrain : Nat → State → Nat → State
  | 0, s, _ => s
  | n + 1, s, t =>
    match (tenant s t).cqPend with
    | [] => s
    | e :: es => if !cqOn s t || cqFull s t then s
                 else cqDrain n (cqWrite (modTenant s t (fun x => { x with cqPend := es })) t e) t

/-! ### When the device answers the host -/

/-- The cold reset has ended its step 5, and the module is not in standby (R441, R32). -/
def hostUp (s : State) : Bool := s.mgmt.boot == 6 && !s.mgmt.standby

/-- A function of an enabled tenant answers; while RSTBUSY = 1 writes to it are dropped (R364, R376). -/
def funcUp (s : State) (t : Nat) : Bool := hostUp s && (tenant s t).enabled && !(tenant s t).resetting

/-- A host write placed behind the writes of its function that wait (R367). -/
def postWrite (s : State) (t : Nat) (i : HostWrite) : State := modTenant s t (fun x => { x with posted := x.posted ++ [i] })

/-- A host's write `i`, where the function answers: it does f, once every earlier posted write of the function is applied. -/
def hostAct (s : State) (t : Nat) (i : HostWrite) (f : State → State) : Host.Outcome State Fault Refusal :=
  .next (if !funcUp s t then s else if (tenant s t).posted.isEmpty then wakeAll (f s) else postWrite s t i)

/-! ### Counter entries -/

def CStat.code : CStat → Nat
  | .open => 1 | .done => 2 | .cancelled => 3 | .budget => 4 | .faulted => 5

def CStat.final : CStat → Bool
  | .open => false
  | _ => true

/-- STATUS as a number; 0 for FREE. -/
def statusOf (s : State) (t i : Nat) : Nat := ((counter s t i).map (fun c => c.status.code)).getD 0

def setCounter (s : State) (t i : Nat) (c : Counter) : State :=
  modTenant s t (fun x => { x with ctr := mput x.ctr i c })

/-- Entry i as the counter window shows it (R44 Table 7). -/
def counterBits (c : Counter) : Nat :=
  c.done % 2 ^ 32 + 2 ^ 32 * (c.target % 2 ^ 32) + 2 ^ 109 * c.level + 2 ^ 112 * c.status.code +
  2 ^ 116 * (c.parent % 2 ^ 12) + 2 ^ 128 * (c.budget % 2 ^ 64) + 2 ^ 192 * (c.used % 2 ^ 64)

/-- One watch fires (R369): a WATCH entry, then ARM clears. -/
def fireWatch (s : State) (t w : Nat) : State :=
  let r := (fregGet s t (0x10 + 4 * w)).toNat
  let i := nb r 0 12
  let done := ((counter s t i).map (·.done)).getD 0
  let e : Nat := 2 + 2 ^ 48 * statusOf s t i + 2 ^ 52 * i + 2 ^ 64 * (done % 2 ^ 32) + 2 ^ 96 * w
  fregSet (cqPut s t (BitVec.ofNat 128 e)) t (0x10 + 4 * w) (BitVec.ofNat 32 (r % 2 ^ 31))

/-- The armed watches of an entry fire when it reaches a final status. -/
def fireWatches (s : State) (t i : Nat) : State :=
  (upTo 8).foldl (fun s w =>
    let r := (fregGet s t (0x10 + 4 * w)).toNat
    if nb r 31 1 = 1 ∧ nb r 0 12 = i then fireWatch s t w else s) s

/-- DONE of an entry rises by k; at TARGET an OPEN entry takes its final status and counts in its parent (R45). The DONE of an
entry that reached DONE or FAULTED by completion never changes again.
`n` bounds the PARENT chain. -/
def countUpFrom : Nat → State → Nat → Nat → Nat → Bool → State
  | 0, s, _, _, _, _ => s
  | n + 1, s, t, i, k, bad =>
    match counter s t i with
    | none => s
    | some c =>
      let c1 := { c with done := c.done + k, bad := c.bad || bad }
      if c.status == .done || c.status == .faulted then s
      else if c.status == .open && decide (c.target ≤ c1.done) then
        let st := if c1.bad then CStat.faulted else CStat.done
        let s1 := fireWatches (setCounter s t i { c1 with status := st }) t i
        countUpFrom n s1 t c.parent 1 (st == .faulted)
      else setCounter s t i c1

/-- Whether a dependence is met, or can never be met (R47). -/
def depMet (s : State) (t c thr : Nat) : Bool :=
  c == 0 || (match counter s t c with
    | none => true
    | some e => decide (thr ≤ e.done))
def depDead (s : State) (t c thr : Nat) : Bool :=
  c != 0 && (match counter s t c with
    | none => false
    | some e => e.status.final && decide (e.done < thr))

/-- A queue without one launch; a queue that becomes non-empty or is passed on keeps its age (R51). -/
def unqueue (s : State) (t i : Nat) : State :=
  modTenant s t (fun x => { x with queues := x.queues.map (fun p => (p.1, { p.2 with recs := p.2.recs.filter (fun j => j != i) })) })

/-- A launch removed under R47: CANCELLED, its tasks all counted, and counted in its parent. -/
def removeLaunch (s : State) (t i : Nat) : State :=
  match counter s t i with
  | none => s
  | some c =>
    if c.status.final then s
    else
      let s1 := setCounter (unqueue s t i) t i { c with status := .cancelled, done := c.target }
      let s2 := modTenant s1 t (fun x => { x with launches := mmod x.launches i (fun l => { l with aborted := true, next := l.trec.blocks }) })
      countUpFrom 4096 (fireWatches s2 t i) t c.parent 1 false

/-- Every waiting launch: a met dependence stays met, and a launch with one that can never be met is removed (R47).
A removal can settle other dependences: `n` rounds. -/
def sweepDeps : Nat → State → Nat → State
  | 0, s, _ => s
  | n + 1, s, t =>
    let s1 := modTenant s t (fun x => { x with launches := x.launches.map (fun p =>
      let r := p.2.trec
      (p.1, { p.2 with trec := { r with dep0c := if depMet s t r.dep0c r.dep0t then 0 else r.dep0c,
                                        dep1c := if depMet s t r.dep1c r.dep1t then 0 else r.dep1c } })) })
    match (tenant s1 t).launches.find? (fun p =>
        p.2.next == 0 && !p.2.aborted &&
        (depDead s1 t p.2.trec.dep0c p.2.trec.dep0t || depDead s1 t p.2.trec.dep1c p.2.trec.dep1t)) with
    | none => s1
    | some p => sweepDeps n (removeLaunch s1 t p.1) t

/-- Every dependence settled: each round but the last removes a launch. -/
def settleDeps (s : State) (t : Nat) : State := sweepDeps ((tenant s t).launches.length + 1) s t

/-- COUNTER_COMPLETION: DONE rises and everything that follows (R45 to R47). Blocked `cntwait`s are woken by the step. -/
def countUp (s : State) (t i k : Nat) (bad : Bool) : State :=
  wakeAll (settleDeps (countUpFrom 4096 s t i k bad) t)

/-! ### Budgets (R56) -/

/-- The job entries that a task's cycles are charged to. -/
def chargedJobs (s : State) (t : Task) : List Nat :=
  (chainOf s t.tenant (chargeJob s t)).filter (fun i => (counter s t.tenant i).any (fun c => c.level == 4))

/-- A task's cycles since it was last charged. -/
def chargeTask (s : State) (tid : Nat) : State :=
  match task s tid with
  | none => s
  | some t =>
    let n := if t.saved then 0 else s.cycle - t.chargedAt
    let s1 := (chargedJobs s t).foldl (fun s i =>
      match counter s t.tenant i with
      | none => s
      | some c => setCounter s t.tenant i { c with used := c.used + n }) s
    setTask s1 tid { t with chargedAt := s.cycle }

/-- A job whose USED exceeds a non-zero BUDGET while it is OPEN. -/
def overBudget (s : State) (t : Nat) : Option Nat :=
  ((tenant s t).ctr.find? (fun p =>
    p.2.level == 4 && p.2.status == .open && p.2.budget != 0 && decide (p.2.budget < p.2.used))).map (·.1)

/-! ### Levels being cancelled (R48, R316) -/

/-- The entries whose PARENT chain reaches entry i, entry i included. -/
def subtree (s : State) (t i : Nat) : List Nat :=
  ((tenant s t).ctr.map (·.1)).filter (fun j => (chainOf s t j).contains i)

/-- The OPEN entries of a set take a status, and each counts in its parent at once (R48). -/
def markEntries (s : State) (t : Nat) (set : List Nat) (st : CStat) : State :=
  let hit := set.filter (fun i => (counter s t i).any (fun c => c.status == .open))
  let s1 := hit.foldl (fun s i =>
    match counter s t i with
    | none => s
    | some c => fireWatches (setCounter s t i { c with status := st }) t i) s
  let s2 := hit.foldl (fun s i => modTenant (unqueue s t i) t (fun x =>
    { x with launches := mmod x.launches i (fun l => { l with aborted := true }) })) s1
  hit.foldl (fun s i =>
    match counter s t i with
    | none => s
    | some c => countUpFrom 4096 s t c.parent 1 false) s2

/-- Cancelled jobs: their `fork`s in flight end without children (R314), and no further task of a propagation that they run
starts (R142). -/
def markJobs (s : State) (t : Nat) (set : List Nat) : State :=
  let hit := fun (tr : Trace) => tr.prop.any (fun p => p.job != 0 && set.contains p.job)
  let s1 := { s with forks := s.forks.map (fun p =>
    (p.1, if p.2.tenant == t && set.contains p.2.job then { p.2 with cancelled := true } else p.2)) }
  modTenant s1 t (fun x =>
    let hs := (x.traces.filter (fun p => hit p.2)).map (·.1)
    { x with traces := x.traces.map (fun p =>
               (p.1, if hit p.2 then { p.2 with prop := p.2.prop.map (fun r => { r with cancelled := true }) } else p.2)),
             spawns := x.spawns.filter (fun p => !(p.prop && p.traced.any (fun h => hs.contains h.1))) })

/-- A cancellation starts: marks now, reclamation as the event CANCEL_RECLAIM (R316). -/
def startCancel (s : State) (t : Nat) (set : List Nat) (st : CStat) (tok : Option (Nat × Nat × Nat)) : State :=
  let hit := (set.filter (fun i => (counter s t i).any (fun c => c.status == .open))).length
  let s1 := markJobs (settleDeps (markEntries s t set st) t) t set
  wakeAll { s1 with serial := s1.serial + 1,
                    cancels := mput s1.cancels s1.serial { tenant := t, tok := tok, entries := set, tasks := [],
                                                           value := hit, status := 0 } }

/-- Every OPEN job of a tenant whose USED exceeds its BUDGET is cancelled with STATUS BUDGET (R56). -/
def capBudgets (s : State) (t : Nat) : State :=
  (tenant s t).ctr.foldl (fun (s : State) p =>
    if (counter s t p.1).any (fun c => c.level == 4 && c.status == .open && c.budget != 0 && decide (c.budget < c.used)) then
      startCancel s t (subtree s t p.1) .budget none
    else s) s

/-! ### The end of a collective (R297, R299) -/

/-- The values that the ranks of one collective must agree on (R299). -/
def collAgree (op : CollOp) : List Nat := [op.kind, op.count, op.nrank, op.root, op.fmt.code, op.geom.code, op.ty]

/-- Two operations belong to one collective. -/
def collSame (a b : CollOp) : Bool :=
  a.tenant == b.tenant && a.comm == b.comm && a.seqno == b.seqno && a.stage != 0 && b.stage != 0

/-- Some rank of this module still needs what others have sent: it takes part, or has not come yet. -/
def collWanted (s : State) (op : CollOp) : Bool :=
  s.colls.any (fun p => collSame p.2 op) ||
  (((mget (tenant s op.tenant).comms op.comm).getD []).zipIdx.any (fun p =>
    nb p.1.toNat 0 16 == nb (fregGet s 0 0x8).toNat 0 16 &&
    decide (mgetD 0 (tenant s op.tenant).collSeq (4096 * op.comm + p.2) ≤ op.seqno)))

/-- An operation gone: what it has sent is kept while another rank of this module may need it. -/
def dropColl (s : State) (id : Nat) (op : CollOp) : State :=
  let part : CollPart := { comm := op.comm, seqno := op.seqno, rank := op.rank, fields := collAgree op, elems := op.sent }
  let s1 := { s with colls := mdel s.colls id }
  if op.stage = 0 then s1
  else if collWanted s1 op then
    (if op.stage = 2 then modTenant s1 op.tenant (fun x => { x with collSent := x.collSent ++ [part] }) else s1)
  else modTenant s1 op.tenant (fun x => { x with
    collSent := x.collSent.filter (fun p => !(p.comm == op.comm && p.seqno == op.seqno)) })

/-! ### The end of a task (R198, R45) -/

/-- The engine operations of a task vanish without tokens (R316: abandoned, aborted, cancelled). -/
def dropOps (s0 : State) (tid : Nat) : State :=
  let s1 := dropNeeds s0 (needOf s0 tid)
  let s := (s1.colls.filter (fun p => p.2.tid == tid)).foldl (fun s p => dropColl s p.1 p.2) s1
  { s with
    copies := s.copies.filter (fun p => p.2.tid != tid)
    queries := s.queries.filter (fun p => p.2.tid != tid)
    cores := s.cores.map (fun p => (p.1, { p.2 with ma0 := p.2.ma0.filter (fun o => o.tid != tid),
                                                    ma1 := p.2.ma1.filter (fun o => o.tid != tid) })) }

/-- The trace learns that a traced task has ended: RECORDING becomes CLEAN, or STALE where a modification reached it
(R141); a re-execution becomes ENDED (Table 7). -/
def traceEnded (s : State) (t : Nat) (h : Option (Nat × Nat)) : State :=
  match h with
  | none => s
  | some (hd, r) => modTenant s t (fun x => { x with traces := mmod x.traces hd (fun tr =>
      { tr with dirty := true, tasks := mmod tr.tasks r (fun k =>
          { k with state := if k.state = 0 then (if k.late then 2 else 1) else if k.state = 4 then 5 else k.state }) }) })

/-- The end of a task counted at its launch (R45): at once, or, in a DET launch that has not been cancelled, with its
block (BLOCK_RETIRE, HORIZON_APPLY). -/
def countTaskEnd (s : State) (t launch blk : Nat) (bad : Bool) : State :=
  match mget (tenant s t).launches launch with
  | some l =>
    if l.trec.det && !l.aborted then
      let s1 := match counter s t launch with
        | some c => setCounter s t launch { c with bad := c.bad || bad }
        | none => s
      modTenant s1 t (fun x => { x with launches := mmod x.launches launch (fun l =>
        { l with ends := mput l.ends blk (mgetD 0 l.ends blk + 1) }) })
    else countUp s t launch 1 bad
  | none => countUp s t launch 1 bad

/-- A context ends with its last block (R43). -/
def dropContext (s : State) (t c : Nat) : State :=
  if s.tasks.any (fun p => p.2.tenant == t && p.2.core == c) then s
  else modTenant s t (fun x => { x with ctxs := mdel x.ctxs c })

/-- A task leaves its core: its charges are made, its operations are gone, and its end is counted unless a
propagation runs it (R134). -/
def endTask (s : State) (tid : Nat) (bad : Bool) : State :=
  match task s tid with
  | none => s
  | some t =>
    let s1 := dropOps (chargeTask (cancelTags s tid t) tid) tid
    let s2 := dropContext (traceEnded { s1 with tasks := mdel s1.tasks tid } t.tenant t.traced) t.tenant t.core
    capBudgets (wakeAll (if t.prop then s2 else countTaskEnd s2 t.tenant t.launch t.blk bad)) t.tenant

end Sys2Proof.Machine
end

