-- ==== Sys2Proof/Machine/Ops.lean ====
section
/-! DEFINITION. What every instruction shares: the issuing bundle (R36, R174), registers (R67, R68, R171 to R173), the
scoreboard and pending tokens (R57, R58, R78), taking a trap and returning from one (R60 to R63, R420 to R424, R462),
supervisor reports (R422), event records (R435 to R437), and the wrapper `run` through which a meaning acts. -/

namespace Sys2Proof.Machine

open Host

/-! ### Registers -/

/-- A register of a group. -/
inductive Rg where
  | v (n : Nat)
  | s (n : Nat)
  deriving DecidableEq, Repr

/-- The register k places after the one that a field names (R171): with `u`, values from 448 name scalar registers.
A scalar group never turns into vector registers: s64 does not exist (R193, R224). -/
def fieldRg (u : Bool) (r : Reg) (k : Nat) : Rg :=
  if u && decide (448 ≤ r.toNat) then .s (r.toNat - 448 + k) else .v (r.toNat + k)

/-- n consecutive registers that a field names. The flag says whether values from 448 name scalar registers. -/
structure Use where
  u : Bool
  r : Reg
  n : Nat
  deriving DecidableEq, Repr

/-- The registers of a use. -/
def Use.regs (x : Use) : List Rg := (List.range x.n).map (fieldRg x.u x.r)

/-- R68, R193, R224: within the group's vector allocation, or within s0 to s63. -/
def Rg.fits (granules : Nat) : Rg → Bool
  | .v n => decide (n < 32 * granules)
  | .s n => decide (n < 64)

/-- One register as a lane reads it. -/
def Group.reg (g : Group) (r : Rg) (lane : Nat) : Word :=
  match r with
  | .v n => mgetD 0 g.v (32 * n + lane)
  | .s n => mgetD 0 g.sr n

/-- One register written: a vector register in the lanes of a set, a scalar register once. An overwrite removes an
uncorrectable error (R31, R409). -/
def Group.setReg (g : Group) (r : Rg) (lanes : List Nat) (w : Word) : Group :=
  match r with
  | .v n => { g with v := lanes.foldl (fun m i => mputD 0 m (32 * n + i) w) g.v,
                     rbad := g.rbad.filter (fun k => !(k / 32 == n && lanes.contains (k % 32))) }
  | .s n => { g with sr := mputD 0 g.sr n w, rbad := g.rbad.filter (fun k => k != 16384 + n) }

/-- A predicate of every lane; 7 is pt (R174). -/
def Group.pred (g : Group) (p : Nat) : Lanes := if p = 7 then 0xFFFFFFFF else mgetD 0 g.pr p

/-- A predicate set to a value in some lanes; pt is not written. -/
def Group.setPred (g : Group) (p : Nat) (lanes vals : Lanes) : Group :=
  if p = 7 then g else { g with pr := mputD 0 g.pr p ((g.pred p &&& ~~~ lanes) ||| (vals &&& lanes)) }

/-- The lanes in which a guard holds (R174), before the bundle restricts them. -/
def Group.guard (g : Group) (h : Hdr) : Lanes :=
  if h.pn then ~~~ (g.pred h.pg.toNat) else g.pred h.pg.toNat

/-! ### Destinations that are pending -/

/-- Registers that an operation's lanes write (R223 to R225, R229, R238). -/
def MemOp.dest : MemOp → List Use
  | .load d u sz _ _ _ => [⟨u, d, match sz with
      | .b64 => 2
      | .b128 => 4
      | _ => 1⟩]
  | .loadx d u _ _ => [⟨u, d, 1⟩]
  | .atom d u op _ _ => [⟨u, d, if op == .addN64 || op == .exchB64 then 2 else 1⟩]
  | .cas d u w _ _ => [⟨u, d, if w then 2 else 1⟩]
  | _ => []

def MemOp.dests (o : MemOp) : List Rg := o.dest.flatMap Use.regs

/-- The logged instruction that a trap at a replay point concerns is pending until its lanes return (R462). -/
def Group.loggedOps (g : Group) : List OpEntry :=
  g.oplog ++ (match g.trap with
    | some tm => tm.logged.toList
    | none => [])

/-- Registers that await a load's data or a served fault (R57, R58). -/
def Group.pendRegs (g : Group) : List Rg :=
  g.loads.flatMap (fun l => l.2.op.dests) ++ g.loggedOps.flatMap (fun o => o.op.dests)

/-- A scalar register is a pending token (R78). -/
def Group.pendTok (g : Group) : Rg → Bool
  | .s n => g.toks.contains n
  | .v _ => false

/-! ### The issuing bundle -/

/-- The bundle that executes an instruction. -/
structure Ctx where
  tid : Nat
  g : Nat
  task : Task
  grp : Group
  ent : Entry
  len : Nat
  h : Hdr
  act : Lanes
  deriving DecidableEq, Repr

def Ctx.pc (c : Ctx) : VA := c.ent.pc
def Ctx.bundle (c : Ctx) : Lanes := c.ent.mask
/-- The lowest-numbered active lane. -/
def Ctx.lead (c : Ctx) : Nat := lowest c.act
/-- The set of that lane alone. -/
def Ctx.leadSet (c : Ctx) : Lanes := oneLane c.lead
/-- The lanes that form operands: every active lane, or the lowest one when U = 1 (R172). -/
def Ctx.lanes (c : Ctx) : List Nat := if c.h.u then [c.lead] else lanesOf c.act
/-- The tenant. -/
def Ctx.ten (c : Ctx) : Nat := c.task.tenant
/-- The group runs at user level outside trap mode (R302). -/
def Ctx.user (c : Ctx) : Bool := c.grp.trap.isNone
/-- The address just past the instruction. -/
def Ctx.npc (c : Ctx) : VA := c.pc + BitVec.ofNat 57 c.len

/-- CTXMODE.FAIR of a tenant (R41). -/
def fairOn (s : State) (t : Nat) : Bool := nb (csrGet s t 0x020).toNat 0 1 == 1
/-- FAIRT.LIMIT of a tenant. -/
def fairLimit (s : State) (t : Nat) : Nat := nb (csrGet s t 0x021).toNat 0 16

/-- The bundle of a group's selected entry. -/
def bundleOf (s : State) (tid g : Nat) (h : Hdr) (len : Nat) : Option Ctx :=
  match task s tid with
  | none => none
  | some t =>
    match mget t.groups g with
    | none => none
    | some gr =>
      match gr.select (fairOn s t.tenant) (fairLimit s t.tenant) with
      | none => none
      | some e => some { tid := tid, g := g, task := t, grp := gr, ent := e, len := len, h := h,
                         act := e.mask &&& gr.guard h }

/-! ### How a meaning ends -/

/-- What an instruction does with its bundle. -/
inductive Res where
  /-- it completes, and its lanes advance past it -/
  | ok (s : State)
  /-- it completes and has moved its lanes itself -/
  | done (s : State)
  /-- it traps with a cause, the lanes that raised it, and EADDR -/
  | trap (s : State) (cause : Byte) (lanes : Lanes) (addr : Nat)
  /-- the group stalls: an engine wait or a late result (R36, R37) -/
  | wait (s : State)
  /-- the entry is blocked (R37) -/
  | block (s : State) (w : Wait)
  deriving DecidableEq, Repr

def causeIllegal : Byte := 0x01
def causePriv : Byte := 0x02
def causeMisaligned : Byte := 0x03
def causeBounds : Byte := 0x04
def causeChunk : Byte := 0x05
def causeClobber : Byte := 0x06
def causeBarCount : Byte := 0x07
def causeQueue : Byte := 0x08
def causeData : Byte := 0x0C
def causeToken : Byte := 0x0D
def causeHang : Byte := 0x0E
def causeDouble : Byte := 0x0F
def causeSoftware : Byte := 0x10
def causeBreak : Byte := 0x11
def causeGen : Byte := 0x12
def causeParam : Byte := 0x13

/-! ### Issue -/

/-- A group after one of its entries issued at a PC: the exemption of R428 and the one issue of STEP are used up. -/
def Group.issued (g : Group) (pc : VA) : Group :=
  { g with stall := false, sel := none, exempt := if g.exempt = some pc then none else g.exempt, steps := g.steps - 1 }

/-- The issuing frontier of the bundle's group: the counts of R39 and the pending sets of R40, then a change. -/
def Ctx.move (c : Ctx) (s : State) (f : List Entry → List Entry) : State :=
  modGroup s c.tid c.g (fun x =>
    (x.setLive (f (noteIssue (fairOn s c.ten) c.ent.id x.live))).issued c.pc)

/-- The bundle advances past its instruction. -/
def Ctx.advance (c : Ctx) (s : State) : State :=
  c.move s (fun es => es.map (fun e => if e.id == c.ent.id then { e with pc := c.npc } else e))

/-- The bundle's entry is blocked in a wait (R37). Entries that block leave every pending set (R40). -/
def Ctx.blockOn (c : Ctx) (s : State) (w : Wait) : State :=
  modGroup s c.tid c.g (fun x =>
    (x.setLive (releasePend [c.ent.id] (x.live.map (fun e =>
      if e.id == c.ent.id then { e with blk := some (w, c.len) } else e)))).issued c.pc)

/-- The group stalls as a unit, and its selected entry stays selected (R36). -/
def Ctx.stalled (c : Ctx) (s : State) : State :=
  modGroup s c.tid c.g (fun x => { x with stall := true, sel := some c.ent.id })

/-! ### Supervisor reports (R421, R422) -/

/-- The trap that a group unit reports: PC, cause, EMASK, EBMASK, EADDR, and for a double trap the PC and cause of
the trap that the handler was serving. -/
structure TrapInfo where
  epc : Nat
  cause : Byte
  emask : Lanes
  ebmask : Lanes
  eaddr : Nat
  oepc : Nat
  ocause : Byte
  deriving DecidableEq, Repr

/-- The lanes and entries of the two frontiers of a group. -/
def Group.hfront (g : Group) : List Entry :=
  match g.trap with
  | some tm => tm.hfront
  | none => []

/-- A group unit (R422 Table 9). -/
def groupUnit (gi : Nat) (g : Group) (info : Option TrapInfo) : Nat :=
  let i := info.getD { epc := headPc g.live, cause := 0, emask := 0, ebmask := 0, eaddr := 0, oepc := 0, ocause := 0 }
  16 * gi + 2 ^ 8 * (!g.loggedOps.isEmpty).toNat + 2 ^ 9 * g.trap.isSome.toNat +
  2 ^ 10 * (g.front.length + g.hfront.length) + 2 ^ 16 * i.cause.toNat + 2 ^ 184 * i.ocause.toNat +
  2 ^ 192 * i.oepc + 2 ^ 256 * i.eaddr + 2 ^ 320 * (frontMask g.hfront).toNat + 2 ^ 352 * (frontMask g.front).toNat +
  2 ^ 384 * i.ebmask.toNat + 2 ^ 416 * i.emask.toNat + 2 ^ 455 * i.epc

/-- What a group's own trap state says in a report, when the group is in trap mode. -/
def Group.trapInfo (g : Group) : Option TrapInfo :=
  g.trap.map (fun _ => { epc := g.epc.toNat, cause := g.ecause, emask := g.emask, ebmask := g.ebmask,
                         eaddr := g.eaddr.toNat, oepc := 0, ocause := 0 })

/-- Sixteen-byte items, four to a 64-byte unit, from bit 0 upwards. -/
def fourPer : List Nat → List Nat
  | a :: b :: c :: d :: r => (a + 2 ^ 128 * b + 2 ^ 256 * c + 2 ^ 384 * d) :: fourPer r
  | [] => []
  | l => [(l.getD 0 0) + 2 ^ 128 * (l.getD 1 0) + 2 ^ 256 * (l.getD 2 0)]

/-- One report of a block: `infos` are the groups that trapped, `edges` the wait-for edges (R422 Table 8). -/
def report (s : State) (tid kind : Nat) (cause : Byte) (infos : List (Nat × TrapInfo)) (edges : List Nat) : State :=
  match task s tid with
  | none => s
  | some t =>
    let header := 2 ^ 352 * virtCore s t.core + 2 ^ 360 * clusterOf t.core + 2 ^ 364 * kind +
      2 ^ 368 * edges.length + 2 ^ 384 * t.groups.length + 2 ^ 392 * cause.toNat + 2 ^ 400 * t.blk +
      2 ^ 424 * t.launch + 2 ^ 436 * jobOf s t.tenant t.launch + 2 ^ 448 * (s.cycle % 2 ^ 64)
    let units := t.groups.map (fun p => groupUnit p.1 p.2 (((infos.find? (fun q => q.1 == p.1)).map (·.2)).orElse
      (fun _ => p.2.trapInfo)))
    let (s1, n) := ringPut s t.tenant 0x055 0x057 0x058 0x059 64 (header :: units ++ fourPer edges)
      (fun u => u + 2 ^ 363)
    if n = 0 then csrSet s1 t.tenant 0x05A (csrGet s1 t.tenant 0x05A ||| 2) else s1

/-- A block that is to end without its groups having exited: it issues nothing more and its operations are gone; its end
is counted once its writes are visible (R46, TASK_END). -/
def finishTask (s : State) (tid : Nat) (bad : Bool) : State :=
  match task s tid with
  | none => s
  | some t =>
    wakeAll (setTask (dropOps (cancelTags s tid t) tid) tid
      { t with groups := [], run := .running, stopReq := none, faulted := bad })

/-- What follows a report (R421): the block ends FAULTED, or under TRAPCTL.HOLD stays stopped. -/
def endOrHold (s : State) (tid : Nat) (trapped : Option (Nat × VA × Lanes)) : State :=
  match task s tid with
  | none => s
  | some t =>
    if nb (csrGet s t.tenant 0x05A).toNat 0 1 = 1 then setTask s tid { t with run := .held trapped }
    else finishTask s tid true

/-- A trap delivered to the supervisor (R421). -/
def deliver (s : State) (tid kind : Nat) (cause : Byte) (g : Nat) (info : TrapInfo) : State :=
  endOrHold (report s tid kind cause [(g, info)] []) tid (some (g, BitVec.ofNat 57 info.epc, info.ebmask))

/-! ### Taking a trap -/

/-- Handler address (R63). -/
def hvec (s : State) (t : Nat) : Nat := csrAddr s t 0x024 2

/-- A group takes a trap (R60, R62, R63): `pc`, the bundle and its priority, the lanes that raised the cause. `logged`
is the log entry of a trap at a replay point, whose lanes leave the user frontier with their resume points (R462). -/
def enterTrap (s : State) (tid g : Nat) (pc : VA) (bundle : Lanes) (prio : Byte) (cause : Byte) (lanes : Lanes)
    (addr : Nat) (logged : Option OpEntry) : State :=
  match task s tid, group s tid g with
  | some t, some gr =>
    let info : TrapInfo := { epc := pc.toNat, cause := cause, emask := lanes, ebmask := bundle, eaddr := addr,
                             oepc := 0, ocause := 0 }
    if gr.trap.isSome then
      deliver s tid 1 causeDouble g { info with oepc := gr.epc.toNat, ocause := gr.ecause }
    else
      let gr1 := { gr with ecause := cause, epc := pc, emask := lanes, ebmask := bundle, eaddr := BitVec.ofNat 57 addr }
      if hvec s t.tenant = 0 then deliver (modGroup s tid g (fun _ => gr1)) tid 0 cause g info
      else
        let resume := gr.front.flatMap (fun e => (lanesOf (e.mask &&& bundle)).map (fun i => (i, e.pc, e.prio))) ++
          ((logged.map (·.resume)).getD [])
        let tm : TrapMode :=
          { hfront := [Entry.new s.serial (BitVec.ofNat 57 (hvec s t.tenant)) bundle 0], bundle := bundle, prio := prio,
            rti := 0, resume := if logged.isSome then resume else [], logged := logged }
        let s1 := { s with serial := s.serial + 1 }
        modGroup s1 tid g (fun _ =>
          { gr1 with front := dropLanes bundle gr1.front, trap := some tm, stall := false, sel := none })
  | _, _ => s

/-- The instruction of a bundle traps (R60): it counts as issued, and its bundle leaves the frontier. -/
def Ctx.takeTrap (c : Ctx) (s : State) (cause : Byte) (lanes : Lanes) (addr : Nat) : State :=
  enterTrap (c.move s id) c.tid c.g c.pc c.bundle c.ent.prio cause lanes addr none

/-! ### Returning from a trap -/

/-- Lanes grouped by PC and priority (R462): returning lanes at one PC with one PRIO form one entry. -/
def resumeEntries (n : Nat) (lanes : Lanes) (resume : List (Nat × VA × Byte)) : List Entry :=
  let rs := resume.filter (fun r => has lanes r.1)
  let keys := (rs.map (fun r => r.2)).dedup
  keys.mapIdx (fun k key =>
    Entry.new (n + k) key.1 (maskOf (fun i => rs.any (fun r => r.1 == i && r.2 == key))) key.2)

/-- A group whose frontiers are empty ends (R34, R61, R198): its slot and its registers are free. Lanes that still await
the replay of their logged instruction are lanes of the group (R462). -/
def endGroup (s : State) (tid g : Nat) : State :=
  match group s tid g with
  | none => s
  | some gr =>
    if gr.front.isEmpty && gr.trap.isNone && gr.oplog.all (fun o => o.resume.isEmpty) then
      slipTags (modTask s tid (fun t => { t with groups := mdel t.groups g }))
        (((task s tid).map (·.tenant)).getD 0) (fun x => x.tid == tid && x.g == g)
    else s

/-- Trap mode ends when the handler frontier is empty (R61). At a replay point (R462) the lanes that return to the logged
instruction stay out of the frontier until it has been replayed (`replayBack`). -/
def leaveTrap (s : State) (tid g : Nat) : State :=
  match group s tid g with
  | none => s
  | some gr =>
    match gr.trap with
    | none => endGroup s tid g
    | some tm =>
      if !tm.hfront.isEmpty then s
      else
        let at_ := fun (p : Byte) => if tm.rti == 0 then [] else [Entry.new s.serial gr.epc tm.rti p]
        let back := resumeEntries s.serial tm.rti tm.resume
        let (new, log) :=
          match tm.logged with
          | none => (at_ tm.prio, gr.oplog)
          | some o =>
            if gr.epc = o.pc then
              ([], if tm.rti == 0 then gr.oplog else
                { o with act := tm.rti, lanes := o.lanes.filter (fun l => has tm.rti l.lane), served := true, failed := none,
                         resume := tm.resume.filter (fun r => has tm.rti r.1) } :: gr.oplog)
            else if gr.epc = o.pc + BitVec.ofNat 57 o.len then (back, gr.oplog)
            else (at_ o.prio, gr.oplog)
        let s1 := modGroup { s with serial := s.serial + 32 } tid g (fun x =>
          { x with trap := none, front := x.front ++ new, oplog := log, stall := false, sel := none })
        endGroup s1 tid g

/-! ### The wrapper -/

/-- The lanes that would read a register which holds an uncorrectable error (R31, R409 Table 8). -/
def Ctx.badReads (c : Ctx) (rs : List Rg) : Lanes :=
  if c.grp.rbad.isEmpty then 0
  else maskOf (fun i => c.lanes.contains i && rs.any (fun r => match r with
    | .v n => c.grp.rbad.contains (32 * n + i)
    | .s n => c.grp.rbad.contains (16384 + n)))

/-- A trap of an instruction with a cause below another. -/
def Res.below (k : Byte) : Res → Option (State × Byte × Lanes × Nat)
  | .trap s cause lanes addr => if cause.toNat < k.toNat then some (s, cause, lanes, addr) else none
  | _ => none

/-- What a bundle's registers alone raise: a read of one that holds an error, or a write of a pending token (R78). -/
def Ctx.regTrap (c : Ctx) (pend : Bool) (rs ws : List Rg) : Option (Byte × Lanes) :=
  if !pend && c.badReads rs != 0 then some (causeData, c.badReads rs)
  else if ws.any c.grp.pendTok then some (causeToken, c.leadSet)
  else none

/-- A meaning of a bundle: its checks in the order of R60 and R183, then what it does. `always` is set for
instructions that act even when no lane is active (the branches). `reads` and `writes` are the registers that its
fields name; every one of them must lie within the allocation, and none that it uses may be awaited. Where the registers
alone raise a cause, a lower cause of the instruction itself is taken before it (R60), once its operands are there. -/
def runOn (always : Bool) (reads writes : List Use) (body : Ctx → State → Res) (c : Ctx) (s : State) : State :=
  let rs := reads.flatMap Use.regs
  let ws := writes.flatMap Use.regs
  if !((rs ++ ws).all (Rg.fits c.task.granules)) then c.takeTrap s causeIllegal c.bundle 0
  else if c.act == 0 && !always then c.advance s
  else
    let pend := c.act != 0 && ((rs ++ ws).any (fun r => c.grp.pendRegs.contains r) || rs.any c.grp.pendTok)
    match (if c.act == 0 then none else c.regTrap pend rs ws) with
    | some (k, lanes) =>
      (match (if pend then none else (body c s).below k) with
       | some (s1, cause, ls, addr) => c.takeTrap s1 cause ls addr
       | none => c.takeTrap s k lanes 0)
    | none =>
      if pend then c.stalled s
      else
        match body c s with
        | .ok s1 => c.advance s1
        | .done s1 => s1
        | .trap s1 cause lanes addr => c.takeTrap s1 cause lanes addr
        | .wait s1 => c.stalled s1
        | .block s1 w => c.blockOn s1 w

/-- A meaning that acts for the current group. -/
def runGen (always : Bool) (h : Hdr) (len : Nat) (reads writes : List Use) (body : Ctx → State → Res) (s : State) :
    Outcome State Fault Refusal :=
  match s.cur with
  | none => .fault .noBundle
  | some (tid, g) =>
    match bundleOf s tid g h len with
    | none => .fault .noBundle
    | some c => .next (runOn always reads writes body c s)

/-- An instruction that does nothing when no lane is active. -/
def run (h : Hdr) (len : Nat) (reads writes : List Use) (body : Ctx → State → Res) (s : State) :
    Outcome State Fault Refusal := runGen false h len reads writes body s

/-- A header for instructions whose words carry no guard or an always-true one. -/
def Hdr.plain : Hdr := { u := false, pn := false, pg := 7, rt := 0 }

/-- An event of a unit: it always answers a next state, and groups that stalled may try again. -/
def event (s : State) : Outcome State Fault Refusal := .next (wakeAll s)

/-! ### Event records (R435 to R437) -/

/-- Events of a kind are recorded (kinds 1 to 4 by EVMASK, 5 by MARKEN), and only in user frontiers. -/
def evOn (s : State) (t kind : Nat) (user : Bool) : Bool :=
  let d := (csrGet s t 0x060).toNat
  user && nb d 2 1 == 1 && (if kind = 5 then nb d 4 1 == 1 else nb d (7 + kind) 1 == 1)

/-- The event ring is enabled and has fewer than n free records, and ETSTALL asks to wait (R437). -/
def evWait (s : State) (t n : Nat) : Bool :=
  let z := nb (csrGet s t 0x07A).toNat 0 5
  nb (csrGet s t 0x060).toNat 7 1 == 1 && decide (6 ≤ z) && decide (z ≤ 16) && decide (0 < n) &&
    decide (2 ^ z < n + (csrGet s t 0x07C - csrGet s t 0x07B).toNat)

/-- One event record (R435 Table 8); one that finds no room is dropped and counted in ETLOST. -/
def evPut (s : State) (tid g kind : Nat) (pc : VA) (before after : Word) (cnt aux : Nat) : State :=
  match task s tid with
  | none => s
  | some t =>
    if !evOn s t.tenant kind true then s
    else
      let r := kind + 2 ^ 4 * aux + 2 ^ 8 * g + 2 ^ 12 * t.phases.toNat + 2 ^ 44 * t.launch + 2 ^ 56 * t.blk +
        2 ^ 80 * cnt + 2 ^ 87 * pc.toNat + 2 ^ 144 * after.toNat + 2 ^ 176 * before.toNat + 2 ^ 208 * (s.cycle % 2 ^ 48)
      let (s1, n) := ringPut s t.tenant 0x078 0x07A 0x07B 0x07C 32 [r] id
      if n = 0 then csrCount s1 t.tenant 0x07D else s1

end Sys2Proof.Machine
end

