-- ==== Sys2Proof/Machine/Fetch.lean ====
section
/-! DEFINITION. Fetching (R165, R167, R169), which groups may issue (R36, R414, R426 to R428), breakpoint matching, and the
needs that a fault which can be served raises (R371, R391, R463). -/

namespace Sys2Proof.Machine

open Host

/-! ### Needs of pages -/

/-- A party needs a page: the need is kept until the service completes or fails. -/
def addNeed (s : State) (t : Nat) (who : Needer) (v : Service) (write : Bool) (va src : Nat) : State :=
  let page := va / 2 ^ 12
  match s.needs.find? (fun p => p.2.who == who && p.2.tenant == t && p.2.svc == v) with
  | some (k, n) =>
    if n.pages.contains page then s
    else { s with needs := mput s.needs k { n with pages := n.pages ++ [page], write := n.write || write, all := n.all ++ [page] } }
  | none =>
    { s with serial := s.serial + 1,
             needs := mput s.needs s.serial { tenant := t, who := who, svc := v, write := write, pages := [page], out := [],
                                              src := src, va := va, all := [page], at_ := s.cycle } }

/-- Whether a party still waits for pages. -/
def hasNeed (s : State) (who : Needer) : Bool := s.needs.any (fun p => p.2.who == who)

/-! ### The instruction cache -/

/-- What a fetch gives: the bytes from the PC to the end of its 32-byte window, a fault that can be served, or one that
cannot. -/
inductive Fetched where
  | bytes (s : State) (bs : List Byte)
  | serve (s : State) (v : Service)
  | fail (s : State) (cause : Byte)
  /-- the line has reductions that a read must see (R258): the fetch waits -/
  | hold
  deriving DecidableEq, Repr

/-- The window of a physical address under a key, from the core's instruction cache or from memory as a whole (R169). -/
def windowRead (s : State) (c pa key : Nat) : State × List Byte :=
  let k := 256 * (pa / 32) + key
  match mget (core s c).iw k with
  | some bs => (s, bs)
  | none =>
    let (s1, bs) := engRead s (dieOf c) (pa / 32 * 32) key 32
    let x := core s1 c
    (setCore s1 c { x with iw := mput x.iw k bs }, bs)

/-- Fetch at a PC for a task on its core; `user` is the level (R384). -/
def fetchAt (s : State) (t : Task) (pc : Nat) (user : Bool) : Fetched :=
  match access s (.core t.core) t.tenant (rootOf s t) pc { r := false, w := false, x := true, user := user } with
  | (s1, .ok pa x) =>
    if !x.legal then .fail s1 causeFmt
    else if (mget (core s1 t.core).iw (256 * (pa / 32) + x.key)).isNone && (redsDue s1 (pa / lineBytes) || mapHolds s1 pa) then .hold
    else if blockBad s1 pa && (mget (core s1 t.core).iw (256 * (pa / 32) + x.key)).isNone then .fail s1 causeData
    else
      let (s2, bs) := windowRead s1 t.core pa x.key
      .bytes s2 (bs.drop (pa % 32))
  | (s1, .serve v) => .serve s1 v
  | (s1, .fail cause) => .fail s1 cause

/-- The instruction in fetched bytes; none when the encoding is illegal or would cross the window (R165, R167). -/
def readInstr (bs : List Byte) : Option Instr :=
  match decode bs with
  | some (i, n) => if n ≤ bs.length then some i else none
  | none => none

/-- Instruction caches of a core emptied: a task dispatched after a store fetches the stored bytes (R169). -/
def dropCode (s : State) (c : Nat) : State := let x := core s c; setCore s c { x with iw := [] }

/-! ### Breakpoints (R428) -/

/-- Breakpoint n matches a block and a PC. -/
def bpHit (s : State) (t : Task) (pc : Nat) (n : Nat) : Bool :=
  let lo := (csrGet s t.tenant (0x068 + 4 * n)).toNat
  let hi := (csrGet s t.tenant (0x069 + 4 * n)).toNat
  let ln := (csrGet s t.tenant (0x06A + 4 * n)).toNat
  let bk := (csrGet s t.tenant (0x06B + 4 * n)).toNat
  nb lo 0 1 == 1 && pc == lo / 4 * 4 + 2 ^ 32 * nb hi 0 25 &&
  (nb ln 0 12 == 0 || nb ln 0 12 == t.launch) && (nb ln 31 1 == 1 || nb bk 0 24 == t.blk)

/-- The numbers of the breakpoints that a group's selected entry matches, as bits; 0 in trap mode, at an exempt PC, and
when DBGCTL.BPEN is 0. -/
def bpMatch (s : State) (t : Task) (gr : Group) : Nat :=
  match gr.select (fairOn s t.tenant) (fairLimit s t.tenant) with
  | none => 0
  | some e =>
    if nb (csrGet s t.tenant 0x060).toNat 1 1 == 0 || gr.trap.isSome || gr.exempt == some e.pc then 0
    else (upTo 4).foldl (fun m n => if bpHit s t e.pc.toNat n then m + 2 ^ n else m) 0

/-! ### Which groups may issue -/

/-- The context of a tenant on a core takes part in issue. -/
def ctxRuns (s : State) (t c : Nat) : Bool :=
  match mget (tenant s t).ctxs c with
  | none => true
  | some x => x.phase == .resident

/-- A task whose groups may issue. -/
def taskRuns (s : State) (t : Task) : Bool :=
  t.stopReq.isNone && !t.saved && ctxRuns s t.tenant t.core

/-- The requests of a `cpl` that are not served yet: one for each 128-byte line of its units still to do (R271). -/
def cplLines (op : CopyOp) (s2g : Bool) : List Nat :=
  match op.kind with
  | .cpl _ d ls =>
    if d != s2g then []
    else (ls.filter (fun p => op.todo.contains ((if d then p.2.1 else p.2.2) / 512))).foldl
      (fun l p => insertNat (p.2.1 / 128) l) []
  | _ => []

/-- Every request of a group's `cpl`s has entered the 16-entry queue of its core, which fills in issue order (R271). -/
def copiesEntered (s : State) (t : Task) (tid g : Nat) : Bool :=
  s.copies.all (fun p =>
    if p.2.tid != tid || p.2.g != g then true
    else [false, true].all (fun d =>
      (cplLines p.2 d).isEmpty ||
      decide (((s.copies.filter (fun q => decide (q.1 ≤ p.1) && (task s q.2.tid).any (fun u => u.core == t.core))).map
        (fun q => (cplLines q.2 d).length)).sum ≤ 16)))

/-- No `fork` of the group is still to take its snapshot (R314). -/
def forksTaken (s : State) (tid g : Nat) : Bool := !s.forks.any (fun p => p.2.tid == tid && p.2.g == g)

/-- Instructions that write what others can see, or hand something on. They wait, as an engine wait, until an earlier `fork` of
the group has taken its snapshot, which holds none of its later writes (R314); every other instruction goes on (R463). -/
def afterFork (i : Instr) : Bool :=
  match i with
  | .exit _ | .st _ _ _ _ _ _ | .stx _ _ _ _ _ _ _ _ | .sts _ _ _ _ _ | .atom _ _ _ _ _ _ _ _
  | .atomcas _ _ _ _ _ _ _ _ | .red _ _ _ _ _ _ _ | .reddet _ _ _ _ _ | .atoms _ _ _ _ _ _ | .atomscas _ _ _ _ _ _
  | .reds _ _ _ _ _ | .fence _ _ _ | .binit _ _ _ _ | .barrive _ _ _ _ | .barwait _ _ _ | .barsync _ _ _
  | .qinit _ _ _ _ _ _ _ | .qpush _ _ _ | .qpop _ _ _ | .qtry _ _ _ _ | .chainp _ _ _ _ _ | .tokacq _ | .tokpass _
  | .cpl _ _ _ _ _ _ _ _ | .cpt _ _ _ _ _ _ _ _ | .cpr _ _ _ _ _ _ _ _ | .tdesc _ _ _ _ _ _ _ _ _ | .tfree _ _
  | .cpcancel _ _ | .mma _ _ _ _ _ _ | .mmv _ _ _ _ _ _ | .accld _ _ _ _ _ _ | .accst _ _ _ _ _ _ _ _ _ _
  | .acczero _ _ _ _ | .mabort _ _ | .coll _ _ _ _ _ | .enq _ _ _ _ _ | .spawn _ _ _ _ _ | .fork _ _ _ _
  | .cancel _ _ _ _ _ | .cntrd _ _ _ _ _ | .arena _ _ _ _ _ _ | .tropen _ _ _ _ _ | .trclose _ _ _ _ | .prop _ _ _
  | .trfork _ _ _ _ | .trmark _ _ _ | .nnq _ _ _ _ _ | .nncancel _ _ | .nngraph _ _ _ _ _ | .nngraphBump _ _ _ _
  | .nngraphDrop _ _ _ _ | .csrwr _ _ _ | .tlbinvPage _ _ _ | .tlbinvAll _ _ | .stop _ => true
  | _ => false

/-- A group that may issue now (R36): not stopped, not stalled, with a selected entry that no breakpoint matches. -/
def groupReady (s : State) (t : Task) (tid g : Nat) (gr : Group) : Bool :=
  taskRuns s t && (t.run == .running || (t.run == .stopped && decide (0 < gr.steps))) && !gr.stall &&
  (gr.select (fairOn s t.tenant) (fairLimit s t.tenant)).isSome && bpMatch s t gr == 0 && copiesEntered s t tid g

/-- Every group that may issue. -/
def readyGroups (s : State) : List (Nat × Nat) :=
  s.tasks.flatMap (fun p => (p.2.groups.filter (fun q => groupReady s p.2 p.1 q.1 q.2)).map (fun q => (p.1, q.1)))

/-- How far a slot stands in a scheduler's round from the one that issued last (R36). -/
def roundPlace (s : State) (t : Task) (gr : Group) : Nat := (gr.slot + 15 - mgetD 7 (core s t.core).last gr.sched) % 8

/-- A ready group whose turn it is in its scheduler's round: no other ready group of the scheduler comes before it. -/
def inTurn (s : State) (t : Task) (gr : Group) : Bool :=
  s.tasks.all (fun p => p.2.core != t.core || p.2.groups.all (fun q =>
    q.2.sched != gr.sched || decide (roundPlace s t gr ≤ roundPlace s t q.2) || !groupReady s p.2 p.1 q.1 q.2))

/-- The groups that the schedulers issue next (R36). -/
def turnGroups (s : State) : List (Nat × Nat) :=
  (readyGroups s).filter (fun x => match task s x.1, group s x.1 x.2 with
    | some t, some gr => inTurn s t gr
    | _, _ => false)

/-- Of these, the first after the one that issued last of all. -/
def nextGroup (s : State) : Option (Nat × Nat) :=
  let rs := turnGroups s
  match rs.find? (fun x => decide (s.last.1 < x.1) || (x.1 == s.last.1 && decide (s.last.2 < x.2))) with
  | some x => some x
  | none => rs.head?

/-- A group's scheduler has issued from its slot. -/
def noteRound (s : State) (c sched slot : Nat) : State :=
  let x := core s c
  setCore s c { x with last := mput x.last sched slot }

/-- The current group's PC and level. -/
def headOf (s : State) (tid g : Nat) : Option (Task × Group × Entry) :=
  match task s tid, group s tid g with
  | some t, some gr =>
    (gr.select (fairOn s t.tenant) (fairLimit s t.tenant)).map (fun e => (t, gr, e))
  | _, _ => none

/-- The trap of a fetch, once its report stands. -/
def fetchTrapNow (s : State) (tid g : Nat) (cause : Byte) : State :=
  match bundleOf s tid g Hdr.plain 4 with
  | none => s
  | some c => c.takeTrap s cause c.bundle c.pc.toNat

/-- A fault that a page of code meets and that cannot be served: a precise trap at the PC (R169), recorded in the fault
region. -/
def fetchTrap (s : State) (tid g : Nat) (cause : Byte) : State :=
  match bundleOf s tid g Hdr.plain 4 with
  | none => s
  | some c =>
    let at_ : FaultAt := { job := chargeJob s c.task, core := c.task.core, g := g, src := 1, cause := cause,
                             va := c.pc.toNat, wr := false, rd := true }
    fetchTrapNow (if pageCause cause then faultReport s c.ten at_ else s) tid g cause

/-- A fetch waits for its page (R169). -/
def fetchWait (s : State) (t : Task) (tid g : Nat) (v : Service) (pc : Nat) : State :=
  modGroup (addNeed s t.tenant (.fetch tid g) v false pc 1) tid g (fun x => { x with stall := true })

/-- ILLEGAL_INSTR (R183): raised at the PC for the whole bundle. -/
def execIllegalInstr (s : State) : Outcome State Fault Refusal :=
  match s.cur with
  | none => .fault .noBundle
  | some (tid, g) =>
    match bundleOf s tid g Hdr.plain 4 with
    | none => .fault .noBundle
    | some c => .next (c.takeTrap s causeIllegal c.bundle 0)

end Sys2Proof.Machine
end

