-- ==== Sys2Proof/Machine/Operands.lean ====
section
/-! DEFINITION. Operand forms (R171 to R175, R178, R193 to R195): how sources are read and destinations written, per
lane or once for the bundle. -/

namespace Sys2Proof.Machine

open Host

/-! ### Uses of fields -/

/-- A source B or C as a use of n registers; a literal and IMM name none. -/
def useB (u : Bool) (b : SrcB) (n : Nat) : List Use :=
  match b with
  | .reg r => [⟨u, r, n⟩]
  | _ => []
def useC (u : Bool) (x : SrcC) (n : Nat) : List Use :=
  match x with
  | .reg r => [⟨u, r, n⟩]
  | .lit _ => []

/-! ### Sources -/

/-- Register k of the group that a field names, as a lane reads it. -/
def Ctx.ra (c : Ctx) (r : Reg) (k lane : Nat) : Word := c.grp.reg (fieldRg c.h.u r k) lane

/-- A 64-bit pair: the low register first (R193). -/
def Ctx.rpair (c : Ctx) (r : Reg) (lane : Nat) : Nat := pair (c.ra r 0 lane) (c.ra r 1 lane)

/-- Source B of an integer operation (R175, R178). -/
def Ctx.b (c : Ctx) (x : SrcB) (lane : Nat) : Word :=
  match x with
  | .reg r => c.ra r 0 lane
  | .lit l => l.signExtend 32
  | .imm w => w

/-- Source C of an integer operation. -/
def Ctx.c (c : Ctx) (x : SrcC) (lane : Nat) : Word :=
  match x with
  | .reg r => c.ra r 0 lane
  | .lit l => l.signExtend 32

/-- n words of source C: consecutive registers, or the literal sign-extended to the width (R175). -/
def Ctx.cs (c : Ctx) (x : SrcC) (n lane : Nat) : List Word :=
  match x with
  | .reg r => (List.range n).map (fun k => c.ra r k lane)
  | .lit l => (List.range n).map (fun k => if k = 0 then l.signExtend 32 else if l.msb then 0xFFFFFFFF else 0)

/-- A literal of a floating-point operation stands for its integer value (R175). -/
def litF (l : BitVec 9) : Word := toF32 .rn (ofInt l.toInt)

/-- Sources B and C of an FP32 operation. -/
def Ctx.bf (c : Ctx) (x : SrcB) (lane : Nat) : Word :=
  match x with
  | .reg r => c.ra r 0 lane
  | .lit l => litF l
  | .imm w => w
def Ctx.cf (c : Ctx) (x : SrcC) (lane : Nat) : Word :=
  match x with
  | .reg r => c.ra r 0 lane
  | .lit l => litF l

/-- A half format by its modifier bit. -/
def halfFmt (bf : Bool) : FloatFmt := if bf then bf16 else fp16

/-- A literal of a packed-half operation: its value in the half format, in both halves (R194). -/
def litH (bf : Bool) (l : BitVec 9) : Word :=
  let k := roundF (halfFmt bf) .rn false (ofInt l.toInt)
  BitVec.ofNat 32 (k + 2 ^ 16 * k)

def Ctx.bh (c : Ctx) (bf : Bool) (x : SrcB) (lane : Nat) : Word :=
  match x with
  | .reg r => c.ra r 0 lane
  | .lit l => litH bf l
  | .imm w => w
def Ctx.ch (c : Ctx) (bf : Bool) (x : SrcC) (lane : Nat) : Word :=
  match x with
  | .reg r => c.ra r 0 lane
  | .lit l => litH bf l

/-- A predicate source (R195). -/
def Ctx.p (c : Ctx) (x : PSrc) (lane : Nat) : Bool := has (c.grp.pred x.idx.toNat) lane != x.neg

/-! ### Destinations -/

/-- The lanes in which the result formed at a lane is written (R172). -/
def Ctx.outLanes (c : Ctx) (lane : Nat) : List Nat := if c.h.u then lanesOf c.act else [lane]

/-- A list of words written to consecutive registers from a field. -/
def Group.putWords (u : Bool) (d : Reg) (lanes : List Nat) (ws : List Word) (x : Group) : Group :=
  ws.zipIdx.foldl (fun x p => x.setReg (fieldRg u d p.2) lanes p.1) x

/-- The result registers of a computation made per lane, or once with U = 1 (R172). -/
def Ctx.put (c : Ctx) (s : State) (d : Reg) (f : Nat → List Word) : State :=
  modGroup s c.tid c.g (fun x => c.lanes.foldl (fun x i => x.putWords c.h.u d (c.outLanes i) (f i)) x)

/-- Results of some of the computing lanes only. -/
def Ctx.putSome (c : Ctx) (s : State) (d : Reg) (ls : List Nat) (f : Nat → List Word) : State :=
  modGroup s c.tid c.g (fun x => ls.foldl (fun x i => x.putWords c.h.u d (c.outLanes i) (f i)) x)

/-- One result written in every active lane, or once to a scalar register: group-level instructions (R243, R261, R301). -/
def Ctx.putAll (c : Ctx) (s : State) (d : Reg) (ws : List Word) : State :=
  modGroup s c.tid c.g (fun x => x.putWords c.h.u d (lanesOf c.act) ws)

/-- A scalar field's register (R171). -/
def Ctx.putScal (c : Ctx) (s : State) (d : Reg) (w : Word) : State :=
  modGroup s c.tid c.g (fun x => { x with sr := mputD 0 x.sr (scalIdx d) w })

/-- A predicate result per lane, or with U = 1 that of the lowest lane in every passing lane. -/
def Ctx.putPred (c : Ctx) (s : State) (p : BitVec 3) (f : Nat → Bool) : State :=
  let vals := if c.h.u then (if f c.lead then c.act else 0) else maskOf (fun i => has c.act i && f i)
  modGroup s c.tid c.g (fun x => x.setPred p.toNat c.act vals)

/-! ### Shapes of computing instructions -/

/-- d := f a. -/
def alu1 (h : Hdr) (d a : Reg) (f : Word → Word) (s : State) : Outcome State Fault Refusal :=
  run h 8 [⟨h.u, a, 1⟩] [⟨h.u, d, 1⟩] (fun c s => .ok (c.put s d (fun i => [f (c.ra a 0 i)]))) s

/-- d := f a b, with B read by `rb`. -/
def alu2 (rb : Ctx → SrcB → Nat → Word) (h : Hdr) (d a : Reg) (b : SrcB) (f : Word → Word → Word) (s : State) :
    Outcome State Fault Refusal :=
  run h b.len (⟨h.u, a, 1⟩ :: useB h.u b 1) [⟨h.u, d, 1⟩]
    (fun c s => .ok (c.put s d (fun i => [f (c.ra a 0 i) (rb c b i)]))) s

/-- d := f a b c, with B and C read by `rb` and `rc`. -/
def alu3 (rb : Ctx → SrcB → Nat → Word) (rc : Ctx → SrcC → Nat → Word) (h : Hdr) (d a : Reg) (b : SrcB) (x : SrcC)
    (f : Word → Word → Word → Word) (s : State) : Outcome State Fault Refusal :=
  run h b.len (⟨h.u, a, 1⟩ :: (useB h.u b 1 ++ useC h.u x 1)) [⟨h.u, d, 1⟩]
    (fun c s => .ok (c.put s d (fun i => [f (c.ra a 0 i) (rb c b i) (rc c x i)]))) s

/-- p := f a b. -/
def cmp2 (rb : Ctx → SrcB → Nat → Word) (h : Hdr) (p : BitVec 3) (a : Reg) (b : SrcB) (f : Word → Word → Bool)
    (s : State) : Outcome State Fault Refusal :=
  run h b.len (⟨h.u, a, 1⟩ :: useB h.u b 1) []
    (fun c s => .ok (c.putPred s p (fun i => f (c.ra a 0 i) (rb c b i)))) s

end Sys2Proof.Machine
end

