-- ==== Sys2Proof/Machine/Flags.lean ====
section
/-! DEFINITION. What the KX9 has in place of flags: carries (R202), saturation (R201), compare conditions (R219), truth
tables (R203, R220). -/

namespace Sys2Proof.Machine

/-- A word as an integer, unsigned when `uns` holds (R201). -/
def wordInt (uns : Bool) (w : Word) : Int := if uns then (w.toNat : Int) else w.toInt

/-- A mathematical result wrapped modulo 2^32, or clamped to the range of its type under SAT (R201). -/
def fit (uns sat : Bool) (x : Int) : Word := BitVec.ofInt 32 (if sat then clampInt (!uns) 32 x else x)

/-- Carry in and carry out of bit 31 of an unsigned addition (R202). -/
def addCarry (a b : Word) (cin : Bool) : Word × Bool :=
  let t := a.toNat + b.toNat + cin.toNat
  (BitVec.ofNat 32 t, decide (2 ^ 32 ≤ t))

/-- Integer conditions (R219). -/
def icond (c : Cond) (uns : Bool) (a b : Word) : Bool :=
  let x := wordInt uns a
  let y := wordInt uns b
  match c with
  | .eq => decide (x = y)
  | .ne => decide (x ≠ y)
  | .lt => decide (x < y)
  | .le => decide (x ≤ y)
  | .gt => decide (y < x)
  | .ge => decide (y ≤ x)
  | .num => false
  | .nan => false

/-- FP32 conditions (R219): −0 equals +0; with a NaN only `ne` and `nan` hold. -/
def fcond (c : Cond) (a b : Word) : Bool :=
  let x := f32 a
  let y := f32 b
  let nan := x.isNan || y.isNan
  match c with
  | .eq => !nan && cmpV x y == .eq
  | .ne => nan || cmpV x y != .eq
  | .lt => !nan && cmpV x y == .lt
  | .le => !nan && cmpV x y != .gt
  | .gt => !nan && cmpV x y == .gt
  | .ge => !nan && cmpV x y != .lt
  | .num => !nan
  | .nan => nan

/-- A truth table indexed by a + 2 b + 4 c (R203). -/
def truth (fn : Byte) (a b c : Bool) : Bool := fn.getLsbD (a.toNat + 2 * b.toNat + 4 * c.toNat)

/-- A word formed bit by bit. -/
def ofBits (f : Nat → Bool) : Word :=
  BitVec.ofNat 32 ((List.range 32).foldl (fun n i => if f i then n + 2 ^ i else n) 0)

end Sys2Proof.Machine
end

