-- ==== Sys2Proof/Machine/Global.lean ====
section
/-! DEFINITION. Per-lane accesses to global memory (R57, R58, R65, R66, R81 to R86, R122, R127 to R129, R223 to R241,
R244, R255 to R258, R384): their checks, the operand log, and what they do to memory. -/

namespace Sys2Proof.Machine

open Host

/-! ### What an operation is -/

/-- Bytes of a size code (R225). -/
def sizeBytes : Size → Nat
  | .b32 => 4
  | .b64 => 8
  | .b128 => 16
  | .b8 => 1
  | .b16 => 2

def aopWide (op : AOp) : Bool := op == .addN64 || op == .exchB64

/-- Bytes that one lane accesses. -/
def opBytes : MemOp → Nat
  | .load _ _ sz _ _ _ => sizeBytes sz
  | .store sz _ => sizeBytes sz
  | .loadx _ _ f _ => elemBytes f
  | .storex f _ _ => elemBytes f
  | .atom _ _ op _ _ => if aopWide op then 8 else 4
  | .cas _ _ w _ _ => if w then 8 else 4
  | .red op _ _ => if aopWide op then 8 else 4
  | .reddet op _ => if aopWide op then 8 else 4

/-- The alignment that the memory operand's address needs (R65, R230). -/
def opAlign : MemOp → Nat
  | .loadx _ _ f _ => if blockFmt f then 4096 else elemBytes f
  | .storex f _ _ => if blockFmt f then 4096 else elemBytes f
  | op => opBytes op

/-- The operation reads; it writes (R384). -/
def opReads : MemOp → Bool
  | .store _ _ => false
  | .storex _ _ _ => false
  | _ => true
def opWrites : MemOp → Bool
  | .load _ _ _ _ _ _ => false
  | .loadx _ _ _ _ => false
  | _ => true

/-- It counts in LD; otherwise in ST (R244 Table 7). -/
def opCountsLd : MemOp → Bool
  | .load _ _ _ _ _ _ => true
  | .loadx _ _ _ _ => true
  | .atom _ _ _ _ _ => true
  | .cas _ _ _ _ _ => true
  | _ => false

/-- The operation is executed at the home port as one read and write (R81, R232, R240). -/
def opAtPort : MemOp → Bool
  | .atom _ _ _ _ _ => true
  | .cas _ _ _ _ _ => true
  | .red _ _ _ => true
  | .reddet _ _ => true
  | .storex f _ _ => blockFmt f || elemBits f == 4
  | _ => false

/-- It goes to the home port and not through the L1. -/
def opHome : MemOp → Bool
  | .load _ _ _ _ home _ => home
  | .store _ home => home
  | op => opAtPort op

/-- The format that it asserts (R85). -/
def opFmt : MemOp → Option (Fmt × Geom)
  | .loadx _ _ f g => some (f, g)
  | .storex f g _ => some (f, g)
  | _ => none

/-- `ldc` (R233). -/
def opConst : MemOp → Bool
  | .load _ _ _ _ _ c => c
  | _ => false

/-- Accesses to ORDSH pages that wait for lower blocks, and that the commit token governs (R255, R256). -/
def opOrdReads : MemOp → Bool
  | .load _ _ _ _ _ const => !const
  | .loadx _ _ _ _ => true
  | .atom _ _ _ _ _ => true
  | .cas _ _ _ _ _ => true
  | .red _ _ _ => true
  | _ => false
def opOrdWrites : MemOp → Bool
  | .store _ _ => true
  | .storex _ _ _ => true
  | .atom _ _ _ _ _ => true
  | .cas _ _ _ _ _ => true
  | .red _ _ _ => true
  | _ => false

/-! ### Determinism rules (R255, R256, R465) -/

/-- The DET launch that governs a task; none outside DET launches and for the tasks of a propagation. -/
def detLaunch (s : State) (t : Task) : Option Launch :=
  if t.prop then none
  else match mget (tenant s t.tenant).launches t.launch with
    | some l => if l.trec.det then some l else none
    | none => none

/-- Every lower block is published. -/
def lowerPublished (s : State) (t : Task) : Bool :=
  match detLaunch s t with
  | none => true
  | some l => (upTo t.blk).all (fun b => l.published.contains b || l.retired.contains b)

/-- Where a task's block stands with the commit token. -/
inductive TokPos where
  | free | before | holds | passed
  deriving DecidableEq, Repr

def tokenPos (s : State) (t : Task) : TokPos :=
  match detLaunch s t with
  | none => .free
  | some l => if l.token == t.blk then .holds else if t.blk < l.token then .passed else .before

/-! ### The bytes of an element -/

/-- The bytes of the scale of a lane's element, and its element's place. -/
def lanePlace (f : Fmt) (g : Geom) (la : LaneAcc) : Place := placeOf f g la.idx
def scalePa (f : Fmt) (g : Geom) (la : LaneAcc) : Nat :=
  la.pa / 4096 * 4096 + ((lanePlace f g la).scale.getD 0) % 4096
def scaleVa (f : Fmt) (g : Geom) (la : LaneAcc) : Nat :=
  la.addr / 4096 * 4096 + ((lanePlace f g la).scale.getD 0) % 4096

/-- The bytes that a lane's access reads or writes: its own, and the scale byte of an element of a block format. -/
def laneSpans (op : MemOp) (la : LaneAcc) : List (Nat × Nat) :=
  match op with
  | .loadx _ _ f g => (la.pa, elemBytes f) :: (if blockFmt f then [(scalePa f g la, 1)] else [])
  | .storex f g _ => (la.pa, elemBytes f) :: (if blockFmt f then [(scalePa f g la, 1)] else [])
  | _ => [(la.pa, opBytes op)]

/-- Some byte of one lane's access is also of another's. -/
def spansMeet (xs ys : List (Nat × Nat)) : Bool := xs.any (fun x => ys.any (fun y => overlaps x.1 x.2 y.1 y.2))

/-! ### One lane's check -/

/-- How one lane's access stands: it may be made, it has a fault that can be served, or it raises a cause at an address;
`rep` says that the fault goes to the fault region (R373). -/
inductive LaneOut where
  | go (la : LaneAcc)
  | serve (la : LaneAcc) (v : Service)
  | bad (cause : Byte) (addr : Nat) (rep : Bool)
  deriving DecidableEq, Repr

/-- An address lies in the region of an existing trace of the tenant (R122). -/
def inTraceRegion (s : State) (t va : Nat) : Bool :=
  (tenant s t).traces.any (fun p => va / 2 ^ p.2.lg == p.2.base / 2 ^ p.2.lg)

/-- The L1 of a core holds all bytes of an access, so that an error at home is not consumed. -/
def l1Holds (s : State) (c pa key n : Nat) : Bool :=
  match mget (core s c).l1 (cacheKey pa key) with
  | some l => !l.fill.isEmpty || (List.range n).all (fun i => (mget l.dirty (pa + i)).isSome)
  | none => false

/-- The constant cache of a core holds the line (R233). -/
def ccHolds (s : State) (c pa key : Nat) : Bool := (mget (core s c).cc (cacheKey pa key)).isSome

/-- Masked bytes of an access carry an uncorrectable error in the L1 (R409 Table 8). -/
def l1Bad (s : State) (c pa key n : Nat) : Bool :=
  match mget (core s c).l1 (cacheKey pa key) with
  | some l => (List.range n).any (fun i => l.mbad.contains ((pa + i) / 4))
  | none => false

/-- The data of a read holds an uncorrectable error at the place where it is read (R31, R409): the home line, unless a cache on
the way holds the bytes, or the L1's own masked bytes. -/
def dataBad (s : State) (t : Task) (op : MemOp) (pa key : Nat) (port : Bool) : Bool :=
  if port then blockBad s pa
  else if opConst op then blockBad s pa && !ccHolds s t.core pa key
  else (blockBad s pa && !l1Holds s t.core pa key (opBytes op)) || l1Bad s t.core pa key (opBytes op)

/-- The scale byte that an element of a block format is read or chosen under holds an uncorrectable error. -/
def scaleBad (s : State) (t : Task) (op : MemOp) (la : LaneAcc) (key : Nat) (port : Bool) : Bool :=
  ((laneSpans op la).drop 1).any (fun p => dataBad s t op p.1 key port)

/-- The checks of a page that allows the access, in ascending order of cause. -/
def pageCheck (s : State) (t : Task) (op : MemOp) (la : LaneAcc) (pa : Nat) (x : Xl) : Option Byte :=
  let va := la.addr
  let port := opHome op || x.tso || x.ordsh || (t.prop && x.trk && !x.const)
  if opConst op && !x.const then some causeProt
  else if opWrites op && (inTraceRegion s t.tenant va || (x.const && t.traced.isSome)) then some causeProt
  else if !x.legal then some causeFmt
  else if (opFmt op).any (fun fg => !x.carries fg.1 fg.2) then some causeFmt
  else if opCountsLd op && dataBad s t op pa x.key port then some causeData
  else if scaleBad s t op { la with pa := pa } x.key port then some causeData
  else if x.ordsh && opOrdWrites op && tokenPos s t == .passed then some causeToken
  else none

/-- One lane's access checked (R57, R65, R66, R230, R384): alignment, range, translation, then the page. -/
def laneCheck (s : State) (t : Task) (user : Bool) (op : MemOp) (la : LaneAcc) : State × LaneOut :=
  if la.base % opAlign op != 0 then (s, .bad causeMisaligned la.base false)
  else if 2 ^ 57 ≤ la.base then (s, .bad causeProt la.base false)
  else if 2 ^ 57 ≤ la.addr then (s, .bad causeProt la.addr false)
  else
    match access s (.core t.core) t.tenant (rootOf s t) la.addr
        { r := opReads op, w := opWrites op, x := false, user := user } with
    | (s1, .serve v) => (s1, .serve la v)
    | (s1, .fail cause) => (s1, .bad cause la.addr true)
    | (s1, .ok pa x) =>
      match pageCheck s1 t op la pa x with
      | some cause => (s1, .bad cause la.addr false)
      | none =>
        let trk := x.trk && !x.const
        (s1, .go { la with pa := pa, key := x.key, port := opHome op || x.tso || x.ordsh || (t.prop && trk), tso := x.tso,
                           ordsh := x.ordsh, trk := trk })

/-- Every lane checked, ascending. -/
def lanesCheck (s : State) (t : Task) (user : Bool) (op : MemOp) : List LaneAcc → State × List (LaneAcc × LaneOut)
  | [] => (s, [])
  | la :: ls =>
    let (s1, o) := laneCheck s t user op la
    let (s2, os) := lanesCheck s1 t user op ls
    (s2, (la, o) :: os)

/-- The lowest cause that any lane raises, its lanes, and the address of the lowest of them (R60, R63). -/
structure LaneTrap where
  cause : Byte
  lanes : Lanes
  addr : Nat
  reps : List Nat
  deriving DecidableEq, Repr

def laneTrap (os : List (LaneAcc × LaneOut)) : Option LaneTrap :=
  let bads := os.filterMap (fun p => match p.2 with
    | .bad c a r => some (p.1.lane, c, a, r)
    | _ => none)
  match bads with
  | [] => none
  | b :: bs =>
    let c := bs.foldl (fun m x => if x.2.1.toNat < m.toNat then x.2.1 else m) b.2.1
    let mine := bads.filter (fun x => x.2.1 == c)
    some { cause := c, lanes := maskOf (fun i => mine.any (fun x => x.1 == i)),
           addr := ((mine.head?).map (fun x => x.2.2.1)).getD 0 % 2 ^ 57,
           reps := (mine.filter (fun x => x.2.2.2)).foldl (fun l x => insertNat (x.2.2.1 / 2 ^ 12) l) [] }

/-- Report records of the pages whose faults cannot be served (R373). -/
def reportPages (s : State) (t : Task) (g src : Nat) (cause : Byte) (rd wr : Bool) (pages : List Nat) : State :=
  pages.foldl (fun s p => faultReport s t.tenant
    { job := chargeJob s t, core := t.core, g := g, src := src, cause := cause, va := 2 ^ 12 * p, wr := wr, rd := rd }) s

def goLanes (os : List (LaneAcc × LaneOut)) : List LaneAcc :=
  os.filterMap (fun p => match p.2 with
    | .go la => some la
    | _ => none)
def servedLanes (os : List (LaneAcc × LaneOut)) : List (LaneAcc × Service) :=
  os.filterMap (fun p => match p.2 with
    | .serve la v => some (la, v)
    | _ => none)

/-! ### Traces -/

/-- What a traced task's accesses to tracked granules tell the Eventide (R127 to R129). -/
def traceRead (s : State) (t : Task) (la : LaneAcc) (va n : Nat) : State :=
  match t.traced with
  | none => s
  | some (h, r) =>
    if !la.trk then s
    else modTenant s t.tenant (fun x => { x with trq := x.trq ++
      (List.range ((va + n - 1) / 32 - va / 32 + 1)).map (fun i => .read h r (va / 32 + i)) })

/-- Bytes as the core sees them: at home, under its die's writes in flight, under its L1's written bytes. -/
def coreView (s : State) (c pa key n : Nat) : List Byte :=
  let l1 := ((mget (core s c).l1 (cacheKey pa key)).map (·.dirty)).getD []
  (List.range n).map (fun i =>
    let a := pa + i
    let home := s.wq.foldl (fun b w => if w.die == dieOf c && w.keyid == key then mgetD b w.bytes a else b) (readPa s key a)
    mgetD home l1 a)

def traceWrite (s : State) (t : Task) (la : LaneAcc) (va n : Nat) : State :=
  match t.traced with
  | none => s
  | some (h, r) =>
    if !la.trk then s
    else
      let evs := (List.range ((va + n - 1) / 32 - va / 32 + 1)).map (fun i =>
        let g := va / 32 + i
        TrEvent.write h r g (coreView s t.core (la.pa - va % 32 + 32 * i) la.key 32))
      modTenant s t.tenant (fun x => { x with trq := x.trq ++ evs })

/-- The granules of a tracked store, each with the storing task's own trace (R121, R132). -/
def laneGrans (s : State) (t : Task) (la : LaneAcc) (va n : Nat) : List Gran :=
  if la.trk then (List.range ((va + n - 1) / 32 - va / 32 + 1)).map (fun i => ⟨va / 32 + i, rootOf s t, t.traced.map (·.1)⟩) else []

/-! ### Operations on values -/

/-- The new value of an atomic operation (R238 Table 6). -/
def aopNew (op : AOp) (o d : Nat) : Nat :=
  let ow := BitVec.ofNat 32 o
  let dw := BitVec.ofNat 32 d
  match op with
  | .addN32 => (o + d) % 2 ^ 32
  | .addN64 => (o + d) % 2 ^ 64
  | .minI32 => if ow.toInt ≤ dw.toInt then o else d
  | .maxI32 => if ow.toInt ≤ dw.toInt then d else o
  | .minN32 => if o ≤ d then o else d
  | .maxN32 => if o ≤ d then d else o
  | .andB32 => (ow &&& dw).toNat
  | .orB32 => (ow ||| dw).toNat
  | .xorB32 => (ow ^^^ dw).toNat
  | .exchB32 | .exchB64 => d
  | .incN32 => if d ≤ o then 0 else o + 1
  | .decN32 => if o = 0 ∨ d < o then d else o - 1
  | .addF32 => (f32add .rn ow dw).toNat
  | .minF32 => (f32min ow dw).toNat
  | .maxF32 => (f32max ow dw).toNat

/-- Words as a number, low word first, and back. -/
def wordsNat : List Word → Nat
  | [] => 0
  | w :: ws => w.toNat + 2 ^ 32 * wordsNat ws
def natWords (n x : Nat) : List Word := (List.range n).map (fun k => BitVec.ofNat 32 (x / 2 ^ (32 * k)))

/-- The words that a load of a size writes (R225). -/
def loadWords (sz : Size) (sx : Bool) (raw : Nat) : List Word :=
  match sz with
  | .b8 => [BitVec.ofInt 32 (asInt sx 8 raw)]
  | .b16 => [BitVec.ofInt 32 (asInt sx 16 raw)]
  | .b32 => natWords 1 raw
  | .b64 => natWords 2 raw
  | .b128 => natWords 4 raw

/-! ### Memory at the port -/

/-- The die's own earlier writes, and every write that its reads have returned, have been applied, and no reduction that
a read must see is outstanding: an indivisible access may be made now. A tracked line waits for every write to it, so that
the Eventide learns accesses in the order of memory (R136, R146). -/
def portReady (s : State) (c : Nat) (las : List LaneAcc) : Bool :=
  !pendingBelow s (die s (dieOf c)).clock &&
  las.all (fun la => !redsDue s (la.pa / lineBytes) && !spillHolds s (la.pa / lineBytes)) &&
  !las.any (fun la => la.trk && s.wq.any (fun w => w.line == la.pa / lineBytes))

/-- The same for the lanes of an operation, whose scale bytes are read at the port too (R232). -/
def opReady (s : State) (c : Nat) (op : MemOp) (las : List LaneAcc) : Bool :=
  portReady s c las && las.all (fun la => (laneSpans op la).all (fun p => !redsDue s (p.1 / lineBytes)))

/-- The L1 writes back and drops the line of each access that goes to the port (R81), and of its scale byte. -/
def flushLanes (s : State) (c : Nat) (op : MemOp) (las : List LaneAcc) : State :=
  las.foldl (fun s la => if la.port then (laneSpans op la).foldl (fun s p => flushLine s c p.1) s else s) s

/-- One indivisible read and write of n bytes at the home port; the old value is returned. What it reads is never hidden from
the die's later reads by an update still on its way (R92 edge 1). -/
def portRmw (s : State) (t : Task) (la : LaneAcc) (n : Nat) (f : Nat → Option Nat) : State × Nat :=
  let d := dieOf t.core
  let s1 := (dieRead s d la.pa la.key false).1
  let old := readNum s1 la.key la.pa n
  match f old with
  | none => (s1, old)
  | some new => (homeWrite s1 d la.key t.tenant la.pa (leBytes n new) (laneGrans s t la la.addr n), old)

/-- A group's read has returned what a stamp names. -/
def noteSeen (s : State) (tid g : Nat) (st : List Nat) : State :=
  modGroup s tid g (fun x => { x with seen := maxStamp x.seen st })

/-! ### Performing lanes -/

/-- A plain store of one lane: into the L1, or to the home port (R81, R226). -/
def storeLane (s : State) (t : Task) (own : Nat × Nat × Nat) (la : LaneAcc) (bs : List Byte) : State :=
  let s1 := traceWrite s t la la.addr bs.length
  let gr := laneGrans s t la la.addr bs.length
  if la.port then
    sendWrite (countReq s1 (dieOf t.core) la.pa) (dieOf t.core) la.key t.tenant (la.pa / lineBytes) (bytesAt la.pa bs)
      (some own) gr
  else l1Store s1 t.core t.tenant la.pa la.key bs gr

/-- The padding of the sheet that an element of a block format lies in is written as 0 (R106). -/
def padZero (s : State) (t : Task) (f : Fmt) (g : Geom) (la : LaneAcc) : State :=
  let (o, n) := sheetPad f g
  let pa := la.pa / 4096 * 4096 + o
  if !blockFmt f || (List.range n).all (fun i => readPa s la.key (pa + i) == 0) then s
  else homeWrite s (dieOf t.core) la.key t.tenant pa (List.replicate n 0) []

/-- One `stx` lane executed at the port (R231, R232). -/
def stxPort (s : State) (t : Task) (f : Fmt) (g : Geom) (sat : Bool) (la : LaneAcc) : State :=
  let w := la.data.headD 0
  let s0 := if blockFmt f then traceRead s t la (scaleVa f g la) 1 else s
  let s1 := traceWrite s0 t la la.addr (elemBytes f)
  let scale := (readPa s1 la.key (scalePa f g la)).toNat
  let code := if blockFmt f then blockCode f scale (f32 w) else stxCode f sat w
  padZero (portRmw s1 t la (elemBytes f) (fun old => some (codeInto f (lanePlace f g la).high old code))).1 t f g la

/-- One atomic lane (R238 to R240): the old value. -/
def atomLane (s : State) (t : Task) (op : MemOp) (la : LaneAcc) : State × Nat :=
  let n := opBytes op
  let s1 := traceWrite (traceRead s t la la.addr n) t la la.addr n
  match op with
  | .atom _ _ a _ _ => portRmw s1 t la n (fun o => some (aopNew a o (wordsNat la.data)))
  | .red a _ _ => portRmw s1 t la n (fun o => some (aopNew a o (wordsNat la.data)))
  | .reddet a _ => portRmw s1 t la n (fun o => some (aopNew a o (wordsNat la.data)))
  | .cas _ _ w _ _ =>
    let k := if w then 2 else 1
    portRmw s1 t la n (fun o => if o = wordsNat (la.data.take k) then some (wordsNat (la.data.drop k)) else none)
  | _ => (s1, 0)

/-- A load's lanes added to the outstanding loads; lanes that replay join those of their instruction. -/
def joinLoad (m : Map LoadRec) (id : Nat) (r : LoadRec) : Map LoadRec :=
  match mget m id with
  | none => mput m id r
  | some l => mput m id { l with act := l.act ||| r.act, lanes := l.lanes ++ r.lanes, vals := l.vals ++ r.vals }

/-- The lanes of an operation performed (R227, R240: in ascending lane order). Loads wait for LOAD_DATA_RETURN; stores
to the port for WRITE_APPLY_AT_PORT; ordered reductions for REDDET_ACCEPT. -/
def perform (s : State) (tid g : Nat) (t : Task) (op : MemOp) (id : Nat) (dst : Lanes) (las : List LaneAcc) : State :=
  let addLoad := fun (s : State) (vals : List (Nat × List Word)) =>
    modGroup s tid g (fun x => { x with loads := joinLoad x.loads id { op := op, act := dst, lanes := las, vals := vals } })
  let addStores := fun (s : State) (n : Nat) =>
    if n = 0 then s else modGroup s tid g (fun x => { x with stores := mput x.stores id (mgetD 0 x.stores id + n) })
  if las.isEmpty then s
  else match op with
  | .load _ _ _ _ _ _ => addLoad s []
  | .loadx _ _ _ _ => addLoad s []
  | .store sz _ =>
    let s1 := addStores s (las.filter (·.port)).length
    las.foldl (fun s la => storeLane s t (tid, g, id) la (leBytes (sizeBytes sz) (wordsNat la.data))) s1
  | .storex f geo sat =>
    if opAtPort op then las.foldl (fun s la => stxPort s t f geo sat la) s
    else
      let s1 := addStores s (las.filter (·.port)).length
      las.foldl (fun s la => storeLane s t (tid, g, id) la
        (leBytes (elemBytes f) (stxCode f sat (la.data.headD 0)))) s1
  | .reddet a seq =>
    match detLaunch s t with
    | none => las.foldl (fun s la => (atomLane s t (.red a .group .relaxed) la).1) s
    | some _ =>
      let s1 := addStores s las.length
      las.foldl (fun s la =>
        let s2 := traceWrite (traceRead s t la la.addr 4) t la la.addr 4
        { s2 with serial := s2.serial + 1,
                  reds := s2.reds ++ [{ tenant := t.tenant, launch := t.launch, blk := t.blk, seq := seq, g := g,
                                        lane := la.lane, order := s2.serial, pa := la.pa, va := la.addr, keyid := la.key,
                                        op := a, d := la.data.headD 0, accepted := false, run := 0,
                                        owner := some (tid, g, id), grans := laneGrans s t la la.addr 4 }] }) s1
  | _ =>
    let (s1, vals) := las.foldl (fun (acc : State × List (Nat × List Word)) la =>
      let (s2, old) := atomLane acc.1 t op la
      let s2 := noteSeen s2 tid g (lineStamp s2 (la.pa / lineBytes))
      (s2, acc.2 ++ [(la.lane, natWords (if opBytes op = 8 then 2 else 1) old)])) (s, [])
    if opCountsLd op then addLoad s1 vals else s1

/-! ### Fences (R95 to R97) -/

/-- A fence of a scope waits: stores in the log, outstanding loads of the group, and for die scope and wider the writes
of the die. -/
def relReady (s : State) (c : Ctx) (scope : Scope) : Bool :=
  c.grp.oplog.all (fun o => opCountsLd o.op && !opWrites o.op) && c.grp.loads.isEmpty &&
  (match scope with
   | .group | .block | .cluster => true
   | _ => !s.wq.any (fun w => w.die == dieOf c.task.core) && c.grp.stores.isEmpty)

def acqReady (c : Ctx) : Bool := c.grp.oplog.isEmpty && c.grp.loads.isEmpty

/-- The release-class action that comes before the wait: every masked byte of the L1 is written back (R82). -/
def relAct (s : State) (c : Nat) (scope : Scope) : State :=
  match scope with
  | .group | .block => s
  | _ => writeBackAll s c

/-- The end of a fence of cluster scope or wider: every line of the L1 is invalidated (R82). -/
def relDone (s : State) (c : Nat) (scope : Scope) : State :=
  match scope with
  | .group | .block => s
  | _ => invalidateL1 s c

/-- The acquire-class action of a fence (R97): the far-line cache takes the updates that the group's earlier reads causally
depend on, and no more (04: writes that no edge relates may still be seen in different orders on different dies). -/
def acqSeen (s : State) (tid g c : Nat) (scope : Scope) : State :=
  match scope with
  | .group | .block => s
  | .cluster => dropCaches s c
  | _ =>
    let s1 := dropCaches s c
    let seen := ((group s1 tid g).map (·.seen)).getD []
    setDie s1 (dieOf c) (catchUp (fun _ u => named seen u) (die s1 (dieOf c)))

def ordRel (o : AOrd) : Bool := o == .rel || o == .ar
def ordAcq (o : AOrd) : Bool := o == .acq || o == .ar

/-- The scope and order of an atomic. -/
def opOrder : MemOp → Scope × AOrd
  | .atom _ _ _ sc o => (sc, o)
  | .cas _ _ _ sc o => (sc, o)
  | .red _ sc o => (sc, o)
  | _ => (.group, .relaxed)

/-! ### The whole instruction -/

/-- Instructions outstanding in LD and in ST (R244). -/
def ldCount (g : Group) : Nat :=
  ((g.loads.map (·.1)) ++ ((g.oplog.filter (fun o => opCountsLd o.op)).map (·.id))).dedup.length
def stCount (g : Group) : Nat :=
  ((g.stores.map (·.1)) ++ ((g.oplog.filter (fun o => !opCountsLd o.op)).map (·.id))).dedup.length

/-- The limits of R58 on an access while log entries are pending. -/
def logHolds (g : Group) (pages : List Nat) : Bool :=
  g.oplog.any (fun o => opWrites o.op || o.lanes.any (fun la => pages.contains (la.addr / 2 ^ 12)))

/-- A store would overtake an outstanding load of the same bytes (R92 edge 1). -/
def loadAhead (g : Group) (spans : List (Nat × Nat)) : Bool :=
  g.loads.any (fun l => l.2.vals.isEmpty && l.2.lanes.any (fun x => spansMeet (laneSpans l.2.op x) spans))

/-- A write to a TSO page would overtake an outstanding read of a TSO page (R98). -/
def tsoAhead (g : Group) (las : List LaneAcc) : Bool :=
  las.any (·.tso) && g.loads.any (fun l => l.2.vals.isEmpty && l.2.lanes.any (·.tso))

/-- The accesses of one instruction (R57, R60, R227). -/
def gmem (c : Ctx) (s : State) (op : MemOp) (accs : List LaneAcc) : Res :=
  let t := c.task
  let dst := c.act
  if (if opCountsLd op then ldCount c.grp else stCount c.grp) ≥ 63 then .wait s
  else if logHolds c.grp (accs.map (fun la => la.addr / 2 ^ 12)) then .wait s
  else
    let (s1, os) := lanesCheck s t c.user op accs
    match laneTrap os with
    | some tr => .trap (reportPages s t c.g 0 tr.cause (opReads op) (opWrites op) tr.reps) tr.cause tr.lanes tr.addr
    | none =>
      let las := goLanes os
      let sv := servedLanes os
      let (scope, o) := opOrder op
      let ord := las.any (·.ordsh)
      if !sv.isEmpty && decide (4 ≤ c.grp.loggedOps.length) then .wait s
      else if las.any (fun la => mapHolds s la.pa) then .wait s
      else if ord && opOrdReads op && !lowerPublished s t then .wait s
      else if ord && opOrdWrites op && tokenPos s t == .before then .wait s
      else if ordRel o && !relReady (relAct s t.core scope) c scope then .wait (relAct s t.core scope)
      else if ordAcq o && !acqReady c then .wait s
      else if opWrites op && (loadAhead c.grp (las.flatMap (laneSpans op)) || tsoAhead c.grp las) then .wait s
      else
        let s2 := flushLanes (if ordRel o then relDone (relAct s1 t.core scope) t.core scope else s1) t.core op las
        if opAtPort op && !las.isEmpty && !opReady s2 t.core op las then .wait s2
        else
          let id := s2.serial
          let s3 := perform { s2 with serial := id + 1 } c.tid c.g t op id dst las
          let s4 := if sv.isEmpty then s3
            else
              let act := maskOf (fun i => sv.any (fun p => p.1.lane == i))
              let e : OpEntry :=
                { id := id, pc := c.pc, len := c.len, prio := c.ent.prio, user := c.user, act := act, dst := if c.h.u then dst else act,
                  op := op, lanes := sv.map (·.1), served := false, failed := none, resume := [] }
              sv.foldl (fun s p => addNeed s t.tenant (.log c.tid c.g id) p.2 (opWrites op) p.1.addr 0)
                (modGroup s3 c.tid c.g (fun x => { x with oplog := x.oplog ++ [e] }))
          .ok (if ordAcq o then acqSeen s4 c.tid c.g t.core scope else s4)

end Sys2Proof.Machine
end

