-- ==== Sys2Proof/Machine/LoadStore.lean ====
section
/-! DEFINITION. Global loads and stores, formatted ones, constant loads, prefetch (R223 to R234), scratchpad loads and
stores (R70, R74, R80, R235), and the return of load data (R244). -/

namespace Sys2Proof.Machine

open Host

/-! ### Memory operands (R223) -/

/-- The offset of a memory operand, sign-extended. -/
def Ctx.offset (c : Ctx) (o : SrcB) (lane : Nat) : Int := (c.b o lane).toInt

/-- A global address: pair plus offset, modulo 2^64. -/
def Ctx.gaddr (c : Ctx) (a : Reg) (o : SrcB) (lane : Nat) : Nat :=
  (((c.rpair a lane : Nat) + c.offset o lane) % 2 ^ 64).toNat

/-- A scratchpad offset, taken without wrapping. -/
def Ctx.saddr (c : Ctx) (a : Reg) (o : SrcB) (lane : Nat) : Int := ((c.ra a 0 lane).toNat : Int) + c.offset o lane

/-- A plain access of one lane. -/
def laneAcc (lane addr base idx : Nat) (data : List Word) : LaneAcc :=
  { lane := lane, addr := addr, base := base, idx := idx, data := data, pa := 0, key := 0, port := false, tso := false,
    ordsh := false, trk := false }

/-- Registers of a size (R225). -/
def sizeRegs : Size → Nat
  | .b64 => 2
  | .b128 => 4
  | _ => 1

def execLd (h : Hdr) (d a : Reg) (off : SrcB) (sz : Size) (sx home : Bool) (s : State) : Outcome State Fault Refusal :=
  run h off.len (⟨h.u, a, 2⟩ :: useB h.u off 1) [⟨h.u, d, sizeRegs sz⟩]
    (fun c s => gmem c s (.load d h.u sz sx home false)
      (c.lanes.map (fun i => laneAcc i (c.gaddr a off i) (c.gaddr a off i) 0 []))) s

def execSt (h : Hdr) (a : Reg) (off : SrcB) (x : SrcC) (sz : Size) (home : Bool) (s : State) :
    Outcome State Fault Refusal :=
  run h off.len (⟨h.u, a, 2⟩ :: (useB h.u off 1 ++ useC h.u x (sizeRegs sz))) []
    (fun c s => gmem c s (.store sz home)
      (c.lanes.map (fun i => laneAcc i (c.gaddr a off i) (c.gaddr a off i) 0 (c.cs x (sizeRegs sz) i)))) s

/-- An element's access (R230). -/
def elemAcc (c : Ctx) (a : Reg) (off : SrcB) (idx : Nat) (f : Fmt) (g : Geom) (data : List Word) (i : Nat) : LaneAcc :=
  laneAcc i (c.gaddr a off i + (placeOf f g idx).off) (c.gaddr a off i) idx data

def execLdx (h : Hdr) (d a : Reg) (off : SrcB) (idx : SrcC) (fmt : Fmt) (geom : Geom) (s : State) :
    Outcome State Fault Refusal :=
  run h off.len (⟨h.u, a, 2⟩ :: (useB h.u off 1 ++ useC h.u idx 1)) [⟨h.u, d, 1⟩]
    (fun c s => gmem c s (.loadx d h.u fmt geom)
      (c.lanes.map (fun i => elemAcc c a off (c.c idx i).toNat fmt geom [] i))) s

/-- The data of `stx`: FP32 for floating-point formats, so that a literal stands for its value (R175, R231). -/
def Ctx.stxData (c : Ctx) (x : SrcC) (f : Fmt) (lane : Nat) : Word := if fmtInt f then c.c x lane else c.cf x lane

def execStx (h : Hdr) (a : Reg) (off : SrcB) (idx : Reg) (x : SrcC) (fmt : Fmt) (geom : Geom) (sat : Bool) (s : State) :
    Outcome State Fault Refusal :=
  run h off.len (⟨h.u, a, 2⟩ :: ⟨h.u, idx, 1⟩ :: (useB h.u off 1 ++ useC h.u x 1)) []
    (fun c s => gmem c s (.storex fmt geom sat)
      (c.lanes.map (fun i => elemAcc c a off (c.ra idx 0 i).toNat fmt geom [c.stxData x fmt i] i))) s

def execLdc (h : Hdr) (d a : Reg) (off : SrcB) (sz : Size) (sx : Bool) (s : State) : Outcome State Fault Refusal :=
  run h off.len (⟨h.u, a, 2⟩ :: useB h.u off 1) [⟨h.u, d, sizeRegs sz⟩]
    (fun c s => gmem c s (.load d h.u sz sx false true)
      (c.lanes.map (fun i => laneAcc i (c.gaddr a off i) (c.gaddr a off i) 0 []))) s

/-- One hint of `prefetch` (R234): a line is read into the L1 or the far-line cache where its page allows it. -/
def prefetchLane (c : Ctx) (s : State) (far : Bool) (va : Nat) : State :=
  if 2 ^ 57 ≤ va then s
  else match access s (.core c.task.core) c.ten (rootOf s c.task) va { r := true, w := false, x := false, user := c.user } with
    | (s1, .ok pa x) =>
      let d := dieOf c.task.core
      if x.tso || x.ordsh || wrPending s1 d (pa / lineBytes) || redsDue s1 (pa / lineBytes) || mapHolds s1 pa then s1
      else if far then (dieRead s1 d pa x.key true).1
      else (l1Read s1 c.task.core c.ten (pa / lineBytes * lineBytes) x.key lineBytes).1
    | _ => s

def execPrefetch (h : Hdr) (a : Reg) (off : SrcB) (far : Bool) (s : State) : Outcome State Fault Refusal :=
  run h off.len (⟨h.u, a, 2⟩ :: useB h.u off 1) []
    (fun c s => .ok (c.lanes.foldl (fun s i => prefetchLane c s far (c.gaddr a off i)) s)) s

/-! ### The scratchpad -/

/-- The tile chunk that covers an offset: its tile and the chunk's number. -/
def chunkAt (t : Task) (o : Nat) : Option (Tile × Nat) :=
  (t.tds.find? (fun p => decide (p.2.base ≤ o) && decide (o < p.2.base + p.2.len))).map
    (fun p => (p.2, (o - p.2.base) / 512))

/-- Table 3 of R73 for a thread. -/
def chunkAllows (x : Tile) (j : Nat) (store : Bool) : Bool :=
  x.own.getLsbD j && (!store || mgetD 0 x.rcnt j == 0)

/-- The tags of the words that an access covers. -/
def tagsOf (t : Task) (o n : Nat) : List Tag :=
  (List.range ((o + n - 1) / 4 - o / 4 + 1)).filterMap (fun i => mget t.tags (o / 4 + i))

/-- Some word that n bytes at an offset touch holds an uncorrectable error (R31, R409). -/
def scratchBad (t : Task) (o n : Nat) : Bool := t.sbad.any (fun w => decide (4 * w < o + n) && decide (o < 4 * w + 4))

/-- The cause of one lane's scratchpad access (R235): alignment, bounds, ownership, for a store tagged words, and for a read an
uncorrectable error (R31). -/
def scratchCause (t : Task) (o : Int) (n : Nat) (store rd : Bool) : Option Byte :=
  if o % n ≠ 0 then some causeMisaligned
  else if o < 0 ∨ (t.scratchSize : Int) < o + n then some causeBounds
  else if (chunkAt t o.toNat).any (fun p => !chunkAllows p.1 p.2 store) then some causeChunk
  else match if store then tagsOf t o.toNat n else [] with
    | .bar _ :: _ => some causeClobber
    | .queue _ _ :: _ => some causeQueue
    | [] => if rd && scratchBad t o.toNat n then some causeData else none

/-- The trap of a scratchpad instruction: the lowest cause, its lanes, and the lowest lane's offset (R60, R70, R74). -/
def scratchTrap (t : Task) (accs : List (Nat × Int)) (n : Nat) (store rd : Bool) :
    Option (Byte × Lanes × Nat) :=
  let bads : List (Nat × Byte × Int) := accs.filterMap (fun p => (scratchCause t p.2 n store rd).map (fun k => (p.1, k, p.2)))
  match bads with
  | [] => none
  | b :: bs =>
    let k := bs.foldl (fun m x => if x.2.1.toNat < m.toNat then x.2.1 else m) b.2.1
    let mine := bads.filter (fun x => x.2.1 == k)
    some (k, maskOf (fun i => mine.any (fun x => x.1 == i)), ((mine.headD b).2.2 % 2 ^ 32).toNat)

def scratchRead (t : Task) (o n : Nat) : Nat := leNat ((List.range n).map (fun i => mgetD 0 t.scratch (o + i)))

/-- Bytes written together. What covers only part of a word that holds an error is discarded; a word written whole is good again
(R31, R409). -/
def scratchPut (t : Task) (ws : List (Nat × Byte)) : Task :=
  let bad := t.sbad.filter (fun w => !(List.range 4).all (fun i => ws.any (fun p => p.1 == 4 * w + i)))
  { t with scratch := (ws.filter (fun p => !bad.contains (p.1 / 4))).foldl (fun m p => mputD 0 m p.1 p.2) t.scratch
           sbad := bad }
def scratchWrite (t : Task) (o : Nat) (bs : List Byte) : Task := scratchPut t (bs.zipIdx.map (fun p => (o + p.2, p.1)))

def execLds (h : Hdr) (d a : Reg) (off : SrcB) (sz : Size) (sx : Bool) (s : State) : Outcome State Fault Refusal :=
  run h off.len (⟨h.u, a, 1⟩ :: useB h.u off 1) [⟨h.u, d, sizeRegs sz⟩]
    (fun c s =>
      match scratchTrap c.task (c.lanes.map (fun i => (i, c.saddr a off i))) (sizeBytes sz) false true with
      | some (k, m, o) => .trap s k m o
      | none => .ok (c.put s d (fun i =>
          loadWords sz sx (scratchRead c.task (c.saddr a off i).toNat (sizeBytes sz))))) s

def execSts (h : Hdr) (a : Reg) (off : SrcB) (x : SrcC) (sz : Size) (s : State) : Outcome State Fault Refusal :=
  run h off.len (⟨h.u, a, 1⟩ :: (useB h.u off 1 ++ useC h.u x (sizeRegs sz))) []
    (fun c s =>
      match scratchTrap c.task (c.lanes.map (fun i => (i, c.saddr a off i))) (sizeBytes sz) true false with
      | some (k, m, o) => .trap s k m o
      | none => .ok (modTask s c.tid (fun t => c.lanes.foldl (fun t i =>
          scratchWrite t (c.saddr a off i).toNat (leBytes (sizeBytes sz) (wordsNat (c.cs x (sizeRegs sz) i)))) t))) s

/-! ### Load data returns (R244) -/

/-- Bytes that a load of one lane reads now. An access at the home port leaves no older copy of its line in the L1 (R81,
R228). -/
def loadBytes (s : State) (t : Task) (op : MemOp) (la : LaneAcc) (pa n : Nat) : State × List Byte :=
  if la.port then homeRead (flushLine s t.core pa) (dieOf t.core) pa la.key n
  else if opConst op then ccRead s t.core pa la.key n
  else l1Read s t.core t.tenant pa la.key n

/-- The stamp of the writes that a load of a line has shown: at the home port, in the constant cache, or in the L1. -/
def loadStamp (s : State) (t : Task) (op : MemOp) (la : LaneAcc) (line : Nat) : List Nat :=
  let k := 256 * line + la.key
  if la.port then lineStamp s line
  else if opConst op then ((mget (core s t.core).cc k).map (·.stamp)).getD [0, 0, 0, 0]
  else ((mget (core s t.core).l1 k).map (·.stamp)).getD [0, 0, 0, 0]

/-- One lane's words. -/
def loadLane (s : State) (t : Task) (op : MemOp) (vals : List (Nat × List Word)) (la : LaneAcc) : State × List Word :=
  match op with
  | .load _ _ sz sx _ _ =>
    let (s1, bs) := loadBytes (traceRead s t la la.addr (sizeBytes sz)) t op la la.pa (sizeBytes sz)
    (s1, loadWords sz sx (leNat bs))
  | .loadx _ _ f g =>
    let s0 := traceRead s t la la.addr (elemBytes f)
    let (s1, bs) := loadBytes s0 t op la la.pa (elemBytes f)
    let (s2, sc) := if blockFmt f then loadBytes (traceRead s1 t la (scaleVa f g la) 1) t op la (scalePa f g la) 1
                    else (s1, [])
    (s2, [ldxWord f (leNat sc) (codeIn f (lanePlace f g la).high (leNat bs))])
  | _ => (s, ((vals.find? (fun p => p.1 == la.lane)).map (·.2)).getD [])

/-- The lines that a load still has to read. -/
def loadLines (op : MemOp) (la : LaneAcc) : List Nat :=
  match op with
  | .loadx _ _ f g => if blockFmt f then [la.pa / lineBytes, scalePa f g la / lineBytes] else [la.pa / lineBytes]
  | _ => [la.pa / lineBytes]

/-- A load's line may be read now: the own die has no write to it on its way, no reduction that the read must see is outstanding
(R258), and for a task of a propagation no write to a tracked line is on its way (R146). A constant cache that holds the line
serves it at any time (R233). -/
def lineReady (s : State) (t : Task) (op : MemOp) (la : LaneAcc) (ln : Nat) : Bool :=
  (opConst op && !la.port && (mget (core s t.core).cc (256 * ln + la.key)).isSome) ||
  (!redsDue s ln && !(wrPending s (dieOf t.core) ln && !opConst op) && !(t.prop && la.trk && s.wq.any (fun w => w.line == ln)))

/-- The data can return now: its lines may be read, no earlier load of the group awaits the same bytes (R92 edge 1), and an
earlier load from a TSO page does not wait (R98). -/
def loadReady (s : State) (t : Task) (gr : Group) (id : Nat) (l : LoadRec) : Bool :=
  !l.vals.isEmpty ||
  (l.lanes.all (fun la => (loadLines l.op la).all (lineReady s t l.op la)) &&
   (opConst l.op || !gr.loads.any (fun p => decide (p.1 < id) && p.2.vals.isEmpty && p.2.lanes.any (fun x =>
      l.lanes.any (fun la => spansMeet (laneSpans p.2.op x) (laneSpans l.op la))))) &&
   (!l.lanes.any (·.tso) || !gr.loads.any (fun p => decide (p.1 < id) && p.2.lanes.any (·.tso))))

/-- Words written to a load's destination. -/
def loadDest (op : MemOp) (dst : Lanes) (lane : Nat) (ws : List Word) (x : Group) : Group :=
  match op.dest with
  | u :: _ => x.putWords u.u u.r (if u.u then lanesOf dst else [lane]) ws
  | [] => x

/-- Registers that a later operation has named as its token keep what they hold (R345). -/
def keepOver (id : Nat) (old new : Group) : Group :=
  old.passed.foldl (fun y p =>
    if id < p.2 then
      { y with sr := mputD 0 y.sr p.1 (mgetD 0 old.sr p.1)
               rbad := if old.rbad.contains (16384 + p.1) then insertNat (16384 + p.1) y.rbad else y.rbad }
    else y) new

/-- The event on one outstanding load or atomic. -/
def loadReturn (s : State) (tid g id : Nat) : Option State :=
  match task s tid, group s tid g with
  | some t, some gr =>
    match mget gr.loads id with
    | none => none
    | some l =>
      if !loadReady s t gr id l then none
      else
        let s1 := modGroup s tid g (fun x => { x with loads := mdel x.loads id })
        some (l.lanes.foldl (fun s la =>
          let (s2, ws) := loadLane s t l.op l.vals la
          let s3 := if l.vals.isEmpty then (loadLines l.op la).foldl (fun s ln =>
            noteSeen s tid g (loadStamp s2 t l.op la ln)) s2 else s2
          modGroup s3 tid g (fun x => keepOver id x (loadDest l.op l.act la.lane ws x))) s1)
  | _, _ => none

/-- An event that may not be enabled: it then changes nothing. -/
def fire (o : Option State) (s : State) : Outcome State Fault Refusal :=
  match o with
  | some s1 => .next (wakeAll s1)
  | none => .next s

def execLoadDataReturn (tid g id : Nat) (s : State) : Outcome State Fault Refusal := fire (loadReturn s tid g id) s

end Sys2Proof.Machine
end

