-- ==== Sys2Proof/Machine/Atomics.lean ====
section
/-! DEFINITION. Atomics and reductions (R237 to R241, R257, R258). -/

namespace Sys2Proof.Machine

open Host

/-- Registers of an operation's data or result. -/
def aopRegs (op : AOp) : Nat := if aopWide op then 2 else 1

/-- The accesses of an atomic: an f32 operation reads a literal as its value (R175). -/
def Ctx.aopData (c : Ctx) (op : AOp) (x : SrcC) (lane : Nat) : List Word :=
  match op with
  | .addF32 | .minF32 | .maxF32 => [c.cf x lane]
  | _ => c.cs x (aopRegs op) lane

def atomAccs (c : Ctx) (a : Reg) (off : SrcB) (data : Nat → List Word) : List LaneAcc :=
  c.lanes.map (fun i => laneAcc i (c.gaddr a off i) (c.gaddr a off i) 0 (data i))

def execAtom (h : Hdr) (d a : Reg) (off : SrcB) (x : SrcC) (op : AOp) (scope : Scope) (ord : AOrd) (s : State) :
    Outcome State Fault Refusal :=
  run h off.len (⟨h.u, a, 2⟩ :: (useB h.u off 1 ++ useC h.u x (aopRegs op))) [⟨h.u, d, aopRegs op⟩]
    (fun c s => gmem c s (.atom d h.u op scope ord) (atomAccs c a off (c.aopData op x))) s

def execAtomcas (h : Hdr) (d a : Reg) (off : SrcB) (x : Reg) (w64 : Bool) (scope : Scope) (ord : AOrd) (s : State) :
    Outcome State Fault Refusal :=
  run h off.len (⟨h.u, a, 2⟩ :: ⟨h.u, x, if w64 then 4 else 2⟩ :: useB h.u off 1) [⟨h.u, d, if w64 then 2 else 1⟩]
    (fun c s => gmem c s (.cas d h.u w64 scope ord) (atomAccs c a off (c.cs (.reg x) (if w64 then 4 else 2)))) s

def execRed (h : Hdr) (a : Reg) (off : SrcB) (x : SrcC) (op : AOp) (scope : Scope) (ord : AOrd) (s : State) :
    Outcome State Fault Refusal :=
  run h off.len (⟨h.u, a, 2⟩ :: (useB h.u off 1 ++ useC h.u x (aopRegs op))) []
    (fun c s => gmem c s (.red op scope ord) (atomAccs c a off (c.aopData op x))) s

/-- `reddet` (R258): ordered inside a DET launch, else as `red` with the same operation, relaxed, at group scope. -/
def execReddet (h : Hdr) (a : Reg) (off : SrcB) (x : SrcC) (op : AOp) (s : State) : Outcome State Fault Refusal :=
  run h off.len (⟨h.u, a, 2⟩ :: (useB h.u off 1 ++ useC h.u x (aopRegs op))) []
    (fun c s =>
      gmem c s (if (detLaunch s c.task).isSome then .reddet op c.grp.seq.toNat else .red op .group .relaxed)
        (atomAccs c a off (c.aopData op x))) s

/-- One scratchpad atomic: the task with the new value, and the old value. -/
def scratchRmw (t : Task) (o n : Nat) (f : Nat → Option Nat) : Task × Nat :=
  let old := scratchRead t o n
  match f old with
  | none => (t, old)
  | some new => (scratchWrite t o (leBytes n new), old)

/-- The lanes of a scratchpad atomic in ascending order (R240). -/
def scratchLanes (n : Nat) (off : Nat → Nat) (f : Nat → Nat → Option Nat) : List Nat → Task → Task × List (Nat × Nat)
  | [], t => (t, [])
  | i :: is, t =>
    let (t1, old) := scratchRmw t (off i) n (f i)
    let (t2, os) := scratchLanes n off f is t1
    (t2, (i, old) :: os)

/-- A scratchpad atomic: the checks of R235, then every lane; the old values go to a destination where there is one. -/
def scratchAtomic (c : Ctx) (s : State) (a : Reg) (off : SrcB) (n : Nat) (d : Option Reg) (f : Nat → Nat → Option Nat) :
    Res :=
  match scratchTrap c.task (c.lanes.map (fun i => (i, c.saddr a off i))) n true true with
  | some (k, m, o) => .trap s k m o
  | none =>
    let r := scratchLanes n (fun i => (c.saddr a off i).toNat) f c.lanes c.task
    let s1 := modTask s c.tid (fun t => { t with scratch := r.1.scratch, sbad := r.1.sbad })
    match d with
    | none => .ok s1
    | some d => .ok (c.put s1 d (fun i => natWords (n / 4) (((r.2.find? (fun p => p.1 == i)).map (·.2)).getD 0)))

def execAtoms (h : Hdr) (d a : Reg) (off : SrcB) (x : SrcC) (op : AOp) (s : State) : Outcome State Fault Refusal :=
  run h off.len (⟨h.u, a, 1⟩ :: (useB h.u off 1 ++ useC h.u x (aopRegs op))) [⟨h.u, d, aopRegs op⟩]
    (fun c s => scratchAtomic c s a off (4 * aopRegs op) (some d)
      (fun i o => some (aopNew op o (wordsNat (c.aopData op x i))))) s

def execAtomscas (h : Hdr) (d a : Reg) (off : SrcB) (x : Reg) (w64 : Bool) (s : State) : Outcome State Fault Refusal :=
  run h off.len (⟨h.u, a, 1⟩ :: ⟨h.u, x, if w64 then 4 else 2⟩ :: useB h.u off 1) [⟨h.u, d, if w64 then 2 else 1⟩]
    (fun c s =>
      let k := if w64 then 2 else 1
      scratchAtomic c s a off (4 * k) (some d) (fun i o =>
        let ws := c.cs (.reg x) (2 * k) i
        if o = wordsNat (ws.take k) then some (wordsNat (ws.drop k)) else none)) s

def execReds (h : Hdr) (a : Reg) (off : SrcB) (x : SrcC) (op : AOp) (s : State) : Outcome State Fault Refusal :=
  run h off.len (⟨h.u, a, 1⟩ :: (useB h.u off 1 ++ useC h.u x (aopRegs op))) []
    (fun c s => scratchAtomic c s a off (4 * aopRegs op) none
      (fun i o => some (aopNew op o (wordsNat (c.aopData op x i))))) s

/-- `redmark` (R257). -/
def execRedmark (h : Hdr) (s : State) : Outcome State Fault Refusal :=
  run h 8 [] [] (fun c s => .ok (modGroup s c.tid c.g (fun x => { x with seq := satInc16 x.seq }))) s

end Sys2Proof.Machine
end

