-- ==== Sys2Proof/Machine/Compare.lean ====
section
/-! DEFINITION. Compare, select and move (R50, R219 to R222). -/

namespace Sys2Proof.Machine

open Host

def execIcmp (h : Hdr) (p : BitVec 3) (a : Reg) (b : SrcB) (cond : Cond) (uns : Bool) (s : State) :
    Outcome State Fault Refusal := cmp2 Ctx.b h p a b (icond cond uns) s

def execFcmp (h : Hdr) (p : BitVec 3) (a : Reg) (b : SrcB) (cond : Cond) (s : State) : Outcome State Fault Refusal :=
  cmp2 Ctx.bf h p a b (fcond cond) s

def execPlop (h : Hdr) (p : BitVec 3) (pa pb pc : PSrc) (fn : Byte) (s : State) : Outcome State Fault Refusal :=
  run h 8 [] [] (fun c s => .ok (c.putPred s p (fun i => truth fn (c.p pa i) (c.p pb i) (c.p pc i)))) s

def execSel (h : Hdr) (d a : Reg) (b : SrcB) (pc : PSrc) (s : State) : Outcome State Fault Refusal :=
  run h b.len (⟨h.u, a, 1⟩ :: useB h.u b 1) [⟨h.u, d, 1⟩]
    (fun c s => .ok (c.put s d (fun i => [if c.p pc i then c.ra a 0 i else c.b b i]))) s

def execMov (h : Hdr) (d a : Reg) (s : State) : Outcome State Fault Refusal := alu1 h d a id s

def execMovi (h : Hdr) (d : Reg) (imm : Word) (s : State) : Outcome State Fault Refusal :=
  run h 12 [] [⟨h.u, d, 1⟩] (fun c s => .ok (c.put s d (fun _ => [imm]))) s

def execPmovP2r (h : Hdr) (d : Reg) (s : State) : Outcome State Fault Refusal :=
  run h 8 [] [⟨h.u, d, 1⟩]
    (fun c s => .ok (c.put s d (fun i =>
      [BitVec.ofNat 32 ((upTo 7).foldl (fun n k => if has (c.grp.pred k) i then n + 2 ^ k else n) 0)]))) s

def execPmovR2p (h : Hdr) (a : Reg) (mask : BitVec 7) (s : State) : Outcome State Fault Refusal :=
  run h 8 [⟨h.u, a, 1⟩] []
    (fun c s => .ok ((upTo 7).foldl (fun s k =>
      if mask.getLsbD k then c.putPred s (BitVec.ofNat 3 k) (fun i => (c.ra a 0 i).getLsbD k) else s) s)) s

def execFclass (h : Hdr) (p : BitVec 3) (a : Reg) (mask : BitVec 9) (s : State) : Outcome State Fault Refusal :=
  run h 8 [⟨h.u, a, 1⟩] [] (fun c s => .ok (c.putPred s p (fun i => mask.getLsbD (classBit (c.ra a 0 i))))) s

/-- A block's stream share (R49, R50): begin, end and SFIX; all 0 outside a STREAM launch. -/
def streamShare (o : Origin) (blk : Nat) : Nat × Nat × Nat :=
  if !o.trec.stream || o.nblk == 0 then (0, 0, 0)
  else
    let t := o.trec.nt * o.trec.it
    let b := blk * t / o.nblk
    let e := (blk + 1) * t / o.nblk
    let fix := if b = e then 0
      else (if b % o.trec.it = 0 then 0 else 1) + (if e % o.trec.it = 0 then 0 else 2)
    (b, e, fix)

/-- The order label of a traced task (R123). -/
def taskLabel (s : State) (t : Task) : Nat :=
  match t.traced with
  | none => 0
  | some (h, r) =>
    (((mget (tenant s t.tenant).traces h).bind (fun tr => mget tr.tasks r)).map (·.label)).getD 0

/-- The value of a `movs` source for a lane (R222 Table 10). -/
def movsValue (c : Ctx) (s : State) (src : SReg) (lane : Nat) : Nat :=
  match src with
  | .laneid => lane
  | .groupid => c.g
  | .ngroups => c.task.ngrp
  | .blockid => c.task.blk
  | .nblocks => c.task.org.nblk
  | .actmask => c.act.toNat
  | .bndmask => c.bundle.toNat
  | .core => virtCore s c.task.core + 2 ^ 8 * clusterOf c.task.core
  | .cyclo => s.cycle
  | .cychi => c.grp.cychi.toNat
  | .sbeg => (streamShare c.task.org c.task.blk).1
  | .send => (streamShare c.task.org c.task.blk).2.1
  | .sfix => (streamShare c.task.org c.task.blk).2.2
  | .arg0 => (c.task.args.getD 0 0).toNat
  | .arg1 => (c.task.args.getD 1 0).toNat
  | .arg2 => (c.task.args.getD 2 0).toNat
  | .arg3 => (c.task.args.getD 3 0).toNat
  | .launchcnt => c.task.org.launchcnt
  | .phasecnt => c.task.org.phasecnt
  | .jobcnt => c.task.org.jobcnt
  | .tlablo => taskLabel s c.task
  | .tlabhi => taskLabel s c.task / 2 ^ 32
  | .tenant => c.ten

/-- `movs` (R222); `cyclo` latches bits 63:32 for the group. -/
def execMovs (h : Hdr) (d : Reg) (src : SReg) (s : State) : Outcome State Fault Refusal :=
  run h 8 [] [⟨h.u, d, 1⟩]
    (fun c s =>
      let s1 := c.put s d (fun i => [lo32 (movsValue c s src i)])
      .ok (if src = .cyclo then modGroup s1 c.tid c.g (fun x => { x with cychi := hi32 s.cycle }) else s1)) s

end Sys2Proof.Machine
end

