-- ==== Sys2Proof/Machine/Sync.lean ====
section
/-! DEFINITION. Fences, outstanding counters, barriers, queues, chains and the commit token (R80, R95 to R97, R242 to
R256, R465). -/

namespace Sys2Proof.Machine

open Host

/-! ### Fences and `wait` -/

def execFence (h : Hdr) (kind : FKind) (scope : Scope) (s : State) : Outcome State Fault Refusal :=
  run h 8 [] []
    (fun c s =>
      let s1 := if kind == .acq then s else relAct s c.task.core scope
      if !(c.grp.oplog.all (fun o => !opWrites o.op)) then .wait s
      else if kind != .acq && !relReady s1 c scope then .wait s1
      else if kind != .rel && !acqReady c then .wait s1
      else
        let s2 := if kind == .acq then s1 else relDone s1 c.task.core scope
        .ok (match kind with
          | .rel => s2
          | .sc => acqAct s2 c.task.core scope
          | _ => acqSeen s2 c.tid c.g c.task.core scope)) s

/-- Copies and collectives of a group outstanding, and its tile operations (R244 CP and TL). -/
def cpCount (s : State) (tid g : Nat) : Nat :=
  (s.copies.filter (fun p => p.2.tid == tid && p.2.g == g)).length +
  (s.colls.filter (fun p => p.2.tid == tid && p.2.g == g)).length

def matCounts (k : MatKind) : Bool :=
  match k with
  | .acczero _ _ => false
  | _ => true

def tlCount (s : State) (t : Task) (tid g : Nat) : Nat :=
  (((core s t.core).ma0 ++ (core s t.core).ma1).filter (fun o => o.tid == tid && o.g == g && matCounts o.kind)).length

def execWait (h : Hdr) (ld st cp tl : BitVec 6) (s : State) : Outcome State Fault Refusal :=
  run h 12 [] []
    (fun c s =>
      if ldCount c.grp ≤ ld.toNat ∧ stCount c.grp ≤ st.toNat ∧ cpCount s c.tid c.g ≤ cp.toNat ∧
         tlCount s c.task c.tid c.g ≤ tl.toNat then .ok s
      else .wait s) s

/-! ### Objects in the scratchpad -/

/-- An object's bytes as one number, and the same with a field replaced. -/
def objGet (t : Task) (o n : Nat) : Nat := scratchRead t o n
/-- An object's bytes hold an uncorrectable error: what uses the object takes DATA_ERROR (R31). -/
def objBad (t : Task) (obj : Map Nat) (k n : Nat) : Option Nat := (mget obj k).bind (fun o => if scratchBad t o n then some o else none)
def objSet (t : Task) (o n lo w v : Nat) : Task :=
  let x := scratchRead t o n
  scratchWrite t o (leBytes n (x - nb x lo w * 2 ^ lo + v % 2 ^ w * 2 ^ lo))

/-- Two byte ranges meet. -/
def rangesMeet (a n b m : Nat) : Bool := decide (a < b + m) && decide (b < a + n)

/-- A tile meets a byte range. -/
def tileMeets (t : Task) (o n : Nat) : Bool := t.tds.any (fun p => rangesMeet o n p.2.base p.2.len)

/-- A word tagged by something else than what `own` names lies in a byte range. -/
def tagMeets (t : Task) (o n : Nat) (own : Tag → Bool) : Bool :=
  t.tags.any (fun p => rangesMeet o n (4 * p.1) 4 && !own p.2)

def tagIsBar (n : Nat) : Tag → Bool
  | .bar m => m == n
  | _ => false
def tagIsQueue (n : Nat) : Tag → Bool
  | .queue m _ => m == n
  | _ => false

/-- Words of a byte range tagged, after the tags that `own` names are cleared. -/
def retag (t : Task) (own : Tag → Bool) (o n : Nat) (tag : Tag) : Task :=
  { t with tags := (List.range (n / 4)).foldl (fun m i => mput m (o / 4 + i) tag) (t.tags.filter (fun p => !own p.2)) }

/-! ### Barriers (R80 Table 6, R245, R246) -/

def barCount (t : Task) (o : Nat) : Nat := nb (objGet t o 16) 0 16
def barPhase (t : Task) (o : Nat) : Nat := nb (objGet t o 16) 16 16
def barArrcnt (t : Task) (o : Nat) : Nat := nb (objGet t o 16) 32 16
def barArrset (t : Task) (o : Nat) : Nat := nb (objGet t o 16) 48 16
def barWaitset (t : Task) (o : Nat) : Nat := nb (objGet t o 16) 64 16

/-- The cause of a `binit` (R245), lowest first. -/
def binitCause (t : Task) (n : Nat) (o : Int) : Option Byte :=
  if o % 16 ≠ 0 then some causeMisaligned
  else if o < 0 ∨ (t.scratchSize : Int) < o + 16 then some causeBounds
  else if tileMeets t o.toNat 16 || tagMeets t o.toNat 16 (tagIsBar n) then some causeClobber
  else match mget t.bars n with
    | some p =>
      if scratchBad t p 16 then some causeData else if barArrcnt t p ≠ 0 ∨ barWaitset t p ≠ 0 then some causeBarCount else none
    | none => none

def execBinit (h : Hdr) (n : BitVec 4) (a : Reg) (off : SrcB) (s : State) : Outcome State Fault Refusal :=
  run h off.len (⟨h.u, a, 1⟩ :: useB h.u off 1) []
    (fun c s =>
      let o := c.saddr a off c.lead
      match binitCause c.task n.toNat o with
      | some k => .trap s k c.leadSet (if k == causeBarCount then 0 else (o % 2 ^ 32).toNat)
      | none => .ok (modTask s c.tid (fun t =>
          let t1 := retag t (tagIsBar n.toNat) o.toNat 16 (.bar n.toNat)
          { scratchWrite t1 o.toNat (leBytes 16 0) with bars := mput t1.bars n.toNat o.toNat }))) s

/-- An arrival of n threads of group g (R246): none where it traps; else the task, the phase arrived in and whether the
phase completes. -/
def arrive (t : Task) (bar g cnt n : Nat) : Option (Task × Nat × Bool) :=
  match mget t.bars bar with
  | none => none
  | some o =>
    let count := if barCount t o = 0 then cnt else barCount t o
    if cnt = 0 ∨ 512 < cnt ∨ cnt ≠ count ∨ count < barArrcnt t o + n then none
    else
      let p := barPhase t o
      let arr := barArrcnt t o + n
      let set := (BitVec.ofNat 16 (barArrset t o) ||| BitVec.ofNat 16 (2 ^ g)).toNat
      if arr = count then
        some ({ scratchWrite t o (leBytes 16 (2 ^ 16 * ((p + 1) % 2 ^ 16))) with phases := t.phases + 1 }, p, true)
      else
        some (scratchWrite t o (leBytes 16 (count + 2 ^ 16 * p + 2 ^ 32 * arr + 2 ^ 48 * set + 2 ^ 64 * barWaitset t o)),
              p, false)

/-- The group's bit set in WAITSET. -/
def barWaits (t : Task) (bar g : Nat) : Task :=
  match mget t.bars bar with
  | none => t
  | some o => objSet t o 16 64 16 (BitVec.ofNat 16 (barWaitset t o) ||| BitVec.ofNat 16 (2 ^ g)).toNat

/-- ARRIVE and RELEASE records (R436); `t0` is the block before the arrival. -/
def arriveRecords (c : Ctx) (s : State) (t0 : Task) (bar : Nat) (done : Bool) : State :=
  if !c.user then s
  else
    let o := (mget t0.bars bar).getD 0
    let set := BitVec.ofNat 32 (BitVec.ofNat 16 (barArrset t0 o) ||| BitVec.ofNat 16 (2 ^ c.g)).toNat
    let phases := fun (p : Word) (s : State) => modTask s c.tid (fun t => { t with phases := p })
    let s1 := evPut (phases t0.phases s) c.tid c.g 3 c.pc c.act set 0 bar
    if done then evPut (phases (t0.phases + 1) s1) c.tid c.g 4 c.pc set (BitVec.ofNat 32 (barWaitset t0 o)) 0 bar else s1

/-- Records that an arrival writes, for ETSTALL (R437). -/
def arriveWaits (c : Ctx) (s : State) (done : Bool) : Bool :=
  evWait s c.ten ((evOn s c.ten 3 c.user).toNat + (done && evOn s c.ten 4 c.user).toNat)

/-- An arrival as an instruction makes it: a release-class fence of block scope, then the object (R247). `k` goes on with
the phase arrived in and whether it completed. -/
def arriveThen (c : Ctx) (s : State) (bar cnt : Nat) (k : State → Nat → Bool → Res) : Res :=
  match objBad c.task c.task.bars bar 16, arrive c.task bar c.g cnt (lcount c.act) with
  | some o, _ => .trap s causeData c.leadSet o
  | none, none => .trap s causeBarCount c.leadSet 0
  | none, some (t1, p, done) =>
    if !relReady s c .block || arriveWaits c s done then .wait s
    else k (arriveRecords c (setTask s c.tid t1) c.task bar done) p done

def execBarrive (h : Hdr) (n : BitVec 4) (d : Reg) (cnt : SrcB) (s : State) : Outcome State Fault Refusal :=
  run h cnt.len (useB h.u cnt 1) [⟨h.u, d, 1⟩]
    (fun c s => arriveThen c s n.toNat (c.b cnt c.lead).toNat (fun s p _ => .ok (c.putAll s d [BitVec.ofNat 32 p]))) s

def execBarsync (h : Hdr) (n : BitVec 4) (cnt : SrcB) (s : State) : Outcome State Fault Refusal :=
  run h cnt.len (useB h.u cnt 1) []
    (fun c s =>
      if !acqReady c then .wait s
      else arriveThen c s n.toNat (c.b cnt c.lead).toNat (fun s p done =>
        if done then .ok s else .block (modTask s c.tid (fun t => barWaits t n.toNat c.g)) (.bar n.toNat p))) s

def execBarwait (h : Hdr) (n : BitVec 4) (a : Reg) (s : State) : Outcome State Fault Refusal :=
  run h 8 [⟨h.u, a, 1⟩] []
    (fun c s =>
      let p := nb (c.ra a 0 c.lead).toNat 0 16
      match mget c.task.bars n.toNat with
      | none => .trap s causeBarCount c.leadSet 0
      | some o =>
        if scratchBad c.task o 16 then .trap s causeData c.leadSet o
        else if !acqReady c then .wait s
        else if barPhase c.task o = p then .block (modTask s c.tid (fun t => barWaits t n.toNat c.g)) (.bar n.toNat p)
        else .ok s) s

/-! ### Queues (R248 to R252) -/

def qHead (t : Task) (o : Nat) : Nat := nb (objGet t o 32) 0 32
def qTail (t : Task) (o : Nat) : Nat := nb (objGet t o 32) 32 32
def qEntries (t : Task) (o : Nat) : Nat := nb (objGet t o 32) 64 13
def qEsize (t : Task) (o : Nat) : Nat := 4 * 2 ^ nb (objGet t o 32) 86 2
def qAllow (t : Task) (o : Nat) : Nat := nb (objGet t o 32) 88 8
def qPopwait (t : Task) (o : Nat) : Nat := nb (objGet t o 32) 96 16
def qPushwait (t : Task) (o : Nat) : Nat := nb (objGet t o 32) 112 16
def qGcnt (t : Task) (o g : Nat) : Nat := nb (objGet t o 32) (128 + 8 * g) 8
/-- Entries in the ring. -/
def qUsed (t : Task) (o : Nat) : Nat := (qTail t o + 2 ^ 32 - qHead t o) % 2 ^ 32
/-- The offset of slot j. -/
def qSlot (t : Task) (o j : Nat) : Nat := o + 32 + j % qEntries t o * qEsize t o

def qinitCause (t : Task) (n es entries : Nat) (o : Int) : Option Byte :=
  let len := 32 + entries * (4 * 2 ^ es)
  if o % 32 ≠ 0 then some causeMisaligned
  else if o < 0 ∨ (t.scratchSize : Int) < o + len then some causeBounds
  else if entries = 0 ∨ 4096 < entries then some causeQueue
  else if tileMeets t o.toNat len || tagMeets t o.toNat len (tagIsQueue n) then some causeQueue
  else match mget t.queues n with
    | some p =>
      if scratchBad t p 32 then some causeData else if qPopwait t p ≠ 0 ∨ qPushwait t p ≠ 0 then some causeQueue else none
    | none => none

def execQinit (h : Hdr) (n : BitVec 3) (es : BitVec 2) (a : Reg) (off : Word) (entries : BitVec 13) (allow : Byte)
    (s : State) : Outcome State Fault Refusal :=
  run h 16 [⟨h.u, a, 1⟩] []
    (fun c s =>
      let o := c.saddr a (.imm off) c.lead
      match qinitCause c.task n.toNat es.toNat entries.toNat o with
      | some k => .trap s k c.leadSet (o % 2 ^ 32).toNat
      | none => .ok (modTask s c.tid (fun t =>
          let len := 32 + entries.toNat * (4 * 2 ^ es.toNat)
          let t1 := retag t (tagIsQueue n.toNat) o.toNat len (.queue n.toNat none)
          let hd := 2 ^ 64 * entries.toNat + 2 ^ 86 * es.toNat + 2 ^ 88 * allow.toNat
          { scratchWrite t1 o.toNat (leBytes 32 hd) with queues := mput t1.queues n.toNat o.toNat }))) s

/-- One entry pushed by a group: slot, tags that name the pusher, TAIL and GCNT. -/
def pushOne (t : Task) (n o g : Nat) (ws : List Word) : Task :=
  let at_ := qSlot t o (qTail t o)
  let es := qEsize t o
  let t1 := scratchWrite t at_ (leBytes es (wordsNat ws))
  let t2 := { t1 with tags := (List.range (es / 4)).foldl (fun m i => mput m (at_ / 4 + i) (.queue n (some g))) t1.tags }
  let t3 := objSet t2 o 32 32 32 (qTail t o + 1)
  if qAllow t o = 0 then t3 else objSet t3 o 32 (128 + 8 * g) 8 (qGcnt t o g + 1)

/-- One entry popped: its words, HEAD, and GCNT of the group that pushed it. -/
def popOne (t : Task) (o : Nat) : Task × List Word :=
  let at_ := qSlot t o (qHead t o)
  let es := qEsize t o
  let ws := natWords (es / 4) (scratchRead t at_ es)
  let t1 := objSet t o 32 0 32 (qHead t o + 1)
  let t2 := match mget t.tags (at_ / 4) with
    | some (.queue _ (some g)) => if qAllow t o = 0 then t1 else objSet t1 o 32 (128 + 8 * g) 8 (qGcnt t1 o g - 1)
    | _ => t1
  (t2, ws)

/-- The next k entries, or the header, hold an uncorrectable error. -/
def queueBad (t : Task) (o k : Nat) : Bool :=
  scratchBad t o 32 || (List.range k).any (fun j => scratchBad t (qSlot t o (qHead t o + j)) (qEsize t o))

/-- k entries popped in order. -/
def popMany (o : Nat) : Nat → Task → Task × List (List Word)
  | 0, t => (t, [])
  | k + 1, t =>
    let (t1, ws) := popOne t o
    let (t2, l) := popMany o k t1
    (t2, ws :: l)

/-- Blocked waits of a task, user and handler frontiers alike: group, entry, wait, length. -/
def taskWaits (t : Task) : List (Nat × Nat × Wait × Nat) :=
  t.groups.flatMap (fun p => (p.2.front ++ p.2.hfront).filterMap (fun e => e.blk.map (fun b => (p.1, e.id, b.1, b.2))))

/-- Some blocked `qpush` (`qpop`) of a queue blocked before `ord`. -/
def pushBefore (t : Task) (n ord : Nat) : Bool :=
  (taskWaits t).any (fun x => match x.2.2.1 with
    | .push m _ o => m == n && decide (o < ord)
    | _ => false)
def popBefore (t : Task) (n ord : Nat) : Bool :=
  (taskWaits t).any (fun x => match x.2.2.1 with
    | .pop m _ _ _ o => m == n && decide (o < ord)
    | _ => false)

/-- The conditions of R250. -/
def canPush (t : Task) (n o g k ord : Nat) : Bool :=
  !pushBefore t n ord && decide (qUsed t o + k ≤ qEntries t o) &&
  (qAllow t o == 0 || decide (qGcnt t o g + k ≤ qAllow t o))
def canPop (t : Task) (n o k ord : Nat) : Bool := !popBefore t n ord && decide (k ≤ qUsed t o)

def qSetPushwait (t : Task) (o g : Nat) (b : Bool) : Task :=
  let w := BitVec.ofNat 16 (qPushwait t o)
  let m := BitVec.ofNat 16 (2 ^ g)
  objSet t o 32 112 16 (if b then w ||| m else w &&& ~~~ m).toNat
def qSetPopwait (t : Task) (o g : Nat) (b : Bool) : Task :=
  let w := BitVec.ofNat 16 (qPopwait t o)
  let m := BitVec.ofNat 16 (2 ^ g)
  objSet t o 32 96 16 (if b then w ||| m else w &&& ~~~ m).toNat

/-- Lanes named by a trap of an instruction that is not group-level: with U = 1 the lowest one (R172). -/
def Ctx.trapLanes (c : Ctx) : Lanes := if c.h.u then c.leadSet else c.act

/-- Registers of a queue's entries; 1 while the queue is unbound. -/
def queueRegs (s : State) (n : Nat) : Nat :=
  match s.cur with
  | none => 1
  | some (tid, _) =>
    match (task s tid).bind (fun t => (mget t.queues n).map (fun o => qEsize t o / 4)) with
    | some k => k
    | none => 1

def execQpush (h : Hdr) (n : BitVec 3) (a : Reg) (s : State) : Outcome State Fault Refusal :=
  run h 8 [⟨h.u, a, queueRegs s n.toNat⟩] []
    (fun c s =>
      let t := c.task
      match mget t.queues n.toNat with
      | none => .trap s causeQueue c.trapLanes 0
      | some o =>
        let k := c.lanes.length
        let es := c.lanes.map (fun i => (List.range (qEsize t o / 4)).map (fun j => c.ra a j i))
        if queueBad t o 0 then .trap s causeData c.trapLanes o
        else if qEntries t o < k ∨ (qAllow t o ≠ 0 ∧ qAllow t o < k) then .trap s causeQueue c.trapLanes 0
        else if !relReady s c .block then .wait s
        else if canPush t n.toNat o c.g k t.qord then
          .ok (setTask s c.tid (es.foldl (fun t ws => pushOne t n.toNat o c.g ws) t))
        else
          .block (setTask s c.tid { qSetPushwait t o c.g true with qord := t.qord + 1 }) (.push n.toNat es t.qord)) s

/-- Popped entries written to a group's registers: lane by lane, or one for the bundle (R172, R250). -/
def putPopped (u : Bool) (d : Reg) (act : Lanes) (es : List (List Word)) (x : Group) : Group :=
  if u then x.putWords u d (lanesOf act) (es.headD [])
  else ((lanesOf act).zip es).foldl (fun x p => x.putWords u d [p.1] p.2) x

def execQpop (h : Hdr) (n : BitVec 3) (d : Reg) (s : State) : Outcome State Fault Refusal :=
  run h 8 [] [⟨h.u, d, queueRegs s n.toNat⟩]
    (fun c s =>
      let t := c.task
      match mget t.queues n.toNat with
      | none => .trap s causeQueue c.trapLanes 0
      | some o =>
        let k := c.lanes.length
        if queueBad t o 0 then .trap s causeData c.trapLanes o
        else if qEntries t o < k then .trap s causeQueue c.trapLanes 0
        else if queueBad t o (min k (qUsed t o)) then .trap s causeData c.trapLanes o
        else if !acqReady c then .wait s
        else if canPop t n.toNat o k t.qord then
          let (t1, es) := popMany o k t
          .ok (modGroup (setTask s c.tid t1) c.tid c.g (putPopped h.u d c.act es))
        else
          .block (setTask s c.tid { qSetPopwait t o c.g true with qord := t.qord + 1 }) (.pop n.toNat d h.u c.act t.qord)) s

def execQtry (h : Hdr) (n : BitVec 3) (d : Reg) (p : BitVec 3) (s : State) : Outcome State Fault Refusal :=
  run h 8 [] [⟨h.u, d, queueRegs s n.toNat⟩]
    (fun c s =>
      let t := c.task
      match mget t.queues n.toNat with
      | none => .trap s causeQueue c.trapLanes 0
      | some o =>
        let a := if popBefore t n.toNat t.qord then 0 else qUsed t o
        let k := min c.lanes.length a
        let got := c.lanes.take k
        if queueBad t o k then .trap s causeData c.trapLanes o
        else if !acqReady c then .wait s
        else
          let (t1, es) := popMany o k t
          let s1 := setTask s c.tid t1
          let s2 := c.putSome s1 d got (fun i => ((got.zip es).find? (fun x => x.1 == i)).map (·.2) |>.getD [])
          .ok (c.putPred s2 p (fun i => got.contains i))) s

/-! ### Chains (R253, R254, R463) -/

/-- The page of a chain word has ORDSH = 1, which raises PROTECTION whatever else the page would raise after it (R60, R253). -/
def chainOrdsh (s : State) (c : Ctx) (op : MemOp) (va : Nat) : Bool :=
  match (access s (.core c.task.core) c.ten (rootOf s c.task) va { r := opReads op, w := opWrites op, x := false, user := c.user }).2 with
  | .ok _ x => x.ordsh
  | _ => false

/-- The chain word's access by the lowest active lane: a trap, a wait for a page, or the checked access. -/
def chainAccess (c : Ctx) (s : State) (a : Reg) (off : SrcB) (op : MemOp) (k : State → LaneAcc → Res) : Res :=
  let va := c.gaddr a off c.lead
  if logHolds c.grp [va / 2 ^ 12] then .wait s
  else
    match laneCheck s c.task c.user op (laneAcc c.lead va va 0 []) with
    | (_, .bad cause0 addr rep) =>
      let cause := if causeProt.toNat < cause0.toNat && chainOrdsh s c op va then causeProt else cause0
      .trap (reportPages s c.task c.g 0 cause (opReads op) (opWrites op) (if rep then [addr / 2 ^ 12] else []))
        cause c.leadSet (addr % 2 ^ 57)
    | (s1, .serve _ v) => .wait (addNeed s1 c.ten (.group c.tid c.g) v (opWrites op) va 0)
    | (s1, .go la) => if la.ordsh then .trap s causeProt c.leadSet va else if mapHolds s1 la.pa then .wait s1 else k s1 la

/-- A block of a DET launch becomes published (R255). -/
def publish (s : State) (t : Task) : State :=
  if (detLaunch s t).isNone then s
  else modTenant s t.tenant (fun x => { x with launches := mmod x.launches t.launch (fun l =>
    { l with published := insertNat t.blk l.published }) })

/-- A publication orders at package scope (R255), so its fence is at least of that scope. -/
def pubScope (s : State) (t : Task) (scope : Scope) : Scope :=
  if (detLaunch s t).isNone || scope == .system then scope else .package

/-- The tasks of a block of a launch: the block's own, and those spawned within it (R465). -/
def blockTasks (s : State) (t launch blk : Nat) : List Task :=
  (s.tasks.filter (fun p => p.2.tenant == t && p.2.launch == launch && p.2.blk == blk && !p.2.prop)).map (·.2)

/-- The masked bytes of every core that runs a task of a DET block are written back before the block is published (R255). -/
def blockRelease (s : State) (t : Task) : State :=
  if (detLaunch s t).isNone then s
  else (blockTasks s t.tenant t.launch t.blk).foldl (fun s u => writeBackAll s u.core) s

/-- Every access that the tasks of a DET block have made is complete. -/
def blockSettled (s : State) (t : Task) : Bool :=
  (detLaunch s t).isNone || (blockTasks s t.tenant t.launch t.blk).all (fun u =>
    !s.wq.any (fun w => w.die == dieOf u.core) &&
    u.groups.all (fun q => q.2.loads.isEmpty && q.2.stores.isEmpty && q.2.oplog.all (fun o => opCountsLd o.op && !opWrites o.op)))

def execChainp (h : Hdr) (a : Reg) (off : SrcB) (x : SrcC) (scope : Scope) (s : State) : Outcome State Fault Refusal :=
  run h off.len (⟨h.u, a, 2⟩ :: (useB h.u off 1 ++ useC h.u x 1)) []
    (fun c s => chainAccess c s a off (.store .b32 true) (fun s1 la =>
      let sc := pubScope s1 c.task scope
      let s2 := blockRelease (relAct s1 c.task.core sc) c.task
      if !relReady s2 c sc || !blockSettled s2 c.task || loadAhead c.grp [(la.pa, 4)] then .wait s2
      else
        let bs := leBytes 4 (c.c x c.lead).toNat
        let s3 := traceWrite (flushLine (relDone s2 c.task.core sc) c.task.core la.pa) c.task la la.addr 4
        let s4 := sendWrite (countReq s3 (dieOf c.task.core) la.pa) (dieOf c.task.core) la.key c.ten (la.pa / lineBytes)
          (bytesAt la.pa bs) none (laneGrans s3 c.task la la.addr 4)
        .ok (wakeAll (publish s4 c.task)))) s

/-- `chainw` is satisfied by a word (R253). -/
def chainHolds (word w : Word) (ge : Bool) : Bool := if ge then decide ((word - w).toNat < 2 ^ 31) else word == w

/-- The chain word as the home port holds it; none while the own die's write to the line, or a reduction that the read must
see (R258), is on its way. The group has then read what the line's stamp names. -/
def chainRead (s : State) (tid g : Nat) (t : Task) (la : LaneAcc) : Option (State × Word) :=
  if wrPending s (dieOf t.core) (la.pa / lineBytes) || redsDue s (la.pa / lineBytes) || mapHolds s la.pa then none
  else
    let (s1, bs) := homeRead (flushLine s t.core la.pa) (dieOf t.core) la.pa la.key 4
    let s2 := noteSeen s1 tid g (lineStamp s1 (la.pa / lineBytes))
    some (traceRead s2 t la la.addr 4, BitVec.ofNat 32 (leNat bs))

def execChainw (h : Hdr) (a : Reg) (off : SrcB) (x : SrcC) (scope : Scope) (ge : Bool) (s : State) :
    Outcome State Fault Refusal :=
  run h off.len (⟨h.u, a, 2⟩ :: (useB h.u off 1 ++ useC h.u x 1)) []
    (fun c s => chainAccess c s a off (.load 0 false .b32 false true false) (fun s1 la =>
      let w := c.c x c.lead
      let s2 := flushLine s1 c.task.core la.pa
      if !acqReady c then .wait s2
      else match chainRead s2 c.tid c.g c.task la with
        | some (s3, v) =>
          if chainHolds v w ge then .ok (acqSeen s3 c.tid c.g c.task.core scope)
          else .block s2 (.chain la.addr w ge scope)
        | none => .block s2 (.chain la.addr w ge scope))) s

/-! ### The commit token (R256, R465) -/

def execTokacq (h : Hdr) (s : State) : Outcome State Fault Refusal :=
  run h 8 [] []
    (fun c s =>
      match tokenPos s c.task with
      | .free => .ok s
      | .passed => .trap s causeToken c.leadSet 0
      | .holds => if acqReady c then .ok (acqAct s c.task.core .package) else .wait s
      | .before => if acqReady c then .block s .tok else .wait s) s

/-- The lowest block from b upwards that has not retired. -/
def unretired (l : Launch) (b : Nat) : Nat := (firstKey (fun k => !l.retired.contains k) (l.retired.length + 1) b).getD b

/-- Commit handover (R100): the cores of the block that now holds a launch's token acquire at package scope, so that its tasks
see every access of the holders before. A block that is not resident yet acquires at its start. -/
def tokenAcquire (s : State) (t launch : Nat) : State :=
  match mget (tenant s t).launches launch with
  | none => s
  | some l => (blockTasks s t launch l.token).foldl (fun s u => acqAct s u.core .package) s

/-- The token passes to the next block index; a block that has already retired passes it on. -/
def passToken (s : State) (t launch blk : Nat) : State :=
  tokenAcquire (modTenant s t (fun x => { x with launches := mmod x.launches launch (fun l =>
    if l.token == blk then { l with token := unretired l (blk + 1) } else l) })) t launch

def execTokpass (h : Hdr) (s : State) : Outcome State Fault Refusal :=
  run h 8 [] []
    (fun c s =>
      match tokenPos s c.task with
      | .free => .ok s
      | .holds =>
        let s1 := blockRelease (relAct s c.task.core .package) c.task
        if !relReady s1 c .package || !blockSettled s1 c.task then .wait s1
        else .ok (wakeAll (passToken (publish s1 c.task) c.ten c.task.launch c.task.blk))
      | _ => .trap s causeToken c.leadSet 0) s

end Sys2Proof.Machine
end

