-- ==== Sys2Proof/Machine/Engine.lean ====
section
/-! DEFINITION. What the engines share (R72 to R79, R261 to R264, R270, R274): tiles and chunk ownership, token and
parameter checks, and accesses to global memory granule by granule. -/

namespace Sys2Proof.Machine

open Host

/-! ### Issue -/

/-- A token field: R78 for an operation that names an already pending token. -/
def tokenTaken (c : Ctx) (t : Reg) : Bool := c.grp.toks.contains (scalIdx t)

/-- A trap of a group-level instruction that has no address (R261, R63). -/
def Ctx.refuse (c : Ctx) (s : State) (cause : Byte) : Res := .trap s cause c.leadSet 0

/-- The lowest of several causes (R60), or what follows when there is none. -/
def firstCause (c : Ctx) (s : State) (cs : List (Bool × Byte × Nat)) (k : Res) : Res :=
  match cs.find? (fun x => x.1) with
  | some x => .trap s x.2.1 c.leadSet x.2.2
  | none => k

/-! ### Tiles -/

/-- A tile's chunk j is free for a writer, and for a reader (R263). -/
def chunkIdle (x : Tile) (j : Nat) : Bool := x.own.getLsbD j && mgetD 0 x.rcnt j == 0
def chunkReadable (x : Tile) (j : Nat) : Bool := x.own.getLsbD j && decide (mgetD 0 x.rcnt j < 7)

/-- The tile with the number of its chunk that covers bytes 512 k to 512 k + 511 of the scratchpad. -/
def chunkNo (t : Task) (k : Nat) : Option (Tile × Nat) := chunkAt t (512 * k)

/-- A change of the tile that holds scratchpad chunk k. -/
def modChunk (t : Task) (k : Nat) (f : Tile → Nat → Tile) : Task :=
  { t with tds := t.tds.map (fun p =>
      if p.2.base ≤ 512 * k ∧ 512 * k < p.2.base + p.2.len then (p.1, f p.2 (k - p.2.base / 512)) else p) }

/-- OWN cleared and set; RCNT raised and lowered (R75). -/
def ownClear (x : Tile) (j : Nat) : Tile := { x with own := x.own &&& ~~~ BitVec.ofNat 128 (2 ^ j) }
def ownSet (x : Tile) (j : Nat) : Tile := { x with own := x.own ||| BitVec.ofNat 128 (2 ^ j) }
def readUp (x : Tile) (j : Nat) : Tile := { x with rcnt := mputD 0 x.rcnt j (mgetD 0 x.rcnt j + 1) }
def readDown (x : Tile) (j : Nat) : Tile := { x with rcnt := mputD 0 x.rcnt j (mgetD 0 x.rcnt j - 1) }

def modChunks (t : Task) (ks : List Nat) (f : Tile → Nat → Tile) : Task := ks.foldl (fun t k => modChunk t k f) t

/-- Every chunk may be written (read) by an engine now. -/
def writersGo (t : Task) (ks : List Nat) : Bool := ks.all (fun k => (chunkNo t k).any (fun p => chunkIdle p.1 p.2))
def readersGo (t : Task) (ks : List Nat) : Bool := ks.all (fun k => (chunkNo t k).any (fun p => chunkReadable p.1 p.2))

/-- The scratchpad chunks of a tile. -/
def tileChunks (x : Tile) : List Nat := (upTo (x.len / 512)).map (fun j => x.base / 512 + j)

/-- A shaped tile (R267). -/
def Tile.shaped (x : Tile) : Bool := x.rows != 0

/-- The end of a tile's shaped area (R267). -/
def shapedEnd (f : Fmt) (g : Geom) (pitch rows cols : Nat) : Nat :=
  rows * pitch + (if blockFmt f then rows * cols / blockSize g else 0)

/-- What a byte of a shaped tile holds (R105, R267): byte k of element (i, j), one nibble of it, or the scale byte of
block b of row i; nothing for padding. -/
inductive TPart where
  | byte (i j k : Nat)
  | nib (i j : Nat) (high : Bool)
  | scale (i b : Nat)
  deriving DecidableEq, Repr

def tileParts (x : Tile) (o : Nat) : List TPart :=
  if o < x.rows * x.pitch then
    let i := o / x.pitch
    let q := o % x.pitch
    if elemBits x.fmt = 4 then
      (if 2 * q < x.cols then [.nib i (2 * q) false] else []) ++
      (if 2 * q + 1 < x.cols then [.nib i (2 * q + 1) true] else [])
    else
      let eb := elemBytes x.fmt
      if q / eb < x.cols then [.byte i (q / eb) (q % eb)] else []
  else if o < shapedEnd x.fmt x.geom x.pitch x.rows x.cols then
    let n := x.cols / blockSize x.geom
    [.scale ((o - x.rows * x.pitch) / n) ((o - x.rows * x.pitch) % n)]
  else []

/-- The scratchpad bytes of element (i, j), and its scale byte: 0 outside block formats. -/
def tileElem (t : Task) (x : Tile) (i j : Nat) : Nat × Nat :=
  let o := x.base + i * x.pitch + j * elemBits x.fmt / 8
  let code := codeIn x.fmt (elemBits x.fmt == 4 && j % 2 == 1) (scratchRead t o (elemBytes x.fmt))
  let so := x.base + x.rows * x.pitch + i * (x.cols / blockSize x.geom) + j / blockSize x.geom
  (code, if blockFmt x.fmt then scratchRead t so 1 else 0)

/-- The element, or its scale, holds an uncorrectable error. -/
def elemBad (t : Task) (x : Tile) (i j : Nat) : Bool :=
  !t.sbad.isEmpty && (scratchBad t (x.base + i * x.pitch + j * elemBits x.fmt / 8) (elemBytes x.fmt) ||
    (blockFmt x.fmt && scratchBad t (x.base + x.rows * x.pitch + i * (x.cols / blockSize x.geom) + j / blockSize x.geom) 1))

/-! ### Accesses to global memory -/

/-- How an engine's access to one granule stands. -/
inductive EngOut where
  | go (la : LaneAcc)
  | serve (v : Service)
  | bad (cause : Byte)
  | hold
  deriving DecidableEq, Repr

/-- One granule checked: the page (R384, R122, R83, R85), data errors (R274), the commit token (R264), and writes on
their way that the access must follow (R99). -/
def engTouch (s : State) (t : Task) (user rd wr : Bool) (fmt : Option (Fmt × Geom)) (gran : Nat) : State × EngOut :=
  let va := 32 * gran
  if 2 ^ 57 ≤ va then (s, .bad causeProt)
  else match access s (.tile t.core) t.tenant (rootOf s t) va { r := rd, w := wr, x := false, user := user } with
    | (s1, .serve v) => (s1, .serve v)
    | (s1, .fail cause) => (s1, .bad cause)
    | (s1, .ok pa x) =>
      if wr && (inTraceRegion s1 t.tenant va || (x.const && t.traced.isSome)) then (s1, .bad causeProt)
      else if !x.legal || fmt.any (fun f => !x.carries f.1 f.2) then (s1, .bad causeFmt)
      else if rd && blockBad s1 pa then (s1, .bad causeData)
      else if wr && x.ordsh && tokenPos s1 t == .passed then (s1, .bad causeToken)
      else if wr && x.ordsh && tokenPos s1 t == .before then (s1, .hold)
      else if mapHolds s1 pa || (wr && spillHolds s1 (pa / lineBytes)) then (s1, .hold)
      else if rd && (wrPending s1 (dieOf t.core) (pa / lineBytes) || redsDue s1 (pa / lineBytes)) then (s1, .hold)
      else
        let trk := x.trk && !x.const
        if rd && t.prop && trk && s1.wq.any (fun w => w.line == pa / lineBytes) then (s1, .hold)
        else (s1, .go { laneAcc 0 va va 0 [] with pa := pa, key := x.key, port := x.tso || x.ordsh || (t.prop && trk),
                                                  tso := x.tso, ordsh := x.ordsh, trk := trk })

/-- Granules that cover addresses, ascending. -/
def granules (vas : List Nat) : List Nat := vas.foldl (fun l a => insertNat (a / 32) l) []

/-- How an engine's set of granules stands as a whole. -/
inductive EngPlan where
  | go (s : State) (las : List LaneAcc)
  | serve (s : State) (ps : List (Nat × Service))
  | bad (s : State) (cause : Byte) (va : Nat)
  | hold (s : State)
  deriving DecidableEq, Repr

def engTouches (s : State) (t : Task) (user rd wr : Bool) (fmt : Option (Fmt × Geom)) :
    List Nat → State × List (Nat × EngOut)
  | [] => (s, [])
  | g :: gs =>
    let (s1, o) := engTouch s t user rd wr fmt g
    let (s2, os) := engTouches s1 t user rd wr fmt gs
    (s2, (32 * g, o) :: os)

/-- A fault that cannot be served comes first, then the faults that can, then the waits. -/
def engPlan (s : State) (t : Task) (user rd wr : Bool) (fmt : Option (Fmt × Geom)) (vas : List Nat) : EngPlan :=
  let (s1, os) := engTouches s t user rd wr fmt (granules vas)
  let bads := os.filterMap (fun p => match p.2 with
    | .bad k => some (p.1, k)
    | _ => none)
  let serves := os.filterMap (fun p => match p.2 with
    | .serve v => some (p.1, v)
    | _ => none)
  match bads, serves with
  | (va, k) :: _, _ => .bad s1 k va
  | [], p :: ps => .serve s1 (p :: ps)
  | [], [] =>
    if os.any (fun p => p.2 == .hold) then .hold s1
    else .go s1 (os.filterMap (fun p => match p.2 with
      | .go la => some la
      | _ => none))

/-- Granules read: every byte, by virtual address. -/
def engLoad (s : State) (t : Task) (las : List LaneAcc) : State × Map Byte :=
  las.foldl (fun (acc : State × Map Byte) la =>
    let s1 := traceRead acc.1 t la la.addr 32
    let (s2, bs) := if la.port then homeRead s1 (dieOf t.core) la.pa la.key 32 else engRead s1 (dieOf t.core) la.pa la.key 32
    (s2, bs.zipIdx.foldl (fun m p => mput m (la.addr + p.2) p.1) acc.2)) (s, [])

/-- The bytes of a granule among bytes by virtual address, by physical address. -/
def granBytes (la : LaneAcc) (bytes : Map Byte) : Map Byte :=
  (bytes.filter (fun p => p.1 / 32 == la.addr / 32)).map (fun p => (la.pa + p.1 % 32, p.2))

/-- Granules written on their way to the home ports; the core's own copies are flushed (R79, R81). -/
def engStore (s : State) (t : Task) (own : Nat × Nat × Nat) (las : List LaneAcc) (bytes : Map Byte) : State :=
  las.foldl (fun s la =>
    let b := granBytes la bytes
    if b.isEmpty then s
    else
      let s1 := flushLine (traceWrite s t la la.addr 32) t.core la.pa
      sendWrite (countReq s1 (dieOf t.core) la.pa) (dieOf t.core) la.key t.tenant (la.pa / lineBytes) b (some own)
        (laneGrans s t la la.addr 32)) s

/-- Bytes of one line written at their port at once, under a new stamp of the die. -/
def homeWriteMap (s : State) (d key t line : Nat) (b : Map Byte) (gran : List Gran) : State :=
  let x := die s d
  let clock := x.clock.set d (stampAt x.clock d + 1)
  applyAtHome (setDie s d { x with clock := clock }) d key t line b clock gran

/-- Granules written at their ports at once, when the die's earlier writes allow it. -/
def engApply (s : State) (t : Task) (las : List LaneAcc) (bytes : Map Byte) : State :=
  las.foldl (fun s la =>
    let b := granBytes la bytes
    if b.isEmpty then s
    else
      let s1 := flushLine (traceWrite s t la la.addr 32) t.core la.pa
      homeWriteMap (countReq s1 (dieOf t.core) la.pa) (dieOf t.core) la.key t.tenant (la.pa / lineBytes) b
        (laneGrans s t la la.addr 32)) s

/-- Writes of an operation still on their way. -/
def opWritesOut (s : State) (tid g id : Nat) : Bool := s.wq.any (fun w => w.owner == some (tid, g, id))

/-- The issuing group's earlier accesses are complete (R99). -/
def earlierDone (s : State) (tid g id : Nat) : Bool :=
  match group s tid g with
  | none => true
  | some gr => !gr.loads.any (fun p => decide (p.1 < id)) && !gr.oplog.any (fun o => decide (o.id < id))

/-- Pages that an operation waits for (R371). -/
def needAll (s : State) (t : Nat) (who : Needer) (wr : Bool) (src : Nat) (ps : List (Nat × Service)) : State :=
  ps.foldl (fun s p => addNeed s t who p.2 wr p.1 src) s

/-- Words of bytes by virtual address: n bytes from an address, little-endian. -/
def bytesNum (m : Map Byte) (va n : Nat) : Nat := leNat ((List.range n).map (fun i => mgetD 0 m (va + i)))

/-- An access of R463 by the lowest lane that reads n bytes at an address: a trap, a wait, or the bytes. -/
def recordRead (c : Ctx) (s : State) (va n : Nat) (k : State → Nat → Res) : Res :=
  if va % n != 0 then .trap s causeMisaligned c.leadSet (va % 2 ^ 57)
  else if 2 ^ 57 ≤ va then .trap s causeProt c.leadSet (va % 2 ^ 57)
  else if logHolds c.grp [va / 2 ^ 12] then .wait s
  else match engPlan (writeBackAll s c.task.core) c.task c.user true false none
      ((upTo (n / 32)).map (fun i => va + 32 * i)) with
    | .bad s1 cause a =>
      .trap (if cause == causePage || cause == causeProt then reportPages s1 c.task c.g 3 cause true false [a / 2 ^ 12] else s1)
        cause c.leadSet a
    | .serve s1 ps => .wait (needAll s1 c.ten (.group c.tid c.g) false 3 ps)
    | .hold s1 => .wait s1
    | .go s1 las =>
      if loadAhead c.grp (las.map (fun la => (la.pa, 32))) then .wait s1
      else
        let (s2, m) := engLoad s1 c.task las
        k s2 (bytesNum m va n)

end Sys2Proof.Machine
end

