-- ==== Sys2Proof/Machine/Copy.lean ====
section
/-! DEFINITION. Tiles, tensor records and copies (R71 to R79, R266 to R277): `cpl`, `cpt`, `cpr`, `chkwait`, `chktest`,
`tdesc`, `tfree`, `trec`, `cpcancel`, and the events that land chunks, apply reducing chunks and end copies. -/

namespace Sys2Proof.Machine

open Host

/-! ### Tile descriptors -/

/-- The cases in which `tdesc` raises ENGINE_PARAM (R72, R77, R266). -/
def tdescBad (t : Task) (td base len fmt geom pitch rows cols : Nat) : Bool :=
  let old := mget t.tds td
  let bytes := 512 * len
  base % 512 != 0 || len == 0 || decide (128 < len) || decide (t.scratchSize < base + bytes) ||
  old.any (fun x => !((upTo (x.len / 512)).all (chunkIdle x))) ||
  (t.tds.filter (fun p => p.1 != td)).any (fun p => rangesMeet base bytes p.2.base p.2.len) ||
  tagMeets t base bytes (fun _ => false) ||
  (match Fmt.ofCode fmt, Geom.ofCode (geom % 8) with
   | some f, some g =>
     decide (8 ≤ geom) || !pairOk f g || g == .graph ||
     !((rows == 0 && cols == 0 && pitch == 0) || (rows != 0 && cols != 0 && pitch != 0)) ||
     pitch % 16 != 0 || decide (pitch < packedBytes f cols) || (blockFmt f && cols % blockSize g != 0) ||
     decide (bytes < shapedEnd f g pitch rows cols)
   | _, _ => true)

def execTdesc (h : Hdr) (td : BitVec 4) (a : Reg) (len : Byte) (fmt geom : BitVec 4) (pitch rows cols : Half)
    (s : State) : Outcome State Fault Refusal :=
  run h 16 [⟨h.u, a, 1⟩] []
    (fun c s =>
      let base := (c.ra a 0 c.lead).toNat
      if tdescBad c.task td.toNat base len.toNat fmt.toNat geom.toNat pitch.toNat rows.toNat cols.toNat then
        c.refuse s causeParam
      else match Fmt.ofCode fmt.toNat, Geom.ofCode (geom.toNat % 8) with
        | some f, some g =>
          let x : Tile := { base := base, len := 512 * len.toNat, fmt := f, geom := g, pitch := pitch.toNat,
                            rows := rows.toNat, cols := cols.toNat, own := BitVec.ofNat 128 (2 ^ len.toNat - 1), rcnt := [] }
          .ok (modTask s c.tid (fun t => { t with tds := mput t.tds td.toNat x }))
        | _, _ => c.refuse s causeParam) s

def execTfree (h : Hdr) (td : BitVec 4) (s : State) : Outcome State Fault Refusal :=
  run h 8 [] []
    (fun c s =>
      match mget c.task.tds td.toNat with
      | none => c.refuse s causeParam
      | some x =>
        if (upTo (x.len / 512)).all (chunkIdle x) then
          .ok (modTask s c.tid (fun t => { t with tds := mdel t.tds td.toNat }))
        else c.refuse s causeParam) s

/-- The chunks of a tile that a mask names from `first` (R276). -/
def maskChunks (x : Tile) (mask first : Nat) : List Nat :=
  ((upTo 32).filter (fun i => nb mask i 1 == 1 && decide (first + i < x.len / 512))).map (fun i => first + i)

def execChkwait (h : Hdr) (td : BitVec 4) (mask : Word) (first : BitVec 7) (s : State) : Outcome State Fault Refusal :=
  run h 12 [] []
    (fun c s =>
      match mget c.task.tds td.toNat with
      | none => c.refuse s causeParam
      | some x => if (maskChunks x mask.toNat first.toNat).all (chunkIdle x) then .ok s else .wait s) s

def execChktest (h : Hdr) (p : BitVec 3) (td : BitVec 4) (mask : Word) (first : BitVec 7) (s : State) :
    Outcome State Fault Refusal :=
  run h 12 [] []
    (fun c s =>
      match mget c.task.tds td.toNat with
      | none => c.refuse s causeParam
      | some x =>
        let v := (maskChunks x mask.toNat first.toNat).all (chunkIdle x)
        .ok (modGroup s c.tid c.g (fun x => x.setPred p.toNat c.act (if v then 0xFFFFFFFF else 0)))) s

/-! ### Tensor records (R269) -/

/-- The image's fields. -/
def trecOf (n : Nat) (f : Fmt) (g : Geom) : TRec :=
  { base := nb n 455 57, rows := nb n 416 32, cols := nb n 384 32, rstride := nb n 352 32, fmt := f, geom := g }

/-- The cases in which `trec` raises ENGINE_PARAM. -/
def trecBad (n : Nat) (x : TRec) : Bool :=
  nb n 448 7 != 0 || nb n 0 352 != 0 || x.rows == 0 || x.cols == 0 || (decide (1 < x.rows) && decide (x.rstride < x.cols)) ||
  x.base % (if blockFmt x.fmt then 4096 else elemBytes x.fmt) != 0 ||
  (blockFmt x.fmt && x.rstride % blockSize x.geom != 0) || x.fmt == .raw || x.geom == .graph

/-- The FMT and GEOM of BASE's page: the slot's, a fault, or the wait for its service. -/
def execTrec (h : Hdr) (tx : BitVec 3) (a : Reg) (off : SrcB) (s : State) : Outcome State Fault Refusal :=
  run h off.len (⟨h.u, a, 2⟩ :: useB h.u off 1) []
    (fun c s =>
      recordRead c s (c.gaddr a off c.lead) 64 (fun s1 n =>
        let base := nb n 455 57
        match access s1 (.tile c.task.core) c.ten (rootOf s1 c.task) base { r := true, w := false, x := false, user := c.user } with
        | (s2, .serve v) => .wait (addNeed s2 c.ten (.group c.tid c.g) v false base 3)
        | (s2, .fail cause) =>
          .trap (reportPages s2 c.task c.g 3 cause true false [base / 2 ^ 12]) cause c.leadSet base
        | (s2, .ok _ x) =>
          match Fmt.ofCode x.fmt, Geom.ofCode x.geom with
          | some f, some g =>
            let r := trecOf n f g
            if !pairOk f g || trecBad n r then c.refuse s2 causeParam
            else .ok (modTask s2 c.tid (fun t => { t with txs := mput t.txs tx.toNat r }))
          | _, _ => c.refuse s2 causeParam)) s

/-! ### What a copy moves -/

/-- A part of the tile of a `cpt` and where it stands in the tensor: its address, and the nibble there. -/
structure CptMove where
  o : Nat
  part : TPart
  va : Nat
  high : Bool
  deriving DecidableEq, Repr

/-- The place of a part of tile byte o in the tensor; none outside ROWS and COLS (R272). -/
def partPlace (x : Tile) (tx : TRec) (row col : Nat) (p : TPart) : Option (Nat × Bool) :=
  let at_ := fun (i j : Nat) =>
    if row + i < tx.rows ∧ col + j < tx.cols then some (placeOf tx.fmt tx.geom ((row + i) * tx.rstride + (col + j)))
    else none
  match p with
  | .byte i j k => (at_ i j).map (fun q => (tx.base + q.off + k, false))
  | .nib i j _ => (at_ i j).map (fun q => (tx.base + q.off, q.high))
  | .scale i b => (at_ i (b * blockSize x.geom)).map (fun q => (tx.base + q.scale.getD 0, false))

/-- The moves of one tile byte. -/
def byteMoves (x : Tile) (tx : TRec) (row col o : Nat) : List CptMove :=
  (tileParts x o).filterMap (fun p => (partPlace x tx row col p).map (fun q =>
    { o := o, part := p, va := q.1, high := q.2 }))

/-- Every move of a tile. -/
def tileMoves (x : Tile) (tx : TRec) (row col : Nat) : List CptMove :=
  (upTo (shapedEnd x.fmt x.geom x.pitch x.rows x.cols)).flatMap (byteMoves x tx row col)

/-- The units of a copy: scratchpad chunks where it writes the scratchpad or reduces, 512-byte global units otherwise. -/
def copyUnits (k : CopyKind) : List Nat :=
  match k with
  | .cpl _ s2g ls => ls.foldl (fun l p => insertNat ((if s2g then p.2.1 else p.2.2) / 512) l) []
  | .cpt s2g _ x tx row col =>
    if s2g then (tileMoves x tx row col).foldl (fun l m => insertNat (m.va / 512) l) [] else tileChunks x
  | .cpr _ _ x _ first count => (upTo count).map (fun j => x.base / 512 + first + j)

/-- The scratchpad chunks that a unit reads. -/
def unitReads (k : CopyKind) (u : Nat) : List Nat :=
  match k with
  | .cpl _ s2g ls =>
    if s2g then (ls.filter (fun p => p.2.1 / 512 == u)).foldl (fun l p => insertNat (p.2.2 / 512) l) [] else []
  | .cpt s2g _ x tx row col =>
    if s2g then ((tileMoves x tx row col).filter (fun m => m.va / 512 == u)).foldl
      (fun l m => insertNat ((x.base + m.o) / 512) l) []
    else []
  | .cpr _ _ _ _ _ _ => [u]

/-- The scratchpad chunks that a copy still reads, and those that it still writes. -/
def copyReads (k : CopyKind) (todo : List Nat) : List Nat :=
  todo.foldl (fun l u => (unitReads k u).foldl (fun l j => insertNat j l) l) []
def copyWrites (k : CopyKind) (todo : List Nat) : List Nat :=
  match k with
  | .cpl _ false _ => todo
  | .cpt false _ _ _ _ _ => todo
  | _ => []

/-! ### Issue -/

/-- A copy starts: its token is pending, OWN clears for its destinations and RCNT rises for its sources (R75, R78). -/
def startCopy (c : Ctx) (s : State) (t : Reg) (scope : Scope) (k : CopyKind) : Res :=
  let us := copyUnits k
  if cpCount s c.tid c.g ≥ 63 then .wait s
  else if !writersGo c.task (copyWrites k us) || !readersGo c.task (copyReads k us) then .wait s
  else
    let s1 := writeBackAll s c.task.core
    let s2 := modTask s1 c.tid (fun t => modChunks (modChunks t (copyWrites k us) ownClear) (copyReads k us) readUp)
    let op : CopyOp := { tid := c.tid, g := c.g, tok := scalIdx t, user := c.user, scope := scope, kind := k, todo := us,
                         done := [], ending := none }
    .ok { pendToken s2 c.tid c.g (scalIdx t) with serial := s2.serial + 1, copies := mput s2.copies s2.serial op }

/-- The bytes of a scratchpad range that lie in tiles. -/
def inTiles (t : Task) (o n : Nat) : Bool :=
  t.tds.any (fun p => decide (p.2.base ≤ o) && decide (o + n ≤ p.2.base + p.2.len))

/-- The cause of one lane of `cpl`, and its address (R65, R66, R70, R271). -/
def cplCause (t : Task) (va o sz : Nat) : Option (Byte × Nat) :=
  if va % sz ≠ 0 then some (causeMisaligned, va % 2 ^ 57)
  else if o % sz ≠ 0 then some (causeMisaligned, o)
  else if t.scratchSize < o + sz then some (causeBounds, o)
  else if 2 ^ 57 ≤ va then some (causeProt, va % 2 ^ 57)
  else if !inTiles t o sz then some (causeParam, 0)
  else none

/-- The lowest cause among lanes, its lanes and the lowest one's address. -/
def lanesCause (xs : List (Nat × Option (Byte × Nat))) : Option (Byte × Lanes × Nat) :=
  let bads := xs.filterMap (fun x => x.2.map (fun k => (x.1, k)))
  match bads with
  | [] => none
  | b :: bs =>
    let k := bs.foldl (fun m x => if x.2.1.toNat < m.toNat then x.2.1 else m) b.2.1
    let mine := bads.filter (fun x => x.2.1 == k)
    some (k, maskOf (fun i => mine.any (fun x => x.1 == i)), (mine.headD b).2.2)

def cszBytes : CSz → Nat
  | .b32 => 4
  | .b64 => 8
  | .b128 => 16

def execCpl (h : Hdr) (t a : Reg) (off : Word) (so : Reg) (sz : CSz) (s2g : Bool) (scope : Scope) (s : State) :
    Outcome State Fault Refusal :=
  run h 12 [⟨h.u, a, 2⟩, ⟨h.u, so, 1⟩] []
    (fun c s =>
      let n := cszBytes sz
      let ls := c.lanes.map (fun i => (i, c.gaddr a (.imm off) i, (c.ra so 0 i).toNat))
      match lanesCause (ls.map (fun l => (l.1, cplCause c.task l.2.1 l.2.2 n))) with
      | some (k, m, x) =>
        if tokenTaken c t && decide (causeToken.toNat < k.toNat) then c.refuse s causeToken else .trap s k m x
      | none =>
        if tokenTaken c t then c.refuse s causeToken
        else startCopy c s t scope (.cpl n s2g ls)) s

/-- The parameters of a `cpt` (R267, R272): ENGINE_PARAM, or the copy. -/
def cptKind (t : Task) (td tx : Nat) (s2g : Bool) (row col : Nat) : Option CopyKind :=
  match mget t.tds td, mget t.txs tx with
  | some x, some r =>
    if !x.shaped || x.fmt == .raw || !(x.fmt == r.fmt && x.geom == r.geom) ||
       (blockFmt x.fmt && col % blockSize x.geom != 0) then none
    else some (.cpt s2g td x r row col)
  | _, _ => none

def execCpt (h : Hdr) (t row : Reg) (col : SrcC) (td : BitVec 4) (tx : BitVec 3) (s2g : Bool) (scope : Scope)
    (s : State) : Outcome State Fault Refusal :=
  run h 12 (⟨h.u, row, 1⟩ :: useC h.u col 1) []
    (fun c s =>
      if tokenTaken c t then c.refuse s causeToken
      else match cptKind c.task td.toNat tx.toNat s2g (c.ra row 0 c.lead).toNat (c.c col c.lead).toNat with
        | none => c.refuse s causeParam
        | some k => startCopy c s t scope k) s

def execCpr (h : Hdr) (t a : Reg) (td : BitVec 4) (op : AOp) (first count : Byte) (scope : Scope) (s : State) :
    Outcome State Fault Refusal :=
  run h 12 [⟨h.u, a, 2⟩] []
    (fun c s =>
      let va := c.rpair a c.lead
      firstCause c s [(va % 512 != 0, causeMisaligned, va % 2 ^ 57), (decide (2 ^ 57 ≤ va), causeProt, va % 2 ^ 57),
                      (tokenTaken c t, causeToken, 0)]
        (match mget c.task.tds td.toNat with
         | none => c.refuse s causeParam
         | some x =>
           if count.toNat = 0 ∨ x.len / 512 < first.toNat + count.toNat then c.refuse s causeParam
           else startCopy c s t scope (.cpr op td.toNat x va first.toNat count.toNat))) s

/-! ### Progress -/

/-- Chunks given back: what a copy has not written (OWN set, old bytes) and its reads that end (R77, R274). -/
def releaseCopy (s : State) (op : CopyOp) (left : List Nat) : State :=
  modTask s op.tid (fun t => modChunks t ((copyReads op.kind op.todo).filter (fun j => !(copyReads op.kind left).contains j))
    readDown)

/-- One unit of a copy is complete. -/
def unitDone (s : State) (id u : Nat) (op : CopyOp) : State :=
  let left := op.todo.filter (fun v => v != u)
  let s1 := releaseCopy s op left
  let s2 := modTask s1 op.tid (fun t => modChunks t ((copyWrites op.kind op.todo).filter (fun j => j == u)) ownSet)
  { s2 with copies := mput s2.copies id { op with todo := left, done := insertNat u op.done } }

/-- A copy stops with a status (R274, R275): its token is still to be written. -/
def stopCopy (s : State) (id status : Nat) (op : CopyOp) : State :=
  let s1 := modTask s op.tid (fun t => modChunks (modChunks t (copyWrites op.kind op.todo) ownSet)
    (copyReads op.kind op.todo) readDown)
  dropNeeds { s1 with copies := mput s1.copies id { op with todo := [], ending := some status } } (fun w => w == .copy id)

/-- A fault of a copy that cannot be served. -/
def failCopy (s : State) (id : Nat) (op : CopyOp) (cause : Byte) (va : Nat) (rd wr : Bool) : State :=
  match task s op.tid with
  | none => s
  | some t => stopCopy (reportPages s t op.g 2 cause rd wr [va / 2 ^ 12]) id 2 op

/-- Scratchpad bytes written by an engine. -/
def putScratch (s : State) (tid : Nat) (bs : List (Nat × Byte)) : State :=
  modTask s tid (fun t => scratchPut t bs)

/-- The global bytes of one unit that a copy into the scratchpad reads. -/
def inReads (k : CopyKind) (u : Nat) : List Nat :=
  match k with
  | .cpl n _ ls => (ls.filter (fun p => p.2.2 / 512 == u)).flatMap (fun p => (List.range n).map (fun i => p.2.1 + i))
  | .cpt _ _ x tx row col =>
    (upTo 512).flatMap (fun i => (byteMoves x tx row col (512 * u + i - x.base)).map (·.va))
  | .cpr _ _ _ _ _ _ => []

/-- A tile byte put together from its moves. -/
def movedByte (m : Map Byte) (ms : List CptMove) : Byte :=
  BitVec.ofNat 8 (ms.foldl (fun acc x =>
    let b := (mgetD 0 m x.va).toNat
    match x.part with
    | .nib _ _ high => acc + (if x.high then b / 16 else b % 16) * (if high then 16 else 1)
    | _ => acc + b) 0)

/-- The scratchpad bytes of one unit that a copy into the scratchpad writes. -/
def inBytes (k : CopyKind) (u : Nat) (m : Map Byte) : List (Nat × Byte) :=
  match k with
  | .cpl n _ ls =>
    (ls.filter (fun p => p.2.2 / 512 == u)).flatMap (fun p => (List.range n).map (fun i => (p.2.2 + i, mgetD 0 m (p.2.1 + i))))
  | .cpt _ _ x tx row col =>
    (upTo 512).map (fun i => (512 * u + i, movedByte m (byteMoves x tx row col (512 * u + i - x.base))))
  | .cpr _ _ _ _ _ _ => []

/-- The bytes of one unit that a copy to global memory writes whole, and the nibbles of bytes that it shares with
elements outside the window (R272). -/
def outBytes (t : Task) (k : CopyKind) (u : Nat) : Map Byte × List (Nat × Bool × Nat) :=
  match k with
  | .cpl n _ ls =>
    ((ls.filter (fun p => p.2.1 / 512 == u)).foldl (fun m p =>
      (List.range n).foldl (fun m i => mput m (p.2.1 + i) (mgetD 0 t.scratch (p.2.2 + i))) m) [], [])
  | .cpt _ _ x tx row col =>
    let ms := (tileMoves x tx row col).filter (fun m => m.va / 512 == u)
    let byteAt := fun (m : CptMove) => (mgetD 0 t.scratch (x.base + m.o)).toNat
    let nibs : List (Nat × Bool × Nat) := ms.filterMap (fun m => match m.part with
      | .nib _ _ high => some (m.va, m.high, if high then byteAt m / 16 else byteAt m % 16)
      | _ => none)
    -- the padding of a sheet whose scales are written is written as 0 (R106)
    let pads := ms.foldl (fun (acc : Map Byte) m => match m.part with
      | .scale _ _ =>
        let (o, n) := sheetPad x.fmt x.geom
        (List.range n).foldl (fun acc i => mput acc (m.va / 4096 * 4096 + o + i) 0) acc
      | _ => acc) []
    let whole := ms.foldl (fun acc m => match m.part with
      | .nib _ _ _ => acc
      | _ => mput acc m.va (BitVec.ofNat 8 (byteAt m))) pads
    nibs.foldl (fun (acc : Map Byte × List (Nat × Bool × Nat)) q =>
      match nibs.find? (fun r => r.1 == q.1 && r.2.1 != q.2.1) with
      | some r => (mput acc.1 q.1 (BitVec.ofNat 8 (if q.2.1 then 16 * q.2.2 + r.2.2 else 16 * r.2.2 + q.2.2)), acc.2)
      | none => (acc.1, acc.2 ++ [q])) (whole, [])
  | .cpr _ _ _ _ _ _ => ([], [])

/-- The unit's scratchpad source holds an uncorrectable error (R274). -/
def outBad (t : Task) (k : CopyKind) (u : Nat) : Bool :=
  match k with
  | .cpl n _ ls => (ls.filter (fun p => p.2.1 / 512 == u)).any (fun p => scratchBad t p.2.2 n)
  | .cpt _ _ x tx row col => ((tileMoves x tx row col).filter (fun m => m.va / 512 == u)).any (fun m => scratchBad t (x.base + m.o) 1)
  | .cpr _ _ _ _ _ _ => scratchBad t (512 * u) 512

/-- The format that a copy asserts (R85). -/
def copyFmt (k : CopyKind) : Option (Fmt × Geom) :=
  match k with
  | .cpt _ _ x _ _ _ => some (x.fmt, x.geom)
  | _ => none

def copyIntoScratch (k : CopyKind) : Bool :=
  match k with
  | .cpl _ s2g _ => !s2g
  | .cpt s2g _ _ _ _ _ => !s2g
  | .cpr _ _ _ _ _ _ => false

/-- The engines of a context: resident; a SHADOW half keeps its copies landing, and the requests of `cpl` complete before a
save begins (R414, R415). A stopped block's operations continue (R427). -/
def unitRuns (s : State) (t : Task) : Bool := !t.saved && ctxRuns s t.tenant t.core
def copyRuns (s : State) (t : Task) (k : CopyKind) : Bool :=
  !t.saved && (match mget (tenant s t.tenant).ctxs t.core with
    | none => true
    | some x => x.phase == .resident || x.phase == .shadow || (x.phase == .saving && (match k with
      | .cpl _ _ _ => true
      | _ => false)))

/-- A copy whose engine may go on: it has not stopped, waits for no page, its context runs, and its group's earlier
accesses are complete. -/
def copyGoes (s : State) (id : Nat) (op : CopyOp) (t : Task) : Bool :=
  op.ending.isNone && !hasNeed s (.copy id) && copyRuns s t op.kind && earlierDone s op.tid op.g id

/-- CHUNK_LANDS: one unit of a `cpl` or `cpt` is copied whole, or its fault is met. -/
def chunkLands (s : State) (id u : Nat) : Option State :=
  match mget s.copies id with
  | none => none
  | some op =>
    match task s op.tid with
    | none => none
    | some t =>
      if !copyGoes s id op t || !op.todo.contains u then none
      else if copyIntoScratch op.kind then
        match engPlan s t op.user true false (copyFmt op.kind) (inReads op.kind u) with
        | .bad s1 cause va => some (failCopy s1 id op cause va true false)
        | .serve s1 ps => some (needAll s1 t.tenant (.copy id) false 2 ps)
        | .hold _ => none
        | .go s1 las =>
          let (s2, m) := engLoad s1 t las
          some (unitDone (putScratch s2 op.tid (inBytes op.kind u m)) id u op)
      else
        match op.kind with
        | .cpr _ _ _ _ _ _ => none
        | _ =>
          let (whole, nibs) := outBytes t op.kind u
          match engPlan s t op.user (!nibs.isEmpty) true (copyFmt op.kind) (whole.map (·.1) ++ nibs.map (·.1)) with
          | .bad s1 cause va => some (failCopy s1 id op cause va false true)
          | .serve s1 ps => some (needAll s1 t.tenant (.copy id) true 2 ps)
          | .hold _ => none
          | .go s1 las =>
            if outBad t op.kind u then some (failCopy s1 id op causeData ((las.map (·.addr)).headD 0) true false)
            else if !nibs.isEmpty && !portReady s1 t.core las then none
            else
              let s2 := nibs.foldl (fun s q =>
                match las.find? (fun la => q.1 / 32 == la.addr / 32) with
                | none => s
                | some la =>
                  let x := { la with pa := la.pa + q.1 % 32, addr := q.1 }
                  (portRmw (flushLine (traceWrite s t x q.1 1) t.core x.pa) t x 1 (fun o =>
                    some (if q.2.1 then o % 16 + 16 * q.2.2 else o / 16 * 16 + q.2.2))).1) s1
              some (unitDone (engStore s2 t (op.tid, op.g, id) las whole) id u op)

def execChunkLands (id chunk : Nat) (s : State) : Outcome State Fault Refusal := fire (chunkLands s id chunk) s

/-- CPR_CHUNK_APPLY: 128 word operations as one unit at the port (R273). -/
def cprApply (s : State) (id u : Nat) : Option State :=
  match mget s.copies id with
  | none => none
  | some op =>
    match task s op.tid, op.kind with
    | some t, .cpr a _ x dst first _ =>
      if !copyGoes s id op t || !op.todo.contains u then none
      else
        let va := dst + 512 * (u - (x.base / 512 + first))
        match engPlan s t op.user true true none ((upTo 16).map (fun i => va + 32 * i)) with
        | .bad s1 cause v => some (failCopy s1 id op cause v true true)
        | .serve s1 ps => some (needAll s1 t.tenant (.copy id) true 2 ps)
        | .hold _ => none
        | .go s1 las =>
          if outBad t op.kind u then some (failCopy s1 id op causeData va true true)
          else if !portReady s1 t.core las then none
          else
            let s2 := las.foldl (fun s la => flushLine s t.core la.pa) s1
            let (s3, m) := las.foldl (fun (acc : State × Map Byte) la =>
              let (s, bs) := homeRead (traceRead acc.1 t la la.addr 32) (dieOf t.core) la.pa la.key 32
              (s, bs.zipIdx.foldl (fun m p => mput m (la.addr + p.2) p.1) acc.2)) (s2, [])
            let new := (upTo 128).flatMap (fun w =>
              (leBytes 4 (aopNew a (bytesNum m (va + 4 * w) 4) (scratchRead t (512 * u + 4 * w) 4))).zipIdx.map
                (fun p => (va + 4 * w + p.2, p.1)))
            some (unitDone (engApply s3 t las new) id u op)
    | _, _ => none

def execCprChunkApply (id chunk : Nat) (s : State) : Outcome State Fault Refusal := fire (cprApply s id chunk) s

/-- COPY_COMPLETE: every unit is done, or the copy has stopped, its writes have reached their ports, and the token is
written (R79, Table 5). -/
def copyComplete (s : State) (id : Nat) : Option State :=
  match mget s.copies id with
  | none => none
  | some op =>
    match task s op.tid with
    | none => none
    | some t =>
      if !op.todo.isEmpty || opWritesOut s op.tid op.g id || t.saved then none
      else some (writeToken { s with copies := mdel s.copies id } op.tid op.g op.tok
        (statusWord (op.ending.getD 0) op.done.length))

def execCopyComplete (id : Nat) (s : State) : Outcome State Fault Refusal := fire (copyComplete s id) s

/-! ### `cpcancel` (R275) -/

def execCpcancel (h : Hdr) (t : Reg) (s : State) : Outcome State Fault Refusal :=
  run h 8 [] []
    (fun c s =>
      if !tokenTaken c t then .ok s
      else match s.copies.find? (fun p => p.2.tid == c.tid && p.2.g == c.g && p.2.tok == scalIdx t) with
        | none => c.refuse s causeToken
        | some (id, op) => .ok (if op.ending.isNone then stopCopy s id 1 op else s)) s

end Sys2Proof.Machine
end

