-- ==== Sys2Proof/Machine/Generate.lean ====
section
/-! DEFINITION. Generator registers and their values (R289 to R295): `gset`, `gseed`, `geval`, and the building of ROTARY
tables. -/

namespace Sys2Proof.Machine

open Host

/-! ### The hash (R291) -/

def mul64 (a b : Nat) : Nat := a * b % 2 ^ 64
def genMix (x : Nat) : Nat :=
  let x1 := mul64 (x ^^^ x / 2 ^ 31) 0xA3C59AC23D6F4E17
  let x2 := mul64 (x1 ^^^ x1 / 2 ^ 29) 0x8F1BBCDC57E61A93
  x2 ^^^ x2 / 2 ^ 32
def rotl64 (x n : Nat) : Nat := x * 2 ^ n % 2 ^ 64 + x / 2 ^ (64 - n)
def genHash (seed scope r c : Nat) : Nat :=
  genMix (genMix (seed ^^^ rotl64 scope 17 ^^^ 0xE58A7D31C9460B2D) ^^^ (r * 2 ^ 32 + c))

/-! ### Fields (R289 Table 12) -/

abbrev Gen := BitVec 256

def genBits (g : Gen) (lo n : Nat) : Nat := nb g.toNat lo n
def genKind (g : Gen) : Nat := genBits g 0 4
def genScope (g : Gen) : Nat := genBits g 4 3
def genTr (g : Gen) : Bool := genBits g 8 1 == 1
def genAdd (g : Gen) : Bool := genBits g 9 1 == 1
def genP (g : Gen) (i : Nat) : Nat := genBits g (128 - 32 * i) 32
def genScale (g : Gen) : Word := BitVec.ofNat 32 (genBits g 160 32)
def genSeed (g : Gen) : Nat := genBits g 192 64

def finiteW (w : Word) : Bool := !(f32 w).isNan && !(f32 w).isInf

/-- Parameters that a kind uses (R290 Table 13). -/
def genUses (k i : Nat) : Bool :=
  match k with
  | 2 => decide (i < 2)
  | 6 => true
  | 7 => decide (i < 3)
  | _ => false

/-- The images that `gset` refuses (R290); ADD outside MASK and an unused parameter are reserved. -/
def genBad (g : Gen) : Bool :=
  let k := genKind g
  k == 0 || decide (8 ≤ k) || genScope g == 7 || genBits g 10 22 != 0 || genBits g 7 1 != 0 ||
  !finiteW (genScale g) || (upTo 4).any (fun i => !genUses k i && genP g i != 0) ||
  (k != 6 && genAdd g) ||
  (match k with
   | 2 => !finiteW (BitVec.ofNat 32 (genP g 0)) || !finiteW (BitVec.ofNat 32 (genP g 1))
   | 6 => genP g 2 / 2 ^ 24 != 0 || genP g 3 / 4 != 0 || (genAdd g && genP g 3 == 3)
   | 7 => !finiteW (BitVec.ofNat 32 (genP g 1)) || cmpV (f32 (BitVec.ofNat 32 (genP g 1))) (ofInt 1) != .gt ||
          genP g 2 % 2 != 0 || decide (genP g 2 < 2) || decide (1024 < genP g 2)
   | _ => false)

/-! ### Values (R290 Table 13) -/

def negW (b : Bool) (w : Word) : Word := if b then w ^^^ 0x80000000 else w

/-- The keep test of MASK, exact over the integers. -/
def maskKeeps (g : Gen) (h r c : Nat) : Bool :=
  let off : Int := asInt true 32 (genP g 0)
  let w : Int := genP g 1
  let r : Int := r
  let c : Int := c
  match genP g 3 % 4 with
  | 0 => decide (c ≤ r + off)
  | 1 => decide (r - w < c) && decide (c ≤ r + off)
  | 2 => decide (r + off - w ≤ c) && decide (c ≤ r + off + w)
  | _ => decide (h / 2 ^ 40 < genP g 2 % 2 ^ 24)

/-- The value at the generator's own coordinates, as an FP32 word; 0 for ROTARY, which is a transform. -/
def genValue (g : Gen) (scope r c : Nat) : Word :=
  let r := r % 2 ^ 32
  let c := c % 2 ^ 32
  let h := genHash (genSeed g) scope r c
  match genKind g with
  | 1 => negW (h / 2 ^ 63 == 1) (genScale g)
  | 2 =>
    let lo := BitVec.ofNat 32 (genP g 0)
    f32fma .rn (f32sub .rn (BitVec.ofNat 32 (genP g 1)) lo) (toF32 .rn (.fin false (h / 2 ^ 40) (-24))) lo
  | 3 =>
    let t : Int := ((nb h 0 16 + nb h 16 16 + nb h 32 16 + nb h 48 16 : Nat) : Int) - 131070
    f32mul .rn (f32mul .rn (toF32 .rn (.fin (decide (t < 0)) t.natAbs (-16))) 0x3FDDB3D7) (genScale g)
  | 4 => negW (parity (r &&& c)) (genScale g)
  | 5 =>
    let sign := negW (genHash (genSeed g) scope 0 c / 2 ^ 63 == 1) (genScale g)
    negW (parity (r &&& c) != sign.msb) (genScale g)
  | 6 =>
    if maskKeeps g h r c then (if genAdd g then 0 else if genP g 3 == 3 then genScale g else 0x3F800000)
    else (if genAdd g then 0xFF800000 else 0)
  | _ => 0

/-- Evaluation at logical coordinates (R293). -/
def genAt (g : Gen) (scope x y : Nat) : Word := if genTr g then genValue g scope y x else genValue g scope x y

/-- The angle of ROTARY for position p and column c (R295). -/
def rotaryAngle (g : Gen) (p c : Nat) : Word :=
  let d := genP g 2
  f32mul .rn (toF32 .rn (ofInt ((genP g 0 + p) % 2 ^ 32 : Nat)))
    (rotaryEntry (BitVec.ofNat 32 (genP g 1)) d (c % 2 ^ 32 % d / 2))

/-! ### Scopes (R291) -/

/-- The scope values of selectors 0 to 6 for a task. -/
def scopeWords (s : State) (t : Task) : List Nat :=
  [0] ++ (upTo 4).map (fun i => t.org.scopes.getD i 0) ++ [(taskLabel s t) % 2 ^ 64, t.blk]

/-- The scope value of a generator among those of its operation. -/
def scopeFor (ws : List Nat) (g : Gen) : Nat := ws.getD (genScope g) 0

/-! ### Roles (R295) -/

/-- A generator register; KIND 0 where nothing has loaded it. -/
def genReg (t : Task) (n : Nat) : Gen := mgetD 0 t.gens n

def genIsOperand (g : Gen) : Bool := genKind g != 0 && genKind g != 7 && !(genKind g == 6 && genAdd g)
def genIsPrologue (g : Gen) : Bool := genKind g != 0 && !(genKind g == 6 && genAdd g)
def genIsEpilogue (g : Gen) : Bool := genKind g == 6

/-! ### Instructions -/

def execGset (h : Hdr) (n : BitVec 3) (a : Reg) (off : SrcB) (s : State) : Outcome State Fault Refusal :=
  run h off.len (⟨h.u, a, 2⟩ :: useB h.u off 1) []
    (fun c s => recordRead c s (c.gaddr a off c.lead) 32 (fun s1 x =>
      let g : Gen := BitVec.ofNat 256 x
      if genBad g then c.refuse s1 causeGen
      else .ok (modTask s1 c.tid (fun t =>
        { t with gens := mput t.gens n.toNat g,
                 building := (t.building.filter (fun k => k != n.toNat)) ++
                   (if genKind g = 7 then [n.toNat] else []) })))) s

def execGseed (h : Hdr) (n : BitVec 3) (a : Reg) (s : State) : Outcome State Fault Refusal :=
  run h 8 [⟨h.u, a, 2⟩] []
    (fun c s =>
      let g := genReg c.task n.toNat
      if genKind g = 0 then c.refuse s causeGen
      else
        let v := g.toNat % 2 ^ 192 + 2 ^ 192 * c.rpair a c.lead
        .ok (modTask s c.tid (fun t => { t with gens := mput t.gens n.toNat (BitVec.ofNat 256 v) }))) s

/-- `geval` names the generator's own coordinates (R294). -/
def gevalWord (g : Gen) (scope a b : Nat) : Word :=
  if genKind g = 7 then
    let phi := rotaryAngle g a b
    if b % 2 = 0 then sfuCos phi else sfuSin phi
  else genValue g scope a b

def execGeval (h : Hdr) (d : Reg) (n : BitVec 3) (a : Reg) (b : SrcB) (s : State) : Outcome State Fault Refusal :=
  run h b.len (⟨h.u, a, 1⟩ :: useB h.u b 1) [⟨h.u, d, 1⟩]
    (fun c s =>
      let g := genReg c.task n.toNat
      if genKind g = 0 then .trap s causeGen c.trapLanes 0
      else if c.task.building.contains n.toNat then .wait s
      else
        let ws := scopeWords s c.task
        .ok (c.put s d (fun i => [gevalWord g (scopeFor ws g) (c.ra a 0 i).toNat (c.b b i).toNat]))) s

/-- ROTARY_TABLE_BUILT: the table of generator register g of a task is complete. -/
def rotaryBuilt (s : State) (tid n : Nat) : Option State :=
  match task s tid with
  | none => none
  | some t =>
    if t.building.contains n && !t.saved then
      some (modTask s tid (fun t => { t with building := t.building.filter (fun k => k != n) }))
    else none

def execRotaryTableBuilt (tid g : Nat) (s : State) : Outcome State Fault Refusal := fire (rotaryBuilt s tid g) s

end Sys2Proof.Machine
end

