-- ==== Sys2Proof/Machine/Matrix.lean ====
section
/-! DEFINITION. Matrix engines (R68, R112, R113, R278 to R288, R295): `mma`, `mmv`, `mprog`, `accld`, `accst`, `acczero`,
`mabort`, and the events that apply k-blocks, meet operand faults and end operations. -/

namespace Sys2Proof.Machine

open Host

/-! ### The queues (R281) -/

def engQueue (s : State) (c : Nat) (e : Bool) : List MatOp := if e then (core s c).ma1 else (core s c).ma0
def setEngQueue (s : State) (c : Nat) (e : Bool) (q : List MatOp) : State :=
  let x := core s c
  setCore s c (if e then { x with ma1 := q } else { x with ma0 := q })
def modMat (s : State) (c : Nat) (e : Bool) (id : Nat) (f : MatOp → MatOp) : State :=
  setEngQueue s c e ((engQueue s c e).map (fun o => if o.id == id then f o else o))

def matIsMul (k : MatKind) : Bool :=
  match k with
  | .mul _ _ _ _ _ _ _ _ => true
  | _ => false

/-- Operations whose context is resident; accumulator operations run to completion before a save (R414). -/
def matLive (s : State) (o : MatOp) : Bool :=
  (task s o.tid).any (fun t => unitRuns s t || (!t.saved && !matIsMul o.kind &&
    (mget (tenant s t.tenant).ctxs t.core).any (fun x => x.phase == .saving)))

/-- The operation that an engine runs: the first of those on the core. -/
def matHead (s : State) (c : Nat) (e : Bool) : Option MatOp := (engQueue s c e).find? (matLive s)

/-- The queue of 4 is full. -/
def engFull (s : State) (c : Nat) (e : Bool) : Bool :=
  decide (4 ≤ ((engQueue s c e).filter (matLive s)).length)

/-- Accumulator rows of a block: engine, row and column. -/
def accKey (row col : Nat) : Nat := 128 * row + col
def accGet (t : Task) (e : Bool) (row col : Nat) : Word := mgetD 0 (if e then t.acc1 else t.acc0) (accKey row col)
/-- Words written to an accumulator; an element written is good again (R31). -/
def accPut (t : Task) (e : Bool) (ws : List (Nat × Word)) : Task :=
  let left := fun (l : List Nat) => l.filter (fun k => !ws.any (fun p => p.1 == k))
  if e then { t with acc1 := ws.foldl (fun m p => mputD 0 m p.1 p.2) t.acc1, abad1 := left t.abad1 }
  else { t with acc0 := ws.foldl (fun m p => mputD 0 m p.1 p.2) t.acc0, abad0 := left t.abad0 }
/-- An element of a rectangle of an accumulator holds an uncorrectable error. -/
def accBadAt (t : Task) (e : Bool) (row col m n : Nat) : Bool :=
  (if e then t.abad1 else t.abad0).any (fun k =>
    decide (row ≤ k / 128) && decide (k / 128 < row + m) && decide (col ≤ k % 128) && decide (k % 128 < col + n))

/-- The progress register of an engine. -/
def progOf (t : Task) (e : Bool) : Prog := if e then t.prog1 else t.prog0
def setProg (t : Task) (e : Bool) (p : Prog) : Task := if e then { t with prog1 := p } else { t with prog0 := p }
/-- STATE and KDONE of the register, when it describes an operation (R282). -/
def noteProg (s : State) (tid : Nat) (e : Bool) (id state kdone : Nat) : State :=
  modTask s tid (fun t =>
    let p := progOf t e
    if p.op == id then setProg t e { p with state := state, kdone := kdone } else t)

/-! ### Parameter blocks (R278, R279) -/

/-- The control fields of Table 5. -/
structure MatCtl where
  kb : Nat
  m : Nat
  n : Nat
  arow : Nat
  acol : Nat
  zero : Bool
  deriving DecidableEq, Repr

/-- The control fields, or none for a reserved field or an illegal code. -/
def matCtl (p : Nat) (vec : Bool) : Option MatCtl :=
  let kb := nb p 240 16
  let mr := nb p 230 10
  let mc := nb p 228 2
  let nc := nb p 226 2
  let nv := nb p 222 4
  let bad := nb p 0 205 != 0 || kb == 0 || decide (32768 < kb) ||
    (if vec then mc != 0 || nc != 0 || mr == 0 || decide (512 < mr) || nv == 0 || decide (8 < nv)
     else mr != 0 || nv != 0 || mc == 3 || nc == 3)
  if bad then none
  else some { kb := kb, m := if vec then mr else 32 * 2 ^ mc, n := if vec then nv else 32 * 2 ^ nc, arow := nb p 213 9,
              acol := nb p 206 7, zero := nb p 205 1 == 1 }

/-- Data formats of a matrix operand (R279). -/
def matFmt : Fmt → Bool
  | .raw | .fp32 | .int32 => false
  | _ => true

/-- An operand's fields with private copies (R263); the flag says that a rule of R279 is broken. -/
def matOperand (t : Task) (d rows k : Nat) : MOperand × Bool :=
  let kind := nb d 0 2
  let idx := nb d 4 4
  let pen := nb d 12 1 == 1
  let row0 := if kind = 1 then 0 else nb d 64 32
  let col0 := if kind = 1 then 0 else nb d 96 32
  let tile := if kind = 0 then mget t.tds idx else none
  let tx := if kind = 2 then mget t.txs idx else none
  let f1 := (Fmt.ofCode (nb d 16 4)).getD .raw
  let g1 := (Geom.ofCode (nb d 20 3)).getD .graph
  let fmt := match kind with
    | 0 => (tile.map (·.fmt)).getD .raw
    | 1 => f1
    | 2 => (tx.map (·.fmt)).getD .raw
    | _ => .raw
  let geom := match kind with
    | 0 => (tile.map (·.geom)).getD .none
    | 1 => g1
    | 2 => (tx.map (·.geom)).getD .none
    | _ => .none
  let o : MOperand :=
    { kind := kind, row0 := row0, col0 := col0, addr := if kind = 1 then nb d 64 57 else 0,
      stride := if kind = 1 then nb d 32 32 else 0, fmt := fmt, geom := geom, td := idx, tile := tile, tx := tx,
      gen := if kind = 3 then genReg t (idx % 8) else 0, pro := if pen then some (genReg t (nb d 8 3)) else none }
  let reserved := nb d 2 2 != 0 || nb d 11 1 != 0 || nb d 13 3 != 0 || nb d 23 9 != 0
  let bad := match kind with
    | 0 => nb d 16 7 != 0 || nb d 32 32 != 0 ||
        (match tile with
         | none => true
         | some x => !x.shaped || decide (x.rows < row0 + rows) || decide (x.cols < col0 + k))
    | 1 => idx != 0 || nb d 121 7 != 0 || (Fmt.ofCode (nb d 16 4)).isNone || (Geom.ofCode (nb d 20 3)).isNone ||
        !pairOk f1 g1 || g1 == .graph || o.addr % (if blockFmt f1 then 4096 else elemBytes f1) != 0 ||
        (blockFmt f1 && o.stride % blockSize g1 != 0)
    | 2 => nb d 16 7 != 0 || nb d 32 32 != 0 || decide (8 ≤ idx) || tx.isNone
    | _ => nb d 16 7 != 0 || nb d 32 32 != 0 || decide (8 ≤ idx) || pen
  let data := kind != 3 && (!matFmt fmt || (blockFmt fmt && col0 % blockSize geom != 0))
  let rot := o.pro.any (fun g => genKind g == 7) && col0 % 2 != 0
  (o, reserved || bad || data || rot)

/-- GEN_INVALID (R295); an INDEX of 8 or more is an illegal code instead (R279 Table 6). -/
def matGenBad (o : MOperand) : Bool :=
  (o.kind == 3 && decide (o.td < 8) && !genIsOperand o.gen) || o.pro.any (fun g => !genIsPrologue g)

/-- ROTARY tables that an operand waits for. -/
def matGenWaits (t : Task) (d : Nat) : Bool := nb d 12 1 == 1 && t.building.contains (nb d 8 3)

/-- The scratchpad chunks of a tile that hold bytes lo to hi - 1 of it. -/
def spanChunks (x : Tile) (lo hi : Nat) : List Nat :=
  if hi ≤ lo then [] else (upTo ((hi - 1) / 512 - lo / 512 + 1)).map (fun i => x.base / 512 + lo / 512 + i)

/-- The chunks of a tile operand's rows, its scale bytes included. -/
def operandChunks (o : MOperand) (rows : Nat) : List Nat :=
  match o.tile with
  | none => []
  | some x =>
    let n := x.cols / blockSize x.geom
    spanChunks x (o.row0 * x.pitch) ((o.row0 + rows) * x.pitch) ++
    (if blockFmt x.fmt then spanChunks x (x.rows * x.pitch + o.row0 * n) (x.rows * x.pitch + (o.row0 + rows) * n) else [])

/-- Numbers without repeats, ascending. -/
def risingNats (l : List Nat) : List Nat := l.foldl (fun acc x => insertNat x acc) []

/-- The chunks that an operation reads or writes in tiles. -/
def matReads (k : MatKind) : List Nat :=
  match k with
  | .mul a b m n _ _ _ _ => risingNats (operandChunks a m ++ operandChunks b n)
  | .accld _ x _ _ => spanChunks x 0 (shapedEnd x.fmt x.geom x.pitch x.rows x.cols)
  | _ => []
def matWrites (k : MatKind) : List Nat :=
  match k with
  | .accst _ x _ _ _ _ _ _ => spanChunks x 0 (shapedEnd x.fmt x.geom x.pitch x.rows x.cols)
  | _ => []

/-- An operation enters its engine's queue (R75, R78, R281). -/
def startMat (c : Ctx) (s : State) (e : Bool) (tok : Option Reg) (k : MatKind) (kdone : Nat)
    (f : Nat → State → State) : Res :=
  if engFull s c.task.core e || (matCounts k && decide (63 ≤ tlCount s c.task c.tid c.g)) then .wait s
  else if !writersGo c.task (matWrites k) || !readersGo c.task (matReads k) then .wait s
  else
    let id := s.serial
    let s1 := writeBackAll { s with serial := id + 1 } c.task.core
    let s2 := modTask s1 c.tid (fun t => modChunks (modChunks t (matWrites k) ownClear) (matReads k) readUp)
    let s3 := match tok with
      | some t => pendToken s2 c.tid c.g (scalIdx t)
      | none => s2
    let op : MatOp := { id := id, tid := c.tid, g := c.g, tok := tok.map scalIdx, user := c.user, kind := k,
                        scopes := scopeWords s c.task, kdone := kdone, faulted := false, ending := none }
    .ok (f id (setEngQueue s3 c.task.core e (engQueue s3 c.task.core e ++ [op])))

/-- `mma` and `mmv` at issue (R278, R279, R282, R283). -/
def matIssue (vec : Bool) (c : Ctx) (s : State) (tok : Option Reg) (a : Reg) (off : SrcB) (e res : Bool) : Res :=
  let o := c.saddr a off c.lead
  let adr := (o % 2 ^ 32).toNat
  if o % 64 ≠ 0 then .trap s causeMisaligned c.leadSet adr
  else if o < 0 ∨ (c.task.scratchSize : Int) < o + 64 then .trap s causeBounds c.leadSet adr
  else if scratchBad c.task o.toNat 64 then .trap s causeData c.leadSet adr
  else
    let p := scratchRead c.task o.toNat 64
    let da := nb p 384 128
    let db := nb p 256 128
    let ctl := (matCtl p vec).getD { kb := 1, m := 0, n := 0, arow := 0, acol := 0, zero := false }
    let (oa, ba) := matOperand c.task da ctl.m (32 * ctl.kb)
    let (ob, bb) := matOperand c.task db ctl.n (32 * ctl.kb)
    let pr := progOf c.task e
    let resumable := pr.pblk == o.toNat && (pr.state == 2 || pr.state == 3)
    if tok.any (tokenTaken c) then c.refuse s causeToken
    else if matGenBad oa || matGenBad ob then c.refuse s causeGen
    else if (matCtl p vec).isNone || ba || bb || (vec && ob.kind != 0) ||
        decide (c.task.accRows < ctl.arow + ctl.m) || decide (128 < ctl.acol + ctl.n) || (res && !resumable) then
      c.refuse s causeParam
    else if matGenWaits c.task da || matGenWaits c.task db then .wait s
    else
      let k0 := if res then pr.kdone else 0
      startMat c s e tok (.mul oa ob ctl.m ctl.n ctl.kb ctl.arow ctl.acol ctl.zero) k0 (fun id s1 =>
        modTask s1 c.tid (fun t => setProg t e { op := id, pblk := o.toNat, state := 1, kdone := k0 }))

def execMma (h : Hdr) (t : Option Reg) (a : Reg) (off : SrcB) (eng res : Bool) (s : State) :
    Outcome State Fault Refusal :=
  run h off.len (⟨h.u, a, 1⟩ :: useB h.u off 1) [] (fun c s => matIssue false c s t a off eng res) s

def execMmv (h : Hdr) (t : Option Reg) (a : Reg) (off : SrcB) (eng res : Bool) (s : State) :
    Outcome State Fault Refusal :=
  run h off.len (⟨h.u, a, 1⟩ :: useB h.u off 1) [] (fun c s => matIssue true c s t a off eng res) s

/-- The progress register as Table 7 lays it out. -/
def progWords (p : Prog) : List Word := natWords 2 (p.kdone % 2 ^ 17 + 2 ^ 29 * p.state + 2 ^ 32 * (p.pblk % 2 ^ 19))

def execMprog (h : Hdr) (d : Reg) (eng : Bool) (s : State) : Outcome State Fault Refusal :=
  run h 8 [] [⟨h.u, d, 2⟩] (fun c s => .ok (c.putAll s d (progWords (progOf c.task eng)))) s

/-! ### Accumulator instructions -/

/-- The checks that `accld` and `accst` share (R267, R286, R287). -/
def accBad (t : Task) (x : Tile) (arow acol : Nat) : Bool :=
  !x.shaped || x.fmt == .raw || (x.fmt == .e2m1 && x.geom != .none) || decide (t.accRows < arow + x.rows) ||
  decide (128 < acol + x.cols)

def execAccld (h : Hdr) (t : Reg) (eng : Bool) (td : BitVec 4) (arow : BitVec 9) (acol : BitVec 7) (s : State) :
    Outcome State Fault Refusal :=
  run h 12 [] []
    (fun c s =>
      if tokenTaken c t then c.refuse s causeToken
      else match mget c.task.tds td.toNat with
        | none => c.refuse s causeParam
        | some x =>
          if accBad c.task x arow.toNat acol.toNat then c.refuse s causeParam
          else startMat c s eng (some t) (.accld td.toNat x arow.toNat acol.toNat) 0 (fun _ s => s)) s

/-- `accst` (R287). -/
def accstIssue (c : Ctx) (s : State) (t : Reg) (eng : Bool) (td arow acol : Nat) (md : Rm) (sat : Bool) (ty : Nat)
    (epi : Option (BitVec 256 × Nat × Nat)) : Res :=
  match mget c.task.tds td with
  | none => if tokenTaken c t then c.refuse s causeToken else c.refuse s causeParam
  | some x =>
    if ty ≠ 0 ∧ x.fmt ≠ .ts4 then .trap s causeIllegal c.bundle 0
    else if tokenTaken c t then c.refuse s causeToken
    else if epi.any (fun p => !genIsEpilogue p.1) then c.refuse s causeGen
    else if accBad c.task x arow acol || (epi.isSome && fmtInt x.fmt) || (blockFmt x.fmt && (md != .rn || sat)) then
      c.refuse s causeParam
    else startMat c s eng (some t) (.accst td x arow acol md sat ty epi) 0 (fun _ s => s)

def execAccst (h : Hdr) (t : Reg) (eng : Bool) (td : BitVec 4) (arow : BitVec 9) (acol : BitVec 7) (md : Rm) (sat : Bool)
    (ty : BitVec 2) (epi : Option (BitVec 3 × Reg × Reg)) (s : State) : Outcome State Fault Refusal :=
  run h 12 (match epi with
    | some (_, r, x) => [⟨h.u, r, 1⟩, ⟨h.u, x, 1⟩]
    | none => []) []
    (fun c s => accstIssue c s t eng td.toNat arow.toNat acol.toNat md sat ty.toNat
      (epi.map (fun p => (genReg c.task p.1.toNat, (c.ra p.2.1 0 c.lead).toNat, (c.ra p.2.2 0 c.lead).toNat)))) s

def execAcczero (h : Hdr) (eng : Bool) (arow : SrcB) (nrows : SrcC) (s : State) : Outcome State Fault Refusal :=
  run h arow.len (useB h.u arow 1 ++ useC h.u nrows 1) []
    (fun c s =>
      let r := (c.b arow c.lead).toNat
      let n := (c.c nrows c.lead).toNat
      if n = 0 ∨ c.task.accRows < r + n then c.refuse s causeParam
      else startMat c s eng none (.acczero r n) 0 (fun _ s => s)) s

/-! ### Abort (R284) -/

/-- Chunks of an operation given back. -/
def releaseMat (s : State) (o : MatOp) : State :=
  modTask s o.tid (fun t => modChunks (modChunks t (matWrites o.kind) ownSet) (matReads o.kind) readDown)

/-- One operation aborted: its chunks return, and it waits only for its token. A queued one reports KDONE 0. -/
def abortOp (s : State) (c : Nat) (e : Bool) (o : MatOp) (running : Bool) : State :=
  if o.ending.isSome then s
  else
    let k := if running then o.kdone else 0
    let s1 := modMat (releaseMat s o) c e o.id (fun x => { x with ending := some 1, kdone := k })
    let s2 := dropNeeds s1 (fun w => w == .mat c e o.id)
    if matIsMul o.kind then
      modTask s2 o.tid (fun t => setProg t e { progOf t e with op := o.id, state := 3, kdone := k })
    else s2

/-- The last operation aborted is the latest one issued, so PBLK of the progress register stands. -/
def execMabort (h : Hdr) (eng : Bool) (s : State) : Outcome State Fault Refusal :=
  run h 8 [] []
    (fun c s =>
      let head := (matHead s c.task.core eng).map (·.id)
      .ok (wakeAll ((engQueue s c.task.core eng).foldl (fun s o =>
        if o.tid == c.tid then abortOp s c.task.core eng o (head == some o.id) else s) s))) s

/-! ### K-blocks (R280, R112, R113, R293, R295) -/

/-- The address of element (i, k) of a KIND 1 or KIND 2 operand, its place and its scale's address; none outside a
tensor. -/
def operandPlace (o : MOperand) (i k : Nat) : Option (Nat × Bool × Option Nat) :=
  let at_ := fun (base idx : Nat) =>
    let p := placeOf o.fmt o.geom idx
    (base + p.off, p.high, p.scale.map (fun x => base + x))
  match o.kind, o.tx with
  | 1, _ => some (at_ o.addr (i * o.stride + k))
  | 2, some x =>
    if o.row0 + i < x.rows ∧ o.col0 + k < x.cols then some (at_ x.base ((o.row0 + i) * x.rstride + (o.col0 + k))) else none
  | _, _ => none

/-- The bytes of global memory that a k-block of an operand reads. -/
def operandReads (o : MOperand) (rows kb : Nat) : List Nat :=
  (upTo rows).flatMap (fun i => (upTo 32).flatMap (fun j =>
    match operandPlace o i (32 * kb + j) with
    | none => []
    | some (va, _, sc) => (List.range (elemBytes o.fmt)).map (fun x => va + x) ++ sc.toList))

/-- The stored data of an element: its code and its scale byte; none where it reads as 0. -/
def operandCode (t : Task) (o : MOperand) (mem : Map Byte) (i k : Nat) : Option (Nat × Nat) :=
  match o.kind, o.tile with
  | 0, some x => some (tileElem t x (o.row0 + i) (o.col0 + k))
  | _, _ =>
    match operandPlace o i k with
    | none => none
    | some (va, high, sc) =>
      some (codeIn o.fmt high (bytesNum mem va (elemBytes o.fmt)), match sc with
        | some a => bytesNum mem a 1
        | none => 0)

/-- The value of a data element. -/
def dataValue (t : Task) (o : MOperand) (mem : Map Byte) (i k : Nat) : FV :=
  match operandCode t o mem i k with
  | none => .fin false 0 0
  | some (code, scale) => elemVal o.fmt scale code

/-- Element (i, k) of an operand as it enters the product; `isB` swaps the logical coordinates (R293). -/
def operandValue (t : Task) (o : MOperand) (scopes : List Nat) (mem : Map Byte) (isB : Bool) (i k : Nat) : FV :=
  let row := o.row0 + i
  let col := o.col0 + k
  let coord := fun (g : Gen) =>
    f32 (if isB then genAt g (scopeFor scopes g) col row else genAt g (scopeFor scopes g) row col)
  if o.kind = 3 then coord o.gen
  else match o.pro with
    | none => dataValue t o mem i k
    | some g =>
      if genKind g = 7 then
        let phi := rotaryAngle g row col
        let cs := f32 (sfuCos phi)
        let sn := f32 (sfuSin phi)
        if col % 2 = 0 then
          f32 (toF32 .rn (sumV .rn [mulV (dataValue t o mem i k) cs, (mulV (dataValue t o mem i (k + 1)) sn).neg]))
        else
          f32 (toF32 .rn (sumV .rn [mulV (dataValue t o mem i (k - 1)) sn, mulV (dataValue t o mem i k) cs]))
      else mulV (dataValue t o mem i k) (coord g)

/-- Both operands are INT8 or INT4 data without a prologue (R113, R280). -/
def operandInt (o : MOperand) : Bool := o.kind != 3 && (o.fmt == .int8 || o.fmt == .int4) && o.pro.isNone

def dataInt (t : Task) (o : MOperand) (mem : Map Byte) (i k : Nat) : Int :=
  match operandCode t o mem i k with
  | none => 0
  | some (code, _) => asInt true (elemBits o.fmt) code

/-- One accumulator element after a k-block. -/
def macWord (t : Task) (a b : MOperand) (scopes : List Nat) (ma mb : Map Byte) (kb m n : Nat) (c : Word) : Word :=
  let ks := (upTo 32).map (fun j => 32 * kb + j)
  if operandInt a && operandInt b then
    BitVec.ofInt 32 (c.toInt + (ks.map (fun k => dataInt t a ma m k * dataInt t b mb n k)).sum)
  else
    f32add .rn c (toF32 .rn (sumV .rn (ks.map (fun k =>
      mulV (operandValue t a scopes ma false m k) (operandValue t b scopes mb true n k)))))

/-- The accumulator after one k-block (R280). -/
def kblock (t : Task) (e : Bool) (a b : MOperand) (scopes : List Nat) (ma mb : Map Byte) (m n kb arow acol : Nat)
    (zero : Bool) : Task :=
  accPut t e ((upTo m).flatMap (fun i => (upTo n).map (fun j =>
    let c := if zero && kb == 0 then 0 else accGet t e (arow + i) (acol + j)
    (accKey (arow + i) (acol + j), macWord t a b scopes ma mb kb i j c))))

/-- How the fetch of the next k-block of an operation stands, with the bytes of both operands. -/
inductive FetchOut where
  | go (s : State) (ma mb : Map Byte)
  | serve (s : State) (ps : List (Nat × Service))
  | bad (s : State) (cause : Byte) (va : Nat)
  | hold
  deriving DecidableEq, Repr

def operandFmt (o : MOperand) : Option (Fmt × Geom) := some (o.fmt, o.geom)

def fetchBlock (s : State) (t : Task) (user : Bool) (a b : MOperand) (m n kb : Nat) : FetchOut :=
  match engPlan s t user true false (operandFmt a) (operandReads a m kb) with
  | .bad s1 k va => .bad s1 k va
  | .serve s1 ps => .serve s1 ps
  | .hold _ => .hold
  | .go s1 las =>
    match engPlan s1 t user true false (operandFmt b) (operandReads b n kb) with
    | .bad s2 k va => .bad s2 k va
    | .serve s2 ps => .serve s2 ps
    | .hold _ => .hold
    | .go s2 lbs =>
      let (s3, ma) := engLoad s2 t las
      let (s4, mb) := engLoad s3 t lbs
      .go s4 ma mb

/-- A tile operand's data of one k-block hold an uncorrectable error. -/
def operandBad (t : Task) (o : MOperand) (rows kb : Nat) : Bool :=
  match o.kind, o.tile with
  | 0, some x => !t.sbad.isEmpty && (upTo rows).any (fun i => (upTo 32).any (fun j => elemBad t x (o.row0 + i) (o.col0 + 32 * kb + j)))
  | _, _ => false

/-- All that the next k-block of a multiplication reads, scratchpad and accumulator included. -/
def fetchAll (s : State) (t : Task) (e : Bool) (o : MatOp) : FetchOut :=
  match o.kind with
  | .mul a b m n _ arow acol zero =>
    match fetchBlock s t o.user a b m n o.kdone with
    | .go s1 ma mb =>
      if operandBad t a m o.kdone || operandBad t b n o.kdone || (!(zero && o.kdone == 0) && accBadAt t e arow acol m n) then
        .bad s1 causeData 0
      else .go s1 ma mb
    | x => x
  | _ => .hold

/-- The running multiplication of an engine that may take its next k-block. -/
def matRuns (s : State) (c : Nat) (e : Bool) : Option (MatOp × Task) :=
  match matHead s c e with
  | none => none
  | some o =>
    match task s o.tid with
    | none => none
    | some t =>
      if o.ending.isSome || !matIsMul o.kind || hasNeed s (.mat c e o.id) || !earlierDone s o.tid o.g o.id then none
      else some (o, t)

/-- KBLOCK_COMPLETE. -/
def kblockComplete (s : State) (c : Nat) (e : Bool) : Option State :=
  match matRuns s c e with
  | none => none
  | some (o, t) =>
    match o.kind with
    | .mul a b m n kb arow acol zero =>
      if kb ≤ o.kdone then none
      else match fetchAll s t e o with
        | .go s1 ma mb =>
          let s2 := modTask s1 o.tid (fun t => kblock t e a b o.scopes ma mb m n o.kdone arow acol zero)
          let k := o.kdone + 1
          some (noteProg (modMat s2 c e o.id (fun x => { x with kdone := k, faulted := false })) o.tid e o.id
            (if k = kb then 4 else 1) k)
        | _ => none
    | _ => none

def execKblockComplete (core : Nat) (eng : Bool) (s : State) : Outcome State Fault Refusal :=
  fire (kblockComplete s core eng) s

/-- An operation ends by an operand fault (R283): chunks return, STATE stays FAULTED, the token waits to be written. -/
def endMat (s : State) (c : Nat) (e : Bool) (o : MatOp) (status : Nat) : State :=
  let s1 := modMat (releaseMat s o) c e o.id (fun x => { x with ending := some status, faulted := true })
  noteProg (dropNeeds s1 (fun w => w == .mat c e o.id)) o.tid e o.id 2 o.kdone

/-- A fault of an operand that cannot be served, recorded in the fault region. -/
def failMat (s : State) (c : Nat) (e : Bool) (o : MatOp) (cause : Byte) (va : Nat) : State :=
  match task s o.tid with
  | none => s
  | some t =>
    if cause == causeFmt then endMat s c e o 3
    else if cause == causeData then endMat s c e o 4
    else endMat (reportPages s t o.g 3 cause true false [va / 2 ^ 12]) c e o 2

/-- MATRIX_FETCH_FAULT. -/
def matrixFetchFault (s : State) (c : Nat) (e : Bool) : Option State :=
  match matRuns s c e with
  | none => none
  | some (o, t) =>
    match o.kind with
    | .mul _ _ _ _ kb _ _ _ =>
      if kb ≤ o.kdone then none
      else match fetchAll s t e o with
        | .bad s1 cause va => some (failMat s1 c e o cause va)
        | .serve s1 ps =>
          some (noteProg (modMat (needAll s1 t.tenant (.mat c e o.id) false 3 ps) c e o.id
            (fun x => { x with faulted := true })) o.tid e o.id 2 o.kdone)
        | _ => none
    | _ => none

def execMatrixFetchFault (core : Nat) (eng : Bool) (s : State) : Outcome State Fault Refusal :=
  fire (matrixFetchFault s core eng) s

/-- The token of Table 8. -/
def matToken (s : State) (o : MatOp) (status count : Nat) : State :=
  match o.tok with
  | none => s
  | some k => writeToken s o.tid o.g k (BitVec.ofNat 32 (2 ^ 24 * status + count % 2 ^ 17))

def dropMat (s : State) (c : Nat) (e : Bool) (id : Nat) : State :=
  setEngQueue s c e ((engQueue s c e).filter (fun o => o.id != id))

/-- An operation on a core that has stopped and waits for its token. -/
def matStopped (s : State) (c : Nat) (e mul : Bool) : Option MatOp :=
  (engQueue s c e).find? (fun o => matLive s o && o.ending.isSome && matIsMul o.kind == mul)

/-- MATRIX_COMPLETE: a multiplication that has stopped, or whose last k-block is applied, leaves the queue and writes its
token. -/
def matrixComplete (s : State) (c : Nat) (e : Bool) : Option State :=
  match matStopped s c e true with
  | some o => some (matToken (dropMat s c e o.id) o (o.ending.getD 0) o.kdone)
  | none =>
    match matHead s c e with
    | none => none
    | some o =>
      match o.kind with
      | .mul _ _ _ _ kb _ _ _ =>
        if kb ≤ o.kdone then
          some (matToken (noteProg (dropMat (releaseMat s o) c e o.id) o.tid e o.id 4 o.kdone) o 0 o.kdone)
        else none
      | _ => none

def execMatrixComplete (core : Nat) (eng : Bool) (s : State) : Outcome State Fault Refusal :=
  fire (matrixComplete s core eng) s

/-! ### Accumulator operations in the engine's order -/

/-- The accumulator words that `accld` writes (R286). -/
def accldWords (t : Task) (x : Tile) (arow acol : Nat) : List (Nat × Word) :=
  (upTo x.rows).flatMap (fun i => (upTo x.cols).map (fun j =>
    let (code, scale) := tileElem t x i j
    (accKey (arow + i) (acol + j), elemWord x.fmt scale code)))

/-- The word that `accst` converts: the accumulator's after the epilogue. -/
def accstWord (t : Task) (e : Bool) (scopes : List Nat) (arow acol : Nat) (epi : Option (BitVec 256 × Nat × Nat))
    (i j : Nat) : Word :=
  let w := accGet t e (arow + i) (acol + j)
  match epi with
  | none => w
  | some (g, vr, vc) =>
    let y := genAt g (scopeFor scopes g) (vr + i) (vc + j)
    if genAdd g then f32add .rn w y else f32mul .rn w y

/-- Element codes written into a row of a tile. -/
def putElem (t : Task) (x : Tile) (i j code : Nat) : Task :=
  let o := x.base + i * x.pitch + j * elemBits x.fmt / 8
  let n := elemBytes x.fmt
  scratchWrite t o (leBytes n (codeInto x.fmt (elemBits x.fmt == 4 && j % 2 == 1) (scratchRead t o n) code))

/-- The tile that `accst` writes (R287). -/
def accstTile (t : Task) (e : Bool) (scopes : List Nat) (x : Tile) (arow acol : Nat) (md : Rm) (sat : Bool) (ty : Nat)
    (epi : Option (BitVec 256 × Nat × Nat)) : Task :=
  (upTo x.rows).foldl (fun t i =>
    let ws := (upTo x.cols).map (accstWord t e scopes arow acol epi i)
    if blockFmt x.fmt then
      let bs := blockSize x.geom
      (upTo (x.cols / bs)).foldl (fun t b =>
        let (sc, codes) := quantBlock x.fmt ty ((List.range bs).map (fun j => f32 (ws.getD (b * bs + j) 0)))
        let t1 := codes.zipIdx.foldl (fun t p => putElem t x i (b * bs + p.2) p.1) t
        scratchWrite t1 (x.base + x.rows * x.pitch + i * (x.cols / bs) + b) [BitVec.ofNat 8 sc]) t
    else ws.zipIdx.foldl (fun t p => putElem t x i p.2 (plainCode x.fmt md sat p.1)) t) t

/-- The tile bytes that an `accst` writes whole: element and scale bytes. -/
def accstCovers (x : Tile) (o : Nat) : Bool :=
  match tileParts x o with
  | [] => false
  | [.nib _ _ _] => false
  | _ => true

/-- `accst` over words that hold an error: those written whole are good again, what covers a part is discarded (R409). -/
def accstWrite (t : Task) (x : Tile) (t1 : Task) : Task :=
  if t.sbad.isEmpty then t1
  else scratchPut t (((upTo x.len).filter (accstCovers x)).map (fun o => (x.base + o, mgetD 0 t1.scratch (x.base + o))))

/-- What an accumulator operation reads holds an uncorrectable error. -/
def accDataBad (t : Task) (e : Bool) (k : MatKind) : Bool :=
  match k with
  | .accld _ x _ _ => !t.sbad.isEmpty && (upTo x.rows).any (fun i => (upTo x.cols).any (elemBad t x i))
  | .accst _ x arow acol _ _ _ _ => accBadAt t e arow acol x.rows x.cols
  | _ => false

/-- What an accumulator operation does. -/
def accApply (t : Task) (e : Bool) (scopes : List Nat) (k : MatKind) : Task :=
  match k with
  | .accld _ x arow acol => accPut t e (accldWords t x arow acol)
  | .accst _ x arow acol md sat ty epi =>
    accstWrite t x (accstTile { t with sbad := [] } e scopes x arow acol md sat ty epi)
  | .acczero arow n => accPut t e ((upTo n).flatMap (fun i => (upTo 128).map (fun j => (accKey (arow + i) j, 0))))
  | .mul _ _ _ _ _ _ _ _ => t

/-- ACC_OP_COMPLETE. -/
def accComplete (s : State) (c : Nat) (e : Bool) : Option State :=
  match matStopped s c e false with
  | some o => some (matToken (dropMat s c e o.id) o (o.ending.getD 0) 0)
  | none =>
    match matHead s c e with
    | none => none
    | some o =>
      if matIsMul o.kind then none
      else if (task s o.tid).any (fun t => accDataBad t e o.kind) then some (matToken (dropMat (releaseMat s o) c e o.id) o 4 0)
      else
        let s1 := modTask s o.tid (fun t => accApply t e o.scopes o.kind)
        some (matToken (dropMat (releaseMat s1 o) c e o.id) o 0 ((matReads o.kind ++ matWrites o.kind).length))

def execAccOpComplete (core : Nat) (eng : Bool) (s : State) : Outcome State Fault Refusal :=
  fire (accComplete s core eng) s

end Sys2Proof.Machine
end

