-- ==== Sys2Proof/Machine/Coll.lean ====
section
/-! DEFINITION. Collectives (R116, R119, R296 to R300, R375): `coll`, `collwait`, and the events in which a collective
reads its descriptor, sends its contribution, writes its results and its token, or gives up waiting. -/

namespace Sys2Proof.Machine

open Host

/-! ### Issue -/

def slotBusy (s : State) (tid g slot : Nat) : Bool :=
  s.colls.any (fun p => p.2.tid == tid && p.2.g == g && p.2.slot == slot)

def execColl (h : Hdr) (t a : Reg) (off : SrcB) (slot : BitVec 3) (s : State) : Outcome State Fault Refusal :=
  run h off.len (⟨h.u, a, 2⟩ :: useB h.u off 1) []
    (fun c s =>
      let va := c.gaddr a off c.lead
      firstCause c s [(va % 64 != 0, causeMisaligned, va % 2 ^ 57), (decide (2 ^ 57 ≤ va), causeProt, va % 2 ^ 57),
                      (tokenTaken c t || slotBusy s c.tid c.g slot.toNat, causeToken, 0)]
        (if cpCount s c.tid c.g ≥ 63 then .wait s
         else
           let s1 := pendToken (writeBackAll s c.task.core) c.tid c.g (scalIdx t)
           let op : CollOp :=
             { tid := c.tid, g := c.g, tenant := c.ten, tok := scalIdx t, user := c.user, slot := slot.toNat,
               die := dieOf c.task.core, addr := va, stage := 0, comm := 0, seqno := 0, src := 0, dst := 0, resid := 0,
               count := 0, nrank := 0, rank := 0, root := 0, kind := 0, fmt := .raw, geom := .none, ty := 0, timeout := 0,
               started := 0, bad := none, sent := [], peers := [] }
           .ok { s1 with serial := s1.serial + 1, colls := mput s1.colls s1.serial op })) s

def execCollwait (h : Hdr) (mask : Byte) (s : State) : Outcome State Fault Refusal :=
  run h 8 [] []
    (fun c s => if (upTo 8).any (fun i => mask.getLsbD i && slotBusy s c.tid c.g i) then .wait s else .ok s) s

/-! ### The descriptor (R296, R299) -/

/-- The descriptor's fields put into an operation. -/
def collFields (op : CollOp) (n : Nat) : CollOp :=
  { op with src := nb n 455 57, dst := nb n 391 57, resid := nb n 327 57, count := nb n 288 32, nrank := nb n 272 16,
            rank := nb n 256 16, root := nb n 240 16, comm := nb n 234 6, kind := nb n 230 4,
            fmt := (Fmt.ofCode (nb n 226 4)).getD .raw, geom := (Geom.ofCode (nb n 223 3)).getD .graph, ty := nb n 221 2,
            timeout := nb n 205 16 }

/-- Formats that a collective sends. -/
def collFmt : Fmt → Bool
  | .fp32 | .fp16 | .bf16 | .e4m3 | .e5m2 | .mxfp8e4 | .mxfp8e5 | .mxfp4 | .ts4 => true
  | _ => false

/-- The cases of PARAM: a reserved field, an illegal code, a bad alignment, a bad COUNT, an unregistered handle, or a
RANK whose entry names another module or die (R299, R375). -/
def collBad (s : State) (op : CollOp) (n : Nat) : Bool :=
  let bs := if blockFmt op.fmt then blockSize op.geom else 1
  let map := (mget (tenant s op.tenant).comms op.comm).getD []
  nb n 448 7 != 0 || nb n 384 7 != 0 || nb n 320 7 != 0 || nb n 0 205 != 0 ||
  op.count == 0 || decide (op.nrank < 2) || decide (4096 < op.nrank) || decide (op.nrank ≤ op.rank) ||
  decide (3 < op.kind) || (op.kind == 3 && decide (op.nrank ≤ op.root)) ||
  (Fmt.ofCode (nb n 226 4)).isNone || (Geom.ofCode (nb n 223 3)).isNone || !collFmt op.fmt || !pairOk op.fmt op.geom ||
  op.geom == .graph || (op.ty != 0 && op.fmt != .ts4) || op.src % 512 != 0 || op.dst % 512 != 0 || op.resid % 512 != 0 ||
  op.count % bs != 0 || (op.fmt == .fp32 && op.resid != 0) || (op.kind == 1 && op.count % (op.nrank * bs) != 0) ||
  (match map[op.rank]? with
   | none => true
   | some w => nb w.toNat 0 16 != nb (fregGet s 0 0x8).toNat 0 16 || nb w.toNat 16 2 != op.die)

/-! ### Contributions -/

/-- The contributions that have reached an operation: its own, those of this module's other ranks, whether their operations
have ended or not, and those that came from other modules. -/
def collParts (s : State) (id : Nat) (op : CollOp) : List (Nat × List Nat × List Word) :=
  let local_ := (s.colls.filter (fun p => p.1 != id && p.2.stage == 2 && collSame p.2 op)).map
    (fun p => (p.2.rank, collAgree p.2, p.2.sent))
  let ended := ((tenant s op.tenant).collSent.filter (fun p => p.comm == op.comm && p.seqno == op.seqno)).map
    (fun p => (p.rank, p.fields, p.elems))
  (if op.stage = 2 then [(op.rank, collAgree op, op.sent)] else []) ++ local_ ++ ended ++ op.peers

/-- Elements of a block format quantised block by block, others one by one; the decoded values (R119). -/
def collSend (f : Fmt) (g : Geom) (ty : Nat) (ys : List Word) : List Word :=
  if f == .fp32 then ys
  else if blockFmt f then
    let bs := blockSize g
    (upTo (ys.length / bs)).flatMap (fun b =>
      let (sc, codes) := quantBlock f ty (((ys.drop (b * bs)).take bs).map f32)
      codes.map (elemWord f sc))
  else ys.map (fun y => elemWord f 0 (plainCode f .rn true y))

/-- n words from an address. -/
def wordsAt (m : Map Byte) (va n : Nat) : List Word := (upTo n).map (fun i => BitVec.ofNat 32 (bytesNum m (va + 4 * i) 4))
/-- Words as bytes by address. -/
def wordBytes (va : Nat) (ws : List Word) : Map Byte :=
  ws.zipIdx.flatMap (fun p => (leBytes 4 p.1.toNat).zipIdx.map (fun q => (va + 4 * p.2 + q.2, q.1)))
/-- The granules of n words. -/
def wordGrans (va n : Nat) : List Nat := (upTo ((4 * n + 31) / 32)).map (fun i => va + 32 * i)

/-- An operation ends with a status: its token is written, or waits with a saved context (R298). -/
def collEnd (s : State) (id : Nat) (op : CollOp) (status : Nat) : State :=
  let s1 := dropNeeds s (fun w => w == .coll id)
  if (task s op.tid).any (·.saved) then { s1 with colls := mput s1.colls id { op with bad := some status } }
  else writeToken (dropColl s1 id op) op.tid op.g op.tok (BitVec.ofNat 32 (2 ^ 24 * status))

/-- A fault that cannot be served, recorded in the fault region (R299). -/
def collFault (s : State) (t : Task) (id : Nat) (op : CollOp) (cause : Byte) (va : Nat) (rd wr : Bool) : State :=
  collEnd (reportPages s t op.g 5 cause rd wr [va / 2 ^ 12]) id op 2

/-- The first stage: the descriptor is read. Operations of one die start in their order of issue. -/
def collRead (s : State) (t : Task) (id : Nat) (op : CollOp) : Option State :=
  if s.colls.any (fun p => decide (p.1 < id) && p.2.tenant == op.tenant && p.2.die == op.die && p.2.stage == 0) then none
  else match engPlan s t op.user true false none [op.addr, op.addr + 32] with
    | .bad s1 cause va => some (collFault s1 t id op cause va true false)
    | .serve s1 ps => some (needAll s1 t.tenant (.coll id) false 5 ps)
    | .hold _ => none
    | .go s1 las =>
      let (s2, m) := engLoad s1 t las
      let n := bytesNum m op.addr 64
      let op1 := collFields op n
      if collBad s2 op1 n then some (collEnd s2 id op 4)
      else
        let key := 4096 * op1.comm + op1.rank
        let k := mgetD 0 (tenant s2 op.tenant).collSeq key
        let s3 := modTenant s2 op.tenant (fun x => { x with collSeq := mput x.collSeq key (k + 1) })
        some { s3 with colls := mput s3.colls id { op1 with stage := 1, seqno := k } }

/-- Whether an operation sends data, and whether it keeps a residual (R297). -/
def collSends (op : CollOp) : Bool := op.kind != 3 || op.rank == op.root

/-- An earlier collective of the same die still has to send from the residual buffer (R119). -/
def residBusy (s : State) (id : Nat) (op : CollOp) : Bool :=
  s.colls.any (fun p => decide (p.1 < id) && p.2.tenant == op.tenant && p.2.die == op.die && p.2.stage == 1 &&
    p.2.resid != 0 && rangesMeet p.2.resid (4 * p.2.count) op.resid (4 * op.count))

/-- n words of a residual: one that nothing has written since its memory was given reads as 0 (R119). -/
def residWords (s : State) (las : List LaneAcc) (m : Map Byte) (va n : Nat) : List Word :=
  ((upTo n).zip (wordsAt m va n)).map (fun p =>
    let a := va + 4 * p.1
    let fresh := (las.find? (fun la => la.addr / 32 == a / 32)).any (fun la =>
      decide (la.pa < hostBase) && (mget s.ukey ((la.pa + a % 32) / 16)).isNone)
    if fresh then 0 else p.2)

/-- The second stage: the contribution is read, quantised and sent, and its residual written. -/
def collContribute (s : State) (t : Task) (id : Nat) (op : CollOp) : Option State :=
  let next := fun (s : State) (ws : List Word) =>
    some { s with colls := mput s.colls id { op with stage := 2, sent := ws, started := s.cycle } }
  if !collSends op then next s []
  else if op.resid != 0 && residBusy s id op then none
  else match engPlan s t op.user true false none (wordGrans op.src op.count) with
    | .bad s1 cause va => some (collFault s1 t id op cause va true false)
    | .serve s1 ps => some (needAll s1 t.tenant (.coll id) false 5 ps)
    | .hold _ => none
    | .go s1 las =>
      let (s2, m) := engLoad s1 t las
      let xs := wordsAt m op.src op.count
      if op.resid = 0 then next s2 (collSend op.fmt op.geom op.ty (if op.fmt == .fp32 then xs else xs.map (f32add .rn · 0)))
      else match engPlan s2 t op.user true true none (wordGrans op.resid op.count) with
        | .bad s3 cause va => some (collFault s3 t id op cause va true true)
        | .serve s3 ps => some (needAll s3 t.tenant (.coll id) true 5 ps)
        | .hold _ => none
        | .go s3 lrs =>
          if !portReady s3 t.core lrs then none
          else
            let (s4, mr) := engLoad s3 t lrs
            let ys := List.zipWith (f32add .rn) xs (residWords s4 lrs mr op.resid op.count)
            let qs := collSend op.fmt op.geom op.ty ys
            next (engApply s4 t lrs (wordBytes op.resid (List.zipWith (f32sub .rn) ys qs))) qs

/-- The ordered sum of R116. -/
def collSum (parts : List (List Word)) (i : Nat) : Word :=
  match parts with
  | [] => 0
  | p :: ps => ps.foldl (fun acc q => f32add .rn acc (q.getD i 0)) (p.getD i 0)

/-- The elements that an operation receives, by rank (R297). -/
def collResult (op : CollOp) (parts : List (List Word)) : List Word :=
  match op.kind with
  | 0 => (upTo op.count).map (collSum parts)
  | 1 => (upTo (op.count / op.nrank)).map (fun i => collSum parts (op.rank * (op.count / op.nrank) + i))
  | 2 => parts.flatten
  | _ => parts.getD op.root []

/-- Every rank has contributed: the elements by rank; none while one is missing. -/
def collAll (op : CollOp) (ps : List (Nat × List Nat × List Word)) : Option (List (List Word)) :=
  let xs := (upTo op.nrank).filterMap (fun r => (ps.find? (fun p => p.1 == r)).map (fun p => p.2.2))
  if xs.length = op.nrank then some xs else none

/-- Ranks that disagree, or two that claim one RANK (R299). -/
def collClash (op : CollOp) (ps : List (Nat × List Nat × List Word)) : Bool :=
  ps.any (fun p => p.2.1 != collAgree op) || !(ps.map (·.1)).Nodup

/-- The last stage: the result is written and the token after it. -/
def collFinish (s : State) (t : Task) (id : Nat) (op : CollOp) : Option State :=
  let ps := collParts s id op
  if decide (op.nrank ≤ ps.length) && collClash op ps then
    let s1 := { s with colls := s.colls.map (fun p =>
      (p.1, if p.1 != id && collSame p.2 op then { p.2 with bad := some 5 } else p.2)) }
    some (collEnd s1 id op 5)
  else match collAll op ps with
    | none => none
    | some parts =>
      let ws := collResult op parts
      match engPlan s t op.user false true none (wordGrans op.dst ws.length) with
      | .bad s1 cause va => some (collFault s1 t id op cause va false true)
      | .serve s1 qs => some (needAll s1 t.tenant (.coll id) true 5 qs)
      | .hold _ => none
      | .go s1 las =>
        if !portReady s1 t.core las then none
        else
          some (collEnd (engApply s1 t las (wordBytes op.dst ws)) id op 0)

/-- COLLECTIVE_COMPLETE: a collective's next stage. A saved context's collective goes on up to its token (R298). -/
def collectiveComplete (s : State) (id : Nat) : Option State :=
  match mget s.colls id with
  | none => none
  | some op =>
    match task s op.tid with
    | none => none
    | some t =>
      if hasNeed s (.coll id) || !earlierDone s op.tid op.g id then none
      else match op.bad with
        | some k => if t.saved then none else some (collEnd s id op k)
        | none =>
          match op.stage with
          | 0 => collRead s t id op
          | 1 => collContribute s t id op
          | _ => collFinish s t id op

def execCollectiveComplete (id : Nat) (s : State) : Outcome State Fault Refusal := fire (collectiveComplete s id) s

/-- COLL_TIMEOUT: TIMEOUT milliseconds have passed while a contribution is missing (R299); a millisecond is 850,000
cycles (R7). -/
def collTimeout (s : State) (id : Nat) : Option State :=
  match mget s.colls id with
  | none => none
  | some op =>
    if op.stage == 2 && op.timeout != 0 && decide (op.started + 850000 * op.timeout ≤ s.cycle) &&
       (collAll op (collParts s id op)).isNone && op.bad.isNone then
      some (collEnd s id op 3)
    else none

def execCollTimeout (id : Nat) (s : State) : Outcome State Fault Refusal := fire (collTimeout s id) s

/-- The contribution of a rank of another module arrives. -/
def peerArrives (s : State) (id rank : Nat) (fields : List Nat) (elems : List Word) : State :=
  match mget s.colls id with
  | none => s
  | some op => wakeAll { s with colls := mput s.colls id { op with peers := op.peers ++ [(rank, fields, elems)] } }

end Sys2Proof.Machine
end

