-- ==== Sys2Proof/Machine/Control.lean ====
section
/-! DEFINITION. Control instructions (09 Table 1, R40, R166, R179, R180, R197 to R200). -/

namespace Sys2Proof.Machine

open Host

def execNop (s : State) : Outcome State Fault Refusal := run Hdr.plain 8 [] [] (fun _ s => .ok s) s
def execNop96 (s : State) : Outcome State Fault Refusal := run Hdr.plain 12 [] [] (fun _ s => .ok s) s
def execNop128 (s : State) : Outcome State Fault Refusal := run Hdr.plain 16 [] [] (fun _ s => .ok s) s
def execFillWord (s : State) : Outcome State Fault Refusal := run Hdr.plain 4 [] [] (fun _ s => .ok s) s

/-- DIVERGE records of an entry that split (R436): one per resulting entry. -/
def divergeRecords (c : Ctx) (s : State) (es : List Entry) : State :=
  if c.user && decide (2 ≤ es.length) then
    es.foldl (fun s e => evPut s c.tid c.g 1 e.pc c.bundle e.mask 0 0) s
  else s

/-- The records find no room and ETSTALL asks to wait (R437). -/
def divergeWaits (c : Ctx) (s : State) (es : List Entry) : Bool :=
  decide (2 ≤ es.length) && evOn s c.ten 1 c.user && evWait s c.ten es.length

/-- The bundle's entry replaced by the entries of a branch or a split. `s0` is the state before the instruction wrote its
registers: one that waits for room in the event ring (R437) has done nothing yet. -/
def Ctx.splitTo (c : Ctx) (s0 s : State) (es : List Entry) : Res :=
  if divergeWaits c s0 es then .wait s0
  else
    let s1 := c.move { s with serial := s.serial + es.length } (replaceEntry c.ent.id es)
    .done (divergeRecords c s1 es)

/-- A branch (R179, R197): `tgt` is the target of an active lane, `sent` the active lanes sent to the target. -/
def Ctx.branch (c : Ctx) (s0 s : State) (tgt : Nat → VA) (sent : Lanes) (tp fp : Byte) : Res :=
  c.splitTo s0 s (branchEntries s.serial c.bundle sent (fun i => if has c.act i then tgt i else c.npc) tp fp)

/-- The lane whose operands serve a lane of the bundle: with U = 1 the lowest passing lane (R172). -/
def Ctx.at (c : Ctx) (i : Nat) : Nat := if c.h.u then c.lead else i

/-- A PC-relative target. -/
def Ctx.rel (c : Ctx) (off : Word) : VA := c.pc + off.signExtend 57

/-- A target pair plus an offset; bits 31:25 of the high register are ignored (R197). -/
def Ctx.indirect (c : Ctx) (a : Reg) (off : Word) (i : Nat) : VA :=
  BitVec.ofNat 57 (c.rpair a (c.at i)) + off.signExtend 57

/-- The link pair of a call (R197). -/
def Ctx.link (c : Ctx) (s : State) (d : Reg) : State :=
  c.put s d (fun _ => [lo32 c.npc.toNat, hi32 c.npc.toNat])

/-- Lanes whose indirect target is not a multiple of 4. -/
def Ctx.badTargets (c : Ctx) (a : Reg) (off : Word) : Lanes :=
  maskOf (fun i => c.lanes.contains i && (c.indirect a off i).toNat % 4 != 0)

/-- An indirect branch: MISALIGNED, or the branch made from the state that `pre` leaves. -/
def Ctx.goIndirect (c : Ctx) (s : State) (a : Reg) (off : Word) (tp fp : Byte) (pre : State → State) : Res :=
  let bad := if c.act == 0 then 0 else c.badTargets a off
  if bad != 0 then .trap s causeMisaligned bad (c.indirect a off (lowest bad)).toNat
  else c.branch s (if c.act == 0 then s else pre s) (c.indirect a off) c.act tp fp

def execBra (h : Hdr) (off : Word) (tp fp : Byte) (s : State) : Outcome State Fault Refusal :=
  runGen true h 12 [] [] (fun c s => c.branch s s (fun _ => c.rel off) c.act tp fp) s

def execBrx (h : Hdr) (a : Reg) (off : Word) (tp fp : Byte) (s : State) : Outcome State Fault Refusal :=
  runGen true h 12 [⟨h.u, a, 2⟩] [] (fun c s => c.goIndirect s a off tp fp id) s

def execCall (h : Hdr) (d : Reg) (off : Word) (tp fp : Byte) (s : State) : Outcome State Fault Refusal :=
  runGen true h 12 [] [⟨h.u, d, 2⟩]
    (fun c s => c.branch s (if c.act == 0 then s else c.link s d) (fun _ => c.rel off) c.act tp fp) s

def execCallx (h : Hdr) (d a : Reg) (off : Word) (tp fp : Byte) (s : State) : Outcome State Fault Refusal :=
  runGen true h 12 [⟨h.u, a, 2⟩] [⟨h.u, d, 2⟩] (fun c s => c.goIndirect s a off tp fp (fun s => c.link s d)) s

def execRet (h : Hdr) (a : Reg) (tp fp : Byte) (s : State) : Outcome State Fault Refusal :=
  runGen true h 12 [⟨h.u, a, 2⟩] [] (fun c s => c.goIndirect s a 0 tp fp id) s

/-- `loopc` (R197): the counter after the decrement decides each active lane's way. -/
def execLoopc (h : Hdr) (d : Reg) (off : Word) (tp fp : Byte) (s : State) : Outcome State Fault Refusal :=
  runGen true h 12 [⟨h.u, d, 1⟩] [⟨h.u, d, 1⟩]
    (fun c s =>
      let ctr := fun i => c.ra d 0 (c.at i) - 1
      let stay := maskOf (fun i => has c.act i && ctr i != 0)
      c.branch s (if c.act == 0 then s else c.put s d (fun i => [ctr i]))
        (fun i => if ctr i != 0 then c.rel off else c.npc) stay tp fp) s

/-- `exit` (R198): the group waits for its log; then the active lanes leave, in trap mode from both frontiers. -/
def execExit (h : Hdr) (s : State) : Outcome State Fault Refusal :=
  run h 8 [] []
    (fun c s =>
      if c.grp.oplog.any (fun o => (o.act &&& c.act) != 0) then .wait s
      else
        let s1 := c.move s (fun es => dropLanes c.act
          (es.map (fun e => if e.id == c.ent.id then { e with pc := c.npc } else e)))
        let s2 := if c.user then s1 else modGroup s1 c.tid c.g (fun x => { x with front := dropLanes c.act x.front })
        .done (leaveTrap s2 c.tid c.g)) s

/-- The two parts of an entry that splits at its next PC (R40, R199): the active lanes first. -/
def Ctx.parts (c : Ctx) (s : State) (prio : Byte) (starve : Half) : List Entry :=
  [ { Entry.new s.serial c.npc c.act prio with starve := starve },
    { Entry.new (s.serial + 1) c.npc (c.bundle &&& ~~~ c.act) c.ent.prio with starve := starve } ]

/-- `yield` (R40). -/
def execYield (h : Hdr) (s : State) : Outcome State Fault Refusal :=
  run h 8 [] []
    (fun c s =>
      if c.act == c.bundle then
        .done (c.move s (fun es => setYield c.ent.id
          (es.map (fun e => if e.id == c.ent.id then { e with pc := c.npc } else e))))
      else
        .done (c.move { s with serial := s.serial + 2 } (fun es =>
          setYield s.serial (replaceEntry c.ent.id (c.parts s c.ent.prio c.ent.starve) es)))) s

/-- `setprio` (R199): the entry splits when some lanes are active and others are not. -/
def execSetprio (h : Hdr) (n : Byte) (s : State) : Outcome State Fault Refusal :=
  run h 8 [] []
    (fun c s =>
      if c.act == c.bundle then
        .done (c.move s (fun es => es.map (fun e =>
          if e.id == c.ent.id then { e with pc := c.npc, prio := n } else e)))
      else
        let ps := c.parts s n 0
        c.splitTo s s (if has c.act (lowest c.bundle) then ps else ps.reverse)) s

/-- `brk` (R200). -/
def execBrk (h : Hdr) (n : Byte) (s : State) : Outcome State Fault Refusal :=
  run h 8 [] [] (fun c s => .trap s causeBreak c.act n.toNat) s

end Sys2Proof.Machine
end

