-- ==== Sys2Proof/Machine/Float.lean ====
section
/-! DEFINITION. FP32 arithmetic (09 Table 4, R205, R206). -/

namespace Sys2Proof.Machine

open Host

def execFadd (h : Hdr) (d a : Reg) (b : SrcB) (md : Rm) (s : State) : Outcome State Fault Refusal :=
  alu2 Ctx.bf h d a b (f32add md) s

def execFsub (h : Hdr) (d a : Reg) (b : SrcB) (md : Rm) (s : State) : Outcome State Fault Refusal :=
  alu2 Ctx.bf h d a b (f32sub md) s

def execFmul (h : Hdr) (d a : Reg) (b : SrcB) (md : Rm) (s : State) : Outcome State Fault Refusal :=
  alu2 Ctx.bf h d a b (f32mul md) s

def execFfma (h : Hdr) (d a : Reg) (b : SrcB) (c : SrcC) (md : Rm) (s : State) : Outcome State Fault Refusal :=
  alu3 Ctx.bf Ctx.cf h d a b c (f32fma md) s

def execFmin (h : Hdr) (d a : Reg) (b : SrcB) (s : State) : Outcome State Fault Refusal :=
  alu2 Ctx.bf h d a b f32min s

def execFmax (h : Hdr) (d a : Reg) (b : SrcB) (s : State) : Outcome State Fault Refusal :=
  alu2 Ctx.bf h d a b f32max s

def execFclamp (h : Hdr) (d a : Reg) (b : SrcB) (c : SrcC) (s : State) : Outcome State Fault Refusal :=
  alu3 Ctx.bf Ctx.cf h d a b c (fun x y z => f32min (f32max x y) z) s

def execFround (h : Hdr) (d a : Reg) (md : Rm) (s : State) : Outcome State Fault Refusal :=
  alu1 h d a (f32round md) s

/-- The value of the low or the high half of a word. -/
def halfV (bf : Bool) (w : Word) (hi : Bool) : FV := decodeF (halfFmt bf) (nb w.toNat (if hi then 16 else 0) 16)

/-- `fdot2`: one rounding of the exact sum. -/
def dot2 (bf : Bool) (md : Rm) (x y z : Word) : Word :=
  toF32 md (sumV md [f32 z, mulV (halfV bf x false) (halfV bf y false), mulV (halfV bf x true) (halfV bf y true)])

def execFdot2 (h : Hdr) (d a : Reg) (b : SrcB) (c : SrcC) (md : Rm) (bf : Bool) (s : State) :
    Outcome State Fault Refusal :=
  alu3 (fun c x i => c.bh bf x i) Ctx.cf h d a b c (dot2 bf md) s

end Sys2Proof.Machine
end

