-- ==== Sys2Proof/Machine/Convert.lean ====
section
/-! DEFINITION. Packed halves and conversions (R207 to R211). -/

namespace Sys2Proof.Machine

open Host

/-- Two halves from one function of the element (R207). -/
def halves (f : Bool → Nat) : Word := BitVec.ofNat 32 (f false + 2 ^ 16 * f true)

def hround (bf : Bool) (md : Rm) (v : FV) : Nat := roundF (halfFmt bf) md false v

def execHadd2 (h : Hdr) (d a : Reg) (b : SrcB) (md : Rm) (bf : Bool) (s : State) : Outcome State Fault Refusal :=
  alu2 (fun c x i => c.bh bf x i) h d a b
    (fun x y => halves (fun hi => hround bf md (sumV md [halfV bf x hi, halfV bf y hi]))) s

def execHmul2 (h : Hdr) (d a : Reg) (b : SrcB) (md : Rm) (bf : Bool) (s : State) : Outcome State Fault Refusal :=
  alu2 (fun c x i => c.bh bf x i) h d a b
    (fun x y => halves (fun hi => hround bf md (mulV (halfV bf x hi) (halfV bf y hi)))) s

def execHfma2 (h : Hdr) (d a : Reg) (b : SrcB) (c : SrcC) (md : Rm) (bf : Bool) (s : State) :
    Outcome State Fault Refusal :=
  alu3 (fun c x i => c.bh bf x i) (fun c x i => c.ch bf x i) h d a b c
    (fun x y z => halves (fun hi => hround bf md (sumV md [mulV (halfV bf x hi) (halfV bf y hi), halfV bf z hi]))) s

/-- One half of a word as its code. -/
def halfCode (w : Word) (hi : Bool) : Nat := nb w.toNat (if hi then 16 else 0) 16

def execHmin2 (h : Hdr) (d a : Reg) (b : SrcB) (bf : Bool) (s : State) : Outcome State Fault Refusal :=
  alu2 (fun c x i => c.bh bf x i) h d a b
    (fun x y => halves (fun hi => minMaxF (halfFmt bf) false (halfCode x hi) (halfCode y hi))) s

def execHmax2 (h : Hdr) (d a : Reg) (b : SrcB) (bf : Bool) (s : State) : Outcome State Fault Refusal :=
  alu2 (fun c x i => c.bh bf x i) h d a b
    (fun x y => halves (fun hi => minMaxF (halfFmt bf) true (halfCode x hi) (halfCode y hi))) s

/-- The floating-point format of a conversion type. -/
def ctypeFloat : CType → Option FloatFmt
  | .f32 => some fp32
  | .f16 => some fp16
  | .bf16 => some bf16
  | .e4m3 => some e4m3
  | .e5m2 => some e5m2
  | .e2m1 => some e2m1
  | _ => none

/-- A conversion type is a signed integer. -/
def ctypeSigned : CType → Bool
  | .i32 | .i16 | .i8 | .i4 => true
  | _ => false

/-- An integer result, extended to the register by its type (R208). -/
def placeInt (t : CType) (i : Int) : Word := BitVec.ofInt 32 (asInt (ctypeSigned t) t.width (intBits t.width i))

/-- `cvt` of one element code (R208). What `.sat` makes of an infinity where the destination is f32 stands in no row of Table 6
of R111; the model gives the largest finite FP32 of its sign (log entry 74). -/
def convert (dt st : CType) (md : Rm) (sat : Bool) (code : Nat) : Word :=
  match ctypeFloat dt, ctypeFloat st with
  | some df, some sf =>
    let v := decodeF sf code
    if dt == st then BitVec.ofNat 32 (if v.isNan then df.cnan else code)
    else BitVec.ofNat 32 (roundF df md sat v)
  | some df, none => BitVec.ofNat 32 (roundF df md sat (ofInt (asInt (ctypeSigned st) st.width code)))
  | none, some sf =>
    let v := decodeF sf code
    match v with
    | .nan => 0
    | .inf neg => placeInt dt (if neg then intMin (ctypeSigned dt) dt.width else intMax (ctypeSigned dt) dt.width)
    | .fin _ _ _ => placeInt dt (clampInt (ctypeSigned dt) dt.width ((toIntV md v).getD 0))
  | none, none =>
    let i := asInt (ctypeSigned st) st.width code
    placeInt dt (if sat then clampInt (ctypeSigned dt) dt.width i else i)

def execCvt (h : Hdr) (d a : Reg) (dt st : CType) (md : Rm) (sat : Bool) (sel : BitVec 4) (s : State) :
    Outcome State Fault Refusal :=
  run h 12 [⟨h.u, a, 1⟩] [⟨h.u, d, 1⟩]
    (fun c s => .ok (c.put s d (fun i => [convert dt st md sat (nb (c.ra a 0 i).toNat (sel.toNat * st.width) st.width)]))) s

/-- The lanes of a lane's quantisation block that are active, ascending (R209). -/
def Ctx.quantLanes (c : Ctx) (b16 : Bool) (i : Nat) : List Nat :=
  (lanesOf c.act).filter (fun j => !b16 || j / 16 == i / 16)

/-- A lane's code and scale (R209). -/
def Ctx.quantWord (c : Ctx) (a : Reg) (f : Fmt) (ty : BitVec 2) (b16 : Bool) (i : Nat) : Word :=
  let scale := blockScale f ty.toNat ((c.quantLanes b16 i).map (fun j => f32 (c.ra a 0 j)))
  BitVec.ofNat 32 (blockCode f scale (f32 (c.ra a 0 i)) + 2 ^ 8 * scale)

def execCvtq (h : Hdr) (d a : Reg) (fmt : Fmt) (ty : BitVec 2) (b16 : Bool) (s : State) : Outcome State Fault Refusal :=
  run h 8 [⟨h.u, a, 1⟩] [⟨h.u, d, 1⟩] (fun c s => .ok (c.put s d (fun i => [c.quantWord a fmt ty b16 i]))) s

def execCvtd (h : Hdr) (d a : Reg) (fmt : Fmt) (s : State) : Outcome State Fault Refusal :=
  alu1 h d a (fun x => elemWord fmt (nb x.toNat 8 8) (nb x.toNat 0 (elemBits fmt))) s

/-- `pack` (R211). -/
def packWord (w : EW) (pos : BitVec 3) (x y : Word) : Word :=
  ofBits (fun i => if w.bits * pos.toNat ≤ i ∧ i < w.bits * pos.toNat + w.bits then x.getLsbD (i - w.bits * pos.toNat)
                   else y.getLsbD i)

def execPack (h : Hdr) (d a : Reg) (b : SrcB) (w : EW) (pos : BitVec 3) (s : State) : Outcome State Fault Refusal :=
  alu2 Ctx.b h d a b (packWord w pos) s

def execUnpack (h : Hdr) (d a : Reg) (w : EW) (pos : BitVec 3) (zext : Bool) (s : State) : Outcome State Fault Refusal :=
  alu1 h d a (fun x => BitVec.ofInt 32 (asInt (!zext) w.bits (nb x.toNat (w.bits * pos.toNat) w.bits))) s

end Sys2Proof.Machine
end

