-- ==== Sys2Proof/Machine/Trace.lean ====
section
/-! DEFINITION. Traces (06): order labels and relabelling (R123 to R125), recording and its checks (R127 to R131), what a
squash, a discard and a commit do (R136, R137, R139), the records in the region (R126), and the granules that an undo
writes. -/

namespace Sys2Proof.Machine

open Host

def trOf (s : State) (t h : Nat) : Option Trace := mget (tenant s t).traces h
def setTr (s : State) (t h : Nat) (tr : Trace) : State :=
  modTenant s t (fun x => { x with traces := mput x.traces h { tr with dirty := true } })

/-- A propagation runs on the trace. -/
def propagating (tr : Trace) : Bool := tr.prop.any (·.started)

/-- TSTATE (Table 1); it returns to the stored value when a propagation ends (R339). -/
def tstateNow (tr : Trace) : Nat := if propagating tr then 2 else tr.tstate

/-- States of Table 7: RUNNING or ENDED; STALE, WINDOW, RUNNING or ENDED. -/
def TTask.live (k : TTask) : Bool := k.state == 4 || k.state == 5
def TTask.busy (k : TTask) : Bool := k.state == 2 || k.state == 3 || k.state == 4 || k.state == 5

def ceilDiv (n k : Nat) : Nat := (n + k - 1) / k

def modTT (tr : Trace) (r : Nat) (f : TTask → TTask) : Trace := { tr with tasks := mmod tr.tasks r f }

/-! ### Order -/

def insertLabel (p : Nat × TTask) : List (Nat × TTask) → List (Nat × TTask)
  | [] => [p]
  | q :: l => if p.2.label < q.2.label then p :: q :: l else q :: insertLabel p l

/-- Tasks by ascending label. -/
def sortLabel (l : List (Nat × TTask)) : List (Nat × TTask) := l.foldl (fun acc p => insertLabel p acc) []
def byLabel (tr : Trace) : List (Nat × TTask) := sortLabel tr.tasks

/-- The writer of a granule, and its recorded readers (R130). -/
def writerOf (tr : Trace) (g : Nat) : Option (Nat × TTask) :=
  tr.tasks.find? (fun p => p.2.wr.any (fun w => w.gran == g))
def readersOf (tr : Trace) (g : Nat) : List (Nat × TTask) := (byLabel tr).filter (fun p => p.2.rd.contains g)

/-- The children of a task before its cursor, and the old children that its re-execution has still to match (R138). -/
def kidsBefore (k : TTask) : List Nat := if k.live then k.nkids else k.kids
def kidsAfter (tr : Trace) (k : TTask) : List Nat :=
  if k.live then k.kids.filter (fun c => (mget tr.tasks c).any (·.old)) else []

/-- A task with its subtree. -/
def subFrom : Nat → Trace → Nat → List Nat
  | 0, _, _ => []
  | n + 1, tr, r =>
    match mget tr.tasks r with
    | none => []
    | some k => r :: (kidsBefore k ++ kidsAfter tr k).flatMap (subFrom n tr)

def subOf (tr : Trace) (r : Nat) : List Nat := subFrom (tr.tasks.length + 1) tr r

/-! ### Records in use (Table 1) -/

/-- The children that a child list names: those that have a record. -/
def listed (tr : Trace) (l : List Nat) : List Nat := l.filter (fun c => (mget tr.tasks c).any (fun k => !k.norec))

/-- Records of one task: itself, its reads, writes and children; a re-execution's new reads, writes, priors and
children besides. A task that runs without recording has none (R131). -/
def taskRecs (tr : Trace) (k : TTask) : Nat :=
  if k.norec then 0
  else
    1 + ceilDiv k.rd.length 6 + k.wr.length + ceilDiv (listed tr k.kids).length 12 +
    (ceilDiv k.nrd.length 6 + 2 * k.prior.length + ceilDiv (listed tr k.nkids).length 12)

/-- NREC and NUSED. -/
def nrecOf (tr : Trace) : Nat := min (2 ^ (tr.lg - 1) / 64) (2 ^ 24 - 1)
def nusedRaw (tr : Trace) : Nat := 1 + (tr.tasks.map (fun p => taskRecs tr p.2)).sum + tr.viol.length
def nusedOf (tr : Trace) : Nat := min (nrecOf tr) (nusedRaw tr)

/-! ### PARTIAL and violations (R130, R131) -/

/-- PARTIAL from the lowest label so far (R130, R131); a re-recording in progress has then failed (R143). -/
def markPartial (tr : Trace) (l : Nat) : Trace :=
  { tr with part := some (match tr.part with
                          | some p => min p l
                          | none => l),
            rerec := false }

def labelOf (tr : Trace) (r : Nat) : Nat := ((mget tr.tasks r).map (·.label)).getD 0

/-- A violation record: the offending task, the other task's label, the granule, the reason. -/
def violate (tr : Trace) (r other g reason : Nat) : Trace :=
  let l := labelOf tr r
  modTT (markPartial { tr with viol := tr.viol ++ [(l, other, g, reason)] } l) r (fun k => { k with ordv := true })

/-- A task whose accesses are recorded (R131, R320). -/
def recOn (tr : Trace) (k : TTask) : Bool :=
  tr.rerec || (match tr.part with
    | none => true
    | some p => decide (k.label < p))

/-! ### Labels (R123 to R125) -/

/-- A trace opened on a graph keeps a virtual root's cursor. -/
def onGraph (tr : Trace) : Bool := tr.rootCursor != 0

/-- A subtree respread: its task takes LABEL and LIMIT, its children lie in the range with their order kept and the spare
part at the task's cursor. Where the spare part begins is a free value (log entry 14). -/
def spreadFrom : Nat → Trace → Nat → Nat → Nat → Trace
  | 0, tr, _, _, _ => tr
  | n + 1, tr, r, lab, lim =>
    match mget tr.tasks r with
    | none => tr
    | some k =>
      let size := fun (c : Nat) => (subOf tr c).length
      let before := kidsBefore k
      let after := kidsAfter tr k
      let z := ((before ++ after).map size).sum
      let width := fun (c : Nat) => (lim - (lab + 1)) * size c / (z + 1)
      let used := ((before ++ after).map width).sum
      let off := Config.relabelShare (tr.serial * 2 ^ 32 + r) % ((lim - (lab + 1) - used) / 2 + 1)
      let put := fun (acc : Trace × Nat) (c : Nat) => (spreadFrom n acc.1 c acc.2 (acc.2 + width c), acc.2 + width c)
      let (tr1, cur) := before.foldl put (tr, lab + 1 + off)
      let (tr2, _) := after.foldl put (tr1, lim - (after.map width).sum)
      modTT tr2 r (fun k => { k with label := lab, limit := lim, cursor := cur })

def respread (tr : Trace) (r lab lim : Nat) : Trace :=
  { spreadFrom (tr.tasks.length + 1) tr r lab lim with serial := tr.serial + 1 }

/-- What a label of `old` reads as in `new`: the label of its task; that of a task that is gone stays before the same tasks. -/
def labelTo (old new : Trace) (l : Nat) : Nat :=
  match old.tasks.find? (fun p => p.2.label == l) with
  | some (r, _) => labelOf new r
  | none =>
    ((((old.tasks.filter (fun p => decide (l ≤ p.2.label))).map (fun p => labelOf new p.1)).min?).getD
      (max l (1 + ((new.tasks.map (fun p => p.2.label)).max?).getD 0)))

/-- A relabelling rewrites every field that holds a label (R124): PLABEL, and LABEL and OTHER of the violation records, whose
0 is no label. -/
def relab (old new : Trace) : Trace :=
  { new with part := new.part.map (labelTo old new),
             viol := new.viol.map (fun v => (labelTo old new v.1, if v.2.1 = 0 then 0 else labelTo old new v.2.1, v.2.2)) }

def spread (tr : Trace) (r lab lim : Nat) : Trace := relab tr (respread tr r lab lim)

/-- The formulas of R123 and R125 for N top-level tasks: the unit G. -/
def topUnit (graph : Bool) (n : Nat) : Nat := (if graph then 2 ^ 62 else 2 ^ 63) / (n + 1)

/-- Every top-level range respread. -/
def spreadTops (tr : Trace) : Trace :=
  let tops := ((byLabel tr).filter (fun p => p.2.top)).map (·.1)
  let g := topUnit (onGraph tr) (if onGraph tr then tr.ntop else tops.length)
  let tr1 := relab tr (tops.zipIdx.foldl (fun tr p => respread tr p.1 ((p.2 + 1) * g) ((p.2 + 2) * g)) tr)
  if onGraph tr then { tr1 with rootCursor := 2 ^ 62 } else tr1

/-- A task and its ancestors, nearest first. -/
def ancestors : Nat → Trace → Nat → List Nat
  | 0, _, _ => []
  | n + 1, tr, r =>
    match mget tr.tasks r with
    | none => []
    | some k => r :: ancestors n tr k.parent

/-- Its range holds 64 labels for each task of its subtree and `extra` more. -/
def qualifies (tr : Trace) (extra r : Nat) : Bool :=
  match mget tr.tasks r with
  | none => false
  | some k => decide (64 * ((subOf tr r).length + extra) ≤ k.limit - (k.label + 1))

/-- RELABEL (R124). -/
def relabel (tr : Trace) (r : Nat) : Trace :=
  match (ancestors (tr.tasks.length + 1) tr r).find? (qualifies tr 1) with
  | some a => spread tr a (labelOf tr a) (((mget tr.tasks a).map (·.limit)).getD 0)
  | none => spreadTops tr

/-- The bound U of a task's next child. -/
def boundOf (tr : Trace) (k : TTask) : Nat :=
  match kidsAfter tr k with
  | c :: _ => labelOf tr c
  | [] => k.limit

/-- LABEL and LIMIT of the next child of a task, whose cursor moves to that LIMIT; `size` tasks are to find room in the
child's range. R124 names U - cursor < 4 as the cause of a relabelling; that a child moved with its subtree (R138) also causes
one when its range would hold fewer than 64 labels for each of its tasks is the model's choice (log entry 75). -/
def labelChild (tr : Trace) (r size : Nat) : Trace × Nat × Nat :=
  let room := fun (tr : Trace) => match mget tr.tasks r with
    | none => (0, 0)
    | some k => (k.cursor, boundOf tr k - k.cursor)
  let (_, gap) := room tr
  let tr1 := if gap < 4 ∨ (1 < size ∧ gap / 4 < 64 * size) then relabel tr r else tr
  let (cur, g) := room tr1
  (modTT tr1 r (fun k => { k with cursor := cur + g / 2 }), cur + g / 4, cur + g / 2)

/-- A further top-level task of a graph's trace: a child of the virtual root (R125). -/
def labelTop (tr : Trace) : Trace × Nat × Nat :=
  let tr1 := if 2 ^ 63 - tr.rootCursor < 4 then spreadTops tr else tr
  let g := 2 ^ 63 - tr1.rootCursor
  ({ tr1 with rootCursor := tr1.rootCursor + g / 2 }, tr1.rootCursor + g / 4, tr1.rootCursor + g / 2)

/-- A task record at its creation. -/
def TTask.new (org : Origin) (label limit : Nat) (site entry : VA) (args : List Word) (parent blk launch state : Nat)
    (top newt : Bool) (prio : Byte) : TTask :=
  { org := org, label := label, limit := limit, site := site, entry := entry, args := args, parent := parent, top := top,
    blk := blk, launch := launch, state := state, ordv := false, old := false, newt := newt, cursor := label + 1, rd := [],
    wr := [], kids := [], nrd := [], prior := [], nkids := [], lastMatch := 0, rerun := false, squashBy := none,
    win := false, prio := prio, fresh := false, late := false, norec := false, born := false }

/-- A task added to a trace: its record index (M: a serial number; placement is not architectural, R145). -/
def addTT (tr : Trace) (k : TTask) : Trace × Nat :=
  ({ tr with serial := tr.serial + 1, tasks := mput tr.tasks (tr.serial + 1) k }, tr.serial + 1)

/-- A task added with its record. Where the record cannot be written the trace is PARTIAL from its label; there, and at or above
PLABEL, it has none (R131). `on` says whether its parent is recorded. -/
def addRec (tr : Trace) (on : Bool) (k : TTask) : Trace × Nat :=
  let (tr1, r) := addTT tr k
  let bare := modTT tr1 r (fun x => { x with norec := true })
  if !on || !recOn tr k then (bare, r)
  else if nrecOf tr1 < nusedRaw tr1 then (markPartial bare k.label, r)
  else (tr1, r)

/-! ### What the Eventide still has to be told -/

def evOf (h : Nat) : TrEvent → Bool
  | .read k _ _ => k == h
  | .write k _ _ _ => k == h
def evTask : TrEvent → Nat
  | .read _ r _ => r
  | .write _ r _ _ => r

/-- The granules that a running task has written, with their prior values, and those that it has read, what is on its way
to the Eventide included. -/
def wroteNow (q : List TrEvent) (r : Nat) (k : TTask) : List WRec :=
  q.foldl (fun l e => match e with
    | .write _ r1 g old => if r1 == r && !l.any (fun w => w.gran == g) then l ++ [⟨g, old⟩] else l
    | _ => l) k.prior
def readNow (q : List TrEvent) (r : Nat) (k : TTask) : List Nat :=
  k.nrd ++ q.filterMap (fun e => match e with
    | .read _ r1 g => if r1 == r then some g else none
    | _ => none)

/-! ### Squash, discard, commit as changes of the trace -/

/-- A change of a trace: the new trace, granules to write back in order, tasks to end. -/
structure TrAct where
  tr : Trace
  undo : List WRec
  kill : List Nat
  deriving DecidableEq, Repr

/-- The children that the re-execution in progress has created, with their subtrees. -/
def newSub (tr : Trace) (r : Nat) : List Nat :=
  match mget tr.tasks r with
  | none => []
  | some k => (k.nkids.filter (fun c => (mget tr.tasks c).any (fun x => x.born))).flatMap (subOf tr)

def getTT (tr : Trace) (rs : List Nat) : List (Nat × TTask) :=
  rs.filterMap (fun r => (mget tr.tasks r).map (fun k => (r, k)))

/-- A set of members to be squashed, closed under "has read what a member of it wrote" (R136). -/
def squashClose : Nat → Trace → List TrEvent → List Nat → List Nat
  | 0, _, _, rs => rs
  | n + 1, tr, q, rs =>
    let all := (rs ++ rs.flatMap (newSub tr)).dedup
    let more := tr.tasks.filter (fun p => p.2.live && !all.contains p.1 && (getTT tr all).any (fun m =>
      decide (m.2.label < p.2.label) && (wroteNow q m.1 m.2).any (fun w => (readNow q p.1 p.2).contains w.gran)))
    if more.isEmpty then rs else squashClose n tr q (rs ++ more.map (·.1))

/-- R136 for a set of members; `by_` is the task that they restart after. -/
def squash (q : List TrEvent) (rs : List Nat) (by_ : Option Nat) (a : TrAct) : TrAct :=
  let live := rs.filter (fun r => (mget a.tr.tasks r).any TTask.live)
  if live.isEmpty then a
  else
    let set := squashClose (a.tr.tasks.length + 1) a.tr q live
    let gone := (set.flatMap (newSub a.tr)).dedup
    let keep := set.filter (fun r => !gone.contains r)
    let order := (sortLabel (getTT a.tr (keep ++ gone))).reverse
    let undo := order.flatMap (fun p => (wroteNow q p.1 p.2).reverse)
    let tr1 := keep.foldl (fun tr r =>
      match mget tr.tasks r with
      | none => tr
      | some k =>
        let tr1 := k.nkids.foldl (fun tr c =>
          let spl := (mget tr.tasks c).any (fun x => x.state == 6)
          modTT { tr with cspliced := tr.cspliced - spl.toNat } c (fun x =>
            { x with old := true, state := if x.state = 6 then 1 else x.state })) tr
        modTT tr1 r (fun x => { x with state := 2, nrd := [], prior := [], nkids := [],
                                       squashBy := if rs.contains r then by_ else live.head? })) a.tr
    let tr2 := { tr1 with tasks := tr1.tasks.filter (fun p => !gone.contains p.1), cdiscard := tr1.cdiscard + gone.length }
    { tr := tr2, undo := a.undo ++ undo, kill := a.kill ++ (keep ++ gone) }

/-- The granule changes under its readers: CLEAN and SPLICED ones become STALE, RUNNING and ENDED ones are squashed (R132, R136,
R140); through a modification a RECORDING one will become STALE too (R141). -/
def touchReaders (modified : Bool) (q : List TrEvent) (g : Nat) (p : TTask → Bool) (a : TrAct) : TrAct :=
  let tr1 := { a.tr with tasks := a.tr.tasks.map (fun x =>
    if x.2.rd.contains g && p x.2 then
      (x.1, if x.2.state = 1 ∨ x.2.state = 6 then { x.2 with state := 2 }
            else if x.2.state = 0 && modified then { x.2 with late := true } else x.2)
    else x) }
  let hit := (tr1.tasks.filter (fun x => x.2.live && p x.2 && (readNow q x.1 x.2).contains g)).map (·.1)
  squash q hit none { a with tr := tr1 }

/-- TASK_DISCARD (R139) of a task with its subtree. -/
def discard (q : List TrEvent) (r : Nat) (a : TrAct) : TrAct :=
  let set := subOf a.tr r
  let order := (sortLabel (getTT a.tr set)).reverse
  let undo := order.flatMap (fun p => (if p.2.live then (wroteNow q p.1 p.2).reverse else []) ++ p.2.wr.reverse)
  let tr1 := { a.tr with tasks := a.tr.tasks.filter (fun p => !set.contains p.1), cdiscard := a.tr.cdiscard + set.length }
  ((undo.map (·.gran)).dedup).foldl (fun a g => touchReaders false q g (fun _ => true) a)
    { tr := tr1, undo := a.undo ++ undo, kill := a.kill ++ set }

/-- R137: the commit of an ENDED task; `now` gives the contents of a granule. -/
def commitTask (q : List TrEvent) (now : Nat → List Byte) (r : Nat) (tr : Trace) : TrAct :=
  match mget tr.tasks r with
  | none => { tr := tr, undo := [], kill := [] }
  | some k =>
    -- the read set
    let tr1 := k.nrd.foldl (fun tr g =>
      match writerOf tr g with
      | some (w, x) => if w != r && decide (k.label < x.label) then violate tr r x.label g 2 else tr
      | none => tr) (modTT tr r (fun x => { x with rd := k.nrd, nrd := [] }))
    -- the undo of what it did not write this time
    let gone := k.wr.filter (fun w => !k.prior.any (fun p => p.gran == w.gran))
    let a2 := gone.foldl (fun a w => touchReaders false q w.gran (fun x => x.label != k.label) a)
      { tr := modTT tr1 r (fun x => { x with wr := x.wr.filter (fun w => !gone.any (fun u => u.gran == w.gran)) }),
        undo := gone.reverse, kill := [] }
    -- the change cut-off
    let a3 := k.prior.foldl (fun a p =>
      if now p.gran = p.old then a
      else { a with tr := { a.tr with tasks := a.tr.tasks.map (fun x =>
        if x.2.rd.contains p.gran && decide (k.label < x.2.label) && (x.2.state == 1 || x.2.state == 6) then
          (x.1, { x.2 with state := 2 }) else x) } }) a2
    -- the write set
    let tr4 := k.prior.foldl (fun tr p =>
      if k.wr.any (fun w => w.gran == p.gran) then tr
      else
        let tr1 := match (readersOf tr p.gran).find? (fun x => decide (x.2.label < k.label)) with
          | some (q, _) => violate tr q k.label p.gran 2
          | none => tr
        match writerOf tr1 p.gran with
        | some (w, x) => if w != r then violate tr1 r x.label p.gran 1 else tr1
        | none => tr1) a3.tr
    let wr := k.prior.map (fun p => (k.wr.find? (fun w => w.gran == p.gran)).getD p)
    let tr5 := modTT tr4 r (fun x => { x with wr := wr, prior := [] })
    -- the end of the re-execution
    let left := kidsAfter tr5 k
    let a6 := left.foldl (fun a c => discard q c a) { a3 with tr := tr5 }
    let tr7 := k.nkids.foldl (fun tr c => modTT tr c (fun x =>
      { x with born := false, state := if x.state = 6 then 1 else x.state })) a6.tr
    { a6 with tr := modTT tr7 r (fun x => { x with kids := k.nkids, nkids := [], state := 1, win := false, old := false,
                                                   squashBy := none }) }

/-! ### Recording (R127, R128, R130) -/

/-- A read or a first write as it reaches the Eventide. -/
def recordEvent (q : List TrEvent) (e : TrEvent) (tr : Trace) : TrAct :=
  let same : TrAct := { tr := tr, undo := [], kill := [] }
  match e with
  | .read _ r g =>
    match mget tr.tasks r with
    | none => same
    | some k =>
      if !recOn tr k then same
      else if k.live then
        if k.prior.any (fun w => w.gran == g) || k.nrd.contains g then same
        else { same with tr := modTT tr r (fun x => { x with nrd := x.nrd ++ [g] }) }
      else if k.wr.any (fun w => w.gran == g) || k.rd.contains g then same
      else
        let tr1 := modTT tr r (fun x => { x with rd := x.rd ++ [g] })
        { same with tr := match writerOf tr g with
            | some (w, x) => if w != r && decide (k.label < x.label) then violate tr1 r x.label g 2 else tr1
            | none => tr1 }
  | .write _ r g old =>
    match mget tr.tasks r with
    | none => same
    | some k =>
      if k.live then
        if k.prior.any (fun w => w.gran == g) then same
        else
          let tr1 := modTT tr r (fun x => { x with prior := x.prior ++ [⟨g, old⟩] })
          let tr2 := if k.nrd.contains g then violate tr1 r k.label g 4 else tr1
          let hit := (tr2.tasks.filter (fun p =>
            p.2.live && p.1 != r && decide (k.label < p.2.label) && p.2.nrd.contains g)).map (·.1)
          squash q hit (some r) { same with tr := tr2 }
      else if !recOn tr k || k.wr.any (fun w => w.gran == g) then same
      else
        let first := (writerOf tr g)
        let undo := (first.bind (fun p => (p.2.wr.find? (fun w => w.gran == g)).map (·.old))).getD old
        let tr1 := modTT tr r (fun x => { x with wr := x.wr ++ [⟨g, undo⟩] })
        let tr2 := match first with
          | some (_, x) => violate tr1 r x.label g 1
          | none => tr1
        let tr3 := if k.rd.contains g then violate tr2 r k.label g 4 else tr2
        { same with tr := (readersOf tr g).foldl (fun tr p =>
            if p.1 == r then tr else violate tr p.1 k.label g (if p.2.label < k.label then 2 else 3)) tr3 }

/-- A modification of a granule that reaches the trace (R132, R136). -/
def modifyGran (q : List TrEvent) (g : Nat) (tr : Trace) : TrAct :=
  let cell := (tr.tasks.find? (fun p => p.2.wr.any (fun w => w.gran == g) || p.2.prior.any (fun w => w.gran == g))).map (·.1)
  let tr1 := match cell with
    | some r => violate tr r 0 g 5
    | none => tr
  touchReaders true q g (fun _ => true) { tr := tr1, undo := [], kill := [] }

/-! ### The region's records (R126) -/

def headerRec (tr : Trace) : Nat :=
  0x10 + 2 ^ 12 * tstateNow tr + 2 ^ 15 * tr.part.isSome.toNat + 2 ^ 16 * tr.eventide + 2 ^ 24 * min tr.viol.length 255 +
  2 ^ 244 * tr.job + 2 ^ 256 * (tr.cnew % 2 ^ 24) + 2 ^ 280 * (tr.cdiscard % 2 ^ 24) + 2 ^ 304 * (tr.cspliced % 2 ^ 24) +
  2 ^ 328 * (tr.creexec % 2 ^ 24) + 2 ^ 352 * (tr.tasks.filter (fun p => p.2.state == 2)).length +
  2 ^ 376 * (tr.ntop % 2 ^ 24) + 2 ^ 400 * nusedOf tr + 2 ^ 424 * nrecOf tr + 2 ^ 448 * tr.part.getD 0

/-- The record index of each task: records stand in task order after the header. -/
def recIndex (tr : Trace) : Map Nat :=
  (tr.tasks.foldl (fun (acc : Nat × Map Nat) p =>
    (acc.1 + taskRecs tr p.2, if p.2.norec then acc.2 else acc.2 ++ [(p.1, acc.1)])) (1, [])).2

/-- Records needed for the sets of a task: reads, writes, children. -/
def readCount (l : List Nat) : Nat := ceilDiv l.length 6
def childCount (l : List Nat) : Nat := ceilDiv l.length 12

def taskRec (tr : Trace) (ix : Map Nat) (r : Nat) (k : TTask) : Nat :=
  let at_ := mgetD 0 ix r
  let nr := readCount k.rd
  let nw := k.wr.length
  0x01 + 2 ^ 8 * k.state + 2 ^ 12 * k.newt.toNat + 2 ^ 13 * k.old.toNat + 2 ^ 14 * k.ordv.toNat + 2 ^ 15 * k.top.toNat +
  2 ^ 22 * (if k.top then k.blk else 0) + 2 ^ 46 * (if (listed tr k.kids).isEmpty then 0 else at_ + 1 + nr + nw) +
  2 ^ 70 * (if nw = 0 then 0 else at_ + 1 + nr) + 2 ^ 94 * (if nr = 0 then 0 else at_ + 1) +
  2 ^ 118 * mgetD 0 ix k.parent + 2 ^ 142 * (k.args.getD 0 0).toNat + 2 ^ 174 * (k.args.getD 1 0).toNat +
  2 ^ 206 * (k.args.getD 2 0).toNat + 2 ^ 238 * (k.args.getD 3 0).toNat + 2 ^ 270 * k.entry.toNat + 2 ^ 327 * k.site.toNat +
  2 ^ 384 * k.limit + 2 ^ 448 * k.label

/-- NEXT of part i of n that stand from an index. -/
def nextOf (at_ i n : Nat) : Nat := if i + 1 < n then at_ + i + 1 else 0

def readRecs (label : Nat) (rd : List Nat) (at_ : Nat) : List Nat :=
  (upTo (readCount rd)).map (fun i =>
    let gs := (rd.drop (6 * i)).take 6
    0x02 + 2 ^ 8 * gs.length + 2 ^ 40 * nextOf at_ i (readCount rd) +
    (gs.zipIdx.map (fun p => 2 ^ (384 - 64 * p.2) * p.1)).sum + 2 ^ 448 * label)

/-- Write records (KIND 3) or prior records (KIND 5) of Table 4. -/
def valueRecs (kind label : Nat) (ws : List WRec) (at_ : Nat) : List Nat :=
  ws.zipIdx.map (fun p => kind + 2 ^ 40 * nextOf at_ p.2 ws.length + 2 ^ 128 * p.1.gran + 2 ^ 192 * label +
    2 ^ 256 * leNat p.1.old)

def childRecs (ix : Map Nat) (label : Nat) (kids : List Nat) (at_ : Nat) : List Nat :=
  (upTo (childCount kids)).map (fun i =>
    let cs := (kids.drop (12 * i)).take 12
    0x04 + 2 ^ 8 * cs.length + 2 ^ 40 * nextOf at_ i (childCount kids) +
    (cs.zipIdx.map (fun p => 2 ^ (416 - 32 * p.2) * mgetD 0 ix p.1)).sum + 2 ^ 448 * label)

/-- The records of a task's sets that stand from an index. -/
def setRecs (ix : Map Nat) (label at_ : Nat) (rd : List Nat) (wr prior : List WRec) (kids : List Nat) : List Nat :=
  let a1 := at_ + readCount rd
  let a2 := a1 + wr.length
  let a3 := a2 + prior.length
  readRecs label rd at_ ++ valueRecs 0x03 label wr a1 ++ valueRecs 0x05 label prior a2 ++ childRecs ix label kids a3

/-- The records of one task, in their places: itself, its recorded sets, and what its re-execution has recorded so far, with the
undo value that each granule it has written keeps or takes (R137). -/
def recsOf (tr : Trace) (ix : Map Nat) (r : Nat) (k : TTask) : List Nat :=
  if k.norec then []
  else
    let at_ := mgetD 0 ix r
    let sets := setRecs ix k.label (at_ + 1) k.rd k.wr [] (listed tr k.kids)
    let wr := k.prior.map (fun p => (k.wr.find? (fun w => w.gran == p.gran)).getD p)
    taskRec tr ix r k :: (sets ++ setRecs ix k.label (at_ + 1 + sets.length) k.nrd wr k.prior (listed tr k.nkids))

def violRec (v : Nat × Nat × Nat × Nat) : Nat := 0x06 + 2 ^ 8 * v.2.2.2 + 2 ^ 320 * v.2.2.1 + 2 ^ 384 * v.2.1 + 2 ^ 448 * v.1

/-- Every record of a trace. -/
def allRecs (tr : Trace) : List Nat :=
  (headerRec tr :: (tr.tasks.flatMap (fun p => recsOf tr (recIndex tr) p.1 p.2) ++ tr.viol.map violRec)).take (nrecOf tr)

/-- The label of the task whose record does not reach the region because of a page: the lowest one with a record there (R131). -/
def failLabel (tr : Trace) (va : Nat) : Nat :=
  let lo := (va - tr.base) / 2 ^ 12 * 64
  let meets := fun (p : Nat × TTask) => match mget (recIndex tr) p.1 with
    | some i => rangesMeet i (taskRecs tr p.2) lo 64
    | none => false
  let on := (byLabel tr).filter (fun p => !p.2.norec)
  (((on.find? meets).orElse (fun _ => on.head?)).map (fun p => p.2.label)).getD 0

/-! ### Memory of the Eventide -/

/-- How an action of the Eventide on memory stands. -/
inductive Plan where
  | ok (s : State)
  /-- it waits: accesses on their way, or the service of a fault -/
  | wait (s : State)
  | bad (s : State) (cause : Byte) (va : Nat)
  deriving DecidableEq, Repr

/-- The translating root of a trace's region and granules. -/
def trRoot (tr : Trace) : Nat := (tr.prop.map (·.root)).getD tr.root

def wantWrite : Want := { r := false, w := true, x := false, user := false }
def wantRead : Want := { r := true, w := false, x := false, user := false }

/-- One address made reachable for a write; needs of pages are raised for the trace. -/
def reachFor (s : State) (t h root va : Nat) : Plan :=
  if hasNeed s (.eventide h) then .wait s
  else match reach 8 s t root va wantWrite with
    | .ok s1 _ _ => .ok s1
    | .wait s1 => .wait s1
    | .need s1 v => .wait (addNeed s1 t (.eventide h) v true va 6)
    | .bad s1 cause => .bad s1 cause va

def reachAll (s : State) (t h root : Nat) (vas : List Nat) : Plan :=
  vas.foldl (fun p va => match p with
    | .ok s1 => reachFor s1 t h root va
    | q => q) (.ok s)

/-- Bytes put at the home ports, one line at most, with no modification (R132). -/
def poke (s : State) (t key pa : Nat) (bs : List Byte) : State :=
  applyAtHome s (homeDie s pa) key t (pa / lineBytes) (bytesAt pa bs) (lineStamp s (pa / lineBytes)) []

def pokeVa (s : State) (t root va : Nat) (bs : List Byte) : State :=
  match reach 8 s t root va wantWrite with
  | .ok s1 pa x => poke s1 t x.key pa bs
  | _ => s

/-- Every write in flight applied, in an order that causality allows. -/
def drainWrites : Nat → State → State
  | 0, s => s
  | n + 1, s =>
    match s.wq.find? (applicable s) with
    | none => s
    | some w => drainWrites n (applyWrite s w)

/-- A running task of a trace ends where it stands: what it has written is at home, nothing of it stays. -/
def killTask (s : State) (t h r : Nat) : State :=
  let s1 := modTenant s t (fun x => { x with spawns := x.spawns.filter (fun p => p.traced != some (h, r)) })
  match s1.tasks.find? (fun p => p.2.tenant == t && p.2.traced == some (h, r)) with
  | none => s1
  | some (tid, k) =>
    let s2 := writeBackAll s1 k.core
    endTask (drainWrites s2.wq.length s2) tid false

/-- The contents of a granule at home. -/
def granNow (s : State) (t root g : Nat) : List Byte :=
  match access s .fresh t root (32 * g) wantRead with
  | (s1, .ok pa x) => readPas s1 x.key pa 32
  | _ => []

/-- A change of a trace carried out: tasks end, granules are written back, the trace takes its new value. -/
def applyAct (s : State) (t h : Nat) (a : TrAct) : Plan :=
  let root := trRoot a.tr
  match reachAll s t h root (a.undo.map (fun w => 32 * w.gran)) with
  | .ok s1 =>
    let s2 := a.kill.foldl (fun s r => killTask s t h r) s1
    let s3 := a.undo.foldl (fun s w => pokeVa s t root (32 * w.gran) w.old) s2
    let s4 := modTenant s3 t (fun x => { x with trq := x.trq.filter (fun e => !(evOf h e && a.kill.contains (evTask e))) })
    .ok (setTr s4 t h a.tr)
  | q => q

/-- A report record with SRC 6 (R131). -/
def reportEventide (s : State) (t : Nat) (tr : Trace) (cause : Byte) (va : Nat) : State :=
  faultReport s t { job := tr.job, core := 144 * tr.eventide, g := 0, src := 6, cause := cause, va := va, wr := true, rd := false }

/-- Room for the records that a change adds: the record area, and the page of the region (R131). Otherwise the trace is
PARTIAL from the task's label, and the change is not made. -/
def withRoom (s : State) (t h r : Nat) (tr : Trace) (a : TrAct) : Plan :=
  let n := nusedRaw a.tr
  if n ≤ nusedRaw tr then applyAct s t h a
  else if nrecOf tr < n then .ok (setTr s t h (markPartial tr (labelOf tr r)))
  else match reachFor s t h (trRoot tr) (tr.base + 64 * (n - 1)) with
    | .ok s1 => applyAct s1 t h a
    | .bad s1 cause va => .ok (setTr (reportEventide s1 t tr cause va) t h (markPartial tr (labelOf tr r)))
    | q => q

/-- Records written into the region; what freed records hold is undefined (log entry 9). -/
def writeTrace (s : State) (t h : Nat) : Plan :=
  match trOf s t h with
  | none => .ok s
  | some tr =>
    let recs := allRecs tr
    let n := max recs.length tr.wrote
    match reachAll s t h (trRoot tr) ((upTo (ceilDiv n 64)).map (fun i => tr.base + 2 ^ 12 * i)) with
    | .ok s1 =>
      let s2 := recs.zipIdx.foldl (fun s p => pokeVa s t (trRoot tr) (tr.base + 64 * p.2) (leBytes 64 p.1)) s1
      let s3 := (upTo (tr.wrote - recs.length)).foldl (fun s i =>
        (upTo 16).foldl (fun s j =>
          let (s1, w) := takeFree s
          pokeVa s1 t (trRoot tr) (tr.base + 64 * (recs.length + i) + 4 * j) (leBytes 4 w.toNat)) s) s2
      .ok (modTenant s3 t (fun x => { x with traces := mmod x.traces h (fun tr =>
        { tr with dirty := false, wrote := recs.length }) }))
    | q => q

/-- Records written; a fault that cannot be served makes the trace PARTIAL (R131). -/
def writeTraceOr (s : State) (t h : Nat) : Plan :=
  match writeTrace s t h with
  | .bad s1 cause va =>
    match trOf s1 t h with
    | none => .ok s1
    | some tr =>
      let tr1 := markPartial tr (failLabel tr va)
      .ok (modTenant (reportEventide s1 t tr cause va) t (fun x =>
        { x with traces := mput x.traces h { tr1 with dirty := false } }))
  | q => q

/-! ### Tasks that belong to a trace -/

/-- A task of the trace is RECORDING: it executes or waits in the spawn store, outside any propagation (R320, R141). -/
def recording (s : State) (t h : Nat) : Bool :=
  s.tasks.any (fun p => p.2.tenant == t && !p.2.prop && p.2.traced.any (fun x => x.1 == h && x.2 != 0)) ||
  (tenant s t).spawns.any (fun p => !p.prop && p.traced.any (fun x => x.1 == h && x.2 != 0)) ||
  (tenant s t).trq.any (evOf h)

/-- A member of a window leaves for the spawn store (R135). -/
def launchMember (s : State) (t h r : Nat) : State :=
  match (trOf s t h).bind (fun tr => (mget tr.tasks r).map (fun k => (tr, k))) with
  | none => s
  | some (tr, k) =>
    let s1 := setTr s t h (modTT tr r (fun x => { x with state := 3, win := true, squashBy := none }))
    modTenant s1 t (fun x => { x with spawns := x.spawns ++
      [{ launch := k.launch, blk := k.blk, entry := k.entry, prio := k.prio, args := k.args, org := k.org, traced := some (h, r), prop := true,
         cancelled := false }] })

/-- A member starts (R138): its old children take OLD, its cursor and its new sets are fresh; CREEXEC counts it unless it
is recorded afresh (R143) or runs for the first time. -/
def memberStart (s : State) (t h r : Nat) : State :=
  match (trOf s t h).bind (fun tr => (mget tr.tasks r).map (fun k => (tr, k))) with
  | none => s
  | some (tr, k) =>
    let tr1 := k.kids.foldl (fun tr c => modTT tr c (fun x => { x with old := true })) tr
    let count := !k.fresh && (!k.newt || k.rerun)
    setTr s t h { modTT tr1 r (fun x => { x with state := 4, nrd := [], prior := [], nkids := [], lastMatch := 0,
                                                 cursor := x.label + 1, rerun := true })
                  with creexec := tr.creexec + count.toNat }

/-- A member may start again: the task that squashed it has committed or is gone (R136). -/
def mayRestart (tr : Trace) (k : TTask) : Bool :=
  match k.squashBy with
  | none => true
  | some m => !(mget tr.tasks m).any TTask.busy

/-! ### Spawns of traced tasks (R124, R138) -/

/-- How a traced spawn ends: the child is spliced (1 to the predicate), it is a task of its own already on its way, or the
caller creates it, with its record index. -/
inductive SpawnOut where
  | spliced
  | placed
  | create (r : Nat)
  deriving DecidableEq, Repr

def spawnKey (k : TTask) : VA × Word × Word := (k.site, k.args.getD 0 0, k.args.getD 1 0)

/-- A new child of a traced task. -/
def newChild (tr : Trace) (p : Nat) (k : TTask) (site entry : VA) (args : List Word) (prio : Byte) : Trace × Nat :=
  let (tr1, lab, lim) := labelChild tr p 1
  let c := TTask.new k.org lab lim site entry args p k.blk k.launch (if k.live then 3 else 0) false k.live prio
  let on := (mget tr1.tasks p).any (recOn tr1)
  let (tr2, r) := addRec tr1 on { c with win := k.live, born := k.live, fresh := k.fresh && k.live }
  let tr3 := modTT tr2 p (fun x => if x.live then { x with nkids := x.nkids ++ [r] } else { x with kids := x.kids ++ [r] })
  ({ tr3 with cnew := tr3.cnew + k.live.toNat }, r)

/-- A matched child takes its place: its labels are kept where they lie at or above the cursor. -/
def placeChild (tr : Trace) (p c : Nat) : Trace :=
  match mget tr.tasks p, mget tr.tasks c with
  | some k, some x =>
    let tr1 := modTT (modTT tr c (fun y => { y with old := false })) p (fun y => { y with nkids := y.nkids ++ [c] })
    if k.cursor ≤ x.label then modTT tr1 p (fun y => { y with cursor := x.limit })
    else
      let tr2 := modTT tr1 p (fun y => { y with nkids := k.nkids })
      let (tr3, lab, lim) := labelChild tr2 p (subOf tr c).length
      modTT (spread tr3 c lab lim) p (fun y => { y with nkids := k.nkids ++ [c], cursor := lim })
  | _, _ => tr

/-- The trace's part of a spawn by task p. A spawn key is SITE, ARG0 and ARG1 (R126); where a matched STALE child's ENTRY, ARG2,
ARG3 or priority differ from the new spawn's, the child takes the new ones, which is the model's choice (log entry 76). -/
def traceSpawn (s : State) (t h p : Nat) (site entry : VA) (args : List Word) (prio : Byte) : Plan × SpawnOut :=
  match (trOf s t h).bind (fun tr => (mget tr.tasks p).map (fun k => (tr, k))) with
  | none => (.ok s, .create 0)
  | some (tr, k) =>
    let q := (tenant s t).trq.filter (evOf h)
    let left := kidsAfter tr k
    let key := (site, args.getD 0 0, args.getD 1 0)
    match left.find? (fun c => (mget tr.tasks c).any (fun x => decide (spawnKey x = key))) with
    | none =>
      let (tr1, r) := newChild tr p k site entry args prio
      let s1 := setTr s t h tr1
      if k.live then (.ok (launchMember s1 t h r), .placed) else (.ok s1, .create r)
    | some c =>
      let skip := left.takeWhile (fun d => d != c)
      let a := skip.foldl (fun a d => discard q d a) { tr := tr, undo := [], kill := [] }
      let tr1 := placeChild a.tr p c
      let st := ((mget tr1.tasks c).map (·.state)).getD 0
      let tr2 := modTT tr1 c (fun x =>
        if st = 1 then { x with state := 6 }
        else if st = 2 then { x with prio := prio, entry := entry, args := args, win := true }
        else x)
      let tr3 := { tr2 with cspliced := tr2.cspliced + (st == 1).toNat }
      match applyAct s t h { a with tr := tr3 } with
      | .ok s1 =>
        if st = 1 then (.ok s1, .spliced)
        else if st = 2 ∧ ((mget tr3.tasks c).any (mayRestart tr3)) then (.ok (launchMember s1 t h c), .placed)
        else (.ok s1, .placed)
      | pl => (pl, .placed)

end Sys2Proof.Machine
end

