-- ==== Sys2Proof/Machine/Tasks.lean ====
section
/-! DEFINITION. Task records and counters (R44 to R48, R67, R305 to R311, R316): `enq`, `spawn`, `cancel`, `cntrd`,
`cntwait`, `arena`; forks and the tables that they build (R312 to R315, R393). -/

namespace Sys2Proof.Machine

open Host

/-! ### Task records (R305, R306) -/

def trecOfNum (n : Nat) : TaskRec :=
  { entry := BitVec.ofNat 57 (nb n 455 57),
    args := [lo32 (nb n 320 32), lo32 (nb n 352 32), lo32 (nb n 384 32), lo32 (nb n 416 32)],
    scopew := nb n 256 64, blocks := nb n 232 24, nt := nb n 208 24, it := nb n 184 24, dep1c := nb n 172 12,
    dep1t := nb n 140 32, dep0c := nb n 128 12, dep0t := nb n 96 32, parent := nb n 84 12,
    prio := BitVec.ofNat 8 (nb n 76 8), scratch := nb n 66 10, regs := nb n 61 5, groups := nb n 57 4, accg := nb n 52 5,
    trw := nb n 51 1 == 1, ordered := nb n 50 1 == 1, stream := nb n 49 1 == 1, det := nb n 48 1 == 1, level := nb n 45 3 }

/-- PMODE.MODE of a tenant is SHADOW (R410). -/
def shadowTenant (s : State) (t : Nat) : Bool := nb (csrGet s t 0x050).toNat 0 1 == 1

/-- Per-core totals of register granules, scratchpad KiB and accumulator granules, halved for SHADOW (R67). -/
def halfOf (s : State) (t n : Nat) : Nat := if shadowTenant s t then n / 2 else n

/-- The resources of a record fit on one core (R67, R306). -/
def recFits (s : State) (t : Nat) (r : TaskRec) : Bool :=
  decide (1 ≤ r.regs) && decide (r.regs ≤ halfOf s t 16) && decide ((r.groups + 1) * r.regs ≤ halfOf s t 128) &&
  decide (r.scratch ≤ halfOf s t 512) && decide (r.accg ≤ halfOf s t 16)

/-- A dependence field is in order. -/
def depOk (s : State) (t c thr : Nat) : Bool := c == 0 || ((counter s t c).isSome && decide (1 ≤ thr))

/-- R306: the record breaks its layout rules. -/
def recBad (s : State) (t n : Nat) : Bool :=
  let r := trecOfNum n
  nb n 448 7 != 0 || nb n 0 45 != 0 ||
  (if r.level = 1 then
    nb n 455 2 != 0 || r.blocks == 0 || !recFits s t r || !depOk s t r.dep0c r.dep0t || !depOk s t r.dep1c r.dep1t ||
    (if r.stream then r.nt == 0 || r.it == 0 || decide (2 ^ 32 ≤ r.nt * r.it) else r.nt != 0 || r.it != 0)
   else if 2 ≤ r.level ∧ r.level ≤ 4 then
    nb n 455 57 != 0 || nb n 352 32 != 0 || nb n 96 160 != 0 || nb n 48 36 != 0 || nb n 320 32 == 0 ||
    (r.level != 4 && nb n 384 64 != 0)
   else true)

/-- The parent rule of R306. -/
def parentOk (s : State) (t level parent : Nat) : Bool :=
  if parent = 0 then level != 3
  else match counter s t parent with
    | none => false
    | some c =>
      c.status == .open &&
      (match level with
       | 1 => c.level == 2 || c.level == 3 || c.level == 4
       | 2 => c.level == 3 || c.level == 4
       | 3 => c.level == 4
       | _ => c.level == 4)

/-- The lowest FREE entry (R307). -/
def freeCounter (s : State) (t : Nat) : Option Nat := firstKey (fun i => (counter s t i).isNone) 4095 1

/-- DQCFG (R364): CAP and base priority. -/
def queueCap (s : State) (t q : Nat) : Nat := nb (fregGet s t (0x2000 + 4 * q)).toNat 16 13
def queueBase (s : State) (t q : Nat) : Nat := nb (fregGet s t (0x2000 + 4 * q)).toNat 0 3
def queueOf (s : State) (t q : Nat) : DevQueue := mgetD ⟨[], 0, false, 0⟩ (tenant s t).queues q

/-- A launch put at a queue's tail; the age of one that was empty and has dispatched nothing starts here, and that of one that
has dispatched counts from its last dispatch (R51). -/
def enqueue (s : State) (t q i : Nat) : State :=
  let x := queueOf s t q
  let y := { x with recs := x.recs ++ [i], since := if x.recs.isEmpty && !x.fired then s.cycle else x.since,
                    bump := if !x.recs.isEmpty then x.bump else if x.fired then (s.cycle - x.since) / 850000 else 0 }
  modTenant s t (fun k => { k with queues := mput k.queues q y })

/-- A counter entry at its creation. -/
def Counter.new (level parent target budget scopew : Nat) : Counter :=
  { used := 0, budget := budget, parent := parent, status := .open, level := level, target := target, done := 0,
    scopew := scopew, bad := false, began := false }

/-- What movs and generators of a launch's tasks read (R222, R291). -/
def originOf (s : State) (t launch : Nat) (r : TaskRec) (nblk : Nat) : Origin :=
  let chain := chainOf s t launch
  let word := fun (i : Nat) => ((counter s t i).map (·.scopew)).getD 0
  let jobs := chain.filter (fun i => (counter s t i).any (fun c => c.level == 4))
  { trec := r, nblk := nblk, launchcnt := launch, phasecnt := levelAbove s t launch 3, jobcnt := jobOf s t launch,
    scopes := [word (jobs.getLast?.getD 0), word (jobs.headD 0), word (levelAbove s t launch 3), word launch] }

/-- A launch of a graph under trace adds its tasks as top-level tasks (R125). -/
def addTops (s : State) (t h launch : Nat) (r : TaskRec) : State :=
  match trOf s t h with
  | none => s
  | some tr =>
    let org := originOf s t launch r r.blocks
    let tr1 := (upTo r.blocks).foldl (fun (tr : Trace) b =>
      let (tr1, lab, lim) := labelTop { tr with ntop := tr.ntop + 1 }
      (addRec tr1 true (TTask.new org lab lim 0 r.entry r.args 0 b launch 0 true false r.prio)).1) tr
    setTr s t h tr1

/-- A launch that waited for its trace may start (R319). -/
def freeTrw (s : State) (t launch : Nat) : State :=
  modTenant s t (fun x => { x with launches := mmod x.launches launch (fun l => { l with trec := { l.trec with trw := false } }) })

/-- R307: a record accepted or refused: status and value, and the state. `q` is the queue of a launch. -/
def acceptRec (s : State) (t n q : Nat) : State × Nat × Nat :=
  let r := trecOfNum n
  if recBad s t n then (s, 5, 0)
  else if !parentOk s t r.level r.parent then (s, 4, 0)
  else if r.level = 1 ∧ (63 < q ∨ queueCap s t q = 0) then (s, 3, 0)
  else if r.level = 1 ∧ queueCap s t q ≤ (queueOf s t q).recs.length then (s, 2, 0)
  else match freeCounter s t with
    | none => (s, 1, 0)
    | some i =>
      let target := if r.level = 1 then r.blocks else (r.args.getD 0 0).toNat
      let budget := if r.level = 4 then pair (r.args.getD 2 0) (r.args.getD 3 0) else 0
      let s1 := setCounter s t i (Counter.new r.level r.parent target budget r.scopew)
      if r.level ≠ 1 then (s1, 0, i)
      else
        let l : Launch := { trec := r, ord := s.serial, queue := q, next := 0, strB := none, retired := [], published := [], token := 0,
                            horizon := 0, ends := [], dropped := [], aborted := false }
        let s2 := enqueue (modTenant { s1 with serial := s.serial + 1 } t (fun x =>
          { x with launches := mput x.launches i l })) t q i
        let s3 := match (tenant s2 t).traces.find? (fun p => onGraph p.2 && p.2.target == r.parent && r.parent != 0) with
          | some (h, _) => addTops (freeTrw s2 t i) t h i r
          | none => s2
        (wakeAll (settleDeps s3 t), 0, i)

/-! ### `enq` -/

/-- The release that stands before a handover of package scope (R308, R311, R314): made, or still to wait. -/
def handover (c : Ctx) (s : State) (k : State → Res) : Res :=
  let s1 := relAct s c.task.core .package
  if relReady s1 c .package then k s1 else .wait s1

def execEnq (h : Hdr) (r a : Reg) (off : SrcB) (q : SrcC) (s : State) : Outcome State Fault Refusal :=
  run h off.len (⟨h.u, a, 1⟩ :: (useB h.u off 1 ++ useC h.u q 1)) [⟨true, r, 1⟩]
    (fun c s =>
      let o := c.saddr a off c.lead
      if o % 64 ≠ 0 then .trap s causeMisaligned c.leadSet (o % 2 ^ 32).toNat
      else if o < 0 ∨ (c.task.scratchSize : Int) < o + 64 then .trap s causeBounds c.leadSet (o % 2 ^ 32).toNat
      else if (chunkAt c.task o.toNat).any (fun p => !chunkAllows p.1 p.2 false) then
        .trap s causeChunk c.leadSet (o % 2 ^ 32).toNat
      else if scratchBad c.task o.toNat 64 then .trap s causeData c.leadSet o.toNat
      else handover c s (fun s1 =>
        let (s2, st, v) := acceptRec s1 c.ten (scratchRead c.task o.toNat 64) (c.c q c.lead).toNat
        .ok (c.putScal s2 r (statusWord st v)))) s

/-! ### `spawn` (R311, R124, R138) -/

/-- The cancellation of a task has begun: of its launch, of the task alone, or of the propagation that runs it. A spawn then
creates nothing. -/
def dying (s : State) (tid : Nat) (t : Task) : Bool :=
  s.cancels.any (fun p => p.2.tenant == t.tenant && p.2.tasks.contains tid) ||
  (if t.prop then t.traced.any (fun h => (trOf s t.tenant h.1).any (fun tr => tr.prop.any (·.cancelled)))
   else (counter s t.tenant t.launch).all (fun c => c.status.final))

/-- A child in the spawn store; outside propagations its launch's TARGET grows. -/
def storeChild (s : State) (t : Task) (entry : VA) (args : List Word) (prio : Byte) (traced : Option (Nat × Nat)) : State :=
  let s1 := modTenant s t.tenant (fun x => { x with spawns := x.spawns ++
    [{ launch := t.launch, blk := t.blk, entry := entry, prio := prio, args := args, org := t.org, traced := traced,
       prop := t.prop, cancelled := false }] })
  if t.prop then s1
  else match counter s1 t.tenant t.launch with
    | none => s1
    | some k => setCounter s1 t.tenant t.launch { k with target := k.target + 1 }

def execSpawn (h : Hdr) (p : BitVec 3) (a : Reg) (off : Word) (prio : Byte) (s : State) : Outcome State Fault Refusal :=
  run h 12 [⟨h.u, a, 4⟩] []
    (fun c s =>
      let answer := fun (s : State) (b : Bool) =>
        Res.ok (modGroup s c.tid c.g (fun x => x.setPred p.toNat c.act (if b then 0xFFFFFFFF else 0)))
      let args := (upTo 4).map (fun k => c.ra a k c.lead)
      let entry := c.pc + off.signExtend 57
      if dying s c.tid c.task then answer s false
      else if 65536 ≤ (tenant s c.ten).spawns.length then .wait s
      else handover c s (fun s1 =>
        match c.task.traced with
        | none => answer (wakeAll (storeChild s1 c.task entry args prio none)) false
        | some (hd, r) =>
          if (tenant s1 c.ten).trq.any (evOf hd) then .wait s1
          else match traceSpawn s1 c.ten hd r c.pc entry args prio with
            | (.wait s2, _) => .wait s2
            | (.bad s2 _ _, _) => .wait s2
            | (.ok s2, .spliced) => answer (wakeAll s2) true
            | (.ok s2, .placed) => answer (wakeAll s2) false
            | (.ok s2, .create k) => answer (wakeAll (storeChild s2 c.task entry args prio (some (hd, k)))) false)) s

/-! ### Counters (R309, R310) -/

/-- A trace vanishes (R142, R320, R376): its propagation's tasks end, its tokens read CANCELLED (a reset's
are never written), its tasks are traced no more. -/
def destroyTrace (s : State) (t h : Nat) : State :=
  match trOf s t h with
  | none => s
  | some tr =>
    let s1 : State := ((s.tasks.filter (fun p => p.2.tenant == t && p.2.prop && p.2.traced.any (fun x => x.1 == h))).map (·.1)).foldl
      (fun (s : State) tid => endTask s tid false) s
    let s2 : State := match (if (tenant s t).resetting then none else tr.prop) with
      | none => s1
      | some p => ((p.tid, p.g, p.tok) :: p.others).foldl (fun (s : State) (k : Nat × Nat × Nat) =>
          writeToken s k.1 k.2.1 k.2.2 (statusWord 0x0D tr.creexec)) s1
    let ts := s2.tasks.map (fun p =>
        (p.1, if p.2.tenant == t && p.2.traced.any (fun x => x.1 == h) then { p.2 with traced := none } else p.2))
    let s3 : State := { s2 with
      tasks := ts
      needs := (dropNeeds { s2 with needs := s2.needs.filter (fun p => p.2.tenant == t) } (fun w => w == .eventide h)).needs.foldl
        (fun m p => mput m p.1 p.2) (s2.needs.filter (fun p => p.2.tenant != t)) }
    modTenant s3 t (fun x => { x with
      traces := mdel x.traces h
      trq := x.trq.filter (fun e => !evOf h e)
      spawns := (x.spawns.filter (fun p => !(p.prop && p.traced.any (fun y => y.1 == h)))).map (fun p =>
        if p.traced.any (fun y => y.1 == h) then { p with traced := none } else p) })

/-- The entries of one granule of the arena window in a tree, cleared where its word 1 satisfies p. -/
def clearGranule (s : State) (t root va : Nat) (p : Nat → Bool) : State :=
  let clear := fun (a w1 : Nat) => if p w1 then (leafSlots a 1).foldl (fun s b => tablePut s t b 0 0) s else s
  match walk s t root va with
  | .leaf x => if nb x.w0 2 2 = 1 then clear x.leaf x.w1 else s
  | .absent npk _ w1 a _ => if npk = 1 ∨ npk = 2 then clear a w1 else s
  | _ => s

/-- Entries that still carry generation v of arena j are cleared in every tree of the tenant, so that GEN_j may return to v. -/
def clearCarriers (s : State) (t j v : Nat) : State :=
  ((tenantRoot s t :: (tenant s t).roots.map (·.2)).dedup).foldl (fun s root =>
    (upTo (nb (csrGet s t 0x04A).toNat 0 24)).foldl (fun s g =>
      clearGranule s t root (csrAddr s t 0x048 16 + 2 ^ 16 * g) (fun w1 => nb w1 36 12 == j && nb w1 48 16 == v)) s) s

/-- The new generation is broadcast: the cores on which the tenant's tasks stand receive it later (R396). -/
def broadcastGen (s : State) (t j old : Nat) : State :=
  ((s.tasks.filter (fun p => p.2.tenant == t && !p.2.saved)).map (fun p => p.2.core)).dedup.foldl (fun s c =>
    let k := core s c
    setCore s c { k with lag := k.lag ++ [{ tenant := t, job := j, old := old, at_ := s.cycle }] }) s

/-- The arenas of a job spliced to the store, and its generation advanced (R396). -/
def spliceArena (s : State) (t j : Nat) : State :=
  let old := arenaGen s t j
  let new := (old + 1) % 2 ^ 16
  let s1 := modTenant (clearCarriers s t j new) t (fun x => { x with
    arenas := x.arenas.filter (fun p => p.2.1 != j)
    frames := x.frames ++ (x.arenaFrames.filter (fun p => p.1 == j)).map (fun p => p.2 / 2 ^ 16)
    arenaFrames := x.arenaFrames.filter (fun p => p.1 != j)
    gen := mputD 0 x.gen j new })
  broadcastGen s1 t j old

/-- What a job's end takes with it (R309, R316): its arenas and the traces that its tasks opened. -/
def dropJob (s : State) (t j : Nat) : State :=
  spliceArena (((tenant s t).traces.filter (fun p => p.2.job == j)).foldl (fun s p => destroyTrace s t p.1) s) t j

/-- `.free` of an entry in a final status, with its subtree. -/
def freeEntry (s : State) (t i : Nat) : State :=
  let set := subtree s t i
  let jobs := set.filter (fun j => (counter s t j).any (fun c => c.level == 4))
  let s1 := jobs.foldl (fun s j => dropJob s t j) s
  let s2 := set.foldl (fun s j => unqueue s t j) s1
  modTenant s2 t (fun x => { x with
    ctr := x.ctr.filter (fun p => !set.contains p.1)
    traces := x.traces.map (fun p => (p.1, if set.contains p.2.target then { p.2 with target := 0 } else p.2))
    launches := x.launches.filter (fun p => !set.contains p.1)
    roots := x.roots.filter (fun p => !set.contains p.1) })

/-- A reclamation of an entry, or of one below it, is still to end: its `.free` waits (log entry 71). -/
def reclaiming (s : State) (t i : Nat) : Bool :=
  s.cancels.any (fun p => p.2.tenant == t && p.2.status == 0 && (subtree s t i).any p.2.entries.contains)

/-- One field of an entry (R309); 0 for an index that names none. -/
def counterField (s : State) (t i : Nat) (f : CField) : Word :=
  match (if i < 4096 then counter s t i else none) with
  | none => 0
  | some c =>
    match f with
    | .done => BitVec.ofNat 32 c.done
    | .target => BitVec.ofNat 32 c.target
    | .stat => BitVec.ofNat 32 (c.status.code + 2 ^ 4 * c.level + 2 ^ 16 * c.parent)
    | .usedlo => lo32 c.used
    | .usedhi => hi32 c.used

def execCntrd (h : Hdr) (d a : Reg) (field : CField) (free : Bool) (s : State) : Outcome State Fault Refusal :=
  run h 8 [⟨h.u, a, 1⟩] [⟨h.u, d, 1⟩]
    (fun c s =>
      let i := (c.ra a 0 c.lead).toNat
      if !acqReady c then .wait s
      else
        let s1 := acqAct (c.putAll s d [counterField s c.ten i field]) c.task.core .package
        if free && decide (i < 4096) && (counter s c.ten i).any (fun k => k.status.final) then
          if reclaiming s c.ten i then .wait s else .ok (wakeAll (freeEntry s1 c.ten i))
        else .ok s1) s

/-- Whether a `cntwait` ends now, and its predicate (R310). -/
def cntHolds (s : State) (t i thr : Nat) : Option Bool :=
  match (if i < 4096 then counter s t i else none) with
  | none => some false
  | some c => if thr ≤ c.done then some true else if c.status.final then some false else none

def execCntwait (h : Hdr) (p : BitVec 3) (a : Reg) (b : SrcB) (s : State) : Outcome State Fault Refusal :=
  run h b.len (⟨h.u, a, 1⟩ :: useB h.u b 1) []
    (fun c s =>
      let i := (c.ra a 0 c.lead).toNat
      let thr := (c.b b c.lead).toNat
      if !acqReady c then .wait s
      else match cntHolds s c.ten i thr with
        | none => .block s (.cnt p c.act c.h.u i thr)
        | some v =>
          let s1 := modGroup s c.tid c.g (fun x => x.setPred p.toNat c.act (if v then 0xFFFFFFFF else 0))
          .ok (if v then acqAct s1 c.task.core .package else s1)) s

/-! ### `cancel` (R316, R317) -/

def levelCode : Level → Nat
  | .task => 0
  | .launch => 1
  | .graph => 2
  | .phase => 3
  | .job => 4

/-- A cancellation whose token only waits: for the end of a reclamation of the same entries. -/
def startWait (s : State) (t : Nat) (tok : Nat × Nat × Nat) (entries : List Nat) (status : Nat) : State :=
  { s with serial := s.serial + 1,
           cancels := mput s.cancels s.serial { tenant := t, tok := some tok, entries := entries, tasks := [], value := 0,
                                                status := status } }

/-- A task of a launch that has not started and is not dropped yet. -/
def notStarted (l : Launch) (b : Nat) : Bool :=
  decide (l.next ≤ b) && decide (b < (l.strB.getD l.trec.blocks)) && !l.dropped.contains b && !l.aborted

/-- `cancel.task`: the resident task, or the block that has not started (R316). -/
def cancelTask (s : State) (t i b : Nat) (tok : Nat × Nat × Nat) : State :=
  let s1 := { s with serial := s.serial + 1 }
  let op : CancelOp := { tenant := t, tok := some tok, entries := [], tasks := [], value := 1, status := 0 }
  match s.tasks.find? (fun p => p.2.tenant == t && p.2.launch == i && p.2.blk == b && !p.2.spawned && !p.2.prop) with
  | some (tid, _) => { s1 with cancels := mput s1.cancels s.serial { op with tasks := [tid] } }
  | none =>
    match (mget (tenant s t).launches i) with
    | none => startWait s t tok [] 6
    | some l =>
      if !notStarted l b then startWait s t tok [] 6
      else
        let s2 := modTenant s1 t (fun x => { x with launches := mmod x.launches i (fun l =>
          { l with dropped := insertNat b l.dropped }) })
        countTaskEnd { s2 with cancels := mput s2.cancels s.serial op } t i b false

def execCancel (h : Hdr) (t a : Reg) (level : Level) (b : Option SrcB) (s : State) : Outcome State Fault Refusal :=
  run h ((b.map SrcB.len).getD 8) (⟨h.u, a, 1⟩ :: ((b.map (fun x => useB h.u x 1)).getD [])) []
    (fun c s =>
      if tokenTaken c t then c.refuse s causeToken
      else
        let i := (c.ra a 0 c.lead).toNat
        let tok := (c.tid, c.g, scalIdx t)
        let s1 := pendToken s c.tid c.g (scalIdx t)
        match (if i < 4096 then counter s1 c.ten i else none) with
        | none => .ok (startWait s1 c.ten tok [] 6)
        | some k =>
          if k.level ≠ (if level = .task then 1 else levelCode level) then .ok (startWait s1 c.ten tok [] 6)
          else if level = .task then .ok (cancelTask s1 c.ten i ((b.map (fun x => (c.b x c.lead).toNat)).getD 0) tok)
          else if k.status.final then .ok (startWait s1 c.ten tok [i] 7)
          else .ok (startCancel s1 c.ten (subtree s1 c.ten i) .cancelled (some tok))) s

/-! ### `arena` (R315, R395) -/

/-- The lowest free range of n granules of the window that lies clear of the live allocations. -/
def arenaPlace (live : List (Nat × Nat)) (size n : Nat) : Option Nat :=
  let tries := (0 :: live.map (fun p => p.1 + p.2)).foldl (fun l x => insertNat x l) []
  tries.find? (fun x => decide (x + n ≤ size) && !live.any (fun p => rangesMeet x n p.1 p.2))

/-- The L0 entry of an address, with the tables on its path made where they are missing and broken where they are shared;
none without a frame, or below a large page or a host range. `k` levels are left. -/
def slotFor : Nat → State → Nat → Nat → Nat → Nat → Option (State × Nat)
  | 0, _, _, _, _, _ => none
  | k + 1, s, t, va, n, table =>
    let a := table + 16 * nb va (12 + 9 * n) 9
    if n = 0 then some (s, a)
    else
      let w0 := entry0 s t a
      let made : Option State :=
        if nb w0 0 1 = 0 then (takeTable s t).map (fun p => tablePut p.1 t a (p.2 + 1) 0)
        else if nb w0 1 1 = 1 ∨ (n = 4 ∧ nb w0 11 1 = 1) then none
        else if nb w0 10 1 = 1 then breakTable s t a
        else some s
      made.bind (fun s1 => slotFor k s1 t va (n - 1) (entry0 s1 t a / 2 ^ 12 * 2 ^ 12))

/-- The 16 entries of one granule. -/
def arenaGranule (s : State) (t root va w1 : Nat) : Option State :=
  (slotFor 5 s t va 4 root).map (fun p =>
    shootPage ((leafSlots p.2 1).foldl (fun s b => tablePut s t b 0x32 w1) p.1) t va)

/-- The attributes of an arena page (R315). -/
def arenaWord (s : State) (t j : Nat) (fmt : Fmt) (geom : Geom) (trk : Bool) : Nat :=
  2 ^ 9 * trk.toNat + 2 ^ 16 * fmt.code + 2 ^ 20 * geom.code + 2 ^ 28 * defaultKey s t + 2 ^ 36 * j + 2 ^ 48 * arenaGen s t j

/-- An allocation: its address; none where it fails. -/
def arenaAlloc (s : State) (t root j size : Nat) (fmt : Fmt) (geom : Geom) (trk : Bool) : Option (State × Nat) :=
  let n := (size + 65535) / 65536
  let base := csrAddr s t 0x048 16
  if j = 0 ∨ n = 0 then none
  else
    (arenaPlace ((tenant s t).arenas.map (fun p => (p.1, p.2.2))) (nb (csrGet s t 0x04A).toNat 0 24) n).bind (fun g =>
      ((upTo n).foldl (fun (acc : Option State) i => acc.bind (fun s =>
        arenaGranule s t root (base + 2 ^ 16 * (g + i)) (arenaWord s t j fmt geom trk))) (some s)).map (fun s1 =>
          (modTenant s1 t (fun x => { x with arenas := mput x.arenas g (j, n) }), base + 2 ^ 16 * g)))

def execArena (h : Hdr) (d a : Reg) (fmt : Fmt) (geom : Geom) (trk : Bool) (s : State) : Outcome State Fault Refusal :=
  run h 8 [⟨h.u, a, 1⟩] [⟨h.u, d, 2⟩]
    (fun c s =>
      if !pairOk fmt geom then .trap s causeIllegal c.bundle 0
      else match arenaAlloc s c.ten (rootOf s c.task) (jobOf s c.ten c.task.launch) (c.ra a 0 c.lead).toNat fmt geom trk with
        | none => .ok (c.putAll s d [0, 0])
        | some (s1, va) => .ok (c.putAll s1 d [lo32 va, hi32 va])) s

/-! ### `fork` (R312 to R314, R393) -/

def execFork (h : Hdr) (t a : Reg) (off : SrcB) (s : State) : Outcome State Fault Refusal :=
  run h off.len (⟨h.u, a, 2⟩ :: useB h.u off 1) []
    (fun c s =>
      let va := c.gaddr a off c.lead
      firstCause c s [(va % 64 != 0, causeMisaligned, va % 2 ^ 57), (decide (2 ^ 57 ≤ va), causeProt, va % 2 ^ 57),
                      (tokenTaken c t, causeToken, 0)]
        (if logHolds c.grp [va / 2 ^ 12] then .wait s
         else handover c s (fun s1 =>
           let s2 := pendToken s1 c.tid c.g (scalIdx t)
           let op : ForkOp := { tenant := c.ten, tid := c.tid, g := c.g, tok := scalIdx t, user := c.user,
                                job := jobOf s2 c.ten c.task.launch, addr := va, cancelled := false }
           .ok { s2 with serial := s2.serial + 1, forks := mput s2.forks s2.serial op }))) s

/-- The spans of a descriptor: first page and pages. -/
abbrev Span := Nat × Nat

/-- An entry of a table that is copied for a child: what is shared already has one more holder. -/
def rawEntry (s : State) (t src dst i : Nat) : State :=
  let w0 := entry0 s t src
  let w1 := entry1 s t src
  let s1 := tablePut s t dst w0 w1
  if nb w0 0 2 = 1 ∧ nb w0 10 1 = 1 then shareUp s1 t (pointed w0 0) (2 ^ 13)
  else if nb w0 0 2 = 3 ∧ nb w1 14 1 = 1 ∧ (nb w0 2 2 ≠ 1 ∨ i % 16 = 0) then
    shareUp s1 t (pointed w0 w1) (pageBytes (nb w0 2 2))
  else s1

/-- A table copied for a child. -/
def rawTable (s : State) (t src : Nat) : Option (State × Nat) :=
  (takeTable s t).map (fun p => ((upTo 512).foldl (fun s i => rawEntry s t (src + 16 * i) (p.2 + 16 * i) i) p.1, p.2))

/-- An entry that a span holds whole, marked in both trees (R393). -/
def markEntry (s : State) (t pa ca i : Nat) : State :=
  let w0 := entry0 s t pa
  let w1 := entry1 s t pa
  let same := pointed (entry0 s t ca) (entry1 s t ca) = pointed w0 w1
  if nb w0 0 2 = 1 then
    let s1 := tablePut (tablePut s t pa (setF w0 10 1 1) w1) t ca (setF w0 10 1 1) w1
    if nb w0 10 1 = 1 ∧ same then s1 else shareUp s1 t (pointed w0 0) (2 ^ 13)
  else
    let cow := if nb w0 5 1 = 1 then setF w1 14 1 1 else w1
    let held := nb w1 14 1 = 1 ∧ same
    if nb w0 0 1 = 1 then
      let s1 := tablePut (tablePut s t pa w0 cow) t ca w0 cow
      if held ∨ (nb w0 2 2 = 1 ∧ i % 16 ≠ 0) then s1 else shareUp s1 t (pointed w0 w1) (pageBytes (nb w0 2 2))
    else if nb w0 1 3 = 2 then
      let s1 := tablePut (tablePut s t pa w0 cow) t ca w0 cow
      let whole := mget s.images (w0 / 2 ^ 12) = some (2 ^ 16) ∧ i % 16 ≠ 0
      if whole then s1 else shareUp s1 t (tierBase + w0 / 2 ^ 12 * 2 ^ 12) (2 ^ 12)
    else s

/-- One span shared below a table of the parent's tree and the child's own copy of it, both of level n; `base` is the first
page that the tables cover. A leaf that the span holds in part is marked whole (log entry 26). -/
def shareSpan : Nat → State → Nat → Nat → Nat → Nat → Nat → Span → Option State
  | 0, s, _, _, _, _, _, _ => some s
  | k + 1, s, t, pt, ct, n, base, sp =>
    let size := 2 ^ (9 * n)
    (upTo 512).foldl (fun (acc : Option State) i => acc.bind (fun s =>
      let lo := base + i * size
      if !rangesMeet lo size sp.1 sp.2 then some s
      else
        let pa := pt + 16 * i
        let ca := ct + 16 * i
        let w0 := entry0 s t pa
        let group := n == 0 && nb w0 0 4 == 7
        let inside := decide (sp.1 ≤ lo) && decide (lo + size ≤ sp.1 + sp.2)
        if group then
          some ((upTo 16).foldl (fun s j =>
            if nb (entry1 s t (pt + 16 * (i / 16 * 16 + j))) 14 1 = 1 ∧
               entry0 s t (ct + 16 * (i / 16 * 16 + j)) = entry0 s t (pt + 16 * (i / 16 * 16 + j)) then s
            else markEntry s t (pt + 16 * (i / 16 * 16 + j)) (ct + 16 * (i / 16 * 16 + j)) j) s)
        else if inside || nb w0 0 2 != 1 then some (markEntry s t pa ca i)
        else
          let broken := if nb w0 10 1 = 1 then breakTable s t pa else some s
          broken.bind (fun s1 =>
            let v0 := entry0 s1 t pa
            let low := v0 / 2 ^ 12 * 2 ^ 12
            let own := entry0 s1 t ca / 2 ^ 12 * 2 ^ 12
            let copied : Option (State × Nat) :=
              if own = low ∨ nb w0 10 1 = 1 then
                (rawTable s1 t low).map (fun q => (tablePut q.1 t ca (q.2 + v0 % 2 ^ 12) (entry1 q.1 t pa), q.2))
              else some (s1, own)
            copied.bind (fun q => shareSpan k q.1 t low q.2 (n - 1) lo sp)))) (some s)

/-- Every translation of the spans' pages shot down. -/
def shootSpans (s : State) (t : Nat) (spans : List Span) : State :=
  spans.foldl (fun s sp => shootRange s t (2 ^ 12 * sp.1) (2 ^ 12 * sp.2)) s

/-- A child's root and tables for a list of spans; none when the translation space is exhausted. -/
def forkRoot (s : State) (t root : Nat) (spans : List Span) : Option (State × Nat) :=
  (rawTable s t root).bind (fun p =>
    (spans.foldl (fun (acc : Option State) sp => acc.bind (fun s => shareSpan 5 s t root p.2 4 0 sp)) (some p.1)).map
      (fun s1 => (shootSpans s1 t spans, p.2)))

/-- What bars a span from being shared now (R393, R398): a host-mapped page, or a page under WPW. -/
inductive SpanOut where
  | ok | host | window
  deriving DecidableEq, Repr

/-- The page entries of a span that are present, level by level: whether some satisfies p. -/
def spanAny (p : Nat → Nat → Nat → Bool) : Nat → State → Nat → Nat → Nat → Nat → Span → Bool
  | 0, _, _, _, _, _, _ => false
  | k + 1, s, t, table, n, base, sp =>
    (upTo 512).any (fun i =>
      let size := 2 ^ (9 * n)
      let lo := base + i * size
      if !rangesMeet lo size sp.1 sp.2 then false
      else
        let w0 := entry0 s t (table + 16 * i)
        let w1 := entry1 s t (table + 16 * i)
        p n w0 w1 || (nb w0 0 2 == 1 && !(n == 4 && nb w0 11 1 == 1) &&
          spanAny p k s t (w0 / 2 ^ 12 * 2 ^ 12) (n - 1) lo sp))

def spanState (s : State) (t root : Nat) (sp : Span) : SpanOut :=
  if spanAny (fun n w0 _ => n == 4 && nb w0 0 2 == 1 && nb w0 11 1 == 1) 5 s t root 4 0 sp then .host
  else if spanAny (fun _ w0 w1 => nb w0 0 2 == 3 && nb w1 13 1 == 1) 5 s t root 4 0 sp then .window
  else .ok

/-- A fork ends with a status. -/
def forkEnd (s : State) (id : Nat) (op : ForkOp) (status value : Nat) : State :=
  writeToken { (dropNeeds s (fun w => w == .fork id)) with forks := mdel s.forks id } op.tid op.g op.tok
    (statusWord status value)

/-- The header's fields are in order (Table 7). -/
def forkBad (n : Nat) : Bool :=
  nb n 455 2 != 0 || nb n 448 7 != 0 || nb n 0 260 != 0 || decide (4096 < nb n 304 16) || nb n 297 7 == 0 ||
  decide (64 < nb n 297 7) || (nb n 296 1 == 0 && nb n 292 4 != 0) || nb n 260 32 == 0

/-- A span entry is in order (Table 8). -/
def spanBad (n : Nat) : Bool :=
  nb n 64 7 != 0 || nb n 0 28 != 0 || nb n 71 12 != 0 || nb n 28 36 == 0 ||
  decide (2 ^ 45 < nb n 71 57 / 2 ^ 12 + nb n 28 36)

def spansOverlap : List Span → Bool
  | [] => false
  | a :: l => l.any (fun b => rangesMeet a.1 a.2 b.1 b.2) || spansOverlap l

/-- n bytes from an address, for an operation that waits or fails on faults: `k` goes on. -/
def forkRead (s : State) (t : Task) (id : Nat) (op : ForkOp) (va n : Nat) (wr : Bool) (k : State → Nat → Option State) :
    Option State :=
  match engPlan s t op.user (!wr) wr none ((upTo n).map (va + ·)) with
  | .bad s1 cause a => some (forkEnd (reportPages s1 t op.g 7 cause (!wr) wr [a / 2 ^ 12]) id op 0x0C 0)
  | .serve s1 ps => some (needAll s1 t.tenant (.fork id) wr 7 ps)
  | .hold _ => none
  | .go s1 las =>
    if wr then k s1 0
    else
      let (s2, m) := engLoad s1 t las
      k s2 (bytesNum m va n)

/-- The copy of a trace for a child (R144, R322). -/
def forkTrace (s : State) (t h root eventide job : Nat) : State :=
  match trOf s t h, firstKey (fun k => (trOf s t k).isNone) 16 0 with
  | some tr, some k => setTr s t k { tr with root := root, eventide := eventide, job := job, prop := none }
  | _, _ => s

/-- Child entries, roots and traces. -/
def forkChildren (s : State) (t : Task) (op : ForkOp) (n : Nat) (spans : List Span) (root : Nat) (k : Nat) :
    Option (State × List Nat) :=
  (upTo k).foldl (fun (acc : Option (State × List Nat)) i => acc.bind (fun (s, ids) =>
    (forkRoot s t.tenant root spans).bind (fun (s1, r) =>
      (freeCounter s1 t.tenant).map (fun c =>
        let s2 := setCounter s1 t.tenant c (Counter.new 4 op.job (nb n 260 32) (nb n 320 64) ((nb n 384 64 + i) % 2 ^ 64))
        let s3 := modTenant s2 t.tenant (fun x => { x with roots := mput x.roots c r })
        let s4 := if nb n 296 1 = 1 then forkTrace s3 t.tenant (nb n 292 4) r (clusterOf t.core) c else s3
        (s4, ids ++ [c]))))) (some (s, []))

/-- Spans that a trace needs shared: its region and the pages of its granules (R144). -/
def traceSpans (tr : Trace) : List Span :=
  let gs := tr.tasks.flatMap (fun p => p.2.rd ++ p.2.wr.map (·.gran))
  (tr.base / 2 ^ 12, 2 ^ tr.lg / 2 ^ 12) ::
    (gs.foldl (fun l g => insertNat (g / 128) l) []).map (fun p => (p, 1))

/-- How the pages of RESADDR stand once the spans are shared. -/
inductive ForkOwn where
  | ok (s : State)
  | wait (s : State)
  | need (s : State) (v : Service)
  | bad (s : State) (cause : Byte)
  deriving DecidableEq, Repr

/-- The parent's own copies of the pages that its result goes to: a RESADDR that lies in a span breaks the sharing at once. -/
def forkOwn (s : State) (t : Task) : List Nat → ForkOwn
  | [] => .ok s
  | va :: vas =>
    match reach 8 s t.tenant (rootOf s t) va { r := false, w := true, x := false, user := false } with
    | .ok s1 _ _ => forkOwn s1 t vas
    | .wait s1 => .wait s1
    | .need s1 v => .need s1 v
    | .bad s1 cause => .bad s1 cause

/-- FORK_COMPLETE: the snapshot is taken, the children are created, the token is written. -/
def forkComplete (s : State) (id : Nat) : Option State :=
  match mget s.forks id with
  | none => none
  | some op =>
    match task s op.tid with
    | none => some { s with forks := mdel s.forks id }
    | some t =>
      if hasNeed s (.fork id) || dying s op.tid t then none
      else if op.cancelled then some (forkEnd s id op 0x0D 0)
      else if op.job = 0 then some (forkEnd s id op 4 0)
      else forkRead s t id op op.addr 64 false (fun s1 n =>
        if forkBad n then some (forkEnd s1 id op 5 0)
        else forkRead s1 t id op (op.addr + 64) (16 * nb n 304 16) false (fun s2 m =>
          let es := (upTo (nb n 304 16)).map (fun i => nb m (128 * i) 128)
          let spans := es.map (fun e => (nb e 71 57 / 2 ^ 12, nb e 28 36))
          let k := nb n 297 7
          let root := rootOf s2 t
          let tr := if nb n 296 1 = 1 then trOf s2 t.tenant (nb n 292 4) else none
          let free := ((upTo 16).filter (fun h => (trOf s2 t.tenant h).isNone)).length
          if es.any spanBad || spansOverlap spans || spans.any (fun sp => spanState s2 t.tenant root sp == .host) then
            some (forkEnd s2 id op 5 0)
          else if 4095 < (tenant s2 t.tenant).ctr.length + k then some (forkEnd s2 id op 1 0)
          else if nb n 296 1 = 1 ∧ (tr.isNone ∨ free < k) then some (forkEnd s2 id op 8 0)
          else if tr.any (fun x => x.prop.isSome || recording s2 t.tenant (nb n 292 4)) then none
          else if spans.any (fun sp => spanState s2 t.tenant root sp == .window) then none
          else
            let s3 := (s2.cores.map (·.1)).foldl (fun s c => writeBackAll s c) s2
            if !s3.wq.isEmpty then (if s3.wq.length = s2.wq.length then none else some s3)
            else forkRead s3 t id op (nb n 455 57) (4 * k) true (fun s4 _ =>
              let all := spans ++ ((tr.map traceSpans).getD []).filter (fun x =>
                !spans.any (fun y => decide (y.1 ≤ x.1) && decide (x.1 + x.2 ≤ y.1 + y.2)))
              match forkChildren s4 t op n all root k with
              | none => some (forkEnd s4 id op 0x0B 0)
              | some (s5, ids) =>
                let s6 := match counter s5 t.tenant op.job with
                  | none => s5
                  | some j => setCounter s5 t.tenant op.job { j with target := j.target + k }
                let bytes := ids.zipIdx.flatMap (fun p =>
                  (leBytes 4 p.1).zipIdx.map (fun q => (nb n 455 57 + 4 * p.2 + q.2, q.1)))
                let vas := granules (bytes.map (·.1))
                match forkOwn s6 t (vas.map (32 * ·)) with
                | .wait _ => none
                | .need _ v => some (needAll s4 t.tenant (.fork id) true 7 (vas.map (fun a => (32 * a, v))))
                | .bad _ cause => some (forkEnd (reportPages s4 t op.g 7 cause false true [nb n 455 57 / 2 ^ 12]) id op 0x0C 0)
                | .ok s7 =>
                  match engPlan s7 t op.user false true none (vas.map (32 * ·)) with
                  | .go s8 las => some (forkEnd (engApply s8 t las bytes) id op 0 k)
                  | .serve _ ps => some (needAll s4 t.tenant (.fork id) true 7 ps)
                  | .bad _ cause a => some (forkEnd (reportPages s4 t op.g 7 cause false true [a / 2 ^ 12]) id op 0x0C 0)
                  | .hold _ => none)))

def execForkComplete (id : Nat) (s : State) : Outcome State Fault Refusal := fire (forkComplete s id) s

end Sys2Proof.Machine
end

