-- ==== Sys2Proof/Machine/Search.lean ====
section
/-! DEFINITION. Near-memory neighbour search (07, R325 to R327): the graph table, `nnq`, `nnwait`, `nncancel`, and the
events of the Levanter engines. -/

namespace Sys2Proof.Machine

open Host

/-! ### Graphs (R147 to R150) -/

def graphFmt (f : Fmt) : Bool :=
  f == .fp32 || f == .fp16 || f == .bf16 || f == .e4m3 || f == .e5m2 || f == .int8

def gVer (g : Nat) : Nat := nb g 199 57
def gRsz (g : Nat) : Nat := nb g 176 16
def gDims (g : Nat) : Nat := nb g 163 13
def gFmt (g : Nat) : Fmt := (Fmt.ofCode (nb g 156 4)).getD .raw
def gValid (g i : Nat) : Bool := nb g i 1 == 1
def gShard (g i : Nat) : Nat := nb g (256 + 128 * i) 128
def gBase (g i : Nat) : Nat := nb (gShard g i) 71 57
def gNodes (g i : Nat) : Nat := nb (gShard g i) 32 29

/-- A descriptor breaks R147. Its reserved fields, and the entries of shards that are not valid, are ignored (R11). -/
def graphBad (g : Nat) : Bool :=
  gVer g % 32 != 0 || gDims g == 0 || decide (4096 < gDims g) || !graphFmt (gFmt g) ||
  decide (gRsz g * 128 < 272 + gDims g * elemBytes (gFmt g)) || (upTo 8).any (fun i => gValid g i && gBase g i % 128 != 0)

/-- An id is in range (R148). -/
def gRange (g : Nat) (v : Word) : Bool :=
  gValid g (v.toNat / 2 ^ 29) && decide (v.toNat % 2 ^ 29 < gNodes g (v.toNat / 2 ^ 29))
/-- The home engine of a node: that of its shard's STACK (R148). -/
def gHome (g : Nat) (v : Word) : Nat := nb (gShard g (v.toNat / 2 ^ 29)) 64 3
def gNode (g : Nat) (v : Word) : Nat := gBase g (v.toNat / 2 ^ 29) + v.toNat % 2 ^ 29 * gRsz g * 128

def execNngraph (h : Hdr) (r : Reg) (n : BitVec 6) (a : Reg) (off : SrcB) (s : State) : Outcome State Fault Refusal :=
  run h off.len (⟨h.u, a, 2⟩ :: useB h.u off 1) [⟨true, r, 1⟩]
    (fun c s =>
      let va := c.gaddr a off c.lead
      let answer := fun (s : State) (st : Nat) => Res.ok (c.putScal s r (statusWord st 0))
      if logHolds c.grp ((upTo 2).map (fun i => (va + 159 * i) / 2 ^ 12)) then .wait s
      else match engPlan (writeBackAll s c.task.core) c.task c.user true false none
          ((upTo 5).map (fun i => va + 32 * i) ++ [va + 159]) with
        | .bad s1 cause b =>
          if pageCause cause then answer (reportPages s1 c.task c.g 0 cause true false [b / 2 ^ 12 % 2 ^ 45]) 0x0C
          else .trap s1 cause c.leadSet (b % 2 ^ 57)
        | .serve s1 ps => .wait (needAll s1 c.ten (.group c.tid c.g) false 0 ps)
        | .hold s1 => .wait s1
        | .go s1 las =>
          let (s2, m) := engLoad s1 c.task las
          let g := bytesNum m va 160
          if graphBad g then answer s2 0x0F
          else answer (modTenant s2 c.ten (fun x => { x with graphs := mput x.graphs n.toNat (BitVec.ofNat 1280 g) })) 0) s

/-- The version bump (R150): an atomic of package scope with release semantics. -/
def execNngraphBump (h : Hdr) (r : Reg) (n : BitVec 6) (long : Bool) (s : State) : Outcome State Fault Refusal :=
  run h (if long then 12 else 8) [] [⟨true, r, 1⟩]
    (fun c s =>
      let answer := fun (s : State) (st v : Nat) => Res.ok (c.putScal s r (statusWord st v))
      match mget (tenant s c.ten).graphs n.toNat with
      | none => answer s 0x0F 0
      | some g =>
        let va := gVer g.toNat
        let op : MemOp := .atom r true .addN64 .package .rel
        if logHolds c.grp [va / 2 ^ 12] then .wait s
        else match laneCheck s c.task c.user op (laneAcc c.lead va va 0 [1, 0]) with
          | (s1, .bad cause b rep) =>
            if pageCause cause then
              answer (if rep then reportPages s1 c.task c.g 0 cause true true [b / 2 ^ 12] else s1) 0x0C 0
            else .trap s1 cause c.leadSet (b % 2 ^ 57)
          | (s1, .serve _ v) => .wait (addNeed s1 c.ten (.group c.tid c.g) v true va 0)
          | (s1, .go la) =>
            if la.ordsh && (!lowerPublished s1 c.task || tokenPos s1 c.task == .before) then .wait s1
            else handover c s1 (fun s2 =>
              let s3 := flushLine s2 c.task.core la.pa
              if !portReady s3 c.task.core [la] then .wait s3
              else
                let (s4, old) := atomLane s3 c.task op la
                .ok (wakeAll (c.putScal s4 r (BitVec.ofNat 32 ((old + 1) % 2 ^ 24)))))) s

def execNngraphDrop (h : Hdr) (r : Reg) (n : BitVec 6) (long : Bool) (s : State) : Outcome State Fault Refusal :=
  run h (if long then 12 else 8) [] [⟨true, r, 1⟩]
    (fun c s =>
      match mget (tenant s c.ten).graphs n.toNat with
      | none => .ok (c.putScal s r (statusWord 0x0F 0))
      | some _ =>
        .ok (c.putScal (modTenant s c.ten (fun x => { x with graphs := mdel x.graphs n.toNat })) r (statusWord 0 0))) s

/-! ### Queries: issue and waits (R152, R160, R161, R163) -/

/-- The Levanter engine that serves a core's queries. -/
def engineOf (c : Nat) : Nat := clusterOf c
def engineLoad (s : State) (e : Nat) : Nat := (s.queries.filter (fun p => p.2.engine == e && !p.2.written)).length
def slotQuery (s : State) (tid g slot : Nat) : Option (Nat × Query) :=
  s.queries.find? (fun p => p.2.tid == tid && p.2.g == g && p.2.slot == slot)

/-- A group waits for a place of an engine: its `nnq` still stands at an entry of its frontier. -/
def levWaits (s : State) (w : LevWait) : Bool :=
  (group s w.tid w.g).any (fun x => (x.front ++ ((x.trap.map (·.hfront)).getD [])).any (fun e => e.pc == w.pc)) &&
  (task s w.tid).any (fun t => engineOf t.core == w.engine)

/-- Packets that wait for a place of an engine, oldest first (R152). -/
def levLine (s : State) (e : Nat) : List LevWait := s.levq.filter (fun w => w.engine == e && levWaits s w)

/-- A traced task's read of its graph's version granule (R163), or the service that its page needs first. -/
def versionRead (s : State) (t : Task) (user : Bool) (g : Nat) : State × Option Service :=
  match t.traced with
  | none => (s, none)
  | some (h, r) =>
    match access s (.tile t.core) t.tenant (rootOf s t) (gVer g) { r := true, w := false, x := false, user := user } with
    | (s1, .ok _ x) =>
      (if x.trk && !x.const then
        modTenant s1 t.tenant (fun y => { y with trq := y.trq ++ [.read h r (gVer g / 32)] })
      else s1, none)
    | (s1, .serve v) => (s1, some v)
    | (s1, _) => (s1, none)

/-- The same at issue, where the descriptor and the granule's page can be read then; whether it is settled. -/
def versionAtIssue (s : State) (t : Task) (user : Bool) (va : Nat) : State × Bool :=
  if t.traced.isNone || va % 64 != 0 || decide (2 ^ 57 ≤ va) then (s, true)
  else match access s (.tile t.core) t.tenant (rootOf s t) va { r := true, w := false, x := false, user := user } with
    | (s1, .ok pa x) =>
      if !x.legal || wrPending s1 (dieOf t.core) (pa / lineBytes) then (s1, false)
      else match mget (tenant s1 t.tenant).graphs (nb (leNat (readPas s1 x.key pa 64)) 186 6) with
        | none => (s1, true)
        | some g =>
          let (s2, v) := versionRead s1 t user g.toNat
          (s2, v.isNone)
    | (s1, _) => (s1, false)

def Query.new (c : Ctx) (s : State) (tok slot addr : Nat) (seen : Bool) : Query :=
  { tid := c.tid, g := c.g, tenant := c.ten, tok := tok, user := c.user, slot := slot, engine := engineOf c.task.core,
    addr := addr, job := chargeJob s c.task, traced := c.task.traced, started := false, cancelled := false, vis := [],
    beam := [], res := [], hops := 0, rounds := 0, cand := [], asked := [], reps := [], status := none, qv := [], hdr := 0,
    graph := none, read := false, spill := [], written := false, denied := [], verSeen := seen }

def execNnq (h : Hdr) (t : Reg) (slot : BitVec 4) (a : Reg) (off : SrcB) (s : State) : Outcome State Fault Refusal :=
  run h off.len (⟨h.u, a, 2⟩ :: useB h.u off 1) []
    (fun c s =>
      if tokenTaken c t || (slotQuery s c.tid c.g slot.toNat).isSome then c.refuse s causeToken
      else
        let e := engineOf c.task.core
        let w : LevWait := { engine := e, tid := c.tid, g := c.g, pc := c.pc }
        let line := levLine s e
        if 64 ≤ engineLoad s e || line.any (fun v => v != w && line.head? == some v) then
          .wait (if line.contains w then s else { s with levq := s.levq.filter (levWaits s) ++ [w] })
        else
          let va := c.gaddr a off c.lead
          let s0 := { s with levq := s.levq.filter (fun v => v != w) }
          let (s1, seen) := versionAtIssue (writeBackAll s0 c.task.core) c.task c.user va
          let s2 := pendToken s1 c.tid c.g (scalIdx t)
          .ok { s2 with serial := s2.serial + 1,
                        queries := mput s2.queries s2.serial (Query.new c s2 (scalIdx t) slot.toNat va seen) }) s

def execNnwait (h : Hdr) (mask : Half) (s : State) : Outcome State Fault Refusal :=
  run h 12 [] []
    (fun c s =>
      if s.queries.any (fun p => p.2.tid == c.tid && p.2.g == c.g && mask.getLsbD p.2.slot) || !acqReady c then .wait s
      else .ok (acqAct s c.task.core .package)) s

def execNncancel (h : Hdr) (slot : BitVec 4) (s : State) : Outcome State Fault Refusal :=
  run h 8 [] []
    (fun c s =>
      match slotQuery s c.tid c.g slot.toNat with
      | none => .ok s
      | some (id, q) => .ok (wakeAll { s with queries := mput s.queries id { q with cancelled := true } })) s

/-! ### Fields of a query descriptor (R151) -/

def qRes (q : Query) : Nat := nb q.hdr.toNat 455 57
def qSpill (q : Query) : Nat := nb q.hdr.toNat 391 57
def qSpillPg (q : Query) : Nat := nb q.hdr.toNat 368 16
def qHops (q : Query) : Nat := nb q.hdr.toNat 352 16
def qFilter (q : Query) : Nat := nb q.hdr.toNat 320 32
def qEntry (q : Query) (i : Nat) : Word := BitVec.ofNat 32 (nb q.hdr.toNat (192 + 32 * i) 32)
def qGraph (q : Query) : Nat := nb q.hdr.toNat 186 6
def qEntryN (q : Query) : Nat := nb q.hdr.toNat 183 3
def qL (q : Query) : Nat := nb q.hdr.toNat 174 9
def qK (q : Query) : Nat := nb q.hdr.toNat 167 7
def qMetric (q : Query) : Nat := nb q.hdr.toNat 164 3
def qFmode (q : Query) : Bool := nb q.hdr.toNat 163 1 == 1
def qDims (q : Query) : Nat := nb q.hdr.toNat 150 13
def qGr (q : Query) : Nat := (q.graph.map (·.toNat)).getD 0

/-- R153, apart from the spill region's homes. -/
def queryBad (q : Query) : Bool :=
  q.graph.isNone || qEntryN q == 0 || decide (4 < qEntryN q) || qL q == 0 || decide (256 < qL q) || qK q == 0 ||
  decide (64 < qK q) || decide (qL q < qK q) || decide (2 < qMetric q) || qDims q != gDims (qGr q) || qRes q % 16 != 0 ||
  qSpill q % 2 ^ 12 != 0 || nb q.hdr.toNat 448 7 != 0 || nb q.hdr.toNat 384 7 != 0 || nb q.hdr.toNat 0 150 != 0

/-! ### The engine's accesses -/

/-- How a read or write of an engine ends: bytes by virtual address, pages to be served, a failing status, or a wait for
accesses on their way. -/
inductive LevOut where
  | ok (s : State) (m : Map Byte)
  | need (s : State)
  | fail (s : State) (status va : Nat)
  | hold
  deriving DecidableEq, Repr

/-- Levanter traffic is not counted in the locality counters (R405). -/
def uncounted (s s1 : State) : State := { s1 with mgmt := s.mgmt }

/-- The first failure of a set of granules in the order of R466. `must` are the granules whose data is read; the others are
touched for their pages only. -/
def levFail (must : List Nat) (os : List (Nat × EngOut)) : Option (Nat × Byte × Nat) :=
  let bads := os.filterMap (fun p => match p.2 with
    | .bad k => some (p.1, k)
    | _ => none)
  match bads.find? (fun p => pageCause p.2), bads.find? (fun p => p.2 == causeFmt),
        bads.find? (fun p => p.2 == causeData && must.contains (p.1 / 32)) with
  | some p, _, _ => some (0x11, p.2, p.1)
  | none, some p, _ => some (0x12, p.2, p.1)
  | none, none, some p => some (0x14, p.2, p.1)
  | none, none, none => none

def levServes (os : List (Nat × EngOut)) : List (Nat × Service) :=
  os.filterMap (fun p => match p.2 with
    | .serve v => some (p.1, v)
    | _ => none)

/-- What one die has seen handed to another: the second applies the updates that this names. -/
def handSeen (s : State) (d e : Nat) : State :=
  if d = e then s
  else
    let seen := (die s d).clock
    let x := catchUp (fun _ u => named seen u) (die s e)
    setDie s e { x with clock := maxStamp x.clock seen }

/-- A query whose page could not be served: the step that meets it fails. -/
def deniedPage (q : Query) (va : Nat) : Bool := q.denied.contains (va / 2 ^ 12)

/-- Bytes read for a query by engine e, from its die (R155); never recorded (R163). It sees what the issuing die has seen, the
die's own writes included (R99), and the issuing die has seen what it returns. A page without a legal format, where the graph's
is not asked for, is a fault of the descriptor. -/
def levRead (s : State) (t : Task) (id : Nat) (q : Query) (e : Nat) (fmt : Option (Fmt × Geom)) (data pages : List Nat) : LevOut :=
  let t1 := { t with traced := none, core := 144 * e }
  let must := granules data
  let (s1, os0) := engTouches (handSeen s (dieOf t.core) (dieOf t1.core)) t1 q.user true false fmt (granules (data ++ pages))
  let os := os0.map (fun p => match p.2 with
    | .serve _ => if deniedPage q p.1 then (p.1, EngOut.bad causePage) else p
    | _ => p)
  let report := fun (s : State) (k : Byte) (va : Nat) =>
    if deniedPage q va then s else reportPages s t q.g 4 k true false [va / 2 ^ 12 % 2 ^ 45]
  match levFail must os, levServes os with
  | some (0x11, k, va), _ => .fail (report s1 k va) 0x11 va
  | _, p :: ps => .need (needAll s1 t.tenant (.query id) false 4 (p :: ps))
  | some (st, k, va), [] => if st = 0x12 ∧ fmt.isNone then .fail (report s1 k va) 0x11 va else .fail s1 st va
  | none, [] =>
    let las := os.filterMap (fun p => match p.2 with
      | .go la => if must.contains (p.1 / 32) then some la else none
      | _ => none)
    if os.any (fun p => p.2 == .hold) || las.any (fun la => wrPending s1 (dieOf t.core) (la.pa / lineBytes)) then .hold
    else
      let (s2, m) := engLoad s1 t1 las
      let seen := (die s2 (dieOf t1.core)).clock
      let d := die s2 (dieOf t.core)
      .ok (uncounted s (setDie s2 (dieOf t.core) { d with clock := maxStamp d.clock seen })) m

def setQuery (s : State) (id : Nat) (q : Query) : State := { s with queries := mput s.queries id q }

/-- Bytes written by a query's engine at their ports, as writes of the issuing task, after the writes of its die that the ports
do not hold for a query. Its own spill region does not hold them (R156). -/
def levWrite (s : State) (t : Task) (id : Nat) (q : Query) (bytes : Map Byte) : LevOut :=
  let clock := (die s (dieOf t.core)).clock
  let back := fun (s : State) => setQuery s id q
  if bytes.isEmpty then .ok s []
  else if s.wq.any (fun w => decide (w.seqno ≤ stampAt clock w.die) && applicable s w) then .hold
  else match engPlan (setQuery s id { q with spill := [] }) t q.user false true none (bytes.map (·.1)) with
    | .bad s1 k va => .fail (back (reportPages s1 t q.g 4 k false true [va / 2 ^ 12 % 2 ^ 45])) 0x11 va
    | .serve s1 ps =>
      match ps.find? (fun p => deniedPage q p.1) with
      | some p => .fail (back s1) 0x11 p.1
      | none => .need (needAll (back s1) t.tenant (.query id) true 4 ps)
    | .hold _ => .hold
    | .go s1 las => .ok (back (uncounted s (engApply s1 t las bytes))) []

def byteRange (va n : Nat) : List Nat := (upTo n).map (fun i => va + i)

/-! ### Distances (R117, R154) -/

/-- Terms in blocks of 32. -/
def chunk32 : Nat → List FV → List (List FV)
  | 0, _ => []
  | n + 1, l => if l.isEmpty then [] else l.take 32 :: chunk32 n (l.drop 32)

def distWord (metric : Nat) (q : List Word) (xs : List FV) : Word :=
  let terms := List.zipWith (fun w x =>
    if metric = 0 then
      let e := sumV .rn [f32 w, x.neg]
      mulV e e
    else mulV (f32 w) x) q xs
  let d := (chunk32 (terms.length + 1) terms).foldl (fun d b => f32add .rn d (toF32 .rn (sumV .rn b))) 0
  match metric with
  | 0 => d
  | 1 => toF32 .rn (f32 d).neg
  | _ => f32sub .rn 0x3F800000 d

/-- The filter (R151). -/
def passes (q : Query) (labels : Nat) : Bool :=
  let x := labels &&& qFilter q
  qFilter q == 0 || (if qFmode q then x == qFilter q else x != 0)

/-- Closer: smaller distance, then the lower id (R154). -/
def closer (d1 i1 d2 i2 : Word) : Bool :=
  match cmpV (f32 d1) (f32 d2) with
  | .lt => true
  | .gt => false
  | .eq => decide (i1.toNat < i2.toNat)

/-! ### Records (R149, R466) -/

/-- How the step of one id ends. -/
inductive NodeOut where
  | ok (s : State) (dist : Word) (pass : Bool) (ids : List Word)
  | need (s : State)
  | fail (s : State) (status : Nat)
  | hold
  deriving DecidableEq, Repr

/-- The pages of a record, as one address of each. -/
def recordPages (a n : Nat) : List Nat :=
  (upTo ((a + n - 1) / 2 ^ 12 - a / 2 ^ 12 + 1)).map (fun i => max a (2 ^ 12 * (a / 2 ^ 12 + i)))

/-- The step of an id at engine e: its range, its record, its DEG; `nbrs` asks for its neighbours and not for its distance. Every
page of the record is met (R149); the data read, for DATA_ERROR, is the header with the vector, or with the DEG ids, which is the
model's choice (log entry 83). -/
def nodeStep (s : State) (t : Task) (id : Nat) (q : Query) (e : Nat) (v : Word) (nbrs : Bool) : NodeOut :=
  let g := qGr q
  if !gRange g v then .fail s 0x13
  else
    let a := gNode g v
    let f := gFmt g
    let n := gDims g * elemBytes f
    let data := byteRange a 16 ++ (if nbrs then [] else byteRange (a + 272) n)
    match levRead s t id q e (some (f, .graph)) data (recordPages a (gRsz g * 128)) with
    | .need s1 => .need s1
    | .fail s1 st _ => .fail s1 st
    | .hold => .hold
    | .ok s1 m =>
      let deg := bytesNum m (a + 4) 1
      if 64 < deg then .fail s1 0x13
      else if nbrs then
        match levRead s1 t id q e (some (f, .graph)) (byteRange (a + 16) (4 * deg)) [] with
        | .need s2 => .need s2
        | .fail s2 st _ => .fail s2 st
        | .hold => .hold
        | .ok s2 m2 => .ok s2 0 false ((upTo deg).map (fun j => BitVec.ofNat 32 (bytesNum m2 (a + 16 + 4 * j) 4)))
      else
        let xs := (upTo (gDims g)).map (fun j =>
          elemVal f 0 (bytesNum m (a + 272 + j * elemBytes f) (elemBytes f)))
        .ok s1 (distWord (qMetric q) q.qv xs) (passes q (bytesNum m a 4)) []

/-! ### The algorithm of R155 -/

def insertBeam (d v : Word) : List (Word × Word × Bool) → List (Word × Word × Bool)
  | [] => [(d, v, false)]
  | x :: l => if closer d v x.1 x.2.1 then (d, v, false) :: x :: l else x :: insertBeam d v l
def insertRes (d v : Word) : List (Word × Word) → List (Word × Word)
  | [] => [(d, v)]
  | x :: l => if closer d v x.1 x.2 then (d, v) :: x :: l else x :: insertRes d v l

/-- Ids that V holds: the SRAM and the spill region (R156). -/
def visCap (q : Query) : Nat := 8192 + 1024 * qSpillPg q

/-- One visit; none when V is full. -/
def visit (q : Query) (v d : Word) (pass : Bool) : Option Query :=
  if visCap q ≤ q.vis.length then none
  else
    let q1 := { q with vis := q.vis ++ [v] }
    if (f32 d).isNan then some q1
    else
      let q2 := { q1 with beam := (insertBeam d v q1.beam).take (qL q) }
      some (if pass then { q2 with res := (insertRes d v q2.res).take (qK q) } else q2)

/-- Triples in order: numeric distances first, NaNs last by id. -/
def tripleBefore (a b : Word × Word × Bool) : Bool :=
  match (f32 a.2.1).isNan, (f32 b.2.1).isNan with
  | true, true => decide (a.1.toNat < b.1.toNat)
  | true, false => false
  | false, true => true
  | false, false => closer a.2.1 a.1 b.2.1 b.1
def insertTriple (x : Word × Word × Bool) : List (Word × Word × Bool) → List (Word × Word × Bool)
  | [] => [x]
  | y :: l => if tripleBefore x y then x :: y :: l else y :: insertTriple x l
def sortTriples (l : List (Word × Word × Bool)) : List (Word × Word × Bool) := l.foldl (fun acc x => insertTriple x acc) []

/-- Triples merged in order; the query ends with VISITED_FULL at the first that finds no room. -/
def mergeTriples (q : Query) : List (Word × Word × Bool) → Query
  | [] => q
  | (v, d, p) :: l =>
    if q.vis.contains v then mergeTriples q l
    else match visit q v d p with
      | none => { q with status := some 2 }
      | some q1 => mergeTriples q1 l

/-- The next round chosen, or the end of the query. -/
def nextRound (q : Query) : Query :=
  let cs := (q.beam.filter (fun x => !x.2.2)).take 4
  if cs.isEmpty then { q with status := some 0 }
  else if qHops q ≠ 0 ∧ q.hops = qHops q then { q with status := some 1 }
  else
    let ids := (if qHops q = 0 then cs else cs.take (qHops q - q.hops)).map (fun x => x.2.1)
    { q with beam := q.beam.map (fun x => if ids.contains x.2.1 then (x.1, x.2.1, true) else x),
             hops := q.hops + ids.length, rounds := q.rounds + 1, cand := ids, asked := ids, reps := [] }

/-! ### QUERY_START -/

/-- The frames of the spill region and whether one of its lines is homed off a stack; pages to be served first. That the region's
pages are reached at the start, where R153 judges their homes, is the model's choice; one that cannot be reached then fails only
an id that is written to it (log entry 79). -/
def spillPages (s : State) (t : Task) (q : Query) : State × List Nat × Bool × List (Nat × Service) :=
  (upTo (qSpillPg q)).foldl (fun (acc : State × List Nat × Bool × List (Nat × Service)) i =>
    let (s, fs, off, ps) := acc
    let va := qSpill q + 2 ^ 12 * i
    match access s (.tile t.core) t.tenant (rootOf s t) va { r := false, w := true, x := false, user := q.user } with
    | (s1, .ok pa _) =>
      (s1, fs ++ [pa / 2 ^ 12],
        off || decide (tierBase ≤ pa) || (upTo 32).any (fun j => homeStack s1 (pa + 128 * j) != q.engine), ps)
    | (s1, .serve v) => (s1, fs, off, if deniedPage q va then ps else ps ++ [(va, v)])
    | (s1, .fail _) => (s1, fs, off, ps)) (s, [], false, [])

/-- The entry ids in field order. -/
def startEntries (s : State) (t : Task) (id : Nat) (q : Query) : List Word → Option (State × Option Query)
  | [] => some (s, some (nextRound q))
  | e :: es =>
    if q.vis.contains e then startEntries s t id q es
    else match nodeStep s t id q q.engine e false with
      | .hold => none
      | .need s1 => some (s1, none)
      | .fail s1 st => some (s1, some { q with status := some st })
      | .ok s1 d p _ =>
        match visit q e d p with
        | none => some (s1, some { q with status := some 2 })
        | some q1 => startEntries s1 t id q1 es

/-- The first of its engine's queries that waits for a place. -/
def nextToStart (s : State) (id : Nat) (q : Query) : Bool :=
  !q.started && !s.queries.any (fun p => p.2.engine == q.engine && !p.2.started && decide (p.1 < id))

/-- A query ended by a failing step. -/
def Query.ended (q : Query) (st : Nat) : Query := { q with status := some st, denied := [] }

/-- QUERY_START: the descriptor, the checks of R153, the version granule where its read was not recorded at issue, the query
vector, then the entry ids. R466 takes the reads of descriptor and vector as one step; that the checks of R153 are made between
the two is the model's choice (log entry 80). -/
def queryStart (s : State) (id : Nat) : Option State :=
  match mget s.queries id with
  | none => none
  | some q =>
    match task s q.tid with
    | none => some { s with queries := mdel s.queries id }
    | some t =>
      if !nextToStart s id q || q.status.isSome || hasNeed s (.query id) || !earlierDone s q.tid q.g id then none
      else
        let q0 := { q with started := true }
        let fin := fun (s : State) (q : Query) (st : Nat) => some (setQuery s id (q.ended st))
        if q.addr % 64 ≠ 0 then fin s q0 0x10
        else match levRead s t id q q.engine none (byteRange q.addr 64) [] with
          | .hold => none
          | .need s1 => some s1
          | .fail s1 st _ => fin s1 q0 st
          | .ok s1 m =>
            let hdr := bytesNum m q.addr 64
            let q1 := { q0 with read := true, hdr := BitVec.ofNat 512 hdr,
                                graph := mget (tenant s1 q.tenant).graphs (nb hdr 186 6) }
            if queryBad q1 then fin s1 q1 0x10
            else
              let (s2, frames, off, ps) := spillPages s1 t q1
              if !ps.isEmpty then some (needAll s2 t.tenant (.query id) true 4 ps)
              else if off then fin s2 q1 0x10
              else
                let (s3, v) := if q1.verSeen then (s2, none) else versionRead s2 t q.user (qGr q1)
                match (if deniedPage q (gVer (qGr q1)) then none else v) with
                | some v => some (needAll s3 t.tenant (.query id) false 4 [(gVer (qGr q1), v)])
                | none =>
                  let q2 := { q1 with spill := frames, verSeen := true }
                  -- the granule's read stays recorded while the vector is waited for
                  let kept := fun (s : State) => setQuery s id { q with verSeen := true }
                  match levRead s3 t id q q.engine none (byteRange (q.addr + 64) (4 * qDims q1)) [] with
                  | .hold => if q.verSeen then none else some (kept s3)
                  | .need s4 => some (kept s4)
                  | .fail s4 st _ => fin s4 q2 st
                  | .ok s4 m2 =>
                    let q3 := { q2 with
                      qv := (upTo (qDims q1)).map (fun j => BitVec.ofNat 32 (bytesNum m2 (q.addr + 64 + 4 * j) 4)) }
                    match startEntries s4 t id q3 ((upTo (qEntryN q3)).map (qEntry q3)) with
                    | none => if q.verSeen then none else some (kept s3)
                    | some (s5, some q4) => some (setQuery s5 id (if q4.status.isSome then { q4 with denied := [] } else q4))
                    | some (s5, none) => some (kept s5)

def execQueryStart (id : Nat) (s : State) : Outcome State Fault Refusal := fire (queryStart s id) s

/-! ### EXPANSION_REQUEST and EXPANSION_REPLY -/

/-- The neighbours' steps in list order: the triples so far, and how it ended. -/
def neighbours (s : State) (t : Task) (id : Nat) (q : Query) (e : Nat) : List Word → List (Word × Word × Bool) →
    List (Word × Word × Bool) × NodeOut
  | [], acc => (acc, .ok s 0 false [])
  | v :: vs, acc =>
    match nodeStep s t id q e v false with
    | .ok s1 d p _ => neighbours s1 t id q e vs (acc ++ [(v, d, p)])
    | o => (acc, o)

/-- An expansion, by the home engine of its node (R155). -/
def expand (s : State) (t : Task) (id : Nat) (q : Query) (c : Word) : List (Word × Word × Bool) × NodeOut :=
  let e := gHome (qGr q) c
  match nodeStep s t id q e c true with
  | .ok s1 _ _ ids => neighbours s1 t id q e ids []
  | o => ([], o)

/-- The expansion that is served, or the reply that arrives: any one that is outstanding (R155, R343), by a free value. -/
def outstanding (s : State) (l : List Word) : State × Option Word :=
  match l with
  | [] => (s, none)
  | [c] => (s, some c)
  | c :: _ => let (s1, w) := takeFree s; (s1, some (l.getD (w.toNat % l.length) c))

def expansionRequest (s : State) (id : Nat) : Option State :=
  match mget s.queries id with
  | none => none
  | some q =>
    match task s q.tid, outstanding s q.asked with
    | some t, (s0, some c) =>
      let done := fun (s : State) (ts : List (Word × Word × Bool)) (st : Option Nat) =>
        some (setQuery s id { q with asked := q.asked.filter (fun x => x != c), reps := q.reps ++ [(c, ts, st)] })
      if q.status.isSome || hasNeed s (.query id) then none
      else match expand s0 t id q c with
        | (_, .hold) => none
        | (_, .need s1) => some s1
        | (ts, .fail s1 st) => done s1 ts (some st)
        | (ts, .ok s1 _ _ _) => done s1 ts none
    | _, _ => none

def execExpansionRequest (id : Nat) (s : State) : Outcome State Fault Refusal := fire (expansionRequest s id) s

def expansionReply (s : State) (id : Nat) : Option State :=
  match mget s.queries id with
  | none => none
  | some q =>
    match outstanding s (q.cand.filter (fun c => q.reps.any (fun r => r.1 == c))) with
    | (s1, some c) =>
      if q.status.isSome then none else some (setQuery s1 id { q with cand := q.cand.filter (fun x => x != c) })
    | (_, none) => none

def execExpansionReply (id : Nat) (s : State) : Outcome State Fault Refusal := fire (expansionReply s id) s

/-! ### ROUND_MERGE -/

/-- The triples of the steps before the first failing one, and its status (R466). -/
def roundTriples : List (Word × List (Word × Word × Bool) × Option Nat) → List (Word × Word × Bool) × Option Nat
  | [] => ([], none)
  | (_, ts, some st) :: _ => (ts, some st)
  | (_, ts, none) :: l => let (us, st) := roundTriples l; (ts ++ us, st)

/-- The bytes that newly visited ids take in the spill region. -/
def spillBytes (q : Query) (before : Nat) : Map Byte :=
  let first := max 8192 before
  ((q.vis.drop first).zipIdx.flatMap (fun p =>
    (leBytes 4 p.1.toNat).zipIdx.map (fun b => (qSpill q + 4 * (first - 8192 + p.2) + b.2, b.1))))

/-- The round merged, before the spill region is written: the replies in the order of C, which is that of B (R466). Where a step
failed and the merge of the earlier steps finds V full, that the failing step's status stands is the model's choice (log entry
81). -/
def mergedRound (q : Query) : Query :=
  let (ts, st) := roundTriples (q.beam.filterMap (fun x => q.reps.find? (fun r => r.1 == x.2.1)))
  let q1 := mergeTriples { q with reps := [] } (sortTriples ts)
  match st with
  | some k => q1.ended k
  | none => if q1.status.isSome then q1 else nextRound q1

/-- The query at the first id that the spill region could not take. -/
def spillFailed (q : Query) (before va : Nat) : Query :=
  let q1 := mergedRound q
  { q1 with vis := q1.vis.take (max before (8192 + (va - qSpill q) / 4)), status := some 0x11, cand := [], asked := [],
            rounds := q.rounds, hops := q.hops, denied := [] }

def roundMerge (s : State) (id : Nat) : Option State :=
  match mget s.queries id with
  | none => none
  | some q =>
    match task s q.tid with
    | none => none
    | some t =>
      if q.status.isSome || !q.started || !q.cand.isEmpty || !q.asked.isEmpty || q.reps.isEmpty || hasNeed s (.query id) then none
      else
        let q1 := mergedRound q
        match levWrite s t id q (spillBytes q1 q.vis.length) with
        | .hold => none
        | .need s1 => some s1
        | .fail s1 _ va => some (setQuery s1 id (spillFailed q q.vis.length va))
        | .ok s1 _ => some (setQuery s1 id q1)

def execRoundMerge (id : Nat) (s : State) : Outcome State Fault Refusal := fire (roundMerge s id) s

/-! ### QUERY_COMPLETE and QUERY_CANCEL_ARRIVAL (R158, R159, R161) -/

def qCount (q : Query) (st : Nat) : Nat := if st < 3 then q.res.length else 0

/-- The result of R158 as bytes by address. -/
def resultBytes (q : Query) (st : Nat) : Map Byte :=
  let n := qCount q st
  let head := st + 2 ^ 32 * n + 2 ^ 64 * min q.rounds 65535 + 2 ^ 80 * min q.hops 65535 + 2 ^ 96 * (q.vis.length % 2 ^ 32)
  let entry := fun (i : Nat) =>
    match (if i < n then q.res[i]? else none) with
    | some (d, v) => v.toNat + 2 ^ 32 * d.toNat
    | none => 0xFFFFFFFF + 2 ^ 32 * 0x7F800000
  let bs := leBytes 16 head ++ (upTo (qK q)).flatMap (fun i => leBytes 8 (entry i))
  bs.zipIdx.map (fun p => (qRes q + p.2, p.1))

/-- The token of a query (R159 Table 7); a group that is not resident gets it when its context returns (R162). -/
def queryToken (s : State) (id : Nat) (q : Query) (st : Nat) : State :=
  if (task s q.tid).any (·.saved) then setQuery s id { q with status := some st, written := true, spill := [] }
  else
    let w := st * 2 ^ 24 + qCount q st * 2 ^ 16 + min q.rounds 65535
    writeToken { s with queries := mdel s.queries id } q.tid q.g q.tok (BitVec.ofNat 32 w)

/-- QUERY_COMPLETE. The engine of a query that was cancelled before its descriptor was read reads it for its RESADDR and K. A query
whose descriptor is misaligned or cannot be read, or whose RESADDR is misaligned, ends with its token alone, and one that ends
PARAM for its K fills as many entries as that field says: the spec leaves both open (log entry 82). -/
def queryComplete (s : State) (id : Nat) : Option State :=
  match mget s.queries id with
  | none => none
  | some q =>
    match task s q.tid, q.status with
    | some t, some st =>
      if q.written then (if t.saved then none else some (queryToken s id q st))
      else if hasNeed s (.query id) then none
      else if st = 3 ∧ !q.read ∧ q.addr % 64 = 0 then
        match levRead s t id q q.engine none (byteRange q.addr 64) [] with
        | .hold => none
        | .need s1 => some s1
        | .fail s1 _ _ => some (queryToken s1 id q 0x11)
        | .ok s1 m => some (setQuery s1 id { q with read := true, hdr := BitVec.ofNat 512 (bytesNum m q.addr 64) })
      else if !q.read || qRes q % 16 != 0 then some (queryToken s id q st)
      else match levWrite s t id q (resultBytes q st) with
        | .hold => none
        | .need s1 => some s1
        | .fail s1 _ _ => some (queryToken s1 id q 0x11)
        | .ok s1 _ => some (queryToken s1 id q st)
    | _, _ => none

def execQueryComplete (id : Nat) (s : State) : Outcome State Fault Refusal := fire (queryComplete s id) s

/-- A cancel takes effect before the result is written. -/
def queryCancelArrival (s : State) (id : Nat) : Option State :=
  match mget s.queries id with
  | none => none
  | some q =>
    if !q.cancelled || q.written || q.status == some 3 then none
    else
      some (setQuery (dropNeeds s (fun w => w == .query id)) id
        { q with started := true, status := some 3, cand := [], asked := [], reps := [], denied := [] })

def execQueryCancelArrival (id : Nat) (s : State) : Outcome State Fault Refusal := fire (queryCancelArrival s id) s

/-- Pages of a query that cannot be served: the step that meets one fails when it is taken again (R466). -/
def queryFail (s : State) (id : Nat) (pages : List Nat) : State :=
  { s with queries := mmod s.queries id (fun q => { q with denied := q.denied ++ pages }) }

end Sys2Proof.Machine
end

