-- ==== Sys2Proof/Machine/TraceOps.lean ====
section
/-! DEFINITION. The trace instructions (R319 to R324) and the Eventide's events: records taken (R127 to R130),
modifications (R132), windows (R133, R135, R143), commits (R137) and the ends of a propagation (R141, R142). -/

namespace Sys2Proof.Machine

open Host

/-! ### `tropen` (R319) -/

/-- STATE of island i (R443). -/
def islandState (s : State) (i : Nat) : Nat := nb (mregGet s (0xD40 + 4 * i)).toNat 8 3

/-- Eventide k may be bound to a trace: its island is ON (R444). -/
def eventideOn (s : State) (k : Nat) : Bool := islandState s (2 * k + 1) == 2

/-- The launches that an entry covers, in the order in which they were enqueued. -/
def insertOrd (p : Nat × Launch) : List (Nat × Launch) → List (Nat × Launch)
  | [] => [p]
  | q :: l => if p.2.ord < q.2.ord then p :: q :: l else q :: insertOrd p l

def coveredLaunches (s : State) (t c : Nat) : List (Nat × Launch) :=
  ((tenant s t).launches.filter (fun p => p.1 == c || p.2.trec.parent == c)).foldl (fun l p => insertOrd p l) []

/-- An entry that maps a page, now or once it is served (R382, R383), and gives it TRK or CONST. -/
def tracksEntry (n w0 w1 : Nat) : Bool :=
  (nb w0 0 2 == 3 || (nb w0 0 1 == 0 && (nb w0 1 3 == 1 || nb w0 1 3 == 2)) || (n == 4 && nb w0 0 2 == 1 && nb w0 11 1 == 1)) &&
  nb w1 9 2 != 0

/-- A region breaks R120. -/
def regionBad (s : State) (t root base lg : Nat) : Bool :=
  base % 2 ^ lg != 0 || decide (2 ^ 57 < base + 2 ^ lg) ||
  (tenant s t).traces.any (fun p => rangesMeet base (2 ^ lg) p.2.base (2 ^ p.2.lg)) ||
  spanAny tracksEntry 5 s t root 4 0 (base / 2 ^ 12, 2 ^ lg / 2 ^ 12)

/-- A new trace with its top-level tasks (R123, R125). -/
def openTrace (s : State) (t root base lg eventide target job : Nat) (graph : Bool) : Trace :=
  let tops := (coveredLaunches s t target).flatMap (fun p => (upTo p.2.trec.blocks).map (fun b => (p.1, p.2.trec, b)))
  let g := topUnit graph tops.length
  let tr : Trace :=
    { base := base, root := root, lg := lg, eventide := eventide, target := target, job := job, tstate := 0, part := none,
      ntop := tops.length, gap := g, rootCursor := if graph then 2 ^ 62 else 0, creexec := 0, cspliced := 0, cdiscard := 0,
      cnew := 0, viol := [], tasks := [], serial := 0, prop := none, rerec := false, dirty := true, wrote := 0 }
  tops.zipIdx.foldl (fun (tr : Trace) p =>
    let (i, r, b) := p.1
    (addRec tr true (TTask.new (originOf s t i r r.blocks) ((p.2 + 1) * g) ((p.2 + 2) * g) 0 r.entry r.args 0 b i 0 true false
      r.prio)).1) tr

def execTropen (h : Hdr) (r a : Reg) (e : SrcC) (lg : BitVec 5) (s : State) : Outcome State Fault Refusal :=
  run h 8 (⟨h.u, a, 2⟩ :: useC h.u e 1) [⟨true, r, 1⟩]
    (fun c s =>
      let base := pair (c.ra a 0 c.lead) (c.ra a 1 c.lead)
      let i := (c.c e c.lead).toNat
      let root := rootOf s c.task
      let k := clusterOf c.task.core
      let answer := fun (s : State) (st v : Nat) => Res.ok (wakeAll (c.putScal s r (statusWord st v)))
      if lg.toNat < 20 then .trap s causeIllegal c.bundle 0
      else match (if i < 4096 then counter s c.ten i else none) with
        | none => answer s 6 0
        | some x =>
          if x.status != .open || (x.level != 1 && x.level != 2) then answer s 6 0
          else if x.began then answer s 0x0A 0
          else if regionBad s c.ten root base lg.toNat then answer s 9 0
          else match firstKey (fun n => (trOf s c.ten n).isNone) 16 0 with
            | none => answer s 8 0
            | some n =>
              if !eventideOn s k then .wait s
              else
                let tr := openTrace s c.ten root base lg.toNat k i (jobOf s c.ten c.task.launch) (x.level == 2)
                let s1 := (coveredLaunches s c.ten i).foldl (fun s p => freeTrw s c.ten p.1) (setTr s c.ten n tr)
                match writeTraceOr s1 c.ten n with
                | .ok s2 => answer s2 0 n
                | .wait s2 => answer s2 0 n
                | .bad s2 _ _ => answer s2 0 n) s

/-! ### `trclose`, `trstat`, `trmark` (R320, R323, R324) -/

/-- TSTATE CLOSED; a top-level task that has never run will not be recorded (log entry 28). -/
def closeTrace (tr : Trace) : Trace :=
  { tr with tstate := 1, dirty := true,
            tasks := tr.tasks.map (fun p => (p.1, if p.2.state = 0 then { p.2 with state := 1 } else p.2)) }

def execTrclose (h : Hdr) (r a : Reg) (free : Bool) (s : State) : Outcome State Fault Refusal :=
  run h 8 [⟨h.u, a, 1⟩] [⟨true, r, 1⟩]
    (fun c s =>
      let n := (c.ra a 0 c.lead).toNat
      match trOf s c.ten n with
      | none => .ok (c.putScal s r (statusWord 8 0))
      | some tr =>
        if recording s c.ten n || tr.prop.isSome then .wait s
        else
          let s1 := if tr.tstate = 1 && !tr.dirty then s else setTr s c.ten n (closeTrace tr)
          match writeTraceOr s1 c.ten n with
          | .ok s2 =>
            .ok (wakeAll (c.putScal (if free then destroyTrace s2 c.ten n else s2) r (statusWord 0 0)))
          | .wait s2 => .wait s2
          | .bad s2 _ _ => .wait s2) s

/-- One count of a header, or the state word. -/
def trstatWord (tr : Trace) (sel : Nat) : Nat :=
  match sel with
  | 0 => (tr.tasks.filter (fun p => p.2.state == 2)).length
  | 1 => tr.creexec % 2 ^ 24
  | 2 => tr.cspliced % 2 ^ 24
  | 3 => tr.cdiscard % 2 ^ 24
  | 4 => tr.cnew % 2 ^ 24
  | 5 => nusedOf tr
  | 6 => min tr.viol.length 255
  | _ => tstateNow tr + 2 ^ 3 * tr.part.isSome.toNat

def execTrstat (h : Hdr) (d a : Reg) (sel : BitVec 3) (s : State) : Outcome State Fault Refusal :=
  run h 8 [⟨h.u, a, 1⟩] [⟨h.u, d, 1⟩]
    (fun c s =>
      .ok (c.putAll s d [match trOf s c.ten (c.ra a 0 c.lead).toNat with
        | none => 0xFFFFFFFF
        | some tr => BitVec.ofNat 32 (trstatWord tr sel.toNat)])) s

/-- The modification takes the place of a store: behind the core's own bytes of the line, as an empty write. -/
def markGranule (s : State) (t : Task) (va pa : Nat) (x : Xl) : State :=
  if x.trk && !x.const then
    let d := dieOf t.core
    sendWrite (flushLine s t.core pa) d x.key t.tenant (pa / lineBytes) [] none
      (gransOf x (rootOf s t) va 1 (t.traced.map (·.1)))
  else s

def execTrmark (h : Hdr) (a : Reg) (off : SrcB) (s : State) : Outcome State Fault Refusal :=
  run h off.len (⟨h.u, a, 2⟩ :: useB h.u off 1) []
    (fun c s =>
      let va := c.gaddr a off c.lead
      if 2 ^ 57 ≤ va then .trap s causeProt c.leadSet (va % 2 ^ 57)
      else if logHolds c.grp [va / 2 ^ 12] then .wait s
      else match access s (.core c.task.core) c.ten (rootOf s c.task) va
          { r := false, w := true, x := false, user := c.user } with
        | (s1, .serve v) => .wait (addNeed s1 c.ten (.group c.tid c.g) v true va 0)
        | (s1, .fail cause) => .trap (reportPages s1 c.task c.g 0 cause false true [va / 2 ^ 12]) cause c.leadSet va
        | (s1, .ok pa x) => .ok (wakeAll (markGranule s1 c.task va pa x))) s

/-! ### `prop` and `trfork` (R321, R322) -/

def execProp (h : Hdr) (t a : Reg) (s : State) : Outcome State Fault Refusal :=
  run h 8 [⟨h.u, a, 1⟩] []
    (fun c s =>
      let n := (c.ra a 0 c.lead).toNat
      let k := scalIdx t
      if tokenTaken c t then c.refuse s causeToken
      else handover c s (fun s1 =>
        let s2 := pendToken s1 c.tid c.g k
        match trOf s2 c.ten n with
        | none => .ok (writeToken s2 c.tid c.g k (statusWord 8 0))
        | some tr =>
          let p : PropRun := match tr.prop with
            | some p => { p with others := p.others ++ [(c.tid, c.g, k)] }
            | none => { tid := c.tid, g := c.g, tok := k, job := chargeJob s2 c.task, root := rootOf s2 c.task,
                        started := false, others := [], cancelled := false }
          .ok (wakeAll (setTr s2 c.ten n { tr with prop := some p })))) s

/-- Copy-on-write shares of a trace's spans placed in another root. -/
def shareTrace (s : State) (t root child : Nat) (spans : List Span) : Option State :=
  if root = child then some s
  else
    (spans.foldl (fun (acc : Option State) sp => acc.bind (fun s => shareSpan 5 s t root child 4 0 sp)) (some s)).map
      (fun s1 => shootSpans s1 t spans)

def execTrfork (h : Hdr) (r a : Reg) (b : SrcB) (s : State) : Outcome State Fault Refusal :=
  run h b.len (⟨h.u, a, 1⟩ :: useB h.u b 1) [⟨true, r, 1⟩]
    (fun c s =>
      let n := (c.ra a 0 c.lead).toNat
      let j := (c.b b c.lead).toNat
      let answer := fun (s : State) (st v : Nat) => Res.ok (wakeAll (c.putScal s r (statusWord st v)))
      match trOf s c.ten n, firstKey (fun k => (trOf s c.ten k).isNone) 16 0 with
      | some tr, some k =>
        if !(decide (j < 4096) && (counter s c.ten j).any (fun x => x.status == .open && x.level == 4)) then answer s 6 0
        else if tr.prop.isSome || recording s c.ten n then .wait s
        else if !eventideOn s (clusterOf c.task.core) then .wait s
        else if (traceSpans tr).any (fun sp => spanState s c.ten tr.root sp == .window) then .wait s
        else
          let s1 := (s.cores.map (·.1)).foldl (fun s c => writeBackAll s c) s
          if !s1.wq.isEmpty then .wait s1
          else match shareTrace s1 c.ten tr.root (rootOfEntry s1 c.ten j) (traceSpans tr) with
            | none => answer s1 0x0B 0
            | some s2 => answer (forkTrace s2 c.ten n (rootOfEntry s2 c.ten j) (clusterOf c.task.core) j) 0 k
      | _, _ => answer s 8 0) s

/-! ### The ends of a propagation -/

/-- The fixed point, or an early end: every token of the propagation is written (R141, R321), unless a
reset ends it (R377). -/
def closeProp (s : State) (t h status : Nat) : State :=
  match trOf s t h with
  | none => s
  | some tr =>
    let s1 := match (if (tenant s t).resetting then none else tr.prop) with
      | none => s
      | some p => ((p.tid, p.g, p.tok) :: p.others).foldl (fun (s : State) (k : Nat × Nat × Nat) =>
          writeToken s k.1 k.2.1 k.2.2 (statusWord status tr.creexec)) s
    let ts := tr.tasks.map (fun p =>
      (p.1, { p.2 with win := false, squashBy := none, old := false, rerun := false, fresh := false, born := false }))
    setTr s1 t h { tr with prop := none, tasks := ts }

/-- What an early end leaves of a trace (R142): live members restored, waiting ones STALE, PARTIAL from the lowest label
not committed. -/
def endedEarly (q : List TrEvent) (tr : Trace) : TrAct :=
  let low := (byLabel tr).find? (fun p => p.2.busy)
  let a := squash q ((tr.tasks.filter (fun p => p.2.live)).map (·.1)) none { tr := tr, undo := [], kill := [] }
  let waiting := (a.tr.tasks.filter (fun p => p.2.state == 3)).map (·.1)
  let still := a.tr.tasks.map (fun p =>
    (p.1, if p.2.state = 3 then { p.2 with state := 2 } else if p.2.state = 6 then { p.2 with state := 1 } else p.2))
  let tr1 := { a.tr with tasks := still }
  let tr2 := match low with
    | some p => markPartial tr1 p.2.label
    | none => tr1
  { a with tr := tr2, kill := a.kill ++ waiting }

/-- A propagation ends before its fixed point, CANCELLED or FAULTED. Granules that cannot be reached are left. -/
def stopProp (s : State) (t h status : Nat) : Plan :=
  match trOf s t h with
  | none => .ok s
  | some tr =>
    let a := endedEarly ((tenant s t).trq.filter (evOf h)) tr
    match applyAct s t h a with
    | .ok s1 => .ok (closeProp s1 t h status)
    | .wait s1 => .wait s1
    | .bad s1 cause va =>
      match applyAct (reportEventide s1 t tr cause va) t h { a with undo := [] } with
      | .ok s2 => .ok (closeProp s2 t h 0x0C)
      | q => q

/-- An action of the Eventide that may fail: a propagation that meets a fault which cannot be served ends FAULTED. -/
def orFault (t h : Nat) : Plan → Option State
  | .ok s => some s
  | .wait s => some s
  | .bad s cause va =>
    match trOf s t h with
    | none => some s
    | some tr =>
      match stopProp (reportEventide s t tr cause va) t h 0x0C with
      | .ok s1 => some s1
      | .wait s1 => some s1
      | .bad s1 _ _ => some s1

/-! ### TRACE_RECORD -/

/-- The oldest record taken; with none on its way, the records of a trace written. Loads from the region of an OPEN or PROPAGATING
trace may return any mix of old and new record bytes (R122); that all records reach the region together, at `tropen` and at
these turns, is the model's choice (log entry 77). -/
def traceRecord (s : State) (t : Nat) : Option State :=
  match (tenant s t).trq with
  | e :: q =>
    let h := (match e with
      | .read h _ _ => h
      | .write h _ _ _ => h)
    let s0 := modTenant s t (fun x => { x with trq := q })
    match trOf s t h with
    | none => some s0
    | some tr =>
      let back := fun (s : State) => modTenant s t (fun x => { x with trq := e :: x.trq })
      match withRoom s0 t h (evTask e) tr (recordEvent (q.filter (evOf h)) e tr) with
      | .ok s1 => some s1
      | .wait s1 => some (back s1)
      | .bad s1 cause va => orFault t h (.bad s1 cause va)
  | [] =>
    match (tenant s t).traces.find? (fun p => p.2.dirty) with
    | none => none
    | some (h, _) => orFault t h (writeTraceOr s t h)

def execTraceRecord (t : Nat) (s : State) : Outcome State Fault Refusal := fire (traceRecord s t) s

/-! ### MODIFICATION_RECORD (R132, R140) -/

/-- The leaf entry through which an address is reached. -/
def slotOf (s : State) (t root va : Nat) : Option Nat := (pathOf s t root va).getLast?

/-- The record reaches the trace: another trace's or an untraced store, to the page that the trace sees. -/
def modReaches (s : State) (t h : Nat) (tr : Trace) (x : Gran) : Bool :=
  x.own != some h && (x.root == trRoot tr || slotOf s t x.root (32 * x.gran) == slotOf s t (trRoot tr) (32 * x.gran))

/-- The oldest record goes to every trace of its tenant: first what must be reached, then the changes. -/
def modificationRecord (s : State) : Option State :=
  match s.modq with
  | [] => none
  | m :: ms =>
    if !(tenant s m.tenant).trq.isEmpty then none
    else
      let t := m.tenant
      let acts := ((tenant s t).traces.filter (fun p => modReaches s t p.1 p.2 m.what)).map (fun p =>
        (p.1, modifyGran [] m.what.gran p.2))
      let plan := acts.foldl (fun (p : Plan) a => match p with
        | .ok s1 => reachAll s1 t a.1 (trRoot a.2.tr) (a.2.undo.map (fun w => 32 * w.gran))
        | q => q) (.ok s)
      match plan with
      | .ok s1 =>
        some (acts.foldl (fun (s : State) a => match applyAct s t a.1 a.2 with
          | .ok s2 => s2
          | .wait s2 => s2
          | .bad s2 _ _ => s2) { s1 with modq := ms })
      | .wait s1 => some s1
      | .bad s1 cause va =>
        match acts.find? (fun a => !a.2.undo.isEmpty) with
        | some a => orFault t a.1 (.bad s1 cause va)
        | none => some { s1 with modq := ms }

def execModificationRecord (s : State) : Outcome State Fault Refusal := fire (modificationRecord s) s

/-! ### WINDOW_FORM (R133, R135, R143) -/

/-- A task's parent has matched it in its current re-execution; its parent is uncommitted. -/
def matchedNow (tr : Trace) (r : Nat) (k : TTask) : Bool :=
  (mget tr.tasks k.parent).any (fun p => p.live && p.nkids.contains r)
def mayRun (tr : Trace) (r : Nat) (k : TTask) : Bool :=
  !(mget tr.tasks k.parent).any TTask.busy || matchedNow tr r k

/-- The members of a new window: STALE tasks in label order up to the first stop. -/
def windowOf (tr : Trace) : Nat → List Nat → List Nat → List (Nat × TTask) → List Nat
  | 0, taken, _, _ => taken
  | _, taken, _, [] => taken
  | n + 1, taken, writes, (r, k) :: l =>
    if k.rd.any writes.contains || !mayRun tr r k then taken
    else windowOf tr n (taken ++ [r]) (writes ++ k.wr.map (·.gran)) l

/-- The top-level tasks that R143 records afresh: from the one that contains PLABEL, those that have run. -/
def staleTops (tr : Trace) (l : Nat) : List (Nat × TTask) :=
  let tops := (byLabel tr).filter (fun p => p.2.top)
  let first := ((tops.filter (fun p => decide (p.2.label ≤ l))).getLast?.map (fun p => p.2.label)).getD 0
  tops.filter (fun p => decide (first ≤ p.2.label) && p.2.state != 0)

/-- R143: records discarded, later tasks first, and the top-level tasks placed again as STALE ones without records. -/
def startAfresh (tr : Trace) : TrAct :=
  match tr.part with
  | none => { tr := tr, undo := [], kill := [] }
  | some l =>
    let tops := staleTops tr l
    let a := tops.reverse.foldl (fun a p => discard [] p.1 a) { tr := tr, undo := [], kill := [] }
    let tr1 := tops.foldl (fun (tr : Trace) p =>
      (addRec { tr with cnew := tr.cnew + 1 } true { TTask.new p.2.org p.2.label p.2.limit 0 p.2.entry p.2.args 0 p.2.blk
        p.2.launch 2 true true p.2.prio with fresh := true }).1) { a.tr with rerec := true }
    { a with tr := tr1 }

/-- The header's counts and flags at the start of a propagation. -/
def freshCounts (tr : Trace) (p : PropRun) : Trace :=
  { tr with creexec := 0, cspliced := 0, cdiscard := 0, cnew := 0, prop := some { p with started := true },
            tasks := tr.tasks.map (fun q => (q.1, { q.2 with newt := false, rerun := false, fresh := false, win := false,
                                                             squashBy := none, old := false, born := false })) }

/-- Members that go to the spawn store now: squashed ones that may restart, and STALE tasks below an uncommitted member;
with no member uncommitted, a new window. -/
def nextMembers (tr : Trace) : List Nat :=
  let open_ := tr.tasks.filter (fun p => p.2.busy && p.2.win)
  let stale := (byLabel tr).filter (fun p => p.2.state == 2)
  if open_.isEmpty then windowOf tr 64 [] [] stale
  else
    (stale.filter (fun p => mayRun tr p.1 p.2 &&
      (if p.2.win then mayRestart tr p.2 else open_.any (fun m => decide (p.2.label < m.2.label))))).map (·.1)

def windowForm (s : State) (t h : Nat) : Option State :=
  match trOf s t h with
  | none => none
  | some tr =>
    match tr.prop with
    | none => none
    | some p =>
      let quiet := !(tenant s t).trq.any (evOf h) && !s.modq.any (fun m => m.tenant == t)
      if hasNeed s (.eventide h) || (tenant s t).resetting then none
      else if p.cancelled then orFault t h (stopProp s t h 0x0D)
      else if !p.started then
        if recording s t h || !quiet then none
        else orFault t h (applyAct s t h (startAfresh (freshCounts tr p)))
      else
        match nextMembers tr with
        | r :: rs => if quiet then some ((r :: rs).foldl (fun s r => launchMember s t h r) s) else none
        | [] =>
          if tr.tasks.any (fun p => p.2.busy) || !quiet then none
          else
            let tr1 := if tr.rerec then { tr with part := none, rerec := false } else tr
            let s1 := setTr s t h tr1
            let done := fun (s : State) => closeProp s t h (if tr1.part.isSome then 0x0E else 0)
            if tr.tstate = 1 then
              match writeTraceOr s1 t h with
              | .ok s2 => some (done s2)
              | .wait s2 => some s2
              | .bad s2 _ _ => some (done s2)
            else some (done s1)

def execWindowForm (t h : Nat) (s : State) : Outcome State Fault Refusal := fire (windowForm s t h) s

/-! ### TASK_COMMIT (R137) -/

/-- The lowest uncommitted task commits when it is ENDED and everything that reached the Eventide before is taken. -/
def taskCommit (s : State) (t h : Nat) : Option State :=
  match trOf s t h with
  | none => none
  | some tr =>
    if !propagating tr || (tenant s t).resetting || tr.prop.any (·.cancelled) || hasNeed s (.eventide h) || (tenant s t).trq.any (evOf h) || s.modq.any (fun m => m.tenant == t) then
      none
    else match (byLabel tr).find? (fun p => p.2.busy) with
      | none => none
      | some (r, k) =>
        if k.state != 5 then none
        else
          let s1 := drainWrites s.wq.length s
          orFault t h (applyAct s1 t h (commitTask [] (granNow s1 t (trRoot tr)) r tr))

def execTaskCommit (t h : Nat) (s : State) : Outcome State Fault Refusal := fire (taskCommit s t h) s

end Sys2Proof.Machine
end

