-- ==== Sys2Proof/Machine/System.lean ====
section
/-! DEFINITION. The system instructions (R328 to R331) and the CSRs: which there are, which bits software writes, and what
a write does (R27, R41, R63, R260, R385, R410, R421, R425). -/

namespace Sys2Proof.Machine

open Host

/-! ### The CSRs -/

/-- A CSR of a group (R63 Table 9). -/
def csrOfGroup (c : Nat) : Bool := decide (0x026 ≤ c) && decide (c ≤ 0x02C)

/-- The bits of a tenant's CSR that software writes and that then hold what was written; none for a number that names no CSR
of a tenant. -/
def csrMask (c : Nat) : Option Nat :=
  let hi := 2 ^ 25 - 1
  let page := 2 ^ 32 - 2 ^ 12
  match c with
  | 0x010 => some 0
  | 0x020 => some 3
  | 0x021 => some (2 ^ 16 - 1)
  | 0x022 => some 0x3F
  | 0x024 => some (2 ^ 32 - 4)
  | 0x025 => some hi
  | 0x030 => some page
  | 0x031 => some hi
  | 0x032 => some (2 ^ 16 - 1)
  | 0x033 => some (2 ^ 31 - 1)
  | 0x040 => some (2 ^ 32 - 2 ^ 13)
  | 0x041 => some 0xFF00007F
  | 0x042 => some page
  | 0x043 => some hi
  | 0x044 => some 0x1F
  | 0x045 => some (2 ^ 32 - 1)
  | 0x046 => some 0
  | 0x047 => some 0
  | 0x048 => some (2 ^ 32 - 2 ^ 16)
  | 0x049 => some hi
  | 0x04A => some (2 ^ 24 - 1)
  | 0x04B => some page
  | 0x04C => some hi
  | 0x04D => some 0x1F
  | 0x04E => some 0
  | 0x050 => some 1
  | 0x051 => some 0
  | 0x052 => some 0x0FFFFFFF
  | 0x053 => some (2 ^ 32 - 2 ^ 21)
  | 0x054 => some hi
  | 0x055 => some page
  | 0x056 => some hi
  | 0x057 => some 0x1F
  | 0x058 => some (2 ^ 32 - 1)
  | 0x059 => some 0
  | 0x05A => some 1
  | 0x060 => some 0xF9F
  | 0x061 => some 0
  | 0x062 => some 0x8003FFFF
  | 0x063 => some (2 ^ 21 - 1)
  | 0x064 => some (2 ^ 24 - 1)
  | 0x065 => some (2 ^ 32 - 1)
  | 0x068 | 0x06C | 0x070 | 0x074 => some (2 ^ 32 - 3)
  | 0x069 | 0x06D | 0x071 | 0x075 => some hi
  | 0x06A | 0x06E | 0x072 | 0x076 => some (2 ^ 31 + 0xFFF)
  | 0x06B | 0x06F | 0x073 | 0x077 => some (2 ^ 24 - 1)
  | 0x078 => some page
  | 0x079 => some hi
  | 0x07A => some 0x1F
  | 0x07B => some (2 ^ 32 - 1)
  | 0x07C => some 0
  | 0x07D => some (2 ^ 32 - 1)
  | 0x080 => some page
  | 0x081 => some hi
  | 0x082 => some 0x1F
  | 0x083 => some (2 ^ 32 - 1)
  | 0x084 => some 0
  | 0x085 => some (2 ^ 24 - 1)
  | 0x086 => some (2 ^ 32 - 1)
  | 0x087 => some (2 ^ 32 - 1)
  | 0x088 => some page
  | 0x089 => some hi
  | 0x08A => some 0x1F
  | 0x08B => some (2 ^ 32 - 1)
  | 0x08C => some 0
  | _ => none

/-- Bits that a written 1 clears. -/
def csrClears (c : Nat) : Nat :=
  match c with
  | 0x033 => 2 ^ 31
  | 0x05A => 2
  | 0x061 => 2 ^ 8
  | _ => 0

/-- What a read gives: DEVINFO and FPFREE are formed, PQSET reads as 0 (R10). -/
def csrValue (s : State) (t c : Nat) : Word :=
  match c with
  | 0x010 => devinfo s
  | 0x047 => BitVec.ofNat 32 (tenant s t).frames.length
  | 0x052 => 0
  | _ => csrGet s t c

/-- A value whose field lies outside its range leaves it unchanged (R41, R425). -/
def csrInRange (c w : Nat) : Bool :=
  match c with
  | 0x021 => nb w 0 16 != 0
  | 0x022 => decide (16 ≤ nb w 0 6) && decide (nb w 0 6 ≤ 47)
  | 0x085 => decide (1024 ≤ nb w 0 24)
  | _ => true

/-- A DET launch of the tenant is running: dispatched, and not yet in a final status (R260). -/
def detRuns (s : State) (t : Nat) : Bool :=
  (tenant s t).launches.any (fun p => p.2.trec.det && p.2.next != 0 &&
    (counter s t p.1).any (fun c => c.status == .open || decide (c.done < c.target)))

/-- A write that its CSR ignores now: the arena window with a live allocation (R385), PMODE with a block or a saved context
(R410), the base or size of an enabled ring (R425), DBGCMD while a command runs (R430). -/
def csrLocked (s : State) (t c : Nat) : Bool :=
  if 0x048 ≤ c ∧ c ≤ 0x04A then !(tenant s t).arenas.isEmpty
  else if c = 0x050 then s.tasks.any (fun p => p.2.tenant == t)
  else if 0x078 ≤ c ∧ c ≤ 0x07A then nb (csrGet s t 0x060).toNat 2 1 == 1
  else if 0x080 ≤ c ∧ c ≤ 0x082 then nb (csrGet s t 0x060).toNat 3 1 == 1
  else if 0x088 ≤ c ∧ c ≤ 0x08A then
    decide (6 ≤ nb (csrGet s t 0x08A).toNat 0 5) && decide (nb (csrGet s t 0x08A).toNat 0 5 ≤ 16)
  else if c = 0x062 then nb (csrGet s t 0x061).toNat 31 1 == 1
  else false

/-- PQSET: a tenant's quantum (R410). -/
def setQuantum (s : State) (w : Word) : State := csrSet s (nb w.toNat 24 4) 0x051 (BitVec.ofNat 32 (nb w.toNat 0 24))

/-- A CSR's bits after a write of w. -/
def csrMerge (old w : Word) (mask clears : Nat) : Word :=
  let m := BitVec.ofNat 32 mask
  ((old &&& ~~~ m) ||| (w &&& m)) &&& ~~~ (w &&& BitVec.ofNat 32 clears)

/-- A CSR written; translations cached under the tenant root stay those of the tenant root (R385). -/
def csrStore (s : State) (t c : Nat) (w : Word) : State :=
  let s1 := csrSet s t c (csrMerge (csrGet s t c) w ((csrMask c).getD 0) (csrClears c))
  if c = 0x040 ∨ c = 0x041 then retagRoot s1 t (tenantRoot s t) (tenantRoot s1 t) else s1

/-- STARVE of every entry of the tenant at 0, as it stays while FAIR is 0 (R39). -/
def clearStarve (s : State) (t : Nat) : State :=
  let none_ := fun (es : List Entry) => es.map (fun e => { e with starve := 0 })
  { s with tasks := s.tasks.map (fun p => (p.1, if p.2.tenant != t then p.2 else
      { p.2 with groups := p.2.groups.map (fun q => (q.1, { q.2 with
          front := none_ q.2.front, trap := q.2.trap.map (fun m => { m with hfront := none_ m.hfront }) })) })) }

/-- A write at tenant supervisor level of a CSR that software may write. -/
def csrPut (s : State) (t c : Nat) (w : Word) : State :=
  if csrLocked s t c || !csrInRange c w.toNat then s
  else if c = 0x052 then setQuantum s w
  else if 0x030 ≤ c ∧ c ≤ 0x032 ∧ detRuns s t then
    modTenant s t (fun x => { x with heldCsr := x.heldCsr.filter (fun p => p.1 != c) ++ [(c, w)] })
  else
    let s1 := csrStore (if 0x030 ≤ c ∧ c ≤ 0x032 then
      modTenant s t (fun x => { x with heldCsr := x.heldCsr.filter (fun p => p.1 != c) }) else s) t c w
    if c = 0x020 ∧ nb w.toNat 0 1 = 0 then clearStarve s1 t
    else if c = 0x062 ∧ nb w.toNat 31 1 = 1 then csrSet s1 t 0x061 (csrGet s1 t 0x061 ||| 0x80000000)
    else s1

/-- How a CSR write ends. -/
inductive CsrOut where
  | ok (s : State)
  | priv
  | undef
  deriving DecidableEq, Repr

/-- `csrwr` to a CSR of the tenant (R329): a CSR without a field that software writes ignores writes at every level. -/
def csrWrite (s : State) (t c : Nat) (w : Word) (super : Bool) : CsrOut :=
  match csrMask c with
  | none => .undef
  | some m =>
    if m = 0 ∧ csrClears c = 0 then .ok s
    else if !super then .priv
    else if c = 0x052 ∧ t ≠ 0 then .priv
    else .ok (wakeAll (csrPut s t c w))

/-- A CSR of a group as read. -/
def groupCsr (g : Group) (c : Nat) : Word :=
  match c with
  | 0x026 => g.ecause.setWidth 32
  | 0x027 => lo32 g.epc.toNat
  | 0x028 => hi32 g.epc.toNat
  | 0x029 => g.emask
  | 0x02A => g.ebmask
  | 0x02B => lo32 g.eaddr.toNat
  | _ => hi32 g.eaddr.toNat

/-- EPC written, word by word; bits 1:0 are ignored. -/
def setEpc (g : Group) (c : Nat) (w : Word) : Group :=
  let e := g.epc.toNat
  { g with epc := BitVec.ofNat 57 (if c = 0x027 then e / 2 ^ 32 * 2 ^ 32 + w.toNat / 4 * 4
                                   else e % 2 ^ 32 + 2 ^ 32 * (w.toNat % 2 ^ 25)) }

/-- A ring's tail: a read that sees it advance acquires at package scope (R421, R434). -/
def csrTail (c : Nat) : Bool := c == 0x059 || c == 0x07C || c == 0x084 || c == 0x08C

def execCsrrd (h : Hdr) (d : Reg) (csr : BitVec 12) (s : State) : Outcome State Fault Refusal :=
  run h 12 [] [⟨h.u, d, 1⟩]
    (fun c s =>
      let n := csr.toNat
      if csrOfGroup n then .ok (c.putAll s d [groupCsr c.grp n])
      else if (csrMask n).isNone then .trap s causeIllegal c.bundle 0
      else if csrTail n then
        (if !acqReady c then .wait s else .ok (acqAct (c.putAll s d [csrValue s c.ten n]) c.task.core .package))
      else .ok (c.putAll s d [csrValue s c.ten n])) s

def execCsrwr (h : Hdr) (csr : BitVec 12) (a : Reg) (s : State) : Outcome State Fault Refusal :=
  run h 12 [⟨h.u, a, 1⟩] []
    (fun c s =>
      let n := csr.toNat
      let w := c.ra a 0 c.lead
      if csrOfGroup n then
        (if n = 0x027 ∨ n = 0x028 then
          (if c.user then c.refuse s causePriv else .ok (modGroup s c.tid c.g (fun x => setEpc x n w)))
        else .ok s)
      else match csrWrite s c.ten n w (!c.user) with
        | .ok s1 => .ok s1
        | .priv => c.refuse s causePriv
        | .undef => .trap s causeIllegal c.bundle 0) s

/-! ### Traps and returns (R328, R61) -/

def execTrap (h : Hdr) (n : Byte) (s : State) : Outcome State Fault Refusal :=
  run h 8 [] [] (fun c s => .trap s causeSoftware c.act n.toNat) s

def execRti (h : Hdr) (s : State) : Outcome State Fault Refusal :=
  run h 8 [] []
    (fun c s =>
      if c.user then .trap s causePriv c.act 0
      else
        let s1 := c.move s (fun es => dropLanes c.act
          (es.map (fun e => if e.id == c.ent.id then { e with pc := c.npc } else e)))
        let s2 := modGroup s1 c.tid c.g (fun x =>
          { x with trap := x.trap.map (fun tm => { tm with rti := tm.rti ||| c.act }) })
        .done (leaveTrap s2 c.tid c.g)) s

/-! ### `tlbinv` (R330) -/

/-- Accesses of a tenant that were translated before and have not completed at their home ports. -/
def oldAccesses (s : State) (t : Nat) : Bool :=
  s.wq.any (fun w => w.tenant == t) || s.reds.any (fun r => r.tenant == t && !r.accepted) ||
  s.tasks.any (fun p => p.2.tenant == t && p.2.groups.any (fun q => !q.2.loads.isEmpty))

/-- The shootdown after its fence: translations dropped, bytes on every core written back; it waits for what was
translated before. -/
def shootdown (c : Ctx) (s : State) (drop : State → State) : Res :=
  if c.user then c.refuse s causePriv
  else handover c s (fun s1 =>
    let s2 := (s1.cores.map (·.1)).foldl (fun s k => writeBackAll s k) (drop s1)
    if oldAccesses s2 c.ten then .wait s2 else .ok (wakeAll s2))

def execTlbinvPage (h : Hdr) (a : Reg) (off : SrcB) (s : State) : Outcome State Fault Refusal :=
  run h off.len (⟨h.u, a, 2⟩ :: useB h.u off 1) []
    (fun c s =>
      let va := c.gaddr a off c.lead
      if !c.user && decide (2 ^ 57 ≤ va) then .trap s causeProt c.leadSet (va % 2 ^ 57)
      else shootdown c s (fun s => shootPage s c.ten va)) s

def execTlbinvAll (h : Hdr) (long : Bool) (s : State) : Outcome State Fault Refusal :=
  run h (if long then 12 else 8) [] [] (fun c s => shootdown c s (fun s => shootAll s c.ten)) s

/-! ### `stop` and `smark` (R331, R429, R436) -/

def execStop (h : Hdr) (s : State) : Outcome State Fault Refusal :=
  run h 8 [] []
    (fun c s =>
      if nb (csrGet s c.ten 0x060).toNat 0 1 = 0 then .ok s
      else .ok (modTask s c.tid (fun t => { t with stopReq := some (t.stopReq.getD (1, 0)) }))) s

def execSmark (h : Hdr) (n : Byte) (a : Reg) (s : State) : Outcome State Fault Refusal :=
  run h 8 [⟨h.u, a, 1⟩] []
    (fun c s =>
      if !evOn s c.ten 5 c.user then .ok s
      else if evWait s c.ten 1 then .wait s
      else .ok (evPut s c.tid c.g 5 c.pc (c.ra a 0 c.lead) (n.setWidth 32) 0 0)) s

end Sys2Proof.Machine
end

