-- ==== Sys2Proof/Machine/Wake.lean ====
section
/-! DEFINITION. The ends of blocking waits (R37, R246, R250, R253, R256, R310): a blocked entry whose condition holds becomes
unblocked, with what its instruction then does. -/

namespace Sys2Proof.Machine

/-- An entry unblocked, past its instruction. -/
def freed (id len : Nat) (es : List Entry) : List Entry :=
  es.map (fun e => if e.id == id then { e with blk := none, pc := e.pc + BitVec.ofNat 57 len } else e)

def unblock (s : State) (tid g id len : Nat) : State :=
  modGroup s tid g (fun x =>
    { x with stall := false, front := freed id len x.front,
             trap := x.trap.map (fun tm => { tm with hfront := freed id len tm.hfront }) })

/-- The level at which a group's access is made. -/
def groupUser (t : Task) (g : Nat) : Bool := (mget t.groups g).all (fun x => x.trap.isNone)

/-- No load or logged access of the group is outstanding: an acquire may be made. -/
def groupQuiet (t : Task) (g : Nat) : Bool := (mget t.groups g).all (fun x => x.loads.isEmpty && x.oplog.isEmpty)

/-- A blocked entry put back before its instruction, which then meets what its access meets. -/
def reissue (s : State) (tid g id : Nat) : State :=
  let back := fun (es : List Entry) => es.map (fun e => if e.id == id then { e with blk := none } else e)
  modGroup s tid g (fun x =>
    { x with stall := false, front := back x.front, trap := x.trap.map (fun tm => { tm with hfront := back tm.hfront }) })

/-- Another entry of the group is blocked on the queue in the same way. -/
def othersPush (t : Task) (n g id : Nat) : Bool :=
  (taskWaits t).any (fun y => y.1 == g && y.2.1 != id && (match y.2.2.1 with
    | .push m _ _ => m == n
    | _ => false))
def othersPop (t : Task) (n g id : Nat) : Bool :=
  (taskWaits t).any (fun y => y.1 == g && y.2.1 != id && (match y.2.2.1 with
    | .pop m _ _ _ _ => m == n
    | _ => false))

/-- What a blocked entry does when its wait is over; none while it is not. -/
def wakeOne (s : State) (tid : Nat) (t : Task) (x : Nat × Nat × Wait × Nat) : Option State :=
  let (g, id, w, len) := x
  match w with
  | .bar n phase =>
    match mget t.bars n with
    | none => none
    | some o =>
      if scratchBad t o 16 then some (reissue s tid g id)
      else if barPhase t o = phase then none else some (unblock s tid g id len)
  | .push n entries ord =>
    match mget t.queues n with
    | none => none
    | some o =>
      if queueBad t o 0 then some (reissue s tid g id)
      else if !canPush t n o g entries.length ord then none
      else
        let t1 := entries.foldl (fun t ws => pushOne t n o g ws) t
        some (unblock (setTask s tid (qSetPushwait t1 o g (othersPush t n g id))) tid g id len)
  | .pop n d u act ord =>
    match mget t.queues n with
    | none => none
    | some o =>
      let k := if u then 1 else lcount act
      if queueBad t o 0 then some (reissue s tid g id)
      else if !canPop t n o k ord then none
      else if queueBad t o k then some (reissue s tid g id)
      else
        let (t1, es) := popMany o k t
        some (unblock (modGroup (setTask s tid (qSetPopwait t1 o g (othersPop t n g id))) tid g (putPopped u d act es)) tid g id len)
  | .chain va w ge scope =>
    if !groupQuiet t g then none
    else match laneCheck s t (groupUser t g) (.load 0 false .b32 false true false) (laneAcc 0 va va 0 []) with
      | (s1, .go la) =>
        (match chainRead s1 tid g t la with
         | none => none
         | some (s2, v) => if chainHolds v w ge then some (unblock (acqSeen s2 tid g t.core scope) tid g id len) else none)
      | _ => some (reissue s tid g id)
  | .tok =>
    if groupQuiet t g && tokenPos s t == .holds then some (unblock (acqAct s t.core .package) tid g id len) else none
  | .cnt p act _ idx thr =>
    if !groupQuiet t g then none
    else match cntHolds s t.tenant idx thr with
      | none => none
      | some v =>
        let s1 := modGroup s tid g (fun x => x.setPred p.toNat act (if v then 0xFFFFFFFF else 0))
        some (unblock (if v then acqAct s1 t.core .package else s1) tid g id len)

/-- A blocked entry of the frontier that issues: in trap mode the user frontier is frozen (R60). -/
def waitLive (t : Task) (x : Nat × Nat × Wait × Nat) : Bool :=
  (mget t.groups x.1).any (fun g => g.live.any (fun e => e.id == x.2.1))

/-- The first blocked entry of a running block whose wait is over. -/
def firstWake (s : State) : Option State :=
  s.tasks.findSome? (fun p =>
    if taskRuns s p.2 && p.2.run == .running then ((taskWaits p.2).filter (waitLive p.2)).findSome? (wakeOne s p.1 p.2) else none)

def settleFrom : Nat → State → State
  | 0, s => s
  | n + 1, s =>
    match firstWake s with
    | none => s
    | some s1 => settleFrom n s1

/-- Every wait that is over ends. -/
def settle (s : State) : State := settleFrom ((s.tasks.map (fun p => (taskWaits p.2).length)).sum) s

end Sys2Proof.Machine
end

