-- ==== Sys2Proof/Machine/Serve.lean ====
section
/-! DEFINITION. Who serves a fault and how it ends: the memory service engine's events (R391 to R394), page requests to the
host and their answers (R371, R372), the fault region (R373), the replay of logged instructions (R59, R462), and the
migration engine (R397, R398). -/

namespace Sys2Proof.Machine

open Host

/-! ### The party that needs a page -/

/-- The task and group that a need belongs to. -/
def needOwner (s : State) (w : Needer) : Option (Nat × Nat) :=
  match w with
  | .log tid g _ => some (tid, g)
  | .group tid g => some (tid, g)
  | .fetch tid g => some (tid, g)
  | .copy id => (mget s.copies id).map (fun o => (o.tid, o.g))
  | .coll id => (mget s.colls id).map (fun o => (o.tid, o.g))
  | .query id => (mget s.queries id).map (fun o => (o.tid, o.g))
  | .fork id => (mget s.forks id).map (fun o => (o.tid, o.g))
  | .mat c e id => ((engQueue s c e).find? (fun o => o.id == id)).map (fun o => (o.tid, o.g))
  | .eventide _ => none
  | .gone => none

def needTask (s : State) (n : Need) : Option (Task × Nat) :=
  (needOwner s n.who).bind (fun p => (task s p.1).map (fun t => (t, p.2)))

/-- The translating root through which the need arose; none for a party that has ended. -/
def needRoot (s : State) (n : Need) : Option Nat :=
  match n.who with
  | .eventide h => (trOf s n.tenant h).map trRoot
  | _ => (needTask s n).map (fun p => rootOf s p.1)

/-- The party's cancellation has begun: the engine drops the service (R394). -/
def needDying (s : State) (n : Need) : Bool := (needOwner s n.who).any (fun p => (task s p.1).any (dying s p.1))

/-- Whether the need's accesses read. -/
def needReads (s : State) (n : Need) : Bool :=
  match n.who with
  | .log tid g id => (group s tid g).any (fun x => x.oplog.any (fun o => o.id == id && opReads o.op))
  | _ => !n.write

/-- A record of one of its pages. -/
def needFault (s : State) (n : Need) (cause : Byte) (page : Nat) : FaultAt :=
  let base : FaultAt :=
    { job := 0, core := 0, g := 0, src := n.src, cause := cause, va := 2 ^ 12 * page, wr := n.write, rd := needReads s n,
      stamp := some n.at_ }
  match n.who, needTask s n with
  | .eventide h, _ =>
    match trOf s n.tenant h with
    | some tr => { base with job := tr.job, core := 144 * tr.eventide }
    | none => base
  | _, some (t, g) => { base with job := chargeJob s t, core := t.core, g := g }
  | _, none => base

/-! ### A page served, and a need that cannot be served -/

/-- What the end of a service does besides: a matrix operation that waits for no other page resumes, and its STATE is 1 (R283). -/
def needOver (s : State) (who : Needer) : State :=
  match who with
  | .mat c e id =>
    if hasNeed s who then s
    else
      match (engQueue s c e).find? (fun o => o.id == id && o.ending.isNone) with
      | none => s
      | some o => noteProg (modMat s c e id (fun x => { x with faulted := false })) o.tid e id 1 o.kdone
  | _ => s

/-- A need put back; one without pages has been served, and its party tries again. -/
def putNeed (s : State) (id : Nat) (n : Need) : State :=
  if n.pages.isEmpty && n.out.isEmpty then wakeAll (needOver { s with needs := mdel s.needs id } n.who)
  else { s with needs := mput s.needs id n }

def pageServed (s : State) (id page : Nat) : State :=
  match mget s.needs id with
  | none => s
  | some n => putNeed s id { n with pages := n.pages.filter (fun p => p != page) }

/-- The lowest page of a need. -/
def needPage (n : Need) : Nat :=
  let ps := n.pages ++ n.out.flatMap (·.2)
  ps.foldl min (ps.headD 0)

/-- The instructions of R463: how a page that cannot be served ends one that stands at its group's head. -/
inductive HeadEnd where
  | traps (h : Hdr) (len : Nat)
  | status (h : Hdr) (len : Nat) (r : Reg)
  deriving DecidableEq, Repr

def headEnd (i : Instr) : Option HeadEnd :=
  match i with
  | .trec h _ _ off => some (.traps h off.len)
  | .gset h _ _ off => some (.traps h off.len)
  | .chainw h _ off _ _ _ => some (.traps h off.len)
  | .chainp h _ off _ _ => some (.traps h off.len)
  | .trmark h _ off => some (.traps h off.len)
  | .nngraph h r _ _ off => some (.status h off.len r)
  | .nngraphBump h r _ long => some (.status h (if long then 12 else 8) r)
  | _ => none

/-- A stalled group's access cannot be served (R463): a precise trap with the faulting address, or status FAULTED. -/
def failGroup (s : State) (tid g : Nat) (cause : Byte) (va : Nat) : State :=
  match headOf s tid g with
  | none => s
  | some (t, gr, e) =>
    match fetchAt s t e.pc.toNat gr.trap.isNone with
    | .bytes s1 bs =>
      match (readInstr bs).bind headEnd with
      | none => s1
      | some (.traps h len) =>
        match bundleOf s1 tid g h len with
        | none => s1
        | some c => c.takeTrap s1 cause c.leadSet va
      | some (.status h len r) =>
        match bundleOf s1 tid g h len with
        | none => s1
        | some c => c.advance (c.putScal s1 r (statusWord 0x0C 0))
    | _ => s

/-- A fetch that cannot be served, when the group still stands at that page. -/
def failFetch (s : State) (n : Need) (tid g : Nat) (cause : Byte) : State :=
  match headOf s tid g with
  | some (_, _, e) =>
    if n.pages.contains (e.pc.toNat / 2 ^ 12) || n.out.any (fun p => p.2.contains (e.pc.toNat / 2 ^ 12)) then
      fetchTrapNow s tid g cause
    else s
  | none => s

/-- A trace's access that cannot be served: a propagation ends FAULTED (R142); records on their way, or those of a closed
trace, leave it PARTIAL (R131). -/
def failEventide (s : State) (t h va : Nat) : State :=
  match trOf s t h with
  | none => s
  | some tr =>
    if propagating tr then
      match stopProp s t h 0x0C with
      | .ok s1 => s1
      | .wait s1 => s1
      | .bad s1 _ _ => s1
    else
      match (tenant s t).trq with
      | e :: q =>
        if evOf h e then setTr (modTenant s t (fun x => { x with trq := q })) t h (markPartial tr (labelOf tr (evTask e)))
        else s
      | [] =>
        setTr s t h { markPartial tr (failLabel tr va) with dirty := false }

/-- The lanes of a log entry that access one of some pages: those of the need that failed, because its instruction replays
only as a whole (R59, R371). -/
def lanesAt (o : OpEntry) (pages : List Nat) : Lanes :=
  maskOf (fun i => o.lanes.any (fun l => l.lane == i && pages.contains (l.addr % 2 ^ 57 / 2 ^ 12)))

/-- A need that cannot be served because of some of its pages: one report record (R373), and what its party does. -/
def failNeed (s : State) (id : Nat) (cause : Byte) (pages : List Nat) : State :=
  match mget s.needs id with
  | none => s
  | some n =>
    let page := pages.foldl min (pages.headD (needPage n))
    let va := 2 ^ 12 * page
    let s1 := dropNeeds s (fun w => w == n.who)
    let rep := faultReport s1 n.tenant (needFault s n cause page)
    wakeAll (match n.who with
    | .log tid g i => modGroup rep tid g (fun x =>
        { x with oplog := x.oplog.map (fun o => if o.id == i then { o with failed := some (cause, lanesAt o n.all) } else o) })
    | .copy i => ((mget rep.copies i).map (fun o => stopCopy rep i 2 o)).getD rep
    | .mat c e i => (((engQueue rep c e).find? (fun o => o.id == i)).map (fun o => endMat rep c e o 2)).getD rep
    | .coll i => ((mget rep.colls i).map (fun o => collEnd rep i o 2)).getD rep
    | .query i => queryFail rep i pages
    | .fork i => ((mget rep.forks i).map (fun o => forkEnd rep i o 0x0C 0)).getD rep
    | .fetch tid g => failFetch rep n tid g cause
    | .group tid g => failGroup rep tid g cause (if n.va / 2 ^ 12 = page then n.va else va)
    | .eventide h => failEventide rep n.tenant h va
    | .gone => s1)

/-! ### The memory service engine -/

/-- What an access of the need wants of a page. -/
def needWant (n : Need) : Want := { r := false, w := n.write, x := false, user := false }

/-- A break waits for those of the same table or frame that arrived before it (R394). -/
def breakWaits (s : State) (id : Nat) (n : Need) (root va : Nat) : Bool :=
  n.svc == .share && s.needs.any (fun q =>
    decide (q.1 < id) && q.2.tenant == n.tenant && q.2.svc == .share && !needDying s q.2 &&
    (needRoot s q.2).any (fun r => q.2.pages.any (fun v =>
      breakTarget s n.tenant r (2 ^ 12 * v) == breakTarget s n.tenant root va)))

/-- One page of a need served by a service; none where the need is not one of that service. -/
def serveNeed (s : State) (v : Service) (id : Nat) : Option State :=
  match mget s.needs id with
  | none => none
  | some n =>
    if n.svc != v || needDying s n then none
    else match needRoot s n, n.pages with
      | some root, p :: _ =>
        let va := 2 ^ 12 * p
        if breakWaits s id n root va then none else
        (match access s .fresh n.tenant root va (needWant n) with
         | (s1, .serve u) =>
           if u != v then some (pageServed s1 id p)
           else
             (match serveOnce s1 n.tenant root va v with
              | .done s2 => some (pageServed s2 id p)
              | .again s2 => some s2
              | .noFrame =>
                if regionOn s1 n.tenant then
                  some (pageServed (addNeed s1 n.tenant n.who .request n.write va n.src) id p)
                else some (failNeed s1 id causePage [p])
              | .bad cause => some (failNeed s1 id cause [p]))
         | (s1, _) => some (pageServed s1 id p))
      | _, _ => none

/-- SHARING_BREAK. -/
def execSharingBreak (id : Nat) (s : State) : Outcome State Fault Refusal := fire (serveNeed s .share id) s
/-- ARENA_PAGE_BACK. -/
def execArenaPageBack (id : Nat) (s : State) : Outcome State Fault Refusal := fire (serveNeed s .arena id) s
/-- MIGRATED_PAGE_RESTORE. -/
def execMigratedPageRestore (id : Nat) (s : State) : Outcome State Fault Refusal := fire (serveNeed s .migrated id) s

/-- FRAME_POOL_REFILL: entries of the pool ring taken while FPFREE is below 64 (R392). -/
def poolRefill (s : State) (t : Nat) : Option State :=
  let z := nb (csrGet s t 0x044).toNat 0 5
  if z < 4 ∨ 16 < z ∨ csrGet s t 0x045 = csrGet s t 0x046 ∨ 64 ≤ (tenant s t).frames.length then none
  else some (refill 70000 s t)
def execFramePoolRefill (t : Nat) (s : State) : Outcome State Fault Refusal := fire (poolRefill s t) s

/-- Writes that waited for a migration try again once their page lets them (R391, R398). -/
def sweepWpw (s : State) (t : Nat) : State :=
  s.needs.foldl (fun (s : State) p =>
    if p.2.tenant == t && p.2.svc == .wpw then
      match needRoot s p.2 with
      | none => putNeed s p.1 { p.2 with pages := [] }
      | some root => putNeed s p.1 { p.2 with pages := p.2.pages.filter (fun v =>
          (access s .fresh t root (2 ^ 12 * v) (needWant p.2)).2 == .serve .wpw) }
    else s) s

/-! ### Page-request groups (R371 to R373) -/

/-- Group indices of a tenant in use. -/
def grpUsed (s : State) (t : Nat) : List Nat :=
  s.needs.flatMap (fun p => if p.2.tenant == t then p.2.out.map (·.1) else [])
def grpFree (s : State) (t : Nat) : Option Nat := firstKey (fun i => !(grpUsed s t).contains i) 512 0

/-- Requests that await the host's answer. -/
def priOut (s : State) (t : Nat) : Nat :=
  (s.needs.map (fun p => if p.2.tenant == t && p.2.svc == .pri then (p.2.out.map (fun g => g.2.length)).sum else 0)).sum

/-- FSTAT.PRISTOP. -/
def priStopped (s : State) (t : Nat) : Bool := nb (fregGet s t 0x4).toNat 3 1 == 1

/-- Free records of the fault region. -/
def frFree (s : State) (t : Nat) : Nat := 2 ^ nb (fregGet s t 0x208).toNat 0 5 - frUsed s t

/-- One group of a need: its lowest pages, its index, and for the fault region its records, the last with L = 1. -/
def sendGroup (s : State) (id : Nat) (n : Need) : Option State :=
  let all := n.pages.foldl (fun l p => insertNat p l) []
  let k := if n.svc == .pri then min (tenant s n.tenant).priA 32 else 32
  let ps := all.take k
  match grpFree s n.tenant with
  | none => none
  | some i =>
    let left := { n with pages := all.drop k, out := mput n.out i ps }
    if n.svc == .pri then
      if priStopped s n.tenant then some (failNeed s id causePage all)
      else if ps.isEmpty ∨ (tenant s n.tenant).priA < priOut s n.tenant + ps.length then none
      else
        let msg := fun (p : Nat × Nat) =>
          ({ tenant := n.tenant, pasid := pasidOf s n.tenant, stop := false, page := p.1, grp := i, last := p.2 + 1 == ps.length,
             rd := needReads s n, wr := n.write } : PriMsg)
        some { s with needs := mput s.needs id left, pri := s.pri ++ ps.zipIdx.map msg }
    else if !regionOn s n.tenant then some (failNeed s id causePage all)
    else if frFree s n.tenant < ps.length then none
    else
      let s1 := ps.zipIdx.foldl (fun (s : State) p =>
        putFault s n.tenant (needFault s n causePage p.1) true i (p.2 + 1 == ps.length)) s
      some { s1 with needs := mput s1.needs id left }

/-- PRI_GROUP_SEND: the first need of the tenant that can send its next group. -/
def priSend (s : State) (t : Nat) : Option State :=
  s.needs.findSome? (fun p =>
    if p.2.tenant == t && (p.2.svc == .pri || p.2.svc == .request) && !p.2.pages.isEmpty then sendGroup s p.1 p.2 else none)
def execPriGroupSend (t : Nat) (s : State) : Outcome State Fault Refusal := fire (priSend s t) s

/-- An answer to a page-request group of one kind: Success, Invalid Request or Response Failure; another code, and an index
that is not outstanding, are ignored. -/
def answerGroup (s : State) (t : Nat) (v : Service) (i code : Nat) : State :=
  match s.needs.find? (fun p => p.2.tenant == t && p.2.svc == v && (mget p.2.out i).isSome) with
  | none => s
  | some (id, n) =>
    let done := { n with out := mdel n.out i }
    if code = 0 then putNeed s id done
    else if code = 1 ∨ code = 15 then
      let s1 := if code = 15 then fregSet s t 0x4 (fregGet s t 0x4 ||| 8) else s
      if n.who == .gone then putNeed s1 id done
      else
        -- the answered group no longer stands open; its pages count among those that could not be served
        failNeed { s1 with needs := mput s1.needs id { done with pages := done.pages ++ mgetD [] n.out i } } id causePage
          (mgetD [] n.out i)
    else s

/-- PRI_RESPONSE: none is heeded while a reset runs (R376). -/
def execPriResponse (t grp code : Nat) (s : State) : Outcome State Fault Refusal :=
  .next (if (tenant s t).resetting then s else wakeAll (answerGroup s t .pri grp code))

/-- FRRESP_WRITE. -/
def execFrrespWrite (t : Nat) (v : Word) (s : State) : Outcome State Fault Refusal :=
  hostAct s t (.reg 0x214 v) (fun s => answerGroup s t .request (nb v.toNat 0 9) (nb v.toNat 12 4))

/-- PRI_REENABLE: PRISTOP clears (R372). -/
def execPriReenable (t : Nat) (s : State) : Outcome State Fault Refusal :=
  .next (wakeAll (fregSet s t 0x4 (fregGet s t 0x4 &&& ~~~ (8 : Word))))

/-! ### Replay (R59, R462) -/

/-- The operand log when an entry traps: to the supervisor, or to a handler. -/
def trapLog (super : Bool) (log : List OpEntry) (id : Nat) (cause : Byte) (lanes : Lanes) : List OpEntry :=
  if super then log.map (fun p => if p.id == id then { p with failed := some (cause, lanes) } else p)
  else log.filter (fun p => p.id != id)

/-- A trap at a replay point. One that goes to the supervisor keeps its entry, which a RESUME may replay (R430). -/
def replayTrap (s : State) (tid g : Nat) (o : OpEntry) (cause : Byte) (lanes : Lanes) (addr : Nat) : State :=
  let super := (group s tid g).any (·.trap.isSome) || ((task s tid).map (fun t => hvec s t.tenant)).getD 0 == 0
  let s1 := modGroup s tid g (fun x => { x with oplog := trapLog super x.oplog o.id cause lanes })
  enterTrap s1 tid g o.pc o.act o.prio cause lanes addr (some o)

/-- An entry reduced to the lanes that fault again. -/
def stillLogged (o : OpEntry) (las : List LaneAcc) : OpEntry :=
  let m := maskOf (fun i => las.any (fun q => q.lane == i))
  { o with lanes := las, act := m, dst := if o.dst == o.act then m else o.dst, served := false, resume := [] }

/-- The lanes that waited for this replay return to their resume points (R462). -/
def replayBack (s : State) (tid g : Nat) (o : OpEntry) : State :=
  if o.resume.isEmpty then s
  else modGroup { s with serial := s.serial + 32 } tid g (fun x =>
    { x with front := x.front ++ resumeEntries s.serial 0xFFFFFFFF o.resume, stall := false })

/-- The logged lanes make their accesses: those that fault again stay logged. Bytes stored are written back, so that an engine
operation that the group issued after them reads them (R99). -/
def replayLanes (s : State) (tid g : Nat) (t : Task) (o : OpEntry) : Option State :=
  let (s1, os) := lanesCheck s t o.user o.op o.lanes
  match laneTrap os with
  | some tr =>
    some (replayTrap (reportPages s1 t g 0 tr.cause (opReads o.op) (opWrites o.op) tr.reps) tid g o tr.cause tr.lanes tr.addr)
  | none =>
    let las := goLanes os
    let sv := servedLanes os
    let (scope, ord) := opOrder o.op
    let sh := las.any (·.ordsh)
    if (sh && opOrdReads o.op && !lowerPublished s t) || (sh && opOrdWrites o.op && tokenPos s t == .before) then none
    else
      let s2 := flushLanes s1 t.core o.op las
      if opAtPort o.op && !las.isEmpty && !opReady s2 t.core o.op las then (if s2.wq.length = s.wq.length then none else some s2)
      else
        let s3 := perform s2 tid g t o.op o.id o.dst las
        let s4 := modGroup s3 tid g (fun x =>
          let log := if sv.isEmpty then x.oplog.filter (fun p => p.id != o.id)
            else x.oplog.map (fun p => if p.id == o.id then stillLogged p (sv.map (·.1)) else p)
          { x with oplog := log })
        let s5 := sv.foldl (fun s p => addNeed s t.tenant (.log tid g o.id) p.2 (opWrites o.op) p.1.addr 0) (replayBack s4 tid g o)
        let s6 := if opWrites o.op then writeBackAll s5 t.core else s5
        some (if ordAcq ord then acqSeen s6 tid g t.core scope else s6)

/-- OPLOG_REPLAY: the oldest entry of the group, once it is served or known to be unservable. -/
def oplogReplay (s : State) (tid g : Nat) : Option State :=
  match task s tid with
  | none => none
  | some t =>
    match mget t.groups g with
    | none => none
    | some gr =>
      match gr.oplog with
      | [] => none
      | o :: _ =>
        if !unitRuns s t || t.run != .running || t.stopReq.isSome then none
        else match o.failed with
          | some (cause, ls) =>
            some (replayTrap s tid g o cause ls (((o.lanes.find? (fun l => has ls l.lane)).map (·.addr)).getD 0 % 2 ^ 57))
          | none => if hasNeed s (.log tid g o.id) then none else replayLanes s tid g t o

def execOplogReplay (tid g : Nat) (s : State) : Outcome State Fault Refusal := fire (oplogReplay s tid g) s

/-! ### The migration engine (R397, R398) -/

def mgOn (s : State) (t : Nat) : Bool :=
  decide (4 ≤ nb (csrGet s t 0x04D).toNat 0 5) && decide (nb (csrGet s t 0x04D).toNat 0 5 ≤ 16)
/-- The address of the slot at MGHEAD. -/
def mgSlot (s : State) (t : Nat) : Nat :=
  csrAddr s t 0x04B 12 + 32 * ((csrGet s t 0x04E).toNat % 2 ^ nb (csrGet s t 0x04D).toNat 0 5)

/-- The slot's command, read with acquire at system scope. -/
def mgRead (s : State) (t : Nat) : State × Option Nat :=
  let (s1, o) := devRead s t (tenantRoot s t) (mgSlot s t) 32 false
  (s1, o.map leNat)

/-- MIGRATION_POLL: a slot whose VALID bit is 1 is taken. A slot that cannot be read is not taken. -/
def migrationPoll (s : State) (t : Nat) : Option State :=
  if (tenant s t).mig.isSome || !mgOn s t then none
  else match mgRead s t with
    | (s1, some n) =>
      if nb n 0 1 = 0 then none else some (modTenant s1 t (fun x => { x with mig := some { cmd := BitVec.ofNat 256 n, step := 0 } }))
    | (_, none) => none
def execMigrationPoll (t : Nat) (s : State) : Outcome State Fault Refusal := fire (migrationPoll s t) s

/-! Fields of a command (Table 7). -/
def cmdVa (n : Nat) : Nat := nb n 192 64
def cmdDest (n : Nat) : Nat := nb n 128 64
def cmdJob (n : Nat) : Nat := nb n 116 12
def cmdPsel (n : Nat) : Nat := nb n 69 3
def cmdPlace (n : Nat) : Nat := nb n 67 2
def cmdOp (n : Nat) : Nat := nb n 8 8

/-- BADOP. DEST is reserved for OUT and IN, NPSEL and NPLACE outside MOVE are not read. -/
def cmdBad (n : Nat) : Bool :=
  cmdOp n == 0 || decide (4 < cmdOp n) || nb n 1 7 != 0 || nb n 16 8 != 0 || nb n 32 35 != 0 || nb n 72 44 != 0 ||
  nb n 192 12 != 0 || nb n 249 7 != 0 ||
  ((cmdOp n == 1 || cmdOp n == 2) && cmdDest n != 0) ||
  (cmdOp n == 3 && !placeOk (cmdPlace n) (cmdPsel n))

/-- The command's root: the tenant root, or the root of a job in use. -/
def cmdRoot (s : State) (t n : Nat) : Option Nat :=
  if cmdJob n = 0 then some (tenantRoot s t)
  else if (counter s t (cmdJob n)).isSome then some (rootOfEntry s t (cmdJob n)) else none

/-- A command ends: STATUS with VALID = 0 in one 4-byte write with release, MGHEAD advances, and parked writes replay. -/
def mgEnd (s : State) (t n status : Nat) : State :=
  let w := n % 2 ^ 24 - nb n 0 1 + status * 2 ^ 24
  let (s1, _) := devWrite s 0 t (tenantRoot s t) (mgSlot s t) (leBytes 4 w) false none
  let s2 := csrSet s1 t 0x04E (csrGet s1 t 0x04E + 1)
  wakeAll (sweepWpw (modTenant s2 t (fun x => { x with mig := none })) t)

/-- The entry of the page that a command names, as a fresh walk finds it. -/
inductive MigPage where
  | bad
  | leaf (a w0 w1 : Nat) (shr : Bool)
  | image (a w0 w1 : Nat) (shr : Bool)
  deriving DecidableEq, Repr

/-- The page belongs to an arena that has ended: it reads as not present (R396). -/
def stalePage (s : State) (t w1 : Nat) : Bool := nb w1 36 12 != 0 && nb w1 48 16 != arenaGen s t (nb w1 36 12)

def migPage (s : State) (t n : Nat) : MigPage :=
  match cmdRoot s t n with
  | none => .bad
  | some root =>
    match walk s t root (cmdVa n) with
    | .leaf x => if nb x.w0 2 2 ≤ 1 ∧ !stalePage s t x.w1 then .leaf x.leaf x.w0 x.w1 x.shr else .bad
    | .absent 2 w0 w1 a shr => if stalePage s t w1 then .bad else .image a w0 w1 shr
    | _ => .bad

/-- A page under a break of sharing: some need of a share of it is being served. -/
def underBreak (s : State) (t n : Nat) : Bool :=
  s.needs.any (fun p => p.2.tenant == t && p.2.svc == .share && p.2.pages.contains (cmdVa n / 2 ^ 12) &&
    needRoot s p.2 == cmdRoot s t n)

/-- The frame or the path of a page is shared. -/
def migShared (s : State) (t n w0 w1 : Nat) (shr img : Bool) : Bool :=
  shr || underBreak s t n ||
  decide (1 < (if img then shareOf s t (tierBase + w0 / 2 ^ 12 * 2 ^ 12) (2 ^ 12)
               else shareOf s t (pointed w0 w1) (pageBytes (nb w0 2 2))))

/-- Capacity-tier space that no image occupies. -/
def tierClear (s : State) (pa n : Nat) : Bool :=
  decide (pa + n ≤ cxlCap 0 + cxlCap 1) && !s.images.any (fun p => overlaps (2 ^ 12 * p.1) p.2 pa n)
/-- Capacity-tier space in which an image may be placed: that of DIRECT pages is not (log entry 21). -/
def tierFree (s : State) (pa n : Nat) : Bool :=
  tierClear s pa n && !s.direct.any (fun p => overlaps (2 ^ 12 * p.1) p.2 pa n)

/-- The place of an image: the highest free range of the tier, in whole pages of its size. -/
def imagePlace (s : State) (n : Nat) : Option Nat :=
  let top := (cxlCap 0 + cxlCap 1) / n
  (firstKey (fun k => decide (k < top) && tierFree s ((top - 1 - k) * n) n) ((s.images.length + s.direct.length) * 16 + 1) 0).map
    (fun k => (top - 1 - k) * n)

/-- Ordered reductions are held for a line of the page, or accesses translated under its entry are on their way. -/
def pageQuiet (s : State) (pa n : Nat) : Bool := !frameBusy s pa n && !redsIn s pa n

/-- Where the page's new contents go: the physical address; none gives NOSPACE. -/
def migDest (s : State) (t n ps w1 : Nat) : Option (State × Nat) :=
  let size := pageBytes ps
  match cmdOp n with
  | 1 => (imagePlace s size).map (fun a => (s, tierBase + a))
  | 4 => if cmdDest n % size = 0 ∧ tierClear s (cmdDest n) size then some (s, tierBase + cmdDest n) else none
  | _ =>
    if cmdDest n = 0 then takePage s t ps (setF (setF w1 23 2 (cmdPlace n)) 25 3 (cmdPsel n))
    else if cmdDest n % size = 0 ∧ cmdDest n + size ≤ 2 ^ 39 then some (s, cmdDest n) else none

/-- The new entry of a page (R398 step 4). -/
def migEntry (n w0 w1 pa : Nat) : Nat × Nat :=
  let addr := (if tierBase ≤ pa then pa - tierBase else pa) + w0 % 2 ^ 12
  let keep := setF w1 13 1 0
  match cmdOp n with
  | 1 => (setF addr 0 4 4, keep)
  | 4 => (addr, setF (setF (setF keep 15 1 1) 23 2 0) 25 3 0)
  | _ => (addr, setF (setF (setF keep 15 1 0) 23 2 (cmdPlace n)) 25 3 (cmdPsel n))

/-- Steps 3 to 5 for a page whose accesses are all over. -/
def migCopy (s : State) (t n a w0 w1 : Nat) : State :=
  let ps := nb w0 2 2
  let size := pageBytes ps
  let old := pointed w0 w1
  let undo := fun (s : State) (st : Nat) => mgEnd (putLeaf s t a ps (entry0 s t a) (setF w1 13 1 0)) t n st
  if frameBad s old size then undo s 5
  else match migDest s t n ps w1 with
    | none => undo s 4
    | some (s1, pa) =>
      let s2 := copyPage s1 (nb w1 28 8) old pa size
      let (v0, v1) := migEntry n (entry0 s2 t a) w1 pa
      let s3 := shootPage (putLeaf s2 t a ps v0 v1) t (cmdVa n)
      let s4 := noteArena (freePage s3 t old ps) t (nb w1 36 12) (some old) (if cmdOp n = 3 then some pa else none)
      let s5 := if cmdOp n = 1 then { s4 with images := mput s4.images ((pa - tierBase) / 2 ^ 12) size }
        else if cmdOp n = 4 then { s4 with direct := mput s4.direct ((pa - tierBase) / 2 ^ 12) size } else s4
      mgEnd s5 t n 1

/-- One advance of a command on a present page: the checks and WPW = 1, then the copy once the page is quiet. -/
def migRun (s : State) (t op : Nat) : Option State :=
  match (tenant s t).mig with
  | none => none
  | some m =>
    let n := m.cmd.toNat
    if cmdBad n || cmdOp n != op then none
    else match migPage s t n with
      | .leaf a w0 w1 shr =>
        let size := pageBytes (nb w0 2 2)
        if m.step = 0 then
          if migShared s t n w0 w1 shr false then some (mgEnd s t n 3)
          else if redsIn s (pointed w0 w1) size then none
          else
            let s1 := shootPage (putLeaf s t a (nb w0 2 2) w0 (setF w1 13 1 1)) t (cmdVa n)
            some (flushFrame (modTenant s1 t (fun x => { x with mig := some { m with step := 1 } })) (pointed w0 w1) size)
        else if pageQuiet s (pointed w0 w1) size then some (migCopy s t n a w0 w1)
        else none
      | _ => some (mgEnd s t n 2)

/-- MIG_OUT, MIG_MOVE, MIG_DIRECT. -/
def execMigOut (t : Nat) (s : State) : Outcome State Fault Refusal := fire (migRun s t 1) s
def execMigMove (t : Nat) (s : State) : Outcome State Fault Refusal := fire (migRun s t 3) s
def execMigDirect (t : Nat) (s : State) : Outcome State Fault Refusal := fire (migRun s t 4) s

/-- MIG_IN: only a MIGRATED page; its image is freed. -/
def migIn (s : State) (t : Nat) : Option State :=
  match (tenant s t).mig with
  | none => none
  | some m =>
    let n := m.cmd.toNat
    if cmdBad n || cmdOp n != 2 then none
    else match migPage s t n with
      | .image a w0 w1 shr =>
        if migShared s t n w0 w1 shr true then some (mgEnd s t n 3)
        else if (imageBytes s w0).any (fun k => frameBad s (tierBase + w0 / 2 ^ 12 * 2 ^ 12) k) then some (mgEnd s t n 5)
        else
          (match restorePage s t a w0 w1 with
           | .done s1 => some (mgEnd (shootPage s1 t (cmdVa n)) t n 1)
           | .again s1 => some s1
           | .noFrame => some (mgEnd s t n 4)
           | .bad _ => some (mgEnd s t n 2))
      | _ => some (mgEnd s t n 2)
def execMigIn (t : Nat) (s : State) : Outcome State Fault Refusal := fire (migIn s t) s

/-- MIG_BADOP: nothing changes but the command's status. -/
def migBadop (s : State) (t : Nat) : Option State :=
  match (tenant s t).mig with
  | none => none
  | some m => if cmdBad m.cmd.toNat then some (mgEnd s t m.cmd.toNat 6) else none
def execMigBadop (t : Nat) (s : State) : Outcome State Fault Refusal := fire (migBadop s t) s

end Sys2Proof.Machine
end

