-- ==== Sys2Proof/Machine/MemEvents.lean ====
section
/-! DEFINITION. The events of the memory system: writes applied at their ports (R90), far-line updates (R23), the bounds of
the caches (R94, R233), ordered reductions at the ports, the retirement of blocks and the horizon (R255 to R260, R465). -/

namespace Sys2Proof.Machine

open Host

/-! ### Writes and caches -/

/-- WRITE_APPLY_AT_PORT: a write whose stamp's causes are all applied. -/
def writeArrives (s : State) (id : Nat) : Option State :=
  match s.wq.find? (fun w => w.id == id) with
  | none => none
  | some w => if applicable s w && !retraining s (lineBytes * w.line) then some (applyWrite s w) else none
def execWriteApplyAtPort (id : Nat) (s : State) : Outcome State Fault Refusal := fire (writeArrives s id) s

/-- FARLINE_UPDATE: an update on its way to a die, after those that its stamp names. -/
def farlineUpdate (s : State) (u : FarPlace) : Option State :=
  if (die s u.die).farq.length ≤ u.place then none else some (setDie s u.die (catchUp (fun i _ => i == u.place) (die s u.die)))
def execFarlineUpdate (u : FarPlace) (s : State) : Outcome State Fault Refusal := fire (farlineUpdate s u) s

/-- The copies of a line in a core's L1, written or not. -/
def l1Copies (s : State) (c line : Nat) (dirty : Bool) : List Nat :=
  ((core s c).l1.filter (fun p => lineOfKey p.1 == line && (!p.2.dirty.isEmpty) == dirty)).map (·.1)

/-- L1_WRITEBACK_TIMEOUT: at any time up to 4,096 cycles after the first write. -/
def l1WritebackTimeout (s : State) (c line : Nat) : Option State :=
  match l1Copies s c line true with
  | [] => none
  | ks => some (ks.foldl (fun s k => writeBack s c k) s)
def execL1WritebackTimeout (c line : Nat) (s : State) : Outcome State Fault Refusal := fire (l1WritebackTimeout s c line) s

/-- L1_INVALIDATE_TIMEOUT: a line that holds nothing written. -/
def l1InvalidateTimeout (s : State) (c line : Nat) : Option State :=
  match l1Copies s c line false with
  | [] => none
  | ks => some (ks.foldl (fun s k => dropLine s c k) s)
def execL1InvalidateTimeout (c line : Nat) (s : State) : Outcome State Fault Refusal := fire (l1InvalidateTimeout s c line) s

/-- CONST_CACHE_DROP. -/
def constCacheDrop (s : State) (c line : Nat) : Option State :=
  let x := core s c
  if x.cc.any (fun p => lineOfKey p.1 == line) then
    some (setCore s c { x with cc := x.cc.filter (fun p => lineOfKey p.1 != line) })
  else none
def execConstCacheDrop (c line : Nat) (s : State) : Outcome State Fault Refusal := fire (constCacheDrop s c line) s

/-! ### Ordered reductions (R257 to R259) -/

/-- Key order; among equal keys of one task program order, otherwise an order of the model's (R465). -/
def redBefore (a b : RedOp) : Bool :=
  let ka := [a.blk, a.seq, a.g, a.lane, a.order]
  let kb := [b.blk, b.seq, b.g, b.lane, b.order]
  match (ka.zip kb).find? (fun p => p.1 != p.2) with
  | some p => decide (p.1 < p.2)
  | none => false

def insertRed (r : RedOp) : List RedOp → List RedOp
  | [] => [r]
  | q :: l => if redBefore r q then r :: q :: l else q :: insertRed r l
def sortReds (l : List RedOp) : List RedOp := l.foldl (fun acc r => insertRed r acc) []

/-- One ordered reduction applied at its port: the read and write of Table 6 at its word. -/
def applyRed (s : State) (r : RedOp) : State :=
  let s1 := { s with reds := s.reds.filter (fun q => q.order != r.order) }
  let old := readNum s1 r.keyid r.pa 4
  let d := homeDie s r.pa
  homeWrite (observe s1 d (lineStamp s1 (r.pa / lineBytes))) d r.keyid r.tenant r.pa (leBytes 4 (aopNew r.op old r.d.toNat)) r.grans

/-- Operations that a line's write-queue entry holds. -/
def heldAt (s : State) (line : Nat) : List RedOp :=
  sortReds (s.reds.filter (fun r => r.accepted && r.run == 0 && r.pa / lineBytes == line))

/-- The pool's size in bytes, and the place of a new run: 16 bytes of header and 16 for each of its 9 operations. -/
def poolBytes (s : State) (t : Nat) : Nat := 4096 * nb (csrGet s t 0x032).toNat 0 16
def runBytes : Nat := 16 * 10
def runFree (s : State) (t : Nat) : Option Nat :=
  (firstKey (fun n => !s.reds.any (fun r => r.tenant == t && r.run == n + 1)) (s.reds.length + 1) 0).bind
    (fun n => if runBytes * (n + 1) ≤ poolBytes s t then some n else none)

/-- The run's bytes in the pool, whose contents are not architectural: free values. -/
def writeRun (s : State) (t n : Nat) : State × Bool :=
  (upTo (runBytes / 4)).foldl (fun (acc : State × Bool) i =>
    match acc with
    | (s, false) => (s, false)
    | (s, true) =>
      let (s1, w) := takeFree s
      devWrite s1 0 t (tenantRoot s1 t) (csrAddr s1 t 0x030 12 + runBytes * n + 4 * i) (leBytes 4 w.toNat) false none) (s, true)

/-- REDSPCNT counts a run of k operations. -/
def countRun (s : State) (t k : Nat) : State :=
  let w := (csrGet s t 0x033).toNat
  csrSet s t 0x033 (BitVec.ofNat 32 (w / 2 ^ 31 * 2 ^ 31 + 2 ^ 16 * min 32767 (nb w 16 15 + 1) + min 65535 (nb w 0 16 + k)))

/-- Operations moved to a run; dropped ones leave a free value in their word at their place in the order (R259). -/
def markRun (s : State) (os : List RedOp) (run : Nat) : State :=
  os.foldl (fun (s : State) o =>
    let (s1, w) := if run = 2 ^ 32 then takeFree s else (s, o.d)
    { s1 with reds := s1.reds.map (fun r =>
        if r.order == o.order then { r with run := run, d := w, op := if run = 2 ^ 32 then .exchB32 else r.op } else r) }) s

/-- SPILL_RUN: of 17 operations the 9 highest become a run, or, when none fits, are dropped. -/
def spillRun (s : State) (t line : Nat) : State :=
  let held := heldAt s line
  if held.length ≤ 16 then s
  else
    let high := held.drop (held.length - 9)
    let full := fun (s : State) =>
      let s1 := csrSet s t 0x033 (csrGet s t 0x033 ||| 0x80000000)
      high.foldl (fun (s : State) o =>
        match counter s o.tenant o.launch with
        | some c => setCounter s o.tenant o.launch { c with bad := true }
        | none => s) (markRun s1 high (2 ^ 32))
    match runFree s t with
    | none => full s
    | some n =>
      match writeRun s t n with
      | (s1, true) => countRun (markRun s1 high (n + 1)) t 9
      | (s1, false) => full s1

/-- REDDET_ACCEPT: behind the die's own writes to the line. -/
def reddetAccept (s : State) (id : Nat) : Option State :=
  match s.reds.find? (fun r => r.order == id && !r.accepted) with
  | none => none
  | some r =>
    let line := r.pa / lineBytes
    let own := s.reds.any (fun q => q.owner == r.owner && !q.accepted && q.pa == r.pa && decide (q.order < r.order))
    let d := (r.owner.bind (fun o => task s o.1)).map (fun t => dieOf t.core)
    if own || spillHolds s line || d.any (fun d => wrPending s d line) then none
    else
      let s1 := { s with reds := s.reds.map (fun q => if q.order == id then { q with accepted := true } else q) }
      some (spillRun (storeAccepted s1 r.owner) r.tenant line)
def execReddetAccept (id : Nat) (s : State) : Outcome State Fault Refusal := fire (reddetAccept s id) s

/-! ### Retirement and the horizon (R255, R256, R258, R465) -/

/-- Every task of a block index has ended and every ordered reduction of it is accepted. -/
def blockOver (s : State) (t launch : Nat) (l : Launch) (b : Nat) : Bool :=
  (decide (b < l.next) || l.dropped.contains b) && !l.retired.contains b &&
  !s.tasks.any (fun p => p.2.tenant == t && p.2.launch == launch && p.2.blk == b && !p.2.prop) &&
  !(tenant s t).spawns.any (fun p => p.launch == launch && p.blk == b && !p.prop) &&
  !s.reds.any (fun r => r.tenant == t && r.launch == launch && r.blk == b && !r.accepted)

/-- BLOCK_RETIRE: the lowest block that is over; the horizon and the token advance. -/
def blockRetire (s : State) (t launch : Nat) : Option State :=
  match mget (tenant s t).launches launch with
  | none => none
  | some l =>
    if !l.trec.det || l.aborted then none
    else match (upTo l.trec.blocks).find? (blockOver s t launch l) with
      | none => none
      | some b =>
        let l1 := { l with retired := insertNat b l.retired }
        let l2 := { l1 with horizon := unretired l1 l.horizon, token := unretired l1 l.token }
        let s1 := modTenant s t (fun x => { x with launches := mput x.launches launch l2 })
        some (if l2.token = l.token then s1 else tokenAcquire s1 t launch)
def execBlockRetire (t launch : Nat) (s : State) : Outcome State Fault Refusal := fire (blockRetire s t launch) s

/-- Reductions of a launch that lie below its horizon and that their ports may apply. -/
def redsReady (s : State) (t launch : Nat) (l : Launch) : List RedOp :=
  sortReds (s.reds.filter (fun r => r.tenant == t && r.launch == launch && r.accepted && decide (r.blk < l.horizon) &&
    !spillHolds s (r.pa / lineBytes)))

/-- Blocks below the horizon whose reductions have applied, with the ends to be counted. -/
def endsReady (s : State) (t launch : Nat) (l : Launch) : List (Nat × Nat) :=
  l.ends.filter (fun p => decide (p.1 < l.horizon) &&
    !s.reds.any (fun r => r.tenant == t && r.launch == launch && decide (r.blk ≤ p.1)))

/-- HORIZON_APPLY: the eligible operations in key order, then the ends of the blocks whose operations have all applied. -/
def horizonApply (s : State) (t launch : Nat) : Option State :=
  match mget (tenant s t).launches launch with
  | none => none
  | some l =>
    if l.aborted then none
    else
      let rs := redsReady s t launch l
      let s1 := rs.foldl applyRed s
      let es := endsReady s1 t launch l
      if rs.isEmpty && es.isEmpty then none
      else
        let s2 := modTenant s1 t (fun x => { x with launches := mmod x.launches launch (fun l =>
          { l with ends := l.ends.filter (fun p => !es.contains p) }) })
        some (es.foldl (fun (s : State) p => countUp s t launch p.2 false) s2)
def execHorizonApply (t launch : Nat) (s : State) : Outcome State Fault Refusal := fire (horizonApply s t launch) s

/-! ### Errors of main memory (R409) -/

/-- PATROL_SCRUB of a line: 0 clean, 1 corrected in place, 2 uncorrectable. The outcome is what the cells hold, an input of
the model. A line of the capacity tier is not scrubbed, but its expander may return poison for either of its blocks (R362): outcome
2 or 3. -/
def patrolScrub (s : State) (line outcome : Nat) : State :=
  let pa := line * lineBytes
  if tierBase ≤ pa then
    (let q := pa + 64 * (outcome - 2)
     if (outcome = 2 ∨ outcome = 3) ∧ pa < tierBase + cxlCap 0 + cxlCap 1 then markBad s q else s)
  else if nb (mregGet s 0xC40).toNat 0 16 = 0 ∨ 2 ^ 39 ≤ pa then s
  else
    let bump := fun (s : State) (o : Nat) =>
      let r := o + 4 * homeStack s pa
      if mregGet s r = 0xFFFFFFFF then s
      else { s with mgmt := { s.mgmt with mreg := mputD (mregReset r) s.mgmt.mreg r (mregGet s r + 1) } }
    if outcome = 1 then (if blockBad s pa then s else bump s 0xC00)
    else if outcome = 2 then
      (if blockBad s pa then s else { (bump s 0xC20) with bad := s.bad ++ [pa / 64, pa / 64 + 1] })
    else s
def execPatrolScrub (line outcome : Nat) (s : State) : Outcome State Fault Refusal := event (patrolScrub s line outcome)

end Sys2Proof.Machine
end

