-- ==== Sys2Proof/Machine/Image.lean ====
section
/-! DEFINITION. Slots of the save pool (R412, R416 to R418): their place, access to them by the distributor, the header and
block entries of an image, and the check value of R417. -/

namespace Sys2Proof.Machine

open Host

def ctxOf (s : State) (t c : Nat) : Option Context := mget (tenant s t).ctxs c
def setCtx (s : State) (t c : Nat) (f : Context → Context) : State :=
  modTenant s t (fun x => { x with ctxs := mmod x.ctxs c f })

/-- The slot of a core (R412): 2 MiB each from SVBASE. -/
def slotVa (s : State) (t c : Nat) : Nat := csrAddr s t 0x053 21 + 2 ^ 21 * c

/-- How an access to a slot ends: with the uncorrectable blocks met, waiting for a write-protect window, or failed. -/
inductive SlotRes where
  | ok (s : State)
  | wait (s : State)
  | bad (s : State) (cause : Byte)
  deriving DecidableEq, Repr

/-- Every chunk of a range of a slot reached with the permission wanted, faults served on the way by the memory service
engine; a page that only the host could serve is no device-table page, and fails. For a read the blocks must be whole. -/
def slotReach (t : Nat) (want : Want) : List (Nat × Nat) → State → SlotRes
  | [], s => .ok s
  | p :: ps, s =>
    match reach 4 s t (tenantRoot s t) p.1 want with
    | .ok s1 pa _ =>
      if want.r && (blockBad s1 pa || blockBad s1 (pa + p.2 - 1)) then .bad s1 causeData else slotReach t want ps s1
    | .wait s1 => .wait s1
    | .need s1 _ => .bad s1 causePage
    | .bad s1 cause => .bad s1 cause

/-- Bytes put into a slot at an offset. -/
def slotPut (s : State) (t c off : Nat) (bs : List Byte) : SlotRes :=
  let va := slotVa s t c + off
  match slotReach t { r := false, w := true, x := false, user := false } (chunksOf va bs.length) s with
  | .ok s1 => .ok (devWrite s1 (dieOf c) t (tenantRoot s1 t) va bs false none).1
  | r => r

/-- The byte of a header that holds MODE and STATE. -/
def stateByte (s : State) (t st : Nat) : Byte := BitVec.ofNat 8 (8 * nb (csrGet s t 0x050).toNat 0 1 + st)

/-- STATE of a slot set, where its page lets it; the check value follows the device's own write. -/
def slotState (s : State) (t c st : Nat) : State :=
  match slotPut s t c 0 [stateByte s t st] with
  | .ok s1 => setCtx s1 t c (fun x =>
      { x with check := if x.check.isEmpty then [] else mput x.check 0 (stateByte s t st) })
  | .wait s1 => s1
  | .bad s1 _ => s1

/-! ### The image -/

/-- Tasks of a context, in ascending (launch, block index) order. -/
def insertLB (p : Nat × Task) : List (Nat × Task) → List (Nat × Task)
  | [] => [p]
  | q :: l => if p.2.launch < q.2.launch || (p.2.launch == q.2.launch && decide (p.2.blk < q.2.blk)) then p :: q :: l
              else q :: insertLB p l
def sortLB (l : List (Nat × Task)) : List (Nat × Task) := l.foldl (fun acc p => insertLB p acc) []
def ctxTasks (s : State) (t c : Nat) : List (Nat × Task) :=
  sortLB (s.tasks.filter (fun p => p.2.tenant == t && p.2.core == c))

/-- Header of an image (Table 3). -/
def imageHeader (s : State) (t c size seq st : Nat) (ts : List (Nat × Task)) (stamp : Nat) : Nat :=
  st + 8 * nb (csrGet s t 0x050).toNat 0 1 +
  2 ^ 8 * (ts.any (fun p => p.2.groups.any (fun q => q.2.trap.isSome))).toNat +
  2 ^ 9 * (c % 144 % 12) + 2 ^ 13 * (c % 144 / 12) + 2 ^ 17 * clusterOf c + 2 ^ 20 * (t % 16) + 2 ^ 24 * (ts.length % 2 ^ 8) +
  2 ^ 400 * (seq % 2 ^ 16) + 2 ^ 416 * (size % 2 ^ 32) + 2 ^ 448 * (stamp % 2 ^ 64)

/-- Bits of the groups that satisfy a predicate. -/
def groupBits (t : Task) (p : Group → Bool) : Nat :=
  t.groups.foldl (fun m q => if p q.2 then m + 2 ^ q.1 else m) 0

/-- A block entry (Table 4). -/
def blockEntry (s : State) (t : Task) : Nat :=
  2 ^ 12 * (t.ngrp - 1) + 2 ^ 32 * groupBits t (fun g => !g.loggedOps.isEmpty) +
  2 ^ 48 * groupBits t (fun g => g.trap.isSome) + 2 ^ 64 * ((progWords t.prog0).headD 0).toNat +
  2 ^ 96 * ((progWords t.prog1).headD 0).toNat + 2 ^ 144 * jobOf s t.tenant t.launch + 2 ^ 156 * t.launch + 2 ^ 168 * t.blk +
  2 ^ 192 * taskLabel s t

/-- The bytes of an image: the header, the block entries, and then bytes that are not architectural (log entry 17). -/
def slotImage (s : State) (t c size seq stamp : Nat) : List Byte :=
  let ts := ctxTasks s t c
  let front := leBytes 64 (imageHeader s t c size seq 2 ts stamp) ++ ts.flatMap (fun p => leBytes 32 (blockEntry s p.2))
  front ++ (upTo (size - front.length)).map (fun i => Config.saveBody s.serial (front.length + i))

end Sys2Proof.Machine
end

