-- ==== Sys2Proof/Machine/Sched.lean ====
section
/-! DEFINITION. The distributor at work (R36 to R56, R464): regrouping, dispatch decisions and placement, the ageing of
queues, the end of a task, budgets, the hang detector, and the reclamation of a cancellation (R316). -/

namespace Sys2Proof.Machine

open Host

/-! ### Regrouping (R38, R436) -/

/-- The island of a core. -/
def coreIsland (c : Nat) : Nat := 2 * clusterOf c + (decide (6 ≤ c % 144 / 12)).toNat

/-- A regrouping point of a core: every fourth core clock, which at LOW is every eighth reference cycle (R7, R38). The count
of core clocks starts with the device cycle count: DESIGN CHOICE (log entry 70). -/
def regroupPoint (s : State) (c : Nat) : Bool :=
  s.cycle % (if mgetD 2 s.mgmt.level (coreIsland c) = 1 then 8 else 4) == 0

/-- The held selection of a group after a merge: the entry that now stands at its PC. -/
def Group.reselect (g : Group) : Group :=
  { g with sel := (g.live.find? (fun e => g.sel == some e.id)).bind (fun e =>
      ((mergeAll g.live).find? (fun f => f.blk.isNone && f.pc == e.pc)).map (·.id)) }

/-- The RECONVERGE record of one merge. -/
def mergeRecord (s : State) (tid g : Nat) (es : List Entry) : State :=
  let all := frontMask es
  let low := ((es.find? (fun e => has e.mask (lowest all))).map (·.mask)).getD 0
  evPut s tid g 2 ((es.head?.map (·.pc)).getD 0) low all es.length 0

/-- REGROUP_MERGE: at a regrouping point, every merge of a group's frontier. With ETSTALL, a group whose
records find no room waits (R437). -/
def regroup (s : State) (tid g : Nat) : Option State :=
  match task s tid with
  | none => none
  | some t =>
    match mget t.groups g with
    | none => none
    | some gr =>
      let ms := mergeGroups gr.live
      if !regroupPoint s t.core || ms.isEmpty || !taskRuns s t || t.run != .running then none
      else
        let rec_ := evOn s t.tenant 2 gr.trap.isNone
        if rec_ && evWait s t.tenant ms.length then none
        else
          let s1 := if rec_ then ms.foldl (fun (s : State) es => mergeRecord s tid g es) s else s
          some (modGroup s1 tid g (fun x => x.reselect.setLive (mergeAll x.live)))
def execRegroupMerge (tid g : Nat) (s : State) : Outcome State Fault Refusal := fire (regroup s tid g) s

/-- Every group whose core stands at a regrouping point regroups. -/
def regroupAll (s : State) : State :=
  if s.cycle % 4 != 0 then s
  else s.tasks.foldl (fun (s : State) p => p.2.groups.foldl (fun (s : State) q => (regroup s p.1 q.1).getD s) s) s

/-! ### Room on a core (R29, R42, R67, R411, R442) -/

/-- A task takes room on its core: its context is not saved out of it. -/
def takesRoom (s : State) (t : Task) : Bool := !(ctxOf s t.tenant t.core).any (fun x => x.phase == .saved)

/-- The tasks that take room on a core, without those of one tenant. -/
def tasksOn (s : State) (c : Nat) (gone : Option Nat) : List Task :=
  (s.tasks.map (·.2)).filter (fun t => t.core == c && takesRoom s t && gone != some t.tenant)

/-- Other tenants whose contexts hold part of a core. -/
def holdersOf (s : State) (t c : Nat) (gone : Option Nat) : List Nat :=
  ((tasksOn s c gone).filter (fun x => x.tenant != t)).map (·.tenant) |>.dedup

/-- The core may hold a context of the tenant: enabled, its island ON, whole for STREAM, a free half for SHADOW. -/
def coreTakes (s : State) (t c : Nat) (gone : Option Nat) : Bool :=
  let hs := holdersOf s t c gone
  coreEnabled s c && islandState s (coreIsland c) == 2 &&
  (if shadowTenant s t then hs.all (shadowTenant s) && decide (hs.length ≤ 1) else hs.isEmpty)

/-- Group slots, granules, scratchpad KiB and accumulator granules of a block. -/
def needsOf (r : TaskRec) : List Nat := [r.groups + 1, (r.groups + 1) * r.regs, r.scratch, r.accg]
/-- What a block on a core holds: a group that has ended has freed its slot and its granules (R198). -/
def heldBy (t : Task) : List Nat :=
  [t.groups.length, t.groups.length * t.org.trec.regs, t.org.trec.scratch, t.org.trec.accg]
def sumNeeds (ns : List (List Nat)) : List Nat := ns.foldl (List.zipWith (· + ·)) [0, 0, 0, 0]

/-- Blocks fit beside the tenant's own on a core; the 32 group slots are shared by all. -/
def roomFor (s : State) (t c : Nat) (gone : Option Nat) (ns : List (List Nat)) : Bool :=
  let own := sumNeeds (ns ++ ((tasksOn s c gone).filter (fun x => x.tenant == t)).map heldBy)
  let all := sumNeeds (ns ++ (tasksOn s c gone).map heldBy)
  decide (all.getD 0 0 ≤ 32) && decide (own.getD 1 0 ≤ halfOf s t 128) && decide (own.getD 2 0 ≤ halfOf s t 512) &&
  decide (own.getD 3 0 ≤ halfOf s t 16)

/-- A block of a record fits on a core now, or once a tenant's context has left it. -/
def fitsOn (s : State) (t c : Nat) (gone : Option Nat) (r : TaskRec) : Bool :=
  coreTakes s t c gone && roomFor s t c gone [needsOf r] &&
  (match ctxOf s t c with
   | none => true
   | some x => x.phase == .resident)

def fitsSome (s : State) (t : Nat) (r : TaskRec) : Bool := (upTo 1152).any (fun c => fitsOn s t c none r)

/-! ### Starting a task -/

/-- A free slot of the scheduler with the most free slots, the lowest scheduler on ties (R42); `used` are the slots taken. Of
the scheduler's free slots it is the lowest-numbered: DESIGN CHOICE (log entry 70). -/
def pickSlot (used : List (Nat × Nat)) : Nat × Nat :=
  let free := fun (k : Nat) => 8 - (used.filter (fun p => p.1 == k)).length
  let sched := (upTo 4).foldl (fun b k => if free b < free k then k else b) 0
  (sched, (firstKey (fun i => !used.contains (sched, i)) 8 0).getD 0)

/-- Slots for n groups in ascending group index. -/
def pickSlots : Nat → List (Nat × Nat) → List (Nat × Nat)
  | 0, _ => []
  | n + 1, used => pickSlot used :: pickSlots n (pickSlot used :: used)

/-- Slots taken on a core. -/
def usedSlots (s : State) (c : Nat) : List (Nat × Nat) :=
  (tasksOn s c none).flatMap (fun t => if t.saved then [] else t.groups.map (fun p => (p.2.sched, p.2.slot)))

/-- The trace record of a launch's block, while its trace is OPEN (R320, R125). -/
def topRecord (s : State) (t launch blk : Nat) : Option (Nat × Nat) :=
  let parent := ((counter s t launch).map (·.parent)).getD 0
  (tenant s t).traces.findSome? (fun p =>
    if p.2.tstate != 0 || !(p.2.target == launch || (p.2.target == parent && parent != 0)) then none
    else (p.2.tasks.find? (fun k => k.2.top && k.2.launch == launch && k.2.blk == blk && k.2.state == 0)).map
      (fun k => (p.1, k.1)))

/-- An entry and those above it have had a block dispatched (R319). -/
def markBegan (s : State) (t i : Nat) : State :=
  (chainOf s t i).foldl (fun s j =>
    match counter s t j with
    | none => s
    | some c => setCounter s t j { c with began := true }) s

/-- A task placed on a core: its acquire of R46 and R367, its code as stored (R169), its groups in their slots, and its
context, whose quantum starts with its first block. -/
def startTask (s : State) (t c launch blk : Nat) (entry : VA) (prio : Byte) (args : List Word) (org : Origin)
    (traced : Option (Nat × Nat)) (prop spawned : Bool) : State :=
  let s0 := dropCode (acqAct s c .package) c
  let s1 := if prop then s0 else markBegan s0 t launch
  let r := org.trec
  let n := r.groups + 1
  let slots := pickSlots n (usedSlots s1 c)
  let t0 := Task.start t c launch blk entry prio args org n r.regs (1024 * r.scratch) (32 * r.accg)
  let gs := slots.zipIdx.map (fun p => (p.2, Group.start p.1.1 p.1.2 (s1.serial + 1 + p.2) entry prio))
  let t1 := { t0 with groups := gs, traced := traced, prop := prop, spawned := spawned, chargedAt := s1.cycle,
                      stopReq := if !prop && (tenant s1 t).preStop.contains (launch, blk) then some (3, 0) else none }
  let s2 := modTenant { s1 with serial := s1.serial + 1 + n, tasks := mput s1.tasks s1.serial t1 } t (fun x =>
    { x with preStop := x.preStop.filter (fun p => p != (launch, blk)),
             ctxs := if (mget x.ctxs c).isSome then x.ctxs else
               mput x.ctxs c { since := s1.cycle, hang := 0, phase := .resident, check := [] } })
  match traced with
  | some (h, k) => if prop then memberStart s2 t h k else s2
  | none => s2

/-- A block of a launch placed. -/
def startBlock (s : State) (t c i : Nat) (l : Launch) (b : Nat) : State :=
  startTask s t c i b l.trec.entry l.trec.prio l.trec.args (originOf s t i l.trec (l.strB.getD l.trec.blocks))
    (topRecord s t i b) false false

/-! ### Dispatch decisions (R49, R51 to R53, R464) -/

/-- The next block of a launch that has not been dropped; none when none is left. -/
def nextBlock (l : Launch) : Option Nat :=
  let n := l.strB.getD l.trec.blocks
  match firstKey (fun b => !l.dropped.contains b) (l.dropped.length + 1) l.next with
  | some b => if b < n then some b else none
  | none => none

/-- The launch at the head of a queue: those before it have nothing left. -/
def queueHead (s : State) (t : Nat) (q : DevQueue) : Option (Nat × Launch) :=
  q.recs.findSome? (fun i => (mget (tenant s t).launches i).bind (fun l => (nextBlock l).map (fun _ => (i, l))))

/-- R47, R305: its dependences are met and no trace is awaited. -/
def headReady (l : Launch) : Bool := l.trec.dep0c == 0 && l.trec.dep1c == 0 && !l.trec.trw && !l.aborted

/-- Effective priority (R51). -/
def queuePrio (s : State) (t q : Nat) : Nat := min 7 (queueBase s t q + (queueOf s t q).bump)

/-- The non-empty queues in the order of R52: highest effective priority first, round-robin within one. -/
def queueOrder (s : State) (t : Nat) : List Nat :=
  let qs := ((tenant s t).queues.filter (fun p => !p.2.recs.isEmpty)).map (·.1)
  let rr := (tenant s t).rrq
  (upTo 8).flatMap (fun k =>
    let same := qs.filter (fun q => queuePrio s t q == 7 - k)
    same.filter (fun q => decide (rr < q)) ++ same.filter (fun q => decide (q ≤ rr)))

/-- The ready heads of a tenant's queues, in that order. -/
def readyHeads (s : State) (t : Nat) : List (Nat × Nat × Launch) :=
  (queueOrder s t).filterMap (fun q => (queueHead s t (queueOf s t q)).bind (fun p =>
    if headReady p.2 then some (q, p.1, p.2) else none))

/-- What a decision of a tenant picks: a saved context, the oldest task of the spawn store, or a queue's head. -/
inductive Pick where
  | back
  | spawn (x : Spawned)
  | queue (q i : Nat) (l : Launch)
  deriving DecidableEq, Repr

/-- A saved context can return to its core: the core can hold all of its blocks. -/
def canReturn (s : State) (t c : Nat) : Bool :=
  (ctxOf s t c).any (fun x => x.phase == .saved) && coreTakes s t c none &&
  roomFor s t c none (((s.tasks.map (·.2)).filter (fun x => x.tenant == t && x.core == c)).map heldBy)

/-- The oldest task of the spawn store; those of a cancelled launch are not dispatched (R316). -/
def spawnHead (s : State) (t : Nat) : Option Spawned :=
  (tenant s t).spawns.find? (fun x => x.prop || (counter s t x.launch).any (fun c => !c.status.final))

def decision (s : State) (t : Nat) : Option Pick :=
  if (tenant s t).resetting then none
  else if (tenant s t).ctxs.any (fun p => canReturn s t p.1) then some .back
  else match spawnHead s t with
    | some x => if fitsSome s t x.org.trec then some (.spawn x) else fromQueues
    | none => fromQueues
where
  fromQueues : Option Pick :=
    ((readyHeads s t).find? (fun p => fitsSome s t p.2.2.trec)).map (fun p => .queue p.1 p.2.1 p.2.2)

/-- The tenant whose decision comes next in the rotation (R52). -/
def turnOf (s : State) : Option Nat :=
  let ts := (s.tens.map (·.1)).filter (fun t => (decision s t).isSome)
  match ts.find? (fun t => decide (s.rrTen < t)) with
  | some t => some t
  | none => ts.head?

/-- Further blocks of a STREAM launch placed in the same decision, as many as fit, on the lowest core each: the state and
the first block that did not fit. -/
def streamMore : Nat → State → Nat → Nat → Launch → Nat → State × Nat
  | 0, s, _, _, _, b => (s, b)
  | n + 1, s, t, i, l, b =>
    if l.trec.blocks ≤ b then (s, b)
    else if l.dropped.contains b then streamMore n s t i l (b + 1)
    else match (upTo 1152).find? (fun c => fitsOn s t c none l.trec) with
      | none => (s, b)
      | some c => streamMore n (startBlock s t c i l b) t i l (b + 1)

/-- STREAM_BLOCK_COUNT (R49): block 0 placed with all that fit; the others never run and count as ended. -/
def startStream (s : State) (t c i : Nat) (l : Launch) (b : Nat) : State :=
  let (s1, n) := streamMore (36864 + l.dropped.length) (startBlock s t c i l b) t i l (b + 1)
  let s2 := { s1 with tasks := s1.tasks.map (fun p =>
    (p.1, if p.2.tenant == t && p.2.launch == i then { p.2 with org := { p.2.org with nblk := n } } else p.2)) }
  -- a propagation re-executes its tasks with the same number of blocks (R134)
  let s2 := modTenant s2 t (fun x => { x with traces := x.traces.map (fun p => (p.1, { p.2 with tasks := p.2.tasks.map (fun q =>
    (q.1, if q.2.launch = i then { q.2 with org := { q.2.org with nblk := n } } else q.2)) })) })
  let never := l.trec.blocks - n - (l.dropped.filter (fun d => decide (n ≤ d))).length
  let s3 := modTenant s2 t (fun x => { x with launches := mput x.launches i { l with next := n, strB := some n } })
  if never = 0 then s3 else countUp s3 t i never false

/-- A queue has dispatched: its priority and its age start again (R51); a launch with no block left leaves it. -/
def queueFired (s : State) (t q : Nat) : State :=
  modTenant s t (fun x =>
    let y := mgetD ⟨[], 0, false, 0⟩ x.queues q
    { x with rrq := q, queues := mput x.queues q { recs := y.recs.filter (fun i =>
        (mget x.launches i).any (fun l => (nextBlock l).isSome)), since := s.cycle, fired := true, bump := 0 } })

/-- A block of the head of a queue placed on a core. -/
def placeHead (s : State) (t c q i : Nat) (l : Launch) : State :=
  match nextBlock l with
  | none => s
  | some b =>
    let s1 := if l.trec.stream && !l.trec.det && l.strB.isNone then startStream s t c i l b
      else modTenant (startBlock s t c i l b) t (fun x => { x with launches := mput x.launches i { l with next := b + 1 } })
    queueFired s1 t q

/-- DISPATCH_DECISION: the tenant in turn places what comes first for it; the core is any on which that fits. -/
def dispatch (s : State) (t c : Nat) : Option State :=
  if turnOf s != some t then none
  else
    let s0 := { s with rrTen := t }
    match decision s t with
    | none => none
    | some .back => if canReturn s t c then some (slotState (setCtx s0 t c (fun x => { x with phase := .restoring })) t c 3) else none
    | some (.spawn x) =>
      if !fitsOn s t c none x.org.trec then none
      else
        let s1 := modTenant s0 t (fun y => { y with spawns := y.spawns.erase x })
        some (startTask s1 t c x.launch x.blk x.entry x.prio x.args x.org x.traced x.prop true)
    | some (.queue q i l) => if fitsOn s t c none l.trec then some (placeHead s0 t c q i l) else none
def execDispatchDecision (t c : Nat) (s : State) : Outcome State Fault Refusal := fire (dispatch s t c) s

/-- QUEUE_AGING: one whole millisecond without a dispatch. -/
def queueAging (s : State) (t q : Nat) : Option State :=
  let x := queueOf s t q
  if x.recs.isEmpty || decide (s.cycle < x.since + 850000 * (x.bump + 1)) then none
  else some (modTenant s t (fun y => { y with queues := mput y.queues q { x with bump := x.bump + 1 } }))
/-- Every queue grows older with the cycles that pass (R51). -/
def ageQueues (s : State) : State :=
  s.tens.foldl (fun (s : State) p => p.2.queues.foldl (fun (s : State) q => (queueAging s p.1 q.1).getD s) s) s
def execQueueAging (t q : Nat) (s : State) : Outcome State Fault Refusal := fire (queueAging s t q) s

/-! ### The end of a task (R198, R46) -/

/-- Every copy, matrix operation, collective and query of a task has completed. -/
def opsOver (s : State) (tid core_ : Nat) : Bool :=
  !s.copies.any (fun p => p.2.tid == tid) && !s.colls.any (fun p => p.2.tid == tid) &&
  !s.queries.any (fun p => p.2.tid == tid) &&
  !((core s core_).ma0 ++ (core s core_).ma1).any (fun o => o.tid == tid)

/-- What a core has written is at its home ports: written back, and none of its die's writes on its way. -/
def coreClean (s : State) (c : Nat) : Bool :=
  !(core s c).l1.any (fun p => !p.2.dirty.isEmpty) && !s.wq.any (fun w => w.die == dieOf c)

/-- TASK_END: its writes are visible at package scope before its end is counted. -/
def taskOver (s : State) (tid : Nat) : Option State :=
  match task s tid with
  | none => none
  | some t =>
    if !unitRuns s t || !t.groups.isEmpty || !opsOver s tid t.core then none
    else if coreClean s t.core then some (endTask s tid t.faulted)
    else if (core s t.core).l1.any (fun p => !p.2.dirty.isEmpty) then some (writeBackAll s t.core)
    else none
def execTaskEnd (tid : Nat) (s : State) : Outcome State Fault Refusal := fire (taskOver s tid) s

/-! ### Budgets (R56) -/

/-- BUDGET_CHARGE: the resident tasks of a core are charged, and jobs over their budget are cancelled. -/
def budgetCharge (s : State) (c : Nat) : Option State :=
  let ts := s.tasks.filter (fun p => p.2.core == c && !p.2.saved)
  if ts.isEmpty then none
  else
    let s1 := ts.foldl (fun (s : State) p => chargeTask s p.1) s
    some ((ts.map (fun p => p.2.tenant)).dedup.foldl capBudgets s1)

/-- Cores that have not added their charges for 1,024 cycles add them (R56). -/
def chargeDue (s : State) : State :=
  (((s.tasks.map (·.2)).filter (fun t => !t.saved && decide (t.chargedAt + 1024 ≤ s.cycle))).map (·.core)).dedup.foldl
    (fun (s : State) c => (budgetCharge s c).getD s) s
def execBudgetCharge (c : Nat) (s : State) : Outcome State Fault Refusal := fire (budgetCharge s c) s

/-! ### The hang detector (R54, R423, R427) -/

/-- A context in which every frontier entry of every resident group is blocked, those of a frozen user frontier among them, and
no block is stopped. -/
def ctxHangs (s : State) (t c : Nat) : Bool :=
  let ts := (s.tasks.map (·.2)).filter (fun x => x.tenant == t && x.core == c && !x.saved)
  (ctxOf s t c).any (fun x => x.phase == .resident) && ts.all (fun x => x.run == .running && x.stopReq.isNone) &&
  ts.any (fun x => !x.groups.isEmpty) &&
  ts.all (fun x => x.groups.all (fun q => (q.2.front ++ q.2.hfront).all (fun e => e.blk.isSome)))

/-- One cycle of every hang detector. -/
def hangTick (s : State) : State :=
  s.tens.foldl (fun (s : State) p => p.2.ctxs.foldl (fun (s : State) x =>
    setCtx s p.1 x.1 (fun y => { y with hang := if ctxHangs s p.1 x.1 then y.hang + 1 else 0 })) s) s

/-- One wait-for edge (R423 Tables 10 and 11). -/
def edgeOf (s : State) (t : Task) (g : Nat) (w : Wait) : Nat :=
  let mk := fun (kind obj st0 st1 : Nat) => kind + 16 * g + 2 ^ 32 * obj + 2 ^ 64 * st0 + 2 ^ 96 * st1
  match w with
  | .bar n phase =>
    let o := mgetD 0 t.bars n
    mk 1 (2 ^ 16 * phase + n) (2 ^ 16 * barCount t o + barArrcnt t o) (2 ^ 16 * barArrset t o + barWaitset t o)
  | .push n _ _ => let o := mgetD 0 t.queues n; mk 2 n (qHead t o) (qTail t o)
  | .pop n _ _ _ _ => let o := mgetD 0 t.queues n; mk 3 n (qHead t o) (qTail t o)
  | .chain va w ge _ => mk 4 (va % 2 ^ 32) w.toNat (va / 2 ^ 32 % 2 ^ 25 + 2 ^ 31 * ge.toNat)
  | .tok => mk 5 (((mget (tenant s t.tenant).launches t.launch).map (·.token)).getD 0) t.launch 0
  | .cnt _ _ _ idx thr => mk 6 idx thr (((counter s t.tenant idx).map (·.done)).getD 0 % 2 ^ 32)

def insertPc (e : Entry) : List Entry → List Entry
  | [] => [e]
  | f :: l => if e.pc.toNat < f.pc.toNat then e :: f :: l else f :: insertPc e l
def sortPc (es : List Entry) : List Entry := es.foldl (fun acc e => insertPc e acc) []

/-- One edge for each blocked entry, in ascending (group, PC) order. -/
def edgesOf (s : State) (t : Task) : List Nat :=
  t.groups.flatMap (fun p => (sortPc (p.2.front ++ p.2.hfront)).filterMap (fun e =>
    e.blk.map (fun b => edgeOf s t p.1 b.1)))

/-- Tasks in ascending block index. -/
def insertBlk (p : Nat × Task) : List (Nat × Task) → List (Nat × Task)
  | [] => [p]
  | q :: l => if p.2.blk < q.2.blk then p :: q :: l else q :: insertBlk p l
def sortBlk (l : List (Nat × Task)) : List (Nat × Task) := l.foldl (fun acc p => insertBlk p acc) []

/-- HANG_DETECT: the context stops, one report of each block is written, and the blocks end or are held. -/
def hangDetect (s : State) (t c : Nat) : Option State :=
  match ctxOf s t c with
  | none => none
  | some x =>
    if nb (csrGet s t 0x020).toNat 1 1 = 0 ∨ x.hang < 2 ^ nb (csrGet s t 0x022).toNat 0 6 ∨ !ctxHangs s t c then none
    else
      let ts := sortBlk (s.tasks.filter (fun p => p.2.tenant == t && p.2.core == c && !p.2.saved))
      let s1 := ts.foldl (fun (s : State) p => report s p.1 2 causeHang [] (edgesOf s p.2)) s
      let s2 := ts.foldl (fun (s : State) p => endOrHold s p.1 none) s1
      some (setCtx s2 t c (fun y => { y with hang := 0 }))
def execHangDetect (t c : Nat) (s : State) : Outcome State Fault Refusal := fire (hangDetect s t c) s

/-! ### Reclamation (R316) -/

/-- The resident and saved tasks that a cancellation ends. -/
def cancelTasks (s : State) (op : CancelOp) : List (Nat × Task) :=
  s.tasks.filter (fun p => p.2.tenant == op.tenant &&
    (op.tasks.contains p.1 || (!p.2.prop && op.entries.contains p.2.launch)))

/-- Queued blocks and spawned tasks of a launch dropped, each counted as ended. -/
def dropQueued (s : State) (t i : Nat) : State :=
  match mget (tenant s t).launches i with
  | none => s
  | some l =>
    let n := l.strB.getD l.trec.blocks
    let left := n - l.next - (l.dropped.filter (fun d => decide (l.next ≤ d) && decide (d < n))).length
    let sp := ((tenant s t).spawns.filter (fun p => !p.prop && p.launch == i)).length
    let held := (l.ends.map (·.2)).sum
    let s1 := modTenant (unqueue s t i) t (fun x =>
      { x with launches := mput x.launches i { l with next := max l.next n, ends := [], aborted := true },
               spawns := x.spawns.filter (fun p => p.prop || p.launch != i),
               preStop := x.preStop.filter (fun p => p.1 != i) })
    if left + sp + held = 0 then s1 else countUp s1 t i (left + sp + held) false

/-- The ordered reductions of a cancelled DET launch: those below its horizon are applied in key order, the others dropped. -/
def settleReds (s : State) (t i : Nat) : State :=
  match mget (tenant s t).launches i with
  | none => s
  | some l =>
    let mine := s.reds.filter (fun r => r.tenant == t && r.launch == i)
    let s1 := (sortReds (mine.filter (fun r => r.accepted && decide (r.blk < l.horizon)))).foldl applyRed s
    { s1 with reds := s1.reds.filter (fun r => !(r.tenant == t && r.launch == i)) }

/-- A propagation that a job of a cancelled set runs on a trace that still stands. -/
def propOf (s : State) (t : Nat) (set : List Nat) : Option Nat :=
  ((tenant s t).traces.find? (fun p => p.2.prop.any (fun r => r.job != 0 && set.contains r.job))).map (·.1)

/-- Everything that a cancelled set takes with it. -/
def reclaimSet (s : State) (t : Nat) (set : List Nat) : State :=
  let s1 := set.foldl (fun (s : State) i => settleReds (dropQueued s t i) t i) s
  set.foldl (fun (s : State) j => if (counter s t j).any (fun c => c.level == 4) then dropJob s t j else s) s1

/-- CANCEL_RECLAIM. A token of status ALREADY waits for the reclamations of its entry that began before it; one of status
NOTFOUND is written at once. -/
def cancelReclaim (s : State) (id : Nat) : Option State :=
  match mget s.cancels id with
  | none => none
  | some op =>
    let done := fun (s : State) =>
      let s1 := { s with cancels := mdel s.cancels id }
      match op.tok with
      | none => s1
      | some (tid, g, tok) => writeToken s1 tid g tok (statusWord op.status op.value)
    if op.status = 6 then some (done s)
    else if op.status = 7 then
      (if s.cancels.any (fun p => decide (p.1 < id) && p.2.tenant == op.tenant && p.2.status == 0 &&
          op.entries.any (fun e => p.2.entries.contains e)) then none
       else some (done s))
    else
      let ts := cancelTasks s op
      let cs := (ts.map (fun p => p.2.core)).dedup
      if cs.any (fun c => (core s c).l1.any (fun p => !p.2.dirty.isEmpty)) then some (cs.foldl (fun s c => writeBackAll s c) s)
      else if cs.any (fun c => !coreClean s c) then none
      else
        let s1 := ts.foldl (fun (s : State) p => endTask s p.1 (p.2.faulted)) s
        match propOf s1 op.tenant op.entries with
        | some h => orFault op.tenant h (stopProp s1 op.tenant h 0x0D)
        | none => some (done (reclaimSet s1 op.tenant op.entries))
def execCancelReclaim (id : Nat) (s : State) : Outcome State Fault Refusal := fire (cancelReclaim s id) s

end Sys2Proof.Machine
end

