-- ==== Sys2Proof/Machine/Preempt.lean ====
section
/-! DEFINITION. Pre-emption (R410 to R419): the end of a quantum, the save of a context to its slot, the switch of a SHADOW
context, and the restore. -/

namespace Sys2Proof.Machine

open Host

/-! ### Who waits for a core (R413) -/

/-- A context is being saved on a core that would then take a block of the record. -/
def roomComing (s : State) (u : Nat) (r : TaskRec) : Bool :=
  s.tens.any (fun p => p.2.ctxs.any (fun q => q.2.phase == .saving && fitsOn s u q.1 (some p.1) r))

/-- A ready head of another tenant fits on no core, and would fit on this core once the tenant's context has left. -/
def wanted (s : State) (t c : Nat) : Bool :=
  s.tens.any (fun p => p.1 != t && (readyHeads s p.1).any (fun h =>
    !fitsSome s p.1 h.2.2.trec && !roomComing s p.1 h.2.2.trec && fitsOn s p.1 c (some t) h.2.2.trec))

/-- How long a context has been resident. -/
def residentFor (s : State) (t c : Nat) : Nat := s.cycle - ((ctxOf s t c).map (·.since)).getD 0

/-- The three conditions of R413. -/
def quantumOver (s : State) (t c : Nat) : Bool :=
  let q := nb (csrGet s t 0x051).toNat 0 24
  (ctxOf s t c).any (fun x => x.phase == .resident) && q != 0 && decide (1024 * q ≤ residentFor s t c) && wanted s t c

/-- The core taken is the one whose context has been resident longest, ties to the lowest core. -/
def longest (s : State) (t c : Nat) : Bool :=
  s.tens.all (fun p => p.2.ctxs.all (fun q =>
    !quantumOver s p.1 q.1 || decide (residentFor s p.1 q.1 < residentFor s t c) ||
    (residentFor s p.1 q.1 == residentFor s t c && decide (c ≤ q.1))))

/-- Tags of the groups of a context slip (R440). -/
def slipCtx (s : State) (t c : Nat) : State :=
  slipTags s t (fun x => (task s x.tid).any (fun y => y.core == c))

/-- What a slot holds; nothing where some page of it cannot be read. -/
def slotNow (s : State) (t c : Nat) : Map Byte :=
  ((devRead s t (tenantRoot s t) (slotVa s t c) (2 ^ 21) false).2.getD []).mapIdx (fun i b => (i, b))

/-- The save of a context begins: its groups stop at instruction boundaries, its slot says SAVING, and what the slot holds from
here on is watched (R417). -/
def startSave (s : State) (t c : Nat) : State :=
  let s1 := slotState (setCtx (slipCtx s t c) t c (fun x => { x with phase := .saving, since := s.cycle, check := [] })) t c 1
  setCtx s1 t c (fun x => { x with check := slotNow s1 t c })

/-- Another party wrote the slot of a context during its save. -/
def slotTouched (s : State) (t c : Nat) (x : Context) : Bool := !x.check.isEmpty && slotNow s t c != x.check

/-- The check value of an image, which no slot has once the slot was written during the save (R417). -/
def checkOf (bytes : List Byte) (touched : Bool) : Map Byte :=
  bytes.mapIdx (fun i b => (i, b)) ++ (if touched then [(2 ^ 32, 0)] else [])

/-- Some page of a core's slot lies on a stack. -/
def slotOn (s : State) (t c k : Nat) : Bool :=
  (upTo 512).any (fun i =>
    match walk s t (tenantRoot s t) (slotVa s t c + 2 ^ 12 * i) with
    | .leaf x => nb x.w1 15 1 == 0 && homeStack s (x.w0 / 2 ^ 12 * 2 ^ 12 + (slotVa s t c + 2 ^ 12 * i) % x.bytes) == k
    | _ => false)

/-- A save starts after the retraining of a stack that its slot lies on (R408). -/
def saveWaits (s : State) (t c : Nat) : Bool := s.mgmt.retrain.any (fun p => slotOn s t c p.1)

/-- QUANTUM_EXPIRY: a STREAM context is saved; a SHADOW context is switched out, and streamed when its half is needed. -/
def quantumEnd (s : State) (t c : Nat) : Option State :=
  if saveWaits s t c && !(quantumOver s t c && shadowTenant s t) then none
  else if (ctxOf s t c).any (fun x => x.phase == .shadow) && wanted s t c then some (startSave s t c)
  else if !(quantumOver s t c && longest s t c) then none
  else if shadowTenant s t then some (setCtx (slipCtx s t c) t c (fun x => { x with phase := .shadow }))
  else some (startSave s t c)
def execQuantumExpiry (t c : Nat) (s : State) : Outcome State Fault Refusal := fire (quantumEnd s t c) s

/-- SHADOW_SWITCH: a context that was switched out and whose half nobody needs issues again, with a fresh quantum. -/
def shadowBack (s : State) (t c : Nat) : Option State :=
  if (ctxOf s t c).any (fun x => x.phase == .shadow) && !wanted s t c then
    some (setCtx s t c (fun x => { x with phase := .resident, since := s.cycle, hang := 0 }))
  else none
def execShadowSwitch (t c : Nat) (s : State) : Outcome State Fault Refusal := fire (shadowBack s t c) s

/-! ### Saving (R414 to R418) -/

/-- What must come to rest before a save: loads and stores of the groups, and the requests of `cpl` that wait for no page. -/
def ctxQuiet (s : State) (t c : Nat) : Bool :=
  (ctxTasks s t c).all (fun p =>
    p.2.groups.all (fun q => q.2.loads.isEmpty && q.2.stores.isEmpty) &&
    s.copies.all (fun o => o.2.tid != p.1 || o.2.todo.isEmpty || s.needs.any (fun n => n.2.who == .copy o.1) ||
      (match o.2.kind with
       | .cpl _ _ _ => false
       | _ => true)))

/-- A save or restore that cannot go on (R418): one report of each block, every block ends FAULTED, and the slot is EMPTY. -/
def slotFail (s : State) (t c kind : Nat) (cause : Byte) : State :=
  let ts := ctxTasks s t c
  let s1 := ts.foldl (fun (s : State) p => report s p.1 kind cause [] []) (slotState s t c 0)
  ts.foldl (fun (s : State) p => endTask s p.1 true) s1

/-- The blocks of a context leave their core: charged up to now, and counted no further; a job that its last charge took past
its budget is cancelled (R56). -/
def leaveCore (s : State) (t c : Nat) : State :=
  capBudgets ((ctxTasks s t c).foldl (fun (s : State) p =>
    modTask (chargeTask s p.1) p.1 (fun x => { x with saved := true })) s) t

/-- CONTEXT_SAVE_COMPLETE. -/
def saveDone (s : State) (t c : Nat) : Option State :=
  match ctxOf s t c with
  | none => none
  | some x =>
    if x.phase != .saving || !ctxQuiet s t c then none
    else if (core s c).l1.any (fun p => !p.2.dirty.isEmpty) then some (writeBackAll s c)
    else if !coreClean s c then none
    else
      let (s1, w) := takeFree s
      let size := 4097 + w.toNat % (2 ^ 21 - 4096)
      let seq := mgetD 0 (tenant s t).saves c + 1
      let bytes := slotImage s1 t c size seq x.since
      match slotPut { s1 with serial := s1.serial + 1 } t c 0 bytes with
      | .wait _ => none
      | .bad s2 cause => some (slotFail s2 t c 3 cause)
      | .ok s2 =>
        let s3 := leaveCore (invalidateCC (invalidateL1 s2 c) c) t c
        let s4 := modTenant s3 t (fun y => { y with saves := mput y.saves c seq })
        some (setCtx s4 t c (fun y => { y with phase := .saved, hang := 0, check := checkOf bytes (slotTouched s t c x) }))
def execContextSaveComplete (t c : Nat) (s : State) : Outcome State Fault Refusal := fire (saveDone s t c) s

/-! ### Restoring -/

/-- Groups put into free slots of the schedulers (R42). -/
def reslot (t : Task) (slots : List (Nat × Nat)) : Task :=
  { t with groups := (t.groups.zip slots).map (fun p => (p.1.1, { p.1.2 with sched := p.2.1, slot := p.2.2, stall := false })) }

/-- A saved block on its core again. -/
def backOnCore (s : State) (tid c : Nat) : State :=
  let used := usedSlots s c
  modTask s tid (fun t => { reslot t (pickSlots t.groups.length used) with saved := false, chargedAt := s.cycle })

/-- Matrix operations of a restored context queue again, in issue order. -/
def requeueMat (s : State) (c : Nat) (tids : List Nat) : State :=
  let k := core s c
  let again := fun (q : List MatOp) => q.filter (fun o => !tids.contains o.tid) ++ q.filter (fun o => tids.contains o.tid)
  setCore s c { k with ma0 := again k.ma0, ma1 := again k.ma1 }

/-- CONTEXT_RESTORE_COMPLETE. -/
def restoreDone (s : State) (t c : Nat) : Option State :=
  match ctxOf s t c with
  | none => none
  | some x =>
    if x.phase != .restoring then none
    else
      let va := slotVa s t c
      match slotReach t { r := true, w := false, x := false, user := false } (chunksOf va x.check.length) s with
      | .wait _ => none
      | .bad s1 cause => some (slotFail s1 t c 4 cause)
      | .ok s1 =>
        match devRead s1 t (tenantRoot s1 t) va x.check.length false with
        | (s2, none) => some (slotFail s2 t c 4 causePage)
        | (s2, some bs) =>
          if bs.mapIdx (fun i b => (i, b)) != x.check then some (slotFail s2 t c 4 causeData)
          else
            let tids := (ctxTasks s2 t c).map (·.1)
            let s3 := tids.foldl (fun (s : State) i => backOnCore s i c) (requeueMat s2 c tids)
            some (slotState (setCtx s3 t c (fun y =>
              { y with phase := .resident, since := s.cycle, hang := 0, check := [] })) t c 0)
def execContextRestoreComplete (t c : Nat) (s : State) : Outcome State Fault Refusal := fire (restoreDone s t c) s

end Sys2Proof.Machine
end

