-- ==== Sys2Proof/Machine/Debug.lean ====
section
/-! DEFINITION. Debug (R425 to R434): breakpoint matches, precise stops and their dumps, and the debug commands. -/

namespace Sys2Proof.Machine

open Host

/-! ### Breakpoints (R428, R432) -/

/-- The breakpoints that a group of a task matches now: it could issue its selected entry but for them. -/
def bpNow (s : State) (t : Task) (g : Group) : Nat :=
  if taskRuns s t && (t.run == .running || (t.run == .stopped && decide (0 < g.steps))) then bpMatch s t g else 0

/-- BREAKPOINT_MATCH: the block's groups that match in this cycle cause one stop. -/
def bpStop (s : State) (tid g : Nat) : Option State :=
  match task s tid with
  | none => none
  | some t =>
    if !(mget t.groups g).any (fun x => bpNow s t x != 0) then none
    else
      let hit := t.groups.foldl (fun m q => m ||| bpNow s t q.2) 0
      some (setTask s tid { t with stopReq := some (2, hit) })
def execBreakpointMatch (tid g : Nat) (s : State) : Outcome State Fault Refusal := fire (bpStop s tid g) s

/-! ### Dumps (R433, R434) -/

/-- One frontier entry in a dump (Table 7). -/
def dumpEntry (g : Nat) (hnd : Bool) (e : Entry) : Nat :=
  g + 2 ^ 5 * hnd.toNat + 2 ^ 6 * e.blk.isSome.toNat + 2 ^ 7 * e.yld.toNat + 2 ^ 8 * e.prio.toNat + 2 ^ 16 * e.starve.toNat +
  2 ^ 32 * e.mask.toNat + 2 ^ 71 * e.pc.toNat

/-- Every entry in ascending (group, handler, PC) order. -/
def dumpEntries (t : Task) : List Nat :=
  t.groups.flatMap (fun p => (sortPc p.2.front).map (dumpEntry p.1 false) ++ (sortPc p.2.hfront).map (dumpEntry p.1 true))

/-- The copy of a bound barrier, with N and its place. -/
def dumpBar (t : Task) (p : Nat × Nat) : Nat := objGet t p.2 16 % 2 ^ 96 + 2 ^ 96 * (p.1 % 16) + 2 ^ 100 * (p.2 / 16)

/-- A group's unit in a dump: its head's PC, and no trap. -/
def dumpGroup (p : Nat × Group) : Nat :=
  groupUnit p.1 p.2 (some { epc := headPc p.2.live, cause := 0, emask := 0, ebmask := 0, eaddr := 0, oepc := 0, ocause := 0 })

/-- The units of a dump: header (Table 6), groups, entries, barriers. -/
def dumpUnits (s : State) (t : Task) (cause bits : Nat) : List Nat :=
  let es := dumpEntries t
  let bs := t.bars.map (dumpBar t)
  let header := 2 ^ 328 * virtCore s t.core + 2 ^ 336 * clusterOf t.core + 2 ^ 340 * bs.length + 2 ^ 345 * es.length +
    2 ^ 355 * t.groups.length + 2 ^ 360 * bits + 2 ^ 364 * cause + 2 ^ 368 * t.phases.toNat + 2 ^ 400 * t.blk +
    2 ^ 424 * t.launch + 2 ^ 436 * jobOf s t.tenant t.launch + 2 ^ 448 * (s.cycle % 2 ^ 64)
  header :: t.groups.map dumpGroup ++ fourPer es ++ fourPer bs

def writeDump (s : State) (t : Task) (cause bits : Nat) : State :=
  let (s1, n) := ringPut s t.tenant 0x088 0x08A 0x08B 0x08C 64 (dumpUnits s t cause bits) (fun u => u + 2 ^ 339)
  if n = 0 then csrSet s1 t.tenant 0x061 (csrGet s1 t.tenant 0x061 ||| 0x100) else s1

/-! ### The end of a command (R430) -/

def dbgCmd (s : State) (t : Nat) : Nat := (csrGet s t 0x062).toNat

/-- RESULT written, BUSY and GO cleared. -/
def dbgDone (s : State) (t res : Nat) : State :=
  let s1 := csrSet s t 0x061 ((csrGet s t 0x061 &&& 0x7FFFFFF0) ||| BitVec.ofNat 32 res)
  modTenant (csrSet s1 t 0x062 (csrGet s1 t 0x062 &&& 0x7FFFFFFF)) t (fun x => { x with dbgWait := none })

/-- A dump of a block is out: the command that waits for it ends. -/
def dumpOut (s : State) (t : Task) : State :=
  if (tenant s t.tenant).dbgWait = some (t.launch, t.blk) then dbgDone s t.tenant 1 else s

/-! ### Precise stops (R426) -/

/-- What the groups of a block issued is complete. -/
def blockQuiet (t : Task) : Bool := t.groups.all (fun q => q.2.loads.isEmpty && q.2.stores.isEmpty)

/-- A block stopped. -/
def nowStopped (t : Task) : Task :=
  { t with run := .stopped, stopReq := none, groups := t.groups.map (fun q => (q.1, { q.2 with steps := 0 })) }

/-- A STEP has let every group issue once. -/
def stepOver (s : State) (t : Task) : Bool :=
  (tenant s t.tenant).dbgWait == some (t.launch, t.blk) && t.run == .stopped && nb (dbgCmd s t.tenant) 0 4 == 3 &&
  t.groups.all (fun q => q.2.steps == 0)

/-- PRECISE_STOP. A block that a trap has stopped in the meantime is held, and writes no dump. -/
def preciseStop (s : State) (tid : Nat) : Option State :=
  match task s tid with
  | none => none
  | some t =>
    if !unitRuns s t || !blockQuiet t then none
    else match t.stopReq, t.run with
      | some _, .held _ => some (dumpOut (setTask s tid { t with stopReq := none }) t)
      | some r, _ => some (dumpOut (setTask (writeDump s t r.1 r.2) tid (nowStopped t)) t)
      | none, _ => if stepOver s t then some (dumpOut (writeDump s t 4 0) t) else none
def execPreciseStop (tid : Nat) (s : State) : Outcome State Fault Refusal := fire (preciseStop s tid) s

/-! ### Commands (R430 to R432) -/

/-- A command of an operation waits to run. -/
def dbgPending (s : State) (t op : Nat) : Bool :=
  nb (csrGet s t 0x061).toNat 31 1 == 1 && (tenant s t).dbgWait.isNone && nb (dbgCmd s t) 0 4 == op

/-- The block that the command names, by launch counter index and block index. -/
def dbgName (s : State) (t : Nat) : Nat × Nat := (nb (csrGet s t 0x063).toNat 0 12, nb (csrGet s t 0x064).toNat 0 24)

def blockNamed (s : State) (t : Nat) (n : Nat × Nat) : Option (Nat × Task) :=
  s.tasks.find? (fun p => p.2.tenant == t && p.2.launch == n.1 && p.2.blk == n.2 && !p.2.prop && !p.2.spawned)

/-- A block queued and not yet dispatched. -/
def blockQueued (s : State) (t : Nat) (n : Nat × Nat) : Bool :=
  (mget (tenant s t).launches n.1).any (fun l =>
    decide (l.next ≤ n.2) && decide (n.2 < l.strB.getD l.trec.blocks) && !l.dropped.contains n.2 && !l.aborted)

/-- A command that waits for a dump whose block has gone, or is held without one. -/
def dbgGone (s : State) (t : Nat) : Option State :=
  match (tenant s t).dbgWait with
  | none => none
  | some n =>
    match blockNamed s t n with
    | none => if blockQueued s t n then none else some (dbgDone s t 2)
    | some (_, x) =>
      match x.run with
      | .held _ => some (dbgDone s t 1)
      | _ => none

/-- The stopped block of a command, or the command's failure. -/
inductive DbgAt where
  | fails (res : Nat)
  | found (tid : Nat) (t : Task)
  deriving DecidableEq, Repr

/-- A command other than STOP needs a resident block that is stopped. -/
def dbgStopped (s : State) (t : Nat) : DbgAt :=
  match blockNamed s t (dbgName s t) with
  | none => .fails 2
  | some (tid, x) =>
    if dying s tid x || x.saved then .fails 2
    else if x.run == .running then .fails 3
    else .found tid x

/-- DBG_STOP. -/
def dbgStopCmd (s : State) (t : Nat) : Option State :=
  if nb (dbgCmd s t) 0 4 = 1 ∧ (tenant s t).dbgWait.isSome then dbgGone s t
  else if !dbgPending s t 1 then none
  else
    let n := dbgName s t
    match blockNamed s t n with
    | some (tid, x) =>
      if dying s tid x then some (dbgDone s t 2)
      else if x.run != .running then some (dbgDone s t 1)
      else some (modTenant (setTask s tid { x with stopReq := some (x.stopReq.getD (3, 0)) }) t
        (fun y => { y with dbgWait := some n }))
    | none =>
      if blockQueued s t n then
        some (modTenant s t (fun y => { y with dbgWait := some n, preStop := n :: y.preStop.filter (fun p => p != n) }))
      else some (dbgDone s t 2)
def execDbgStop (t : Nat) (s : State) : Outcome State Fault Refusal := fire (dbgStopCmd s t) s

/-- A group that leaves its stop: the PC at which it stopped is exempt from matching once. -/
def leaveStop (s : State) (t : Task) (steps : Nat) (g : Group) : Group :=
  let head := g.select (fairOn s t.tenant) (fairLimit s t.tenant)
  { g with stall := false, exempt := head.map (·.pc), steps := if head.isSome then steps else 0 }

/-- Length of the instruction at a PC of a group, from its LEN; 0 where it cannot be fetched. -/
def lenAt (s : State) (t : Task) (g : Group) (pc : VA) : Nat :=
  match fetchAt s t pc.toNat g.trap.isNone with
  | .bytes _ bs => 4 + 4 * ((bs.headD 0).toNat % 4)
  | _ => 0

/-- The trapped instruction of a held group is to execute again, or is skipped. -/
def retryTrap (s : State) (t : Task) (skip : Bool) (pc : VA) (bundle : Lanes) (g : Group) : Group :=
  if g.oplog.any (fun o => o.failed.isSome && o.pc == pc) then
    { g with oplog := if skip then g.oplog.filter (fun o => !(o.failed.isSome && o.pc == pc))
                      else g.oplog.map (fun o => if o.pc == pc then { o with failed := none, served := true } else o) }
  else if skip then
    g.setLive (g.live.map (fun e =>
      if e.pc == pc && e.mask == bundle then { e with pc := e.pc + BitVec.ofNat 57 (lenAt s t g pc) } else e))
  else g

/-- DBG_RESUME. -/
def dbgResumeCmd (s : State) (t : Nat) : Option State :=
  if !dbgPending s t 2 then none
  else match dbgStopped s t with
    | .fails r => some (dbgDone s t r)
    | .found tid x =>
      let x1 := match x.run with
        | .held (some (g, pc, m)) => { x with groups := mmod x.groups g (retryTrap s x (nb (dbgCmd s t) 17 1 == 1) pc m) }
        | _ => x
      let x2 := { x1 with run := .running, stopReq := none,
                          groups := x1.groups.map (fun q => (q.1, leaveStop s x1 0 q.2)) }
      some (dbgDone (setCtx (setTask s tid x2) t x.core (fun y => { y with hang := 0 })) t 1)
def execDbgResume (t : Nat) (s : State) : Outcome State Fault Refusal := fire (dbgResumeCmd s t) s

/-- DBG_STEP. -/
def dbgStepCmd (s : State) (t : Nat) : Option State :=
  if nb (dbgCmd s t) 0 4 = 3 ∧ (tenant s t).dbgWait.isSome then dbgGone s t
  else if !dbgPending s t 3 then none
  else match dbgStopped s t with
    | .fails r => some (dbgDone s t r)
    | .found tid x =>
      match x.run with
      | .held _ => some (dbgDone s t 3)
      | _ =>
        some (modTenant (setTask s tid { x with groups := x.groups.map (fun q => (q.1, leaveStop s x 1 q.2)) }) t
          (fun y => { y with dbgWait := some (x.launch, x.blk) }))
def execDbgStep (t : Nat) (s : State) : Outcome State Fault Refusal := fire (dbgStepCmd s t) s

/-- DBG_END. -/
def dbgEndCmd (s : State) (t : Nat) : Option State :=
  if !dbgPending s t 4 then none
  else match dbgStopped s t with
    | .fails r => some (dbgDone s t r)
    | .found tid x => some (dbgDone (finishTask s tid (x.run != .stopped)) t 1)
def execDbgEnd (t : Nat) (s : State) : Outcome State Fault Refusal := fire (dbgEndCmd s t) s

/-- The group, lane, class and index of READ and WRITE (Tables 1 and 4). -/
def dbgWhere (s : State) (t : Nat) : Nat × Nat × Nat × Nat :=
  let l := (csrGet s t 0x063).toNat
  (nb l 12 4, nb l 16 5, nb (dbgCmd s t) 4 4, nb (dbgCmd s t) 8 9)

/-- The register that a class and an index name; none for BADARG (R431). Class 2 is the predicates. -/
def dbgReg (x : Task) (cls idx : Nat) : Option (Option Rg) :=
  if cls = 0 ∧ (Rg.v idx).fits x.granules then some (some (.v idx))
  else if cls = 1 ∧ idx < 64 then some (some (.s idx))
  else if cls = 2 then some none
  else none

/-- The predicates of a lane in bits 6:0. -/
def predBits (g : Group) (lane : Nat) : Word :=
  (upTo 7).foldl (fun w p => if has (g.pred p) lane then w ||| BitVec.ofNat 32 (2 ^ p) else w) 0

/-- DBG_READ. -/
def dbgReadCmd (s : State) (t : Nat) : Option State :=
  if !dbgPending s t 5 then none
  else match dbgStopped s t with
    | .fails r => some (dbgDone s t r)
    | .found _ x =>
      let (g, lane, cls, idx) := dbgWhere s t
      match mget x.groups g, dbgReg x cls idx with
      | some gr, some (some r) => some (dbgDone (csrSet s t 0x065 (gr.reg r lane)) t 1)
      | some gr, some none => some (dbgDone (csrSet s t 0x065 (predBits gr lane)) t 1)
      | _, _ => some (dbgDone s t 4)
def execDbgRead (t : Nat) (s : State) : Outcome State Fault Refusal := fire (dbgReadCmd s t) s

/-- The predicates of a lane set from bits 6:0. -/
def setPreds (g : Group) (lane : Nat) (w : Word) : Group :=
  (upTo 7).foldl (fun g p => g.setPred p (oneLane lane) (if w.getLsbD p then oneLane lane else 0)) g

/-- DBG_WRITE. -/
def dbgWriteCmd (s : State) (t : Nat) : Option State :=
  if !dbgPending s t 6 then none
  else match dbgStopped s t with
    | .fails r => some (dbgDone s t r)
    | .found tid x =>
      let (g, lane, cls, idx) := dbgWhere s t
      let w := csrGet s t 0x065
      match mget x.groups g, dbgReg x cls idx with
      | some gr, some (some r) =>
        if gr.pendTok r || gr.pendRegs.contains r then some (dbgDone s t 5)
        else some (dbgDone (modGroup s tid g (fun y => y.setReg r [lane] w)) t 1)
      | some _, some none => some (dbgDone (modGroup s tid g (fun y => setPreds y lane w)) t 1)
      | _, _ => some (dbgDone s t 4)
def execDbgWrite (t : Nat) (s : State) : Outcome State Fault Refusal := fire (dbgWriteCmd s t) s

/-- DBG_BADARG: an operation that Table 5 does not define. -/
def dbgBad (s : State) (t : Nat) : Option State :=
  if nb (dbgCmd s t) 0 4 = 0 ∨ 7 ≤ nb (dbgCmd s t) 0 4 then
    (if nb (csrGet s t 0x061).toNat 31 1 = 1 then some (dbgDone s t 4) else none)
  else none
def execDbgBadarg (t : Nat) (s : State) : Outcome State Fault Refusal := fire (dbgBad s t) s

end Sys2Proof.Machine
end

