-- ==== Sys2Proof/Machine/Host.lean ====
section
/-! DEFINITION. The host's side (R361 to R377): doorbells and host rings, the completion ring, watches, the CSR window,
BAR2, communicators, keys, tenant resets, virtual functions, and the function registers without a row of their own. -/

namespace Sys2Proof.Machine

open Host

/-! ### Submission (R366, R367) -/

/-- Slots of a host ring; 0 while it is disabled. -/
def hqSlots (s : State) (t n : Nat) : Nat :=
  let z := nb (fregGet s t (0x1008 + 16 * n)).toNat 0 5
  if 4 ≤ z ∧ z ≤ 16 then 2 ^ z else 0

def hqTailOf (s : State) (t n : Nat) : Word := mgetD 0 (tenant s t).hqTail n
def hqHeadOf (s : State) (t n : Nat) : Word := mgetD 0 (tenant s t).hqHead n

/-- A doorbell: a tail count out of range, or one that moves backwards, sets CFGERR and changes nothing. -/
def doorbell (s : State) (t n : Nat) (v : Word) : State :=
  let h := hqHeadOf s t n
  if hqSlots s t n < (v - h).toNat ∨ (v - h).toNat < (hqTailOf s t n - h).toNat then cfgErr s t
  else modTenant s t (fun x => { x with hqTail := mputD 0 x.hqTail n v })
def execHqDoorbell (t n : Nat) (v : Word) (s : State) : Outcome State Fault Refusal :=
  hostAct s t (.reg (0x100C + 16 * n) v) (fun s => if n < 64 then doorbell s t n v else s)

/-- The slot at the head of a host ring, read from host memory. -/
def hqRecord (s : State) (t n : Nat) : Nat :=
  let base := (fregGet s t (0x1000 + 16 * n)).toNat / 2 ^ 12 * 2 ^ 12 + 2 ^ 32 * (fregGet s t (0x1004 + 16 * n)).toNat
  leNat ((upTo 64).map (fun i => readHost s (base + 64 * ((hqHeadOf s t n).toNat % hqSlots s t n) + i)))

/-- Device queue n holds CAP records, so that its host ring waits. -/
def queueAtCap (s : State) (t n : Nat) : Bool :=
  queueCap s t n != 0 && decide (queueCap s t n ≤ (queueOf s t n).recs.length)

/-- HOST_RING_TAKE: one slot read, checked as `enq` checks it, and answered with a completion entry (R368 Table 2). -/
def ringTake (s : State) (t n : Nat) : Option State :=
  if !funcUp s t || decide (64 ≤ n) || hqSlots s t n == 0 || hqTailOf s t n == hqHeadOf s t n || queueAtCap s t n ||
     (cqOn s t && (cqFull s t || !(tenant s t).cqPend.isEmpty)) then none
  else
    let h := hqHeadOf s t n
    let (s1, st, v) := acceptRec s t (hqRecord s t n) n
    let s2 := modTenant s1 t (fun x => { x with hqHead := mputD 0 x.hqHead n (h + 1) })
    some (cqPut s2 t (BitVec.ofNat 128 (2 ^ 32 * n + 2 ^ 40 * st + 2 ^ 52 * v + 2 ^ 96 * h.toNat)))
def execHostRingTake (t n : Nat) (s : State) : Outcome State Fault Refusal := fire (ringTake s t n) s

/-- CQHEAD_WRITE: held entries follow as far as there is room. -/
def execCqheadWrite (t : Nat) (v : Word) (s : State) : Outcome State Fault Refusal :=
  hostAct s t (.reg 0x10C v) (fun s => cqDrain 70000 (fregSet s t 0x10C v) t)

/-- DQCFG_WRITE: base priority and CAP of a device queue (R366). -/
def queueConfig (s : State) (t q : Nat) (v : Word) : State :=
  let cap := nb v.toNat 16 13
  let others := ((upTo 64).map (fun p => if p = q then 0 else queueCap s t p)).sum
  if 4096 < others + cap ∨ (cap ≠ queueCap s t q ∧ !(queueOf s t q).recs.isEmpty) then cfgErr s t
  else fregSet s t (0x2000 + 4 * q) (v &&& 0x1FFF0007)
def execDqcfgWrite (t q : Nat) (v : Word) (s : State) : Outcome State Fault Refusal :=
  hostAct s t (.reg (0x2000 + 4 * q) v) (fun s => if q < 64 then queueConfig s t q v else s)

/-- WATCH_ARM: a watch on an entry that is final already, or FREE, fires at once (R369). -/
def armWatch (s : State) (t w : Nat) (v : Word) : State :=
  let s1 := fregSet s t (0x10 + 4 * w) (v &&& 0x80000FFF)
  if nb v.toNat 31 1 = 1 ∧ (counter s t (nb v.toNat 0 12)).all (fun c => c.status.final) then fireWatch s1 t w else s1
def execWatchArm (t w : Nat) (v : Word) (s : State) : Outcome State Fault Refusal :=
  hostAct s t (.reg (0x10 + 4 * w) v) (fun s => if w < 8 then armWatch s t w v else s)

/-! ### The CSR window (R365) -/

def windowWrite (s : State) (t c : Nat) (v : Word) : State :=
  if csrOfGroup c then s
  else match csrWrite s t c v true with
    | .ok s1 => s1
    | .priv => cfgErr s t
    | .undef => cfgErr s t
def execCsrWindowWrite (t c : Nat) (v : Word) (s : State) : Outcome State Fault Refusal :=
  hostAct s t (.reg (0x10000 + 4 * c) v) (fun s => if c < 4096 then windowWrite s t c v else s)

/-- PQSET_WRITE: a quantum set through the CSR window of a function; only function 0 may (R410). -/
def execPqsetWrite (from_ : Nat) (v : Word) (s : State) : Outcome State Fault Refusal :=
  hostAct s from_ (.reg 0x10148 v) (fun s => if from_ = 0 then setQuantum s v else cfgErr s from_)

/-- SPILL_POOL_APPLY: held writes of the spill pool's CSRs take effect, in order (R260). -/
def spillApply (s : State) (t : Nat) : Option State :=
  if (tenant s t).heldCsr.isEmpty || detRuns s t then none
  else
    let held := (tenant s t).heldCsr
    let s1 := held.foldl (fun (s : State) p => csrSet s t p.1 (csrMerge (csrGet s t p.1) p.2 ((csrMask p.1).getD 0) 0)) s
    some (modTenant s1 t (fun x => { x with heldCsr := [] }))
def execSpillPoolApply (t : Nat) (s : State) : Outcome State Fault Refusal := fire (spillApply s t) s

/-! ### BAR2 (R370) -/

/-- APBASE: a multiple of 64 GiB. -/
def apBase (s : State) (t : Nat) : Nat := 2 ^ 32 * ((fregGet s t 0x304).toNat / 16 * 16)

/-- How the pages of an access through BAR2 answer. -/
inductive WindowRes where
  | ok (s : State)
  | wait
  | bad (s : State) (cause : Byte) (va : Nat)
  deriving DecidableEq, Repr

/-- Every chunk of the access reached; faults that the memory service engine serves are served. -/
def windowReach (t : Nat) (want : Want) : List (Nat × Nat) → State → WindowRes
  | [], s => .ok s
  | p :: ps, s =>
    if 2 ^ 57 ≤ p.1 then .bad s causePage p.1
    else match reach 4 s t (tenantRoot s t) p.1 want with
      | .ok s1 _ _ => windowReach t want ps s1
      | .wait _ => .wait
      | .need s1 _ => .bad s1 causePage p.1
      | .bad s1 cause => .bad s1 cause p.1

/-- The report record of an access that no page takes. -/
def windowFault (s : State) (t : Nat) (cause : Byte) (va : Nat) (wr : Bool) : State :=
  faultReport s t { job := 0, core := 0, g := 0, src := 8, cause := cause, va := va, wr := wr, rd := !wr }

/-- Bytes that a host read returns: those of an uncorrectable block are free values. -/
def hostBytes (s : State) (t va : Nat) (bs : List Byte) : State × List Byte :=
  bs.zipIdx.foldl (fun (acc : State × List Byte) p =>
    match access acc.1 .fresh t (tenantRoot acc.1 t) (va + p.2) { r := true, w := false, x := false, user := false } with
    | (_, .ok pa _) =>
      if blockBad acc.1 pa then
        let (s1, w) := takeFree acc.1
        (s1, acc.2 ++ [w.setWidth 8])
      else (acc.1, acc.2 ++ [p.1])
    | _ => (acc.1, acc.2 ++ [p.1])) (s, [])

/-- n bytes that the spec gives no value (log entry 47). -/
def openBytes : Nat → State → State × List Byte
  | 0, s => (s, [])
  | n + 1, s =>
    let (s1, w) := takeFree s
    let (s2, bs) := openBytes n s1
    (s2, w.setWidth 8 :: bs)

/-- BAR2_ACCESS: `data` are the bytes written; for a read, its length is that of the read. An access that must wait for a
write-protect window is parked, and the function's later writes stand behind it (R367, R391). -/
def window (s : State) (t off : Nat) (wr : Bool) (data : List Byte) : State :=
  let va := apBase s t + off
  match windowReach t { r := !wr, w := wr, x := false, user := false } (chunksOf va data.length) s with
  | .wait => if wr then postWrite s t (.mem off data) else s
  | .bad s1 cause a =>
    let s2 := windowFault s1 t cause a wr
    if wr then s2 else { s2 with hostRead := data.map (fun _ => 0xFF) }
  | .ok s1 =>
    if wr then (devWrite s1 0 t (tenantRoot s1 t) va data false none).1
    else
      match devRead s1 t (tenantRoot s1 t) va data.length false with
      | (s2, some bs) => let (s3, out) := hostBytes s2 t va bs; { s3 with hostRead := out }
      | (s2, none) => { s2 with hostRead := data.map (fun _ => 0xFF) }
/-- Every page of the access has TSO = 0, so that a relaxed write to it may pass the writes that wait (R361). -/
def relaxedPages (s : State) (t off n : Nat) : Bool :=
  (chunksOf (apBase s t + off) n).all (fun p =>
    match reach 4 s t (tenantRoot s t) p.1 { r := false, w := true, x := false, user := false } with
    | .ok _ _ x => !x.tso
    | _ => false)

/-- The access waits its turn behind the function's parked writes, unless it is a relaxed write that may pass them; a read during
a tenant reset returns open bytes. -/
def execBar2Access (t off : Nat) (how : HostTlp) (data : List Byte) (s : State) : Outcome State Fault Refusal :=
  match how with
  | .read =>
    if hostUp s && (tenant s t).enabled && (tenant s t).resetting then
      .next (let (s1, out) := openBytes data.length s; { s1 with hostRead := out })
    else if 2 ^ 36 < off + data.length then .next s
    else .next (if funcUp s t && (tenant s t).posted.isEmpty then wakeAll (window s t off false data) else s)
  | .write relaxed =>
    if 2 ^ 36 < off + data.length then .next s
    else if relaxed && funcUp s t && relaxedPages s t off data.length then .next (wakeAll (window s t off true data))
    else hostAct s t (.mem off data) (fun s => window s t off true data)

/-! ### Communicators (R375) -/

/-- Bits of the four words of COMM_h. -/
def commMask (i : Nat) : Word :=
  match i with
  | 0 => 1
  | 1 => 0xFFFF
  | _ => 0xFFFFFFFF

/-- The map of a communicator: NRANK words at MAPADDR, each with bit 31 set; none where it faults or breaks its layout. -/
def commMap (s : State) (t h : Nat) : State × Option (List Word) :=
  let n := (fregGet s t (0x3004 + 16 * h)).toNat
  let va := (fregGet s t (0x3008 + 16 * h)).toNat + 2 ^ 32 * (fregGet s t (0x300C + 16 * h)).toNat
  if n < 2 ∨ 4096 < n then (s, none)
  else match windowReach t { r := true, w := false, x := false, user := false } (chunksOf va (4 * n)) s with
    | .wait => (s, none)
    | .bad s1 cause a =>
      (faultReport s1 t { job := 0, core := 0, g := 0, src := 5, cause := cause, va := a, wr := false, rd := true }, none)
    | .ok s1 =>
      match devRead s1 t (tenantRoot s1 t) va (4 * n) false with
      | (s2, none) => (s2, none)
      | (s2, some bs) =>
        let ws := natWords n (leNat bs)
        (s2, if ws.all (fun w => w.getLsbD 31) then some ws else none)

/-- COMM_WRITE: a write that sets VALID copies the map. -/
def commPut (s : State) (t h i : Nat) (v : Word) : State :=
  let w := v &&& commMask i
  let s1 := fregSet s t (0x3000 + 16 * h + 4 * i) w
  if i ≠ 0 then s1
  else if w = 0 then modTenant s1 t (fun x => { x with comms := mdel x.comms h })
  else match commMap s1 t h with
    | (s2, some ws) => modTenant s2 t (fun x => { x with comms := mput x.comms h ws })
    | (s2, none) =>
      cfgErr (modTenant (fregSet s2 t (0x3000 + 16 * h) 0) t (fun x => { x with comms := mdel x.comms h })) t
def execCommWrite (t h i : Nat) (v : Word) (s : State) : Outcome State Fault Refusal :=
  hostAct s t (.reg (0x3000 + 16 * h + 4 * i) v) (fun s => if h < 64 ∧ i < 4 then commPut s t h i v else s)

/-! ### Keys (R374) -/

/-- Fresh keys for an identifier. -/
def freshKey (s : State) (k : Nat) : State := { s with kepoch := mput s.kepoch k (s.epochs + 1), epochs := s.epochs + 1 }

/-- KEYOWN_WRITE: function 0 only; KEYOWN_0 is RO. -/
def keyPut (s : State) (k : Nat) (v : Word) : State :=
  let o := 0x40000 + 4 * k
  let w := v &&& 0xCF
  let s1 := fregSet s 0 o w
  if nb (fregGet s 0 o).toNat 0 4 = nb w.toNat 0 4 then s1 else freshKey s1 k
def execKeyownWrite (k : Nat) (v : Word) (s : State) : Outcome State Fault Refusal :=
  hostAct s 0 (.reg (0x40000 + 4 * k) v) (fun s => if 1 ≤ k ∧ k < 256 then keyPut s k v else s)

/-! ### Tenant reset (R376, R377) -/

/-- A save that a reset meets is abandoned, and its slot is EMPTY (R419). -/
def dropSaves (s : State) (t : Nat) : State :=
  (tenant s t).ctxs.foldl (fun (s : State) p =>
    if p.2.phase == .saving then setCtx (slotState s t p.1 0) t p.1 (fun x => { x with phase := .resident }) else s) s

/-- A reset begins: nothing of the tenant issues any more, every entry is marked for reclamation without a token, and its
`cancel`s, `fork`s and `prop`s in flight write none. A second request is merged. -/
def resetStart (s : State) (t : Nat) (flr : Bool) : State :=
  if (tenant s t).resetting then s
  else
    let s0 := dropSaves s t
    let set := (tenant s0 t).ctr.map (·.1)
    let tids := (s0.tasks.filter (fun p => p.2.tenant == t)).map (·.1)
    let s1 := modTenant s0 t (fun x => { x with resetting := true, resetFlr := flr })
    let s2 := dropNeeds s1 (fun w =>
      match w with
      | .fork id => (mget s1.forks id).any (fun f => f.tenant == t)
      | _ => false)
    let s3 := { s2 with
      tens := mmod s2.tens t (fun x => { x with
        traces := x.traces.map (fun p => (p.1, { p.2 with prop := p.2.prop.map (fun r => { r with cancelled := true }) }))
        spawns := x.spawns.filter (fun p => !p.prop) })
      tasks := s2.tasks.map (fun p => (p.1, if p.2.tenant == t then { p.2 with run := .stopped, stopReq := none } else p.2))
      cancels := s2.cancels.map (fun p => (p.1, if p.2.tenant == t then { p.2 with tok := none } else p.2))
      forks := s2.forks.filter (fun p => p.2.tenant != t) }
    let s4 := settleDeps (markEntries s3 t set .cancelled) t
    wakeAll { s4 with serial := s4.serial + 1,
                      cancels := mput s4.cancels s4.serial { tenant := t, tok := none, entries := set, tasks := tids,
                                                             value := 0, status := 0 } }

/-- TENANT_RESET: a write of 1 to FCTL.TRST. -/
def execTenantReset (t : Nat) (s : State) : Outcome State Fault Refusal := hostAct s t (.reg 0 1) (fun s => resetStart s t false)

/-- FLR: that of function 0 ends every virtual function, and resets every tenant. -/
def flrOf (s : State) (t : Nat) : State :=
  if t ≠ 0 then resetStart s t true
  else
    s.tens.foldl (fun (s : State) p =>
      if p.1 = 0 then resetStart s 0 true
      else if p.2.enabled then modTenant (resetStart s p.1 true) p.1 (fun x => { x with enabled := false })
      else s) s
def execFlr (t : Nat) (s : State) : Outcome State Fault Refusal :=
  .next (if hostUp s && (tenant s t).enabled then flrOf s t else s)

/-- The registers that step 6 leaves: PEERID and KEYOWN, of function 0. -/
def keptRegs (s : State) (t : Nat) : Map Word :=
  if t = 0 then (tenant s 0).freg.filter (fun p => p.1 == 8 || decide (0x40000 ≤ p.1)) else []

/-- Keys of a tenant's identifiers renewed. -/
def renewKeys (s : State) (t : Nat) : State :=
  ((upTo 256).filter (ownsKey s t)).foldl (fun s k => freshKey s k) s

/-- TENANT_RESET_COMPLETE: reclamation has ended; the host is sent a Stop Marker for the PASID, translations are dropped, keys renewed, and everything of the tenant is at
its reset value. The host's translations and its allowance stand. -/
def resetDone (s : State) (t : Nat) : Option State :=
  let x := tenant s t
  if !x.resetting || s.tasks.any (fun p => p.2.tenant == t) || s.cancels.any (fun p => p.2.tenant == t) then none
  else
    let s1 := renewKeys (shootAll { s with
      needs := s.needs.filter (fun p => p.2.tenant != t)
      queries := s.queries.filter (fun p => p.2.tenant != t)
      colls := s.colls.filter (fun p => p.2.tenant != t)
      reds := s.reds.filter (fun r => r.tenant != t)
      modq := s.modq.filter (fun m => m.tenant != t) } t) t
    let y := { Tenant.reset x.enabled with freg := keptRegs s1 t, priA := x.priA, ats := x.ats }
    let stopMark := fun (s : State) => match pasidOf s t with
      | none => s
      | some p =>
        let m : PriMsg := { tenant := t, pasid := some p, stop := true, page := 0, grp := 0, last := true, rd := false, wr := false }
        { s with pri := s.pri ++ [m] }
    let s2 := setTenant (stopMark s1) t y
    some (if x.resetFlr then s2 else raiseMsi s2 t 2)
def execTenantResetComplete (t : Nat) (s : State) : Outcome State Fault Refusal := fire (resetDone s t) s

/-- SRIOV_VF_ENABLE: virtual functions 1 to n exist; one that goes takes its tenant with it. -/
def vfEnable (s : State) (n : Nat) : State :=
  (upTo 15).foldl (fun (s : State) i =>
    let t := i + 1
    if t ≤ n then
      (if (mget s.tens t).isSome then modTenant s t (fun x => { x with enabled := true })
       else setTenant s t (Tenant.reset true))
    else if (tenant s t).enabled then modTenant (resetStart s t true) t (fun x => { x with enabled := false })
    else s) s
def execSriovVfEnable (n : Nat) (s : State) : Outcome State Fault Refusal :=
  .next (if hostUp s && decide (n ≤ 15) then wakeAll (vfEnable s n) else s)

/-! ### Function registers without a row of their own (R10, R364) -/

/-- The writable bits of a function register; 0 for one that takes no write of its own here. -/
def fregMask (t o : Nat) : Nat :=
  if o = 0x8 then (if t = 0 then 0xFFFF else 0)
  else if o = 0xC then 0x800FFFFF
  else if o = 0x100 ∨ o = 0x200 then 2 ^ 32 - 2 ^ 12
  else if o = 0x104 ∨ o = 0x204 then 2 ^ 32 - 1
  else if o = 0x108 ∨ o = 0x208 then 0x1F
  else if o = 0x20C then 2 ^ 32 - 1
  else if o = 0x304 then 2 ^ 32 - 2 ^ 4
  else if 0x1000 ≤ o ∧ o < 0x1400 then
    (match o % 16 with
     | 0 => 2 ^ 32 - 2 ^ 12
     | 4 => 2 ^ 32 - 1
     | 8 => 0x1F
     | _ => 0)
  else 0

/-- A 32-bit write to BAR0 of a function. Offsets that have a row of their own act as it does. -/
def bar0Put (s : State) (t o : Nat) (v : Word) : State :=
  if o % 4 ≠ 0 then s
  else if o = 0 then (if v.getLsbD 0 then resetStart s t false else s)
  else if o = 4 then fregSet s t 4 (fregGet s t 4 &&& ~~~ (v &&& 6))
  else if 0x10 ≤ o ∧ o < 0x30 then armWatch s t ((o - 0x10) / 4) v
  else if o = 0x10C then cqDrain 70000 (fregSet s t 0x10C v) t
  else if o = 0x214 then answerGroup s t .request (nb v.toNat 0 9) (nb v.toNat 12 4)
  else if 0x1000 ≤ o ∧ o < 0x1400 ∧ o % 16 = 12 then doorbell s t ((o - 0x1000) / 16) v
  else if 0x2000 ≤ o ∧ o < 0x2100 then queueConfig s t ((o - 0x2000) / 4) v
  else if 0x3000 ≤ o ∧ o < 0x3400 then commPut s t ((o - 0x3000) / 16) (o % 16 / 4) v
  else if 0x10000 ≤ o ∧ o < 0x14000 then windowWrite s t ((o - 0x10000) / 4) v
  else if 0x40004 ≤ o ∧ o < 0x40400 then (if t = 0 then keyPut s ((o - 0x40000) / 4) v else s)
  else if fregMask t o = 0 then s
  else fregSet s t o (v &&& BitVec.ofNat 32 (fregMask t o))

/-- A write of a function's queue when its turn comes. -/
def hostWrite (s : State) (t : Nat) : HostWrite → State
  | .reg o v => bar0Put s t o v
  | .mem o data => window s t o true data

/-! ### Reads of BAR0 (R10, R364 to R366, R369, R376) -/

/-- What a 32-bit read of the CSR window gives: what `csrrd` gives at tenant supervisor level, 0 for a group's CSR or a number
that names none. -/
def windowCsr (s : State) (t c : Nat) : Word := if csrOfGroup c || (csrMask c).isNone then 0 else csrValue s t c

/-- Word k of entry i as the counter window shows it. Every write that R46 orders before its counts is at its home by then, so
that the host's later reads see it (R369). -/
def counterWord (s : State) (t i k : Nat) : Word :=
  BitVec.ofNat 32 (((counter s t i).map (fun c => nb (counterBits c) (32 * k) 32)).getD 0)

/-- FSTAT: RSTBUSY stands beside the stored bits. -/
def fstat (s : State) (t : Nat) : Word := fregGet s t 4 ||| (if (tenant s t).resetting then 1 else 0)

/-- A 32-bit read of BAR0: unlisted offsets, FCTL and FRRESP read as 0, HQ_n + 0xC as H, KEYOWN as 0 in a virtual function. -/
def bar0Read (s : State) (t o : Nat) : Word :=
  if o % 4 ≠ 0 then 0
  else if o = 4 then fstat s t
  else if (tenant s t).resetting then (if 0x10000 ≤ o ∧ o < 0x14000 then
    (if (csrMask ((o - 0x10000) / 4)).isNone then 0 else windowCsr (setTenant s t (Tenant.reset true)) t ((o - 0x10000) / 4)) else 0)
  else if o = 8 then fregGet s 0 8
  else if 0x1000 ≤ o ∧ o < 0x1400 ∧ o % 16 = 12 then hqHeadOf s t ((o - 0x1000) / 16)
  else if 0x10000 ≤ o ∧ o < 0x14000 then windowCsr s t ((o - 0x10000) / 4)
  else if 0x20000 ≤ o ∧ o < 0x40000 then counterWord s t ((o - 0x20000) / 32) (o % 32 / 4)
  else if o = 0 ∨ o = 0x214 then 0
  else fregGet s t o

end Sys2Proof.Machine
end

