-- ==== Sys2Proof/Machine/Integer.lean ====
section
/-! DEFINITION. Integer instructions (09 Table 2, R201, R202). -/

namespace Sys2Proof.Machine

open Host

def execIadd (h : Hdr) (d a : Reg) (b : SrcB) (uns sat : Bool) (s : State) : Outcome State Fault Refusal :=
  alu2 Ctx.b h d a b (fun x y => fit uns sat (wordInt uns x + wordInt uns y)) s

def execIsub (h : Hdr) (d a : Reg) (b : SrcB) (uns sat : Bool) (s : State) : Outcome State Fault Refusal :=
  alu2 Ctx.b h d a b (fun x y => fit uns sat (wordInt uns x - wordInt uns y)) s

def execImul (h : Hdr) (d a : Reg) (b : SrcB) (uns sat : Bool) (s : State) : Outcome State Fault Refusal :=
  alu2 Ctx.b h d a b (fun x y => fit uns sat (wordInt uns x * wordInt uns y)) s

def execImulhi (h : Hdr) (d a : Reg) (b : SrcB) (uns : Bool) (s : State) : Outcome State Fault Refusal :=
  alu2 Ctx.b h d a b (fun x y => BitVec.ofInt 32 (wordInt uns x * wordInt uns y / 2 ^ 32)) s

def execImad (h : Hdr) (d a : Reg) (b : SrcB) (c : SrcC) (uns sat : Bool) (s : State) : Outcome State Fault Refusal :=
  alu3 Ctx.b Ctx.c h d a b c (fun x y z => fit uns sat (wordInt uns x * wordInt uns y + wordInt uns z)) s

/-- The carry-in of `iaddc`: predicate CI, or 0 for 7 (R202). -/
def Ctx.carry (c : Ctx) (ci : BitVec 3) (lane : Nat) : Bool := ci != 7 && has (c.grp.pred ci.toNat) lane

def execIaddc (h : Hdr) (d a : Reg) (b : SrcB) (ci co : BitVec 3) (s : State) : Outcome State Fault Refusal :=
  run h b.len (⟨h.u, a, 1⟩ :: useB h.u b 1) [⟨h.u, d, 1⟩]
    (fun c s =>
      let r := fun i => addCarry (c.ra a 0 i) (c.b b i) (c.carry ci i)
      .ok (c.putPred (c.put s d (fun i => [(r i).1])) co (fun i => (r i).2))) s

def execImin (h : Hdr) (d a : Reg) (b : SrcB) (uns : Bool) (s : State) : Outcome State Fault Refusal :=
  alu2 Ctx.b h d a b (fun x y => if wordInt uns x ≤ wordInt uns y then x else y) s

def execImax (h : Hdr) (d a : Reg) (b : SrcB) (uns : Bool) (s : State) : Outcome State Fault Refusal :=
  alu2 Ctx.b h d a b (fun x y => if wordInt uns x ≤ wordInt uns y then y else x) s

def execIabs (h : Hdr) (d a : Reg) (sat : Bool) (s : State) : Outcome State Fault Refusal :=
  alu1 h d a (fun x => fit false sat (wordInt false x).natAbs) s

def execLea (h : Hdr) (d a : Reg) (b : SrcB) (sh : BitVec 5) (s : State) : Outcome State Fault Refusal :=
  alu2 Ctx.b h d a b (fun x y => x + y <<< sh.toNat) s

/-- Field k of w bits of a word, sign-extended unless `uns` (R201). -/
def subInt (uns : Bool) (w : Word) (bits k : Nat) : Int := asInt (!uns) bits (nb w.toNat (bits * k) bits)

/-- A sum of products of fields. -/
def dotInt (bits n : Nat) (ua ub : Bool) (x y : Word) : Int :=
  ((List.range n).map (fun k => subInt ua x bits k * subInt ub y bits k)).sum

def execIdot4 (h : Hdr) (d a : Reg) (b : SrcB) (c : SrcC) (ua sat ub : Bool) (s : State) : Outcome State Fault Refusal :=
  alu3 Ctx.b Ctx.c h d a b c (fun x y z => fit false sat (z.toInt + dotInt 8 4 ua ub x y)) s

def execIdot8 (h : Hdr) (d a : Reg) (b : SrcB) (c : SrcC) (ua sat ub : Bool) (s : State) : Outcome State Fault Refusal :=
  alu3 Ctx.b Ctx.c h d a b c (fun x y z => fit false sat (z.toInt + dotInt 4 8 ua ub x y)) s

def execIclamp (h : Hdr) (d a : Reg) (b : SrcB) (c : SrcC) (uns : Bool) (s : State) : Outcome State Fault Refusal :=
  alu3 Ctx.b Ctx.c h d a b c (fun x y z =>
    let m := if wordInt uns x ≤ wordInt uns y then y else x
    if wordInt uns m ≤ wordInt uns z then m else z) s

end Sys2Proof.Machine
end

