-- ==== Sys2Proof/Machine/Lanes.lean ====
section
/-! DEFINITION. Lane instructions (R214 to R218) and the fixed trees of R114 and R115. -/

namespace Sys2Proof.Machine

open Host

/-- The source lane of a lane exchange (R215). -/
def laneSrc (mode : XMode) (k : BitVec 3) (i j : Nat) : Nat :=
  let w := 32 / 2 ^ k.toNat
  let st := i - i % w
  match mode with
  | .at => st + j % w
  | .rotinc => st + (i - st + w - j % w) % w
  | .rotdec => st + (i - st + j % w) % w
  | .flip => st + (i % w ^^^ j % w)

def execLanex (h : Hdr) (d a : Reg) (b : SrcB) (c : SrcC) (mode : XMode) (k : BitVec 3) (s : State) :
    Outcome State Fault Refusal :=
  run h b.len (⟨h.u, a, 1⟩ :: (useB h.u b 1 ++ useC h.u c 1)) [⟨h.u, d, 1⟩]
    (fun x s => .ok (x.put s d (fun i =>
      let src := laneSrc mode k i (x.b b i).toNat
      [if has x.act src then x.ra a 0 src else x.c c i]))) s

/-- Active lanes whose predicate is 1. -/
def Ctx.holds (c : Ctx) (p : PSrc) : Lanes := maskOf (fun i => has c.act i && c.p p i)

def pollWord (m : PollW) (v : Lanes) : Word :=
  match m with
  | .mask => v
  | .count => BitVec.ofNat 32 (lcount v)

def pollBool (m : PollP) (act v : Lanes) : Bool :=
  match m with
  | .some => v != 0
  | .every => v == act
  | .same => v == act || v == 0

def execPoll (h : Hdr) (d : PollDst) (p : PSrc) (s : State) : Outcome State Fault Refusal :=
  match d with
  | .vec m r => run h 8 [] [⟨false, r, 1⟩] (fun c s => .ok (c.put s r (fun _ => [pollWord m (c.holds p)]))) s
  | .scal m r => run h 8 [] [⟨true, r, 1⟩] (fun c s => .ok (c.putScal s r (pollWord m (c.holds p)))) s
  | .pred m q => run h 8 [] [] (fun c s => .ok (c.putPred s q (fun _ => pollBool m c.act (c.holds p)))) s

/-- Active lanes whose word equals a lane's (R217). -/
def Ctx.kin (c : Ctx) (a : Reg) (i : Nat) : Lanes := maskOf (fun j => has c.act j && c.ra a 0 j == c.ra a 0 i)

def kinWord (mode : KinMode) (act same : Lanes) (i : Nat) : Word :=
  match mode with
  | .mask => same
  | .lead => BitVec.ofNat 32 (lowest same)
  | .rank => BitVec.ofNat 32 ((lanesOf same).filter (fun j => decide (j < i))).length
  | .alleq => if same == act then act else 0

def execKin (h : Hdr) (d a : Reg) (mode : KinMode) (s : State) : Outcome State Fault Refusal :=
  run h 8 [⟨h.u, a, 1⟩] [⟨h.u, d, 1⟩] (fun c s => .ok (c.put s d (fun i => [kinWord mode c.act (c.kin a i) i]))) s

/-- Identities and operations (R218 Table 9). -/
def ropIdentity : ROp → Word
  | .imin => 0x7FFFFFFF
  | .imax => 0x80000000
  | .nmin | .and => 0xFFFFFFFF
  | .fadd => 0x80000000
  | .fmin | .fmax => nan32
  | _ => 0

def ropApply (op : ROp) (a b : Word) : Word :=
  match op with
  | .iadd => a + b
  | .imin => if a.toInt ≤ b.toInt then a else b
  | .imax => if a.toInt ≤ b.toInt then b else a
  | .nmin => if a.toNat ≤ b.toNat then a else b
  | .nmax => if a.toNat ≤ b.toNat then b else a
  | .and => a &&& b
  | .or => a ||| b
  | .xor => a ^^^ b
  | .fadd => f32add .rn a b
  | .fmin => f32min a b
  | .fmax => f32max a b

/-- The values that enter a fold or a scan. -/
def Ctx.entries (c : Ctx) (a : Reg) (op : ROp) : List Word :=
  (List.range 32).map (fun i => if has c.act i then c.ra a 0 i else ropIdentity op)

/-- One level of the tree of R114. -/
def foldLevel (op : ROp) (d : Nat) (xs : List Word) : List Word :=
  (List.range d).map (fun i => ropApply op (xs.getD i 0) (xs.getD (i + d) 0))

def foldTree (op : ROp) (xs : List Word) : Word :=
  ([16, 8, 4, 2, 1].foldl (fun xs d => foldLevel op d xs) xs).getD 0 0

def execFold (h : Hdr) (d a : Reg) (op : ROp) (sc : Bool) (s : State) : Outcome State Fault Refusal :=
  run h 8 [⟨h.u, a, 1⟩] [⟨sc, d, 1⟩]
    (fun c s =>
      let w := foldTree op (c.entries a op)
      .ok (if sc then c.putScal s d w else c.put s d (fun _ => [w]))) s

/-- One step of R115. -/
def scanStep (op : ROp) (d : Nat) (xs : List Word) : List Word :=
  (List.range 32).map (fun i => if i < d then xs.getD i 0 else ropApply op (xs.getD (i - d) 0) (xs.getD i 0))

def scanAll (op : ROp) (xs : List Word) : List Word := [1, 2, 4, 8, 16].foldl (fun xs d => scanStep op d xs) xs

def execScan (h : Hdr) (d a : Reg) (op : ROp) (ex : Bool) (s : State) : Outcome State Fault Refusal :=
  run h 8 [⟨h.u, a, 1⟩] [⟨h.u, d, 1⟩]
    (fun c s =>
      let ys := scanAll op (c.entries a op)
      .ok (c.put s d (fun i =>
        [if ex then (if i = 0 then ropIdentity op else ys.getD (i - 1) 0) else ys.getD i 0]))) s

end Sys2Proof.Machine
end

