-- ==== Sys2Proof/Machine/Logic.lean ====
section
/-! DEFINITION. Logic and bit instructions (09 Table 3, R203, R204). -/

namespace Sys2Proof.Machine

open Host

def execAnd (h : Hdr) (d a : Reg) (b : SrcB) (s : State) : Outcome State Fault Refusal :=
  alu2 Ctx.b h d a b (fun x y => x &&& y) s

def execOr (h : Hdr) (d a : Reg) (b : SrcB) (s : State) : Outcome State Fault Refusal :=
  alu2 Ctx.b h d a b (fun x y => x ||| y) s

def execXor (h : Hdr) (d a : Reg) (b : SrcB) (s : State) : Outcome State Fault Refusal :=
  alu2 Ctx.b h d a b (fun x y => x ^^^ y) s

def execBool3 (h : Hdr) (d a : Reg) (b : SrcB) (c : SrcC) (fn : Byte) (s : State) : Outcome State Fault Refusal :=
  alu3 Ctx.b Ctx.c h d a b c (fun x y z => ofBits (fun i => truth fn (x.getLsbD i) (y.getLsbD i) (z.getLsbD i))) s

/-- A shift by 32 or more (R203). -/
def execShl (h : Hdr) (d a : Reg) (b : SrcB) (s : State) : Outcome State Fault Refusal :=
  alu2 Ctx.b h d a b (fun x y => if 32 ≤ y.toNat then 0 else x <<< y.toNat) s

def execShr (h : Hdr) (d a : Reg) (b : SrcB) (s : State) : Outcome State Fault Refusal :=
  alu2 Ctx.b h d a b (fun x y => if 32 ≤ y.toNat then 0 else x >>> y.toNat) s

def execSar (h : Hdr) (d a : Reg) (b : SrcB) (s : State) : Outcome State Fault Refusal :=
  alu2 Ctx.b h d a b (fun x y => x.sshiftRight (if 32 ≤ y.toNat then 31 else y.toNat)) s

def execRot (h : Hdr) (d a : Reg) (b : SrcB) (right : Bool) (s : State) : Outcome State Fault Refusal :=
  alu2 Ctx.b h d a b (fun x y => if right then x.rotateRight (y.toNat % 32) else x.rotateLeft (y.toNat % 32)) s

/-- The position and the effective length of a control word (R204). -/
def fieldPos (ctl : Word) : Nat := nb ctl.toNat 0 8
def fieldLen (ctl : Word) : Nat := if fieldPos ctl < 32 then min (nb ctl.toNat 8 8) (32 - fieldPos ctl) else 0

/-- `bfe` (R204). -/
def extractField (uns : Bool) (x ctl : Word) : Word :=
  if fieldLen ctl = 0 then 0
  else BitVec.ofInt 32 (asInt (!uns) (fieldLen ctl) (nb x.toNat (fieldPos ctl) (fieldLen ctl)))

def execBfe (h : Hdr) (d a : Reg) (b : SrcB) (uns : Bool) (s : State) : Outcome State Fault Refusal :=
  alu2 Ctx.b h d a b (extractField uns) s

/-- `bfi` (R204). -/
def insertField (x ctl z : Word) : Word :=
  ofBits (fun i => if fieldPos ctl ≤ i ∧ i < fieldPos ctl + fieldLen ctl then x.getLsbD (i - fieldPos ctl) else z.getLsbD i)

def execBfi (h : Hdr) (d a : Reg) (b : SrcB) (c : SrcC) (s : State) : Outcome State Fault Refusal :=
  alu3 Ctx.b Ctx.c h d a b c insertField s

def execPopc (h : Hdr) (d a : Reg) (s : State) : Outcome State Fault Refusal :=
  alu1 h d a (fun x => BitVec.ofNat 32 (lcount x)) s

/-- The number of leading zeros. -/
def leadZeros (x : Word) : Nat := ((List.range 32).find? (fun i => x.getLsbD (31 - i))).getD 32

def execClz (h : Hdr) (d a : Reg) (s : State) : Outcome State Fault Refusal :=
  alu1 h d a (fun x => BitVec.ofNat 32 (leadZeros x)) s

def execBrev (h : Hdr) (d a : Reg) (s : State) : Outcome State Fault Refusal :=
  alu1 h d a (fun x => ofBits (fun i => x.getLsbD (31 - i))) s

/-- Result byte i of `bsel` (R204). -/
def selByte (x sel z : Word) (i : Nat) : Nat :=
  let k := nb sel.toNat (8 * i) 8
  let src := nb (x.toNat + 2 ^ 32 * z.toNat) (8 * (k % 8)) 8
  if nb k 7 1 = 1 then 0 else if nb k 6 1 = 1 then (if 128 ≤ src then 255 else 0) else src

def execBsel (h : Hdr) (d a : Reg) (b : SrcB) (c : SrcC) (s : State) : Outcome State Fault Refusal :=
  alu3 Ctx.b Ctx.c h d a b c (fun x y z =>
    BitVec.ofNat 32 (selByte x y z 0 + 2 ^ 8 * selByte x y z 1 + 2 ^ 16 * selByte x y z 2 + 2 ^ 24 * selByte x y z 3)) s

end Sys2Proof.Machine
end

