-- ==== Sys2Proof/Machine/Sha.lean ====
section
/-! DEFINITION. SHA-256, the digest that R449 names for FWDIG. -/

namespace Sys2Proof.Machine

/-- The round constants. -/
def shaK : List Word :=
  [0x428A2F98, 0x71374491, 0xB5C0FBCF, 0xE9B5DBA5, 0x3956C25B, 0x59F111F1, 0x923F82A4, 0xAB1C5ED5] ++
  [0xD807AA98, 0x12835B01, 0x243185BE, 0x550C7DC3, 0x72BE5D74, 0x80DEB1FE, 0x9BDC06A7, 0xC19BF174] ++
  [0xE49B69C1, 0xEFBE4786, 0x0FC19DC6, 0x240CA1CC, 0x2DE92C6F, 0x4A7484AA, 0x5CB0A9DC, 0x76F988DA] ++
  [0x983E5152, 0xA831C66D, 0xB00327C8, 0xBF597FC7, 0xC6E00BF3, 0xD5A79147, 0x06CA6351, 0x14292967] ++
  [0x27B70A85, 0x2E1B2138, 0x4D2C6DFC, 0x53380D13, 0x650A7354, 0x766A0ABB, 0x81C2C92E, 0x92722C85] ++
  [0xA2BFE8A1, 0xA81A664B, 0xC24B8B70, 0xC76C51A3, 0xD192E819, 0xD6990624, 0xF40E3585, 0x106AA070] ++
  [0x19A4C116, 0x1E376C08, 0x2748774C, 0x34B0BCB5, 0x391C0CB3, 0x4ED8AA4A, 0x5B9CCA4F, 0x682E6FF3] ++
  [0x748F82EE, 0x78A5636F, 0x84C87814, 0x8CC70208, 0x90BEFFFA, 0xA4506CEB, 0xBEF9A3F7, 0xC67178F2]

/-- The first hash value. -/
def shaH : List Word := [0x6A09E667, 0xBB67AE85, 0x3C6EF372, 0xA54FF53A, 0x510E527F, 0x9B05688C, 0x1F83D9AB, 0x5BE0CD19]

def rotW (w : Word) (n : Nat) : Word := w.rotateRight n

/-- The message schedule, from the block's 16 words: `n` words more, the latest first. -/
def shaSched : Nat → List Word → List Word
  | 0, ws => ws
  | n + 1, ws =>
    let w2 := ws.getD 1 0
    let w15 := ws.getD 14 0
    let s0 := rotW w15 7 ^^^ rotW w15 18 ^^^ (w15 >>> 3)
    let s1 := rotW w2 17 ^^^ rotW w2 19 ^^^ (w2 >>> 10)
    shaSched n ((ws.getD 15 0 + s0 + ws.getD 6 0 + s1) :: ws)

/-- One round on the eight working words. -/
def shaRound (v : List Word) (kw : Word) : List Word :=
  let a := v.getD 0 0
  let b := v.getD 1 0
  let c := v.getD 2 0
  let e := v.getD 4 0
  let s1 := rotW e 6 ^^^ rotW e 11 ^^^ rotW e 25
  let ch := (e &&& v.getD 5 0) ^^^ (~~~ e &&& v.getD 6 0)
  let t1 := v.getD 7 0 + s1 + ch + kw
  let s0 := rotW a 2 ^^^ rotW a 13 ^^^ rotW a 22
  let mj := (a &&& b) ^^^ (a &&& c) ^^^ (b &&& c)
  [t1 + s0 + mj, a, b, c, v.getD 3 0 + t1, e, v.getD 5 0, v.getD 6 0]

/-- A number in big-endian bytes. -/
def beNat (bs : List Byte) : Nat := bs.foldl (fun n b => 256 * n + b.toNat) 0

/-- One 64-byte block compressed. -/
def shaBlock (h : List Word) (bs : List Byte) : List Word :=
  let ws := (List.range 16).map (fun i => BitVec.ofNat 32 (beNat ((bs.drop (4 * i)).take 4)))
  let sched := (shaSched 48 ws.reverse).reverse
  List.zipWith (· + ·) h ((List.zipWith (· + ·) shaK sched).foldl shaRound h)

/-- The blocks of a padded message. -/
def shaBlocks : Nat → List Word → List Byte → List Word
  | 0, h, _ => h
  | n + 1, h, bs => shaBlocks n (shaBlock h (bs.take 64)) (bs.drop 64)

/-- The padding of a message of n bytes. -/
def shaPad (n : Nat) : List Byte :=
  let z := (119 - n % 64) % 64
  0x80 :: List.replicate z 0 ++ (List.range 8).map (fun i => BitVec.ofNat 8 (8 * n / 2 ^ (8 * (7 - i))))

/-- The 32 bytes of the digest. -/
def sha256 (bs : List Byte) : List Byte :=
  let m := bs ++ shaPad bs.length
  (shaBlocks (m.length / 64) shaH m).flatMap (fun w => (List.range 4).map (fun i => BitVec.ofNat 8 (w.toNat / 2 ^ (8 * (3 - i)))))

end Sys2Proof.Machine
end

