-- ==== Sys2Proof/Machine/Mgmt.lean ====
section
/-! DEFINITION. The management complex (R401 to R409, R441 to R450): cold reset and standby, the start and control of islands,
power, mapping loads, rate changes, the mailbox, firmware images and attestation. -/

namespace Sys2Proof.Machine

open Host

def modMgmt (s : State) (f : Mgmt → Mgmt) : State := { s with mgmt := f s.mgmt }
def mregSet (s : State) (o : Nat) (w : Word) : State := modMgmt s (fun m => { m with mreg := mputD (mregReset o) m.mreg o w })
def mboxGet (s : State) (o : Nat) : Word := mgetD 0 s.mgmt.mbox o
def mboxSet (s : State) (o : Nat) (w : Word) : State := modMgmt s (fun m => { m with mbox := mputD 0 m.mbox o w })

/-- Field lo, n of a management register replaced. -/
def mregField (s : State) (o lo n v : Nat) : State := mregSet s o (BitVec.ofNat 32 (setF (mregGet s o).toNat lo n v))

/-- MBSTAT.STATE: 0 RECOVERY, 1 STARTING, 2 READY. -/
def setStage (s : State) (v : Nat) : State := mboxSet s 4 (BitVec.ofNat 32 (setF (mboxGet s 4).toNat 4 3 v))

/-! ### Islands (R442 to R444) -/

def islReg (i : Nat) : Nat := 0xD40 + 4 * i
def islandGo (s : State) (i : Nat) : Bool := nb (mregGet s (islReg i)).toNat 31 1 == 1
def islandWants (s : State) (i : Nat) : Nat := nb (mregGet s (islReg i)).toNat 0 2
def setIsland (s : State) (i st : Nat) : State := mregField s (islReg i) 8 3 st
def islandDone (s : State) (i : Nat) : State := mregField s (islReg i) 31 1 0
def levelOf (s : State) (i : Nat) : Nat := mgetD 2 s.mgmt.level i
def setLevel (s : State) (i l : Nat) : State := modMgmt s (fun m => { m with level := mputD 2 m.level i l })

/-- No island waits to start or ramps. -/
def rampsOver (s : State) : Bool := s.mgmt.toStart.isEmpty && s.mgmt.ramping.isEmpty

/-! ### Firmware images (R447) -/

def imgWord (bs : List Byte) (o : Nat) : Nat := leNat ((bs.drop o).take 4)
def imgSvn (bs : List Byte) : Nat := imgWord bs 8

/-- An image verifies: its layout, its signature over header and payload, its SVN and its reserved bytes. -/
def imgOk (s : State) (bs : List Byte) : Bool :=
  decide (64 ≤ bs.length) && imgWord bs 0 == 0x4B58494D && bs.length == 64 + imgWord bs 4 + 7856 && Config.signatureOk bs &&
  decide (s.mgmt.fusedSvn ≤ imgSvn bs) && ((bs.drop 12).take 52).all (fun b => b == 0)

def bankOf (s : State) (i : Nat) : List Byte := s.mgmt.banks.getD i []

/-- The bank that boots: the verified image with the higher SVN, the lower bank when both are equal. -/
def bootBank (s : State) : Option Nat :=
  match imgOk s (bankOf s 0), imgOk s (bankOf s 1) with
  | true, true => some (if imgSvn (bankOf s 0) < imgSvn (bankOf s 1) then 1 else 0)
  | true, false => some 0
  | false, true => some 1
  | false, false => none

/-- The fused minimum raised to the SVN of the image that has booted, one increment for each raise and 64 in all. -/
def raiseSvn (s : State) : State :=
  match s.mgmt.runBank with
  | none => s
  | some b =>
    let v := imgSvn (bankOf s b)
    if s.mgmt.fusedSvn < v ∧ s.mgmt.svnIncs < 64 then
      modMgmt s (fun m => { m with fusedSvn := v, svnIncs := m.svnIncs + 1 })
    else s

/-! ### Cold reset and standby (R441, R32) -/

/-- Every region of main memory and of the capacity tier with contents that are no longer known. -/
def lostRegions : List Nat := upTo 16 ++ (upTo 128).map (fun i => 32 + i)

/-- All device state lost; what stands outside it remains: the host's memory and translations, the flash and the fuses. -/
def powerLost (s : State) : State :=
  { State.reset with
    script := s.script, serial := s.serial + 1, fresh := s.fresh, epochs := s.epochs, disabled := s.disabled
    hostMem := s.hostMem, hostRead := s.hostRead, hostBad := s.hostBad
    remapped := lostRegions.foldl (fun m r => mput m r s.serial) []
    tens := [(0, { Tenant.reset true with ats := (tenant s 0).ats })]
    mgmt := { Mgmt.reset with banks := s.mgmt.banks, fusedSvn := s.mgmt.fusedSvn, svnIncs := s.mgmt.svnIncs } }

/-- STANDBY: no state is kept, and no host access is answered. -/
def execStandby (s : State) : Outcome State Fault Refusal :=
  .next (modMgmt (powerLost s) (fun m => { m with standby := true }))

/-- COLD_RESET: steps 1 and 2, and the beginning of step 3: islands 16 to 23 are to start, each stack is to be trained at
RATE 0, every region holds the matrix of Table 9, and keys are drawn for every identifier. -/
def coldReset (s : State) : State :=
  let s1 := powerLost s
  match bootBank s1 with
  | none => setStage (modMgmt s1 (fun m => { m with boot := 2 })) 0
  | some b =>
    let s2 := (upTo 256).foldl (fun (s : State) k => freshKey s k) s1
    setStage (modMgmt s2 (fun m =>
      { m with boot := 3, runBank := some b, toStart := (upTo 8).map (fun i => 16 + i),
               retrain := (upTo 8).map (fun i => (i, 0)) })) 1
def execColdReset (s : State) : Outcome State Fault Refusal := .next (coldReset s)

/-- Step 4 begins when the stacks are up, and step 5 ends when islands 0 to 15 have started or failed. -/
def bootAdvance (s : State) : State :=
  if s.mgmt.boot = 3 ∧ rampsOver s ∧ s.mgmt.retrain.isEmpty then
    modMgmt s (fun m => { m with boot := 4, toStart := upTo 16 })
  else if s.mgmt.boot = 4 ∧ rampsOver s then
    raiseSvn (setStage (modMgmt s (fun m => { m with boot := 6 })) 2)
  else s

/-- ISLAND_RAMP_START: the next island begins, ISPACE cycles after the one before. -/
def rampStart (s : State) : Option State :=
  let w := (mregGet s 0xD00).toNat
  match s.mgmt.toStart with
  | [] => none
  | i :: is =>
    if s.mgmt.rampAt ≠ 0 ∧ s.cycle < s.mgmt.rampAt + nb w 0 16 then none
    else some (modMgmt (setIsland s i 1) (fun m =>
      { m with toStart := is, rampAt := s.cycle,
               ramping := m.ramping ++ [{ island := i, at_ := s.cycle, mspace := nb w 24 8, engines := 0 }] }))
def execIslandRampStart (s : State) : Outcome State Fault Refusal := fire (rampStart s) s

/-- An island is ON, at the level asked for. -/
def islandOn (s : State) (i : Nat) : State :=
  let s1 := setIsland (modMgmt s (fun m => { m with ramping := m.ramping.filter (fun r => r.island != i) })) i 2
  bootAdvance (islandDone (setLevel s1 i (if islandWants s i = 1 then 1 else 2)) i)

/-- MATRIX_ENGINE_ENABLE: ma0, then ma1, of every core of a ramping island, MSPACE cycles apart; the island is ON with the
last. A base die has no matrix engine. -/
def engineEnable (s : State) (i : Nat) : Option State :=
  match s.mgmt.ramping.find? (fun r => r.island == i) with
  | none => none
  | some r =>
    if 16 ≤ i then some (islandOn s i)
    else if s.cycle < r.at_ + (r.engines + 1) * r.mspace then none
    else if r.engines = 0 then
      some (modMgmt s (fun m => { m with ramping := m.ramping.map (fun q =>
        if q.island == i then { q with engines := 1 } else q) }))
    else some (islandOn s i)
def execMatrixEngineEnable (island : Nat) (s : State) : Outcome State Fault Refusal := fire (engineEnable s island) s

/-- A half-cluster island fails to start: it stays OFF, and reports FAILED (R441). -/
def islandFails (s : State) (i : Nat) : State :=
  if i < 16 ∧ s.mgmt.ramping.any (fun r => r.island == i) then
    bootAdvance (islandDone (setIsland (modMgmt s (fun m =>
      { m with ramping := m.ramping.filter (fun r => r.island != i) })) i 4) i)
  else s

/-- Eventide k serves a trace. -/
def eventideBusy (s : State) (k : Nat) : Bool := s.tens.any (fun p => p.2.traces.any (fun q => q.2.eventide == k))

/-- A request refused (R444): STATE reads REFUSED, and nothing changes. -/
def islandRefuse (s : State) (i : Nat) : State :=
  modMgmt (islandDone s i) (fun m => { m with refused := insertNat i m.refused })

/-- The contexts on the cores of an island. -/
def islandCtxs (s : State) (i : Nat) : List (Nat × Nat × Context) :=
  s.tens.flatMap (fun p => (p.2.ctxs.filter (fun q => coreIsland q.1 == i)).map (fun q => (p.1, q.1, q.2)))

/-- The resident contexts of a draining island begin their saves, SHADOW ones too (R444). -/
def saveIsland (s : State) (i : Nat) : State :=
  (islandCtxs s i).foldl (fun (s : State) q =>
    if (q.2.2.phase == .resident || q.2.2.phase == .shadow) && !saveWaits s q.1 q.2.1 then startSave s q.1 q.2.1 else s) s

/-- ISLAND_SET_OFF. -/
def islandOff (s : State) (i : Nat) : Option State :=
  if !islandGo s i || islandWants s i != 0 then none
  else if i % 2 = 0 ∨ 15 < i ∨ eventideBusy s (i / 2) then some (islandRefuse s i)
  else match islandState s i with
    | 2 => some (saveIsland (setIsland (modMgmt s (fun m => { m with lowered := m.lowered.filter (fun j => j != i) })) i 3) i)
    | 1 => none
    | 3 => none
    | _ => if s.mgmt.toStart.contains i then none else some (islandDone s i)
def execIslandSetOff (island : Nat) (s : State) : Outcome State Fault Refusal := fire (islandOff s island) s

/-- A level other than OFF: the clocks change at once on an island that is ON; one that is OFF starts. -/
def islandLevel (s : State) (i l : Nat) : Option State :=
  if !islandGo s i || islandWants s i != l || decide (24 ≤ i) then none
  else match islandState s i with
    | 2 =>
      if l = 2 ∧ s.mgmt.lowered.contains i then none
      else some (islandDone (setLevel (modMgmt s (fun m => { m with lowered := m.lowered.filter (fun j => j != i) })) i l) i)
    | 1 => none
    | 3 => none
    | _ =>
      if s.mgmt.toStart.contains i then none else some (modMgmt s (fun m => { m with toStart := m.toStart ++ [i] }))

/-- ISLAND_SET_LOW. -/
def execIslandSetLow (island : Nat) (s : State) : Outcome State Fault Refusal := fire (islandLevel s island 1) s
/-- ISLAND_SET_FULL: one that power control has lowered waits for power to allow it (R445). -/
def execIslandSetFull (island : Nat) (s : State) : Outcome State Fault Refusal := fire (islandLevel s island 2) s

/-- What a core that turns off loses: its caches and translations. -/
def coreOff (s : State) (c : Nat) : State :=
  let k := core s c
  setCore s c { k with l1 := [], cc := [], iw := [], tlb := [], wtlb := [] }

/-- ISLAND_DRAIN_COMPLETE: contexts placed or restored in the meantime are saved too, and with every context saved the
island turns off. -/
def drained (s : State) (i : Nat) : Option State :=
  let cs := islandCtxs s i
  if islandState s i ≠ 3 then none
  else if cs.any (fun q => q.2.2.phase == .resident || q.2.2.phase == .shadow) then some (saveIsland s i)
  else if cs.any (fun q => q.2.2.phase != .saved) then none
  else
    let cores := (s.cores.map (·.1)).filter (fun c => coreIsland c == i)
    some (islandDone (setIsland (cores.foldl coreOff s) i 0) i)
def execIslandDrainComplete (island : Nat) (s : State) : Outcome State Fault Refusal := fire (drained s island) s

/-! ### Power (R445) -/

/-- The half-cluster islands that are ON at FULL. -/
def fullIslands (s : State) : List Nat := (upTo 16).filter (fun i => islandState s i == 2 && levelOf s i == 2)

/-- POWER_MEASURE: one island lowered above 3,300 W, one returned below 3,100 W. -/
def measure (s : State) (w : Nat) : State :=
  let s1 := modMgmt s (fun m => { m with watts := w })
  if 3300 < w then
    match (fullIslands s).getLast? with
    | none => s1
    | some i => modMgmt (setLevel s1 i 1) (fun m => { m with lowered := insertNat i m.lowered })
  else if w < 3100 then
    match s.mgmt.lowered with
    | [] => s1
    | i :: is => modMgmt (if islandWants s i = 2 then islandDone (setLevel s1 i 2) i else setLevel s1 i 2) (fun m => { m with lowered := is })
  else s1
def execPowerMeasure (watts : Nat) (s : State) : Outcome State Fault Refusal := .next (measure s watts)

/-! ### Mapping loads (R401 to R403) -/

def mapBusy (s : State) : Bool := nb (mregGet s 0).toNat 31 1 == 1 || nb (mregGet s 4).toNat 31 1 == 1

/-- MAP_LOAD: a MAPCMD with GO starts the check. -/
def mapStart (s : State) : Option State :=
  if nb (mregGet s 0).toNat 31 1 = 1 ∧ nb (mregGet s 4).toNat 31 1 = 0 then some (mregField s 4 31 1 1) else none
def execMapLoad (s : State) : Outcome State Fault Refusal := fire (mapStart s) s

/-- Rows reduced by a pivot row with bit j: those that have it are added to it. -/
def clearCol (j p : Nat) (rows : List Nat) : List Nat := rows.map (fun r => if nb r j 1 = 1 then r ^^^ p else r)

/-- Invertible over GF(2): every column finds a pivot among the rows not yet used. `n` columns are left. -/
def gfRank : Nat → List Nat → Bool
  | 0, _ => true
  | n + 1, rows =>
    match rows.find? (fun r => nb r n 1 == 1) with
    | none => false
    | some p => gfRank n (clearCol n p (rows.erase p))

/-- Conditions 1, 2 and 4 of R401. -/
def mapStructure (rows : List Nat) (kind : Nat) : Bool :=
  let row := fun i => rows.getD i 0
  (upTo 4).all (fun i => row (28 + i) == 2 ^ (28 + i)) && (upTo 28).all (fun i => nb (row i) 28 4 == 0) &&
  (match kind with
   | 0 => nb (row 15) 0 5 == 0 && nb (row 16) 0 5 == 0 && nb (row 17) 0 5 == 0
   | 1 => row 16 == 2 ^ 26 && row 17 == 2 ^ 27 && nb (row 15) 0 5 == 0 && nb (row 15) 26 2 == 0
   | _ => row 15 == 2 ^ 25 && row 16 == 2 ^ 26 && row 17 == 2 ^ 27)

/-- RESULT of a check (Table 5). -/
def mapResult (rows : List Nat) (kind : Nat) : Nat :=
  if kind = 3 then 4 else if !mapStructure rows kind then 3 else if !gfRank 32 rows then 2 else 1

/-- A matrix in force: the lines of the region read what their new locations hold (R403), and a far-line cache keeps none of them
(R23: it holds lines of other dies only). -/
def mapIn (s : State) (r kind : Nat) (rows : List Nat) : State :=
  let s1 := rows.zipIdx.foldl (fun (s : State) p => mregSet s (0x100 + 128 * r + 4 * p.2) (BitVec.ofNat 32 p.1)) s
  let s2 := mregSet s1 (0x900 + 4 * r) (BitVec.ofNat 32 kind)
  { s2 with
    serial := s2.serial + 1
    mem := s2.mem.filter (fun c => c.1 / 2 ^ 35 != r)
    ukey := s2.ukey.filter (fun c => c.1 / 2 ^ 31 != r)
    loose := s2.loose.filter (fun c => c.1 / 2 ^ 19 != r)
    dies := s2.dies.map (fun p => (p.1, { p.2 with far := p.2.far.filter (fun q => lineOfKey q.1 / 2 ^ 28 != r) }))
    bad := s2.bad.filter (fun b => b / 2 ^ 29 != r)
    remapped := mput s2.remapped r s2.serial }

/-- MAP_CHECK_COMPLETE: accesses accepted under the old matrix have completed, ordered reductions among them. -/
def mapDone (s : State) : Option State :=
  let w := (mregGet s 0).toNat
  let r := nb w 4 4
  let kind := nb w 0 2
  if nb (mregGet s 4).toNat 31 1 = 0 ∨ s.wq.any (fun v => v.line / 2 ^ 28 == r) ∨
      s.reds.any (fun v => v.accepted && v.pa / 2 ^ 35 == r) then none
  else
    let rows := (upTo 32).map (fun i => (mregGet s (0x80 + 4 * i)).toNat)
    let res := mapResult rows kind
    let s1 := if res = 1 then mapIn s r kind rows else s
    some (mregSet (mregField s1 0 31 1 0) 4 (BitVec.ofNat 32 (2 ^ 8 * r + res)))
def execMapCheckComplete (s : State) : Outcome State Fault Refusal := fire (mapDone s) s

/-! ### Data rates (R408) -/

def rateReg (k : Nat) : Nat := 0xB20 + 4 * k
def rateStatus (s : State) (k : Nat) : Nat := nb (mregGet s (rateReg k)).toNat 8 3

/-- A save is streaming to a stack: some page of a slot being saved lies on it. -/
def savesTo (s : State) (k : Nat) : Bool :=
  s.tens.any (fun p => p.2.ctxs.any (fun q => q.2.phase == .saving && slotOn s p.1 q.1 k))

/-- Training begins. -/
def trainStart (s : State) (k : Nat) : State :=
  mregField (modMgmt s (fun m => { m with retrain := mput m.retrain k (nb (mregGet s (rateReg k)).toNat 0 2) })) (rateReg k) 8 3 1

/-- RATE_CHANGE: a GO starts the change, or defers it while a save streams to the stack. -/
def rateGo (s : State) (k : Nat) : Option State :=
  if 8 ≤ k ∨ nb (mregGet s (rateReg k)).toNat 31 1 = 0 ∨ rateStatus s k = 1 ∨ rateStatus s k = 3 then none
  else if savesTo s k then some (mregField s (rateReg k) 8 3 3)
  else some (trainStart s k)
def execRateChange (stack : Nat) (s : State) : Outcome State Fault Refusal := fire (rateGo s stack) s

/-- RATE_CHANGE_DEFERRED_START. -/
def rateLater (s : State) (k : Nat) : Option State :=
  if k < 8 ∧ rateStatus s k = 3 ∧ !savesTo s k then some (trainStart s k) else none
def execRateChangeDeferredStart (stack : Nat) (s : State) : Outcome State Fault Refusal := fire (rateLater s stack) s

/-- RETRAIN_COMPLETE: the rate is in use, or the one before is restored and FAILED is reported; at cold reset a failure ends
in RECOVERY (R441). -/
def trainDone (s : State) (k : Nat) (ok : Bool) : Option State :=
  match mget s.mgmt.retrain k with
  | none => none
  | some rate =>
    let s1 := modMgmt s (fun m => { m with retrain := mdel m.retrain k })
    if s.mgmt.boot = 3 then
      some (if ok then bootAdvance s1
            else setStage (modMgmt s1 (fun m => { m with boot := 2, toStart := [], ramping := [], retrain := [] })) 0)
    else
      let s2 := mregField (mregField s1 (rateReg k) 31 1 0) (rateReg k) 8 3 (if ok then 2 else 4)
      some (if ok then mregField s2 (rateReg k) 4 2 rate else s2)
def execRetrainComplete (stack : Nat) (ok : Bool) (s : State) : Outcome State Fault Refusal := fire (trainDone s stack ok) s

/-- SELF_REFRESH_ENTRY changes timing only (R407). -/
def execSelfRefreshEntry (_stack _pc : Nat) (s : State) : Outcome State Fault Refusal := .next s

/-! ### The registers of the management space (R402, R442, R443) -/

/-- An offset of the management space that names a register. -/
def mregNamed (o : Nat) : Bool :=
  o % 4 == 0 && (decide (o < 8) || (decide (0x80 ≤ o) && decide (o < 0x940)) || (decide (0xA00 ≤ o) && decide (o < 0xA20)) ||
    (decide (0xB00 ≤ o) && decide (o < 0xB40)) || (decide (0xC00 ≤ o) && decide (o < 0xC44)) || o == 0xD00 ||
    (decide (0xD40 ≤ o) && decide (o < 0xDA0)))

/-- What a read gives: ISLCTL shows a refusal in STATE, and LEVEL 1 on an island that power control has lowered. -/
def mregRead (s : State) (o : Nat) : Word :=
  let w := (mregGet s o).toNat
  if 0xD40 ≤ o ∧ o < 0xDA0 then
    let i := (o - 0xD40) / 4
    let w1 := if s.mgmt.refused.contains i then setF w 8 3 5 else w
    BitVec.ofNat 32 (if s.mgmt.lowered.contains i then setF w1 0 2 1 else w1)
  else BitVec.ofNat 32 w

/-- A write of ISLCTL_i: LEVEL 3 is refused. That a write while a change of the island runs is ignored is the model's choice (log
entry 84). -/
def islandPut (s : State) (i : Nat) (v : Nat) : State :=
  if islandGo s i then s
  else
    let s1 := mregField s (islReg i) 0 2 v
    if nb v 31 1 = 0 then s1
    else if nb v 0 2 = 3 then islandRefuse s1 i
    else modMgmt (mregField s1 (islReg i) 31 1 1) (fun m => { m with refused := m.refused.filter (fun j => j != i) })

/-- A write of RATECTL_s. -/
def ratePut (s : State) (k v : Nat) : State :=
  let s1 := mregField s (rateReg k) 0 2 v
  if nb v 31 1 = 1 ∧ rateStatus s k ≠ 1 ∧ rateStatus s k ≠ 3 then mregField s1 (rateReg k) 31 1 1 else s1

/-- PWRSEQ: a value below its field's range leaves that field unchanged. -/
def pwrseqPut (s : State) (v : Nat) : State :=
  let s1 := if 16 ≤ nb v 24 8 then mregField s 0xD00 24 8 (nb v 24 8) else s
  if 850 ≤ nb v 0 16 then mregField s1 0xD00 0 16 v else s1

/-- A write of a management register under its access code. -/
def mregPut (s : State) (o : Nat) (w : Word) : State :=
  let v := w.toNat
  if o = 0 then (if mapBusy s then s else mregSet s 0 (w &&& 0x800000F3))
  else if 0x80 ≤ o ∧ o < 0x100 then (if mapBusy s then s else mregSet s o w)
  else if 0xA00 ≤ o ∧ o < 0xA20 then mregSet s o w
  else if 0xB00 ≤ o ∧ o < 0xB20 then mregSet s o (w &&& 0x00FFFFFF)
  else if 0xB20 ≤ o ∧ o < 0xB40 then ratePut s ((o - 0xB20) / 4) v
  else if 0xC00 ≤ o ∧ o < 0xC40 then mregSet s o w
  else if o = 0xC40 then mregSet s o (w &&& 0xFFFF)
  else if o = 0xD00 then pwrseqPut s v
  else if 0xD40 ≤ o ∧ o < 0xDA0 then islandPut s ((o - 0xD40) / 4) v
  else s

/-! ### The mailbox (R446, R448, R449) -/

/-- The mailbox answers from the end of step 1. -/
def mailUp (s : State) : Bool := s.mgmt.boot != 0 && !s.mgmt.standby
def recovery (s : State) : Bool := nb (mboxGet s 4).toNat 4 3 == 0

/-- Where the nonce and the cycle count as of GO are kept (M). -/
def goNonce : Nat := 0x1000
def goStamp : Nat := 0x1100

/-- A command begins: BUSY, with the nonce and the cycle count taken at GO. -/
def mailGo (s : State) : State :=
  let s1 := (upTo 8).foldl (fun (s : State) i => mboxSet s (goNonce + 4 * i) (mboxGet s (0x100 + 4 * i))) s
  let s2 := mboxSet (mboxSet s1 goStamp (lo32 s.cycle)) (goStamp + 4) (hi32 s.cycle)
  mboxSet s2 4 (mboxGet s2 4 ||| 0x80000000)

/-- A write to BAR4. -/
def mailPut (s : State) (o : Nat) (w : Word) : State :=
  if o = 0 then
    (if nb (mboxGet s 4).toNat 31 1 = 1 then s
     else if w.getLsbD 31 then mailGo (mboxSet s 0 (w &&& 0x800000FF))
     else mboxSet s 0 (w &&& 0xFF))
  else if o % 4 = 0 ∧ ((8 ≤ o ∧ o ≤ 0x18) ∨ (0x100 ≤ o ∧ o < 0x120)) then mboxSet s o w
  else s

/-- A command's result written; BUSY and GO clear. -/
def mailDone (s : State) (res : Nat) : State :=
  let s1 := mboxSet s 4 (BitVec.ofNat 32 (setF (setF (mboxGet s 4).toNat 31 1 0) 0 4 res))
  mboxSet s1 0 (mboxGet s1 0 &&& 0xFF)

/-- A command of an operation runs. -/
def mailRuns (s : State) (op : Nat) : Bool :=
  nb (mboxGet s 4).toNat 31 1 == 1 && nb (mboxGet s 0).toNat 0 8 == op

/-- MB_RDREG: in RECOVERY only MBSTAT, by its offset 0x004. -/
def mbRead (s : State) : Option State :=
  let o := (mboxGet s 8).toNat
  if !mailRuns s 1 then none
  else if recovery s then
    some (if o = 4 then mailDone (mboxSet s 0xC (mboxGet s 4)) 1 else mailDone s 2)
  else if mregNamed o then some (mailDone (mboxSet s 0xC (mregRead s o)) 1)
  else some (mailDone s 3)
def execMbRdreg (s : State) : Outcome State Fault Refusal := fire (mbRead s) s

/-- MB_WRREG. -/
def mbWrite (s : State) : Option State :=
  let o := (mboxGet s 8).toNat
  if !mailRuns s 2 then none
  else if recovery s then some (mailDone s 2)
  else if mregNamed o then some (mailDone (mregPut s o (mboxGet s 0xC)) 1)
  else some (mailDone s 3)
def execMbWrreg (s : State) : Outcome State Fault Refusal := fire (mbWrite s) s

/-- MB_SETROOT: TBASELO and TBASEHI of a tenant without a resident block. -/
def mbRoot (s : State) : Option State :=
  let t := nb (mboxGet s 8).toNat 0 4
  if !mailRuns s 3 then none
  else if recovery s then some (mailDone s 2)
  else if s.tasks.any (fun p => p.2.tenant == t && !p.2.saved) then some (mailDone s 3)
  else
    let put := fun (s : State) (c : Nat) (w : Word) => csrStore s t c w
    some (mailDone (put (put s 0x040 (mboxGet s 0xC)) 0x041 (mboxGet s 0x10)) 1)
def execMbSetroot (s : State) : Outcome State Fault Refusal := fire (mbRoot s) s

/-- The bus address of IDENT, ATTEST and STAGEIMG. -/
def mailAddr (s : State) : Nat := pair (mboxGet s 0x10) (mboxGet s 0x14)
/-- The host's memory fails an access of the management complex (R446, R449). -/
def hostFailed (s : State) (a n : Nat) : Bool := s.hostBad.any (fun p => overlaps p.1 p.2 a n)
def hostPut (s : State) (a : Nat) (bs : List Byte) : State :=
  bs.zipIdx.foldl (fun (s : State) p => writeHost s (a + p.2) p.1) s

/-- Bytes of the objects that only the management complex makes (log entry 16): the identity public key (1), the certificate
over it (2), the serial number (3), and a signature over a report (4), which depends on it. -/
def secret (object key n : Nat) : List Byte := (upTo n).map (Config.secretByte object key)

/-- MB_IDENT: the public key, then the certificate over it and DEVINFO. -/
def mbIdent (s : State) : Option State :=
  if !mailRuns s 4 then none
  else if hostFailed s (mailAddr s) 7888 then some (mailDone s 5)
  else some (mailDone (hostPut s (mailAddr s) (secret 1 0 32 ++ secret 2 (devinfo s).toNat 7856)) 1)
def execMbIdent (s : State) : Outcome State Fault Refusal := fire (mbIdent s) s

/-- The header of a report (Table 5), bytes 127:0. -/
def attestHeader (s : State) : Nat :=
  let run := (s.mgmt.runBank.map (bankOf s)).getD []
  let word := fun o => (mboxGet s o).toNat
  let nonce := ((upTo 8).map (fun i => word (goNonce + 4 * i) * 2 ^ (32 * i))).sum
  let tens := ((upTo 16).map (fun t => if (tenant s t).enabled then 2 ^ t else 0)).sum
  1 + 2 ^ 16 * tens + 2 ^ 32 * leNat (secret 3 0 8) + 2 ^ 96 * s.mgmt.fusedSvn + 2 ^ 128 * imgSvn run +
  2 ^ 160 * (devinfo s).toNat + 2 ^ 192 * (word goStamp + 2 ^ 32 * word (goStamp + 4)) + 2 ^ 256 * leNat (secret 1 0 32) +
  2 ^ 512 * leNat (sha256 run) + 2 ^ 768 * nonce

/-- MB_ATTEST. -/
def mbAttest (s : State) : Option State :=
  if !mailRuns s 5 then none
  else if recovery s then some (mailDone s 2)
  else if hostFailed s (mailAddr s) 7984 then some (mailDone s 5)
  else
    let h := attestHeader s
    some (mailDone (hostPut s (mailAddr s) (leBytes 128 h ++ secret 4 h 7856)) 1)
def execMbAttest (s : State) : Outcome State Fault Refusal := fire (mbAttest s) s

/-- MB_STAGEIMG: a verified image goes to the bank that does not hold the running one; in RECOVERY no image runs, and bank 0 takes
it, which is the model's choice (log entry 84). -/
def mbStage (s : State) : Option State :=
  if !mailRuns s 6 then none
  else if hostFailed s (mailAddr s) (mboxGet s 0x18).toNat then some (mailDone s 5)
  else
    let bs := (upTo (mboxGet s 0x18).toNat).map (fun i => readHost s (mailAddr s + i))
    if !imgOk s bs then some (mailDone s 4)
    else
      let b := match s.mgmt.runBank with
        | some 0 => 1
        | _ => 0
      some (mailDone (modMgmt s (fun m => { m with banks := m.banks.set b bs })) 1)
def execMbStageimg (s : State) : Outcome State Fault Refusal := fire (mbStage s) s

/-- MB_BADOP: an OP that Table 4 does not define. -/
def mbBad (s : State) : Option State :=
  let op := nb (mboxGet s 0).toNat 0 8
  if nb (mboxGet s 4).toNat 31 1 = 1 ∧ (op = 0 ∨ 6 < op) then some (mailDone s 2) else none
def execMbBadop (s : State) : Outcome State Fault Refusal := fire (mbBad s) s

/-! ### Writes to registers without a row of their own (R10) -/

/-- REGISTER_WRITE: to BAR0 of a function, to the management space once it is up, or to the mailbox. -/
def execRegisterWrite (sp : RegSpace) (off : Nat) (v : Word) (s : State) : Outcome State Fault Refusal :=
  match sp with
  | .bar0 t => hostAct s t (.reg off v) (fun s => bar0Put s t off v)
  | .mgmt => .next (if hostUp s && mregNamed off then wakeAll (mregPut s off v) else s)
  | .bar4 => .next (if mailUp s then mailPut s off v else s)

/-! ### Reads by the host (R10, R364, R402, R446) -/

/-- A register of a space as the host reads it; nothing answers before its space is up. -/
def spaceRead (s : State) (sp : RegSpace) (o : Nat) : Option Word :=
  match sp with
  | .bar0 t => if hostUp s && (tenant s t).enabled then some (bar0Read s t o) else none
  | .mgmt => if hostUp s then some (if mregNamed o then mregRead s o else 0) else none
  | .bar4 => if mailUp s then some (if o % 4 = 0 ∧ o < 0x1000 then mboxGet s o else 0) else none

/-- A read may not pass the writes of its function that wait. -/
def readWaits (s : State) (sp : RegSpace) : Bool :=
  match sp with
  | .bar0 t => !(tenant s t).posted.isEmpty
  | _ => false

/-- A host's read of 4 or 8 bytes: the two words of a 64-bit read are read together. -/
def hostLoad (s : State) (sp : RegSpace) (o n : Nat) : State :=
  if readWaits s sp then s
  else match spaceRead s sp o, spaceRead s sp (o + 4) with
    | some w, some v =>
      if n = 4 then { s with hostRead := leBytes 4 w.toNat }
      else if n = 8 then { s with hostRead := leBytes 4 w.toNat ++ leBytes 4 v.toNat }
      else s
    | _, _ => s

end Sys2Proof.Machine
end

