-- ==== Sys2Proof/Machine/Sample.lean ====
section
/-! DEFINITION. Tagged-instruction sampling (R438 to R440): sample points, what a tagged instruction shows, and its record. -/

namespace Sys2Proof.Machine

open Host

/-! ### Sample points (R438) -/

/-- The cycle of the next sample point: a gap from PERIOD to 2 x PERIOD - 1 (log entry 15). -/
def nextSample (s : State) (t : Nat) : State × Nat :=
  let p := nb (csrGet s t 0x085).toNat 0 24
  ({ s with fresh := s.fresh + 1 }, s.cycle + p + Config.sampleGap s.fresh % p)

def samplerOn (s : State) (t : Nat) : Bool := nb (csrGet s t 0x060).toNat 3 1 == 1

/-- The tenant's resident groups of a scheduler: slot, task, group index. -/
def schedGroups (s : State) (t c k : Nat) : List (Nat × Nat × Nat) :=
  s.tasks.flatMap (fun p =>
    if p.2.tenant == t && p.2.core == c && unitRuns s p.2 then
      (p.2.groups.filter (fun q => q.2.sched == k)).map (fun q => (q.2.slot, p.1, q.1))
    else [])

def insertSlot (x : Nat × Nat × Nat) : List (Nat × Nat × Nat) → List (Nat × Nat × Nat)
  | [] => [x]
  | y :: l => if x.1 < y.1 then x :: y :: l else y :: insertSlot x l

/-- The group after the one chosen last, in slot order. -/
def chooseGroup (last : Nat) (gs : List (Nat × Nat × Nat)) : Option (Nat × Nat × Nat) :=
  let l := gs.foldl (fun acc x => insertSlot x acc) []
  match l.find? (fun x => decide (last < x.1)) with
  | some x => some x
  | none => l.head?

def setSampler (s : State) (t key : Nat) (y : Sampler) : State :=
  modTenant s t (fun x => { x with samplers := mput x.samplers key y })

/-- A due sampler chooses a group: it follows a fetch, writes a WAIT record, or tags the next instruction. -/
def takeSample (s : State) (t key : Nat) (y : Sampler) : State :=
  match chooseGroup y.rot (schedGroups s t (key / 4) (key % 4)) with
  | none => setSampler s t key y
  | some (slot, tid, g) =>
    let y1 := { y with rot := slot }
    match task s tid, group s tid g with
    | some x, some gr =>
      let tag : SampTag := { tid := tid, g := g, at_ := s.cycle, fetch := hasNeed s (.fetch tid g), note := none, load := none }
      if tag.fetch || (gr.select (fairOn s t) (fairLimit s t)).isSome then setSampler s t key { y1 with tag := some tag }
      else putSample (setSampler s t key y1) t (sampleBase s x key g (headPc gr.live) 0 s.cycle + 2 ^ 205 * 2)
    | _, _ => setSampler s t key y1

/-- One tenant's sampler of a scheduler: it starts, passes a sample point, or ends with SMPEN. -/
def samplerAct (s : State) (t key : Nat) : Option State :=
  match mget (tenant s t).samplers key with
  | none =>
    if !samplerOn s t || (schedGroups s t (key / 4) (key % 4)).isEmpty then none
    else
      let (s1, n) := nextSample s t
      some (setSampler s1 t key { next := n, rot := 8, tag := none })
  | some y =>
    if !samplerOn s t then
      (if y.tag.isSome then none else some (modTenant s t (fun x => { x with samplers := mdel x.samplers key })))
    else if s.cycle < y.next then none
    else
      let (s1, n) := nextSample s t
      let y1 := { y with next := n }
      some (if y.tag.isSome then setSampler s1 t key y1 else takeSample s1 t key y1)

/-- SAMPLE_POINT. -/
def samplePoint (s : State) (c k : Nat) : Option State := s.tens.findSome? (fun p => samplerAct s p.1 (4 * c + k % 4))
def execSamplePoint (core sched : Nat) (s : State) : Outcome State Fault Refusal := fire (samplePoint s core sched) s

/-! ### What an instruction shows (R439) -/

/-- The word that begins an instruction. -/
def headWord (bs : List Byte) : Raw := Raw.ofNat (leNat (bs.take 16))

/-- The level of a physical address seen from a core (Table 12). -/
def paLevel (s : State) (c pa : Nat) : Nat :=
  if hostBase ≤ pa then 8
  else if tierBase ≤ pa then 7
  else if homeStack s pa = clusterOf c then 3
  else if homeDie s pa = dieOf c then 4
  else 6

/-- The level of one lane of a load. -/
def laneLevel (s : State) (c : Nat) (op : MemOp) (l : LaneAcc) : Nat :=
  let k := cacheKey l.pa l.key
  let far := paLevel s c l.pa
  match op with
  | .load _ _ _ _ _ true => if (mget (core s c).cc k).isSome then 2 else if far = 6 ∧ (mget (die s (dieOf c)).far k).isSome then 5 else far
  | _ =>
    if l.port then far
    else if (mget (core s c).l1 k).isSome then 2
    else if far = 6 ∧ (mget (die s (dieOf c)).far k).isSome then 5
    else far

/-- The farthest level that an instruction reached, from the state before it and after it; a free value for an instruction
whose access leaves no trace in the group (log entry 15). -/
def instrLevel (s0 s1 : State) (t : Task) (tid g : Nat) (i : Option Instr) (newLoads : List LoadRec) : Nat :=
  let ws := s1.wq.filter (fun w => !s0.wq.any (fun v => v.id == w.id) && w.owner.any (fun o => o.1 == tid && o.2.1 == g))
  let rs := s1.reds.filter (fun r => !s0.reds.contains r)
  let seen := newLoads.flatMap (fun l => l.lanes.map (laneLevel s0 t.core l.op)) ++
    ws.map (fun w => paLevel s0 t.core (w.line * lineBytes)) ++ rs.map (fun r => paLevel s0 t.core r.pa)
  if !seen.isEmpty then seen.foldl max 0
  else match i with
    | some (.st ..) | some (.stx ..) => 2
    | some (.lds ..) | some (.sts ..) | some (.atoms ..) | some (.atomscas ..) | some (.reds ..) | some (.binit ..)
    | some (.barrive ..) | some (.barwait ..) | some (.barsync ..) | some (.qinit ..) | some (.qpush ..) | some (.qpop ..)
    | some (.qtry ..) => 1
    | some (.trec ..) | some (.gset ..) | some (.chainw ..) | some (.chainp ..) | some (.trmark ..) | some (.nngraph ..)
    | some (.nngraphBump ..) | some (.enq ..) | some (.ld ..) | some (.ldx ..) | some (.ldc ..) | some (.atom ..)
    | some (.atomcas ..) | some (.red ..) | some (.reddet ..) => (Config.freeWord s1.fresh).toNat % 9
    | _ => 0

/-- A free stage count of 16 bits. -/
def freeStage (s : State) (k : Nat) : Nat := (Config.freeWord (s.fresh + k)).toNat % 2 ^ 16

/-- A group left through its own exit or return. -/
def leavesItself (i : Option Instr) : Bool :=
  match i with
  | some (.exit _) | some (.rti _) => true
  | _ => false

/-- The tagged instruction trapped. -/
def tagTrapped (s0 s1 : State) (tid g : Nat) (i : Option Instr) : Bool :=
  match task s0 tid, task s1 tid with
  | some x, some y =>
    (x.run == .running && (match y.run with
      | .held _ => true
      | _ => false)) ||
    (match mget x.groups g, mget y.groups g with
     | some a, some b => a.trap.isNone && b.trap.isSome
     | _, none => !leavesItself i
     | _, _ => false)
  | _, _ => !leavesItself i

/-- The record of an instruction that has issued: stages (free values, and 0 where R439 fixes it), level, and flags. -/
def issueRecord (s0 s1 : State) (t : Task) (key : Nat) (tag : SampTag) (e : Entry) (bs : List Byte) (i : Option Instr)
    (newLoads : List LoadRec) : Nat :=
  let r := headWord bs
  let logged := (match group s0 tag.tid tag.g, group s1 tag.tid tag.g with
    | some a, some b => decide (a.oplog.length < b.oplog.length)
    | _, _ => false)
  let walked := logged || (core s0 t.core).tlb != (core s1 t.core).tlb
  let trapped := tagTrapped s0 s1 tag.tid tag.g i
  let dst := (shapeOf r).any (fun x => x.d != .no)
  sampleBase s0 t key tag.g e.pc.toNat e.mask.toNat tag.at_ + 2 ^ 203 * logged.toNat + 2 ^ 204 * walked.toNat +
  2 ^ 205 * (if trapped then 3 else 0) + 2 ^ 208 * instrLevel s0 s1 t tag.tid tag.g i newLoads + 2 ^ 212 * r.opc.toNat +
  2 ^ 220 * (if dst && !trapped then freeStage s1 1 else 0) + 2 ^ 236 * freeStage s1 2 + 2 ^ 252 * freeStage s1 3 +
  2 ^ 268 * freeStage s1 4 + 2 ^ 284 * (if tag.fetch then freeStage s1 5 else 0)

/-- The record of a followed fetch (R440): the head's PC and opcode, and the FETCH count. -/
def fetchRecord (s : State) (t : Task) (key : Nat) (tag : SampTag) : Nat :=
  match headOf s tag.tid tag.g with
  | none => 0
  | some (_, gr, e) =>
    let opc := (match fetchAt s t e.pc.toNat gr.trap.isNone with
      | .bytes _ bs => (headWord bs).opc.toNat
      | _ => 0)
    sampleBase s t key tag.g e.pc.toNat e.mask.toNat tag.at_ + 2 ^ 205 + 2 ^ 212 * opc + 2 ^ 284 * freeStage s 0

/-! ### Following (R439, R440) -/

/-- The samplers that follow a group. -/
def tagsFor (s : State) (tid g : Nat) : List (Nat × Nat × SampTag) :=
  match task s tid with
  | none => []
  | some t => (tenant s t.tenant).samplers.filterMap (fun q =>
      match q.2.tag with
      | some x => if x.tid == tid && x.g == g then some (t.tenant, q.1, x) else none
      | none => none)

/-- Before a group issues: a followed fetch has ended, and a tagged instruction counts as issued. -/
def beforeIssue (s : State) (tid g : Nat) : State :=
  (tagsFor s tid g).foldl (fun (s : State) q =>
    match task s tid with
    | none => s
    | some t =>
      if q.2.2.note.isSome then s
      else if q.2.2.fetch then
        putSample (setTag { s with fresh := s.fresh + 1 } q.1 q.2.1 none) q.1 (fetchRecord s t q.2.1 q.2.2)
      else setTag s q.1 q.2.1 (some { q.2.2 with note := some 0 })) s

/-- Loads and stores that a group has begun: 2 x identity, and 1 more for a store. -/
def begun (s0 s1 : State) (tid g : Nat) : List Nat × List LoadRec :=
  match group s0 tid g, group s1 tid g with
  | some a, some b =>
    let ls := b.loads.filter (fun p => (mget a.loads p.1).isNone)
    (ls.map (fun p => 2 * p.1) ++ (b.stores.filter (fun p => (mget a.stores p.1).isNone)).map (fun p => 2 * p.1 + 1),
     ls.map (·.2))
  | _, _ => ([], [])

/-- After a group's turn: an instruction that has not issued is tagged still; one that has ended has its record; one whose
load or store is outstanding is followed further. -/
def afterIssue (s0 s1 : State) (tid g : Nat) (bs : List Byte) (i : Option Instr) : State :=
  match headOf s0 tid g with
  | none => s1
  | some (t, _, e) =>
    (tagsFor s0 tid g).foldl (fun (s : State) q =>
      if q.2.2.note != some 0 then s
      else if (group s tid g).any (·.stall) then setTag s q.1 q.2.1 (some { q.2.2 with note := none })
      else
        let (ids, ls) := begun s0 s tid g
        let r := issueRecord s0 s t q.2.1 q.2.2 e bs i ls
        let s2 := { s with fresh := s.fresh + 6 }
        match ids, tagTrapped s0 s tid g i with
        | n :: _, false => setTag s2 q.1 q.2.1 (some { q.2.2 with note := some r, load := some n })
        | _, _ => putSample (setTag s2 q.1 q.2.1 none) q.1 r) s1

/-- The load or store that a tag awaits is complete. -/
def awaited (s : State) (x : SampTag) : Bool :=
  match x.load, group s x.tid x.g with
  | some n, some gr => if n % 2 = 0 then (mget gr.loads (n / 2)).isNone else (mget gr.stores (n / 2)).isNone
  | _, _ => true

/-- One tenant's sampler whose following has ended writes its record. -/
def followEnd (s : State) (t key : Nat) : Option State :=
  match (mget (tenant s t).samplers key).bind (·.tag) with
  | none => none
  | some x =>
    match x.note, task s x.tid with
    | none, some y =>
      if !x.fetch || hasNeed s (.fetch x.tid x.g) then none
      else some (putSample (setTag { s with fresh := s.fresh + 1 } t key none) t (fetchRecord s y key x))
    | some r, _ =>
      if r = 0 || !awaited s x then none
      else
        let trapped := (group s x.tid x.g).any (fun gr => gr.trap.isSome && gr.epc.toNat == r / 2 ^ 455)
        some (putSample (setTag s t key none) t (if trapped && r / 2 ^ 205 % 8 = 0 then r + 2 ^ 205 * 3 else r))
    | none, none => none

/-- SAMPLE_RECORD. -/
def sampleRecord (s : State) (c k : Nat) : Option State := s.tens.findSome? (fun p => followEnd s p.1 (4 * c + k % 4))
def execSampleRecord (core sched : Nat) (s : State) : Outcome State Fault Refusal := fire (sampleRecord s core sched) s

end Sys2Proof.Machine
end

