-- ==== Sys2Proof/Machine/Sfu.lean ====
section
/-! DEFINITION. Special functions (R212, R213): the values are in Approx.lean. -/

namespace Sys2Proof.Machine

open Host

def execRcp (h : Hdr) (d a : Reg) (s : State) : Outcome State Fault Refusal := alu1 h d a sfuRcp s
def execRsq (h : Hdr) (d a : Reg) (s : State) : Outcome State Fault Refusal := alu1 h d a sfuRsq s
def execSqrt (h : Hdr) (d a : Reg) (s : State) : Outcome State Fault Refusal := alu1 h d a sfuSqrt s
def execEx2 (h : Hdr) (d a : Reg) (s : State) : Outcome State Fault Refusal := alu1 h d a sfuEx2 s
def execLg2 (h : Hdr) (d a : Reg) (s : State) : Outcome State Fault Refusal := alu1 h d a sfuLg2 s
def execSin (h : Hdr) (d a : Reg) (s : State) : Outcome State Fault Refusal := alu1 h d a sfuSin s
def execCos (h : Hdr) (d a : Reg) (s : State) : Outcome State Fault Refusal := alu1 h d a sfuCos s
def execTanh (h : Hdr) (d a : Reg) (s : State) : Outcome State Fault Refusal := alu1 h d a sfuTanh s

/-- `sincos` writes a register pair. -/
def execSincos (h : Hdr) (d a : Reg) (s : State) : Outcome State Fault Refusal :=
  run h 8 [⟨h.u, a, 1⟩] [⟨h.u, d, 2⟩]
    (fun c s => .ok (c.put s d (fun i => [sfuSin (c.ra a 0 i), sfuCos (c.ra a 0 i)]))) s

end Sys2Proof.Machine
end

