-- ==== Sys2Proof/Machine/Dispatch.lean ====
section
/-! DEFINITION. One arm for each constructor of Instr: the meaning of every instruction and event. -/

namespace Sys2Proof.Machine

def exec (i : Instr) (s : State) : Host.Outcome State Fault Refusal :=
  match i with
  | .bra h off tp fp => Sys2Proof.Machine.execBra h off tp fp s
  | .brx h a off tp fp => Sys2Proof.Machine.execBrx h a off tp fp s
  | .call h d off tp fp => Sys2Proof.Machine.execCall h d off tp fp s
  | .callx h d a off tp fp => Sys2Proof.Machine.execCallx h d a off tp fp s
  | .ret h a tp fp => Sys2Proof.Machine.execRet h a tp fp s
  | .exit h => Sys2Proof.Machine.execExit h s
  | .yield h => Sys2Proof.Machine.execYield h s
  | .setprio h n => Sys2Proof.Machine.execSetprio h n s
  | .loopc h d off tp fp => Sys2Proof.Machine.execLoopc h d off tp fp s
  | .brk h n => Sys2Proof.Machine.execBrk h n s
  | .iadd h d a b uns sat => Sys2Proof.Machine.execIadd h d a b uns sat s
  | .isub h d a b uns sat => Sys2Proof.Machine.execIsub h d a b uns sat s
  | .imul h d a b uns sat => Sys2Proof.Machine.execImul h d a b uns sat s
  | .imulhi h d a b uns => Sys2Proof.Machine.execImulhi h d a b uns s
  | .imad h d a b c uns sat => Sys2Proof.Machine.execImad h d a b c uns sat s
  | .iaddc h d a b ci co => Sys2Proof.Machine.execIaddc h d a b ci co s
  | .imin h d a b uns => Sys2Proof.Machine.execImin h d a b uns s
  | .imax h d a b uns => Sys2Proof.Machine.execImax h d a b uns s
  | .iabs h d a sat => Sys2Proof.Machine.execIabs h d a sat s
  | .lea h d a b sh => Sys2Proof.Machine.execLea h d a b sh s
  | .idot4 h d a b c ua sat ub => Sys2Proof.Machine.execIdot4 h d a b c ua sat ub s
  | .idot8 h d a b c ua sat ub => Sys2Proof.Machine.execIdot8 h d a b c ua sat ub s
  | .iclamp h d a b c uns => Sys2Proof.Machine.execIclamp h d a b c uns s
  | .and h d a b => Sys2Proof.Machine.execAnd h d a b s
  | .or h d a b => Sys2Proof.Machine.execOr h d a b s
  | .xor h d a b => Sys2Proof.Machine.execXor h d a b s
  | .bool3 h d a b c fn => Sys2Proof.Machine.execBool3 h d a b c fn s
  | .shl h d a b => Sys2Proof.Machine.execShl h d a b s
  | .shr h d a b => Sys2Proof.Machine.execShr h d a b s
  | .sar h d a b => Sys2Proof.Machine.execSar h d a b s
  | .rot h d a b right => Sys2Proof.Machine.execRot h d a b right s
  | .bfe h d a b uns => Sys2Proof.Machine.execBfe h d a b uns s
  | .bfi h d a b c => Sys2Proof.Machine.execBfi h d a b c s
  | .popc h d a => Sys2Proof.Machine.execPopc h d a s
  | .clz h d a => Sys2Proof.Machine.execClz h d a s
  | .brev h d a => Sys2Proof.Machine.execBrev h d a s
  | .bsel h d a b c => Sys2Proof.Machine.execBsel h d a b c s
  | .fadd h d a b md => Sys2Proof.Machine.execFadd h d a b md s
  | .fsub h d a b md => Sys2Proof.Machine.execFsub h d a b md s
  | .fmul h d a b md => Sys2Proof.Machine.execFmul h d a b md s
  | .ffma h d a b c md => Sys2Proof.Machine.execFfma h d a b c md s
  | .fmin h d a b => Sys2Proof.Machine.execFmin h d a b s
  | .fmax h d a b => Sys2Proof.Machine.execFmax h d a b s
  | .fclamp h d a b c => Sys2Proof.Machine.execFclamp h d a b c s
  | .fround h d a md => Sys2Proof.Machine.execFround h d a md s
  | .fdot2 h d a b c md bf => Sys2Proof.Machine.execFdot2 h d a b c md bf s
  | .hadd2 h d a b md bf => Sys2Proof.Machine.execHadd2 h d a b md bf s
  | .hmul2 h d a b md bf => Sys2Proof.Machine.execHmul2 h d a b md bf s
  | .hfma2 h d a b c md bf => Sys2Proof.Machine.execHfma2 h d a b c md bf s
  | .hmin2 h d a b bf => Sys2Proof.Machine.execHmin2 h d a b bf s
  | .hmax2 h d a b bf => Sys2Proof.Machine.execHmax2 h d a b bf s
  | .cvt h d a dt st md sat sel => Sys2Proof.Machine.execCvt h d a dt st md sat sel s
  | .cvtq h d a fmt ty b16 => Sys2Proof.Machine.execCvtq h d a fmt ty b16 s
  | .cvtd h d a fmt => Sys2Proof.Machine.execCvtd h d a fmt s
  | .pack h d a b w pos => Sys2Proof.Machine.execPack h d a b w pos s
  | .unpack h d a w pos zext => Sys2Proof.Machine.execUnpack h d a w pos zext s
  | .rcp h d a => Sys2Proof.Machine.execRcp h d a s
  | .rsq h d a => Sys2Proof.Machine.execRsq h d a s
  | .sqrt h d a => Sys2Proof.Machine.execSqrt h d a s
  | .ex2 h d a => Sys2Proof.Machine.execEx2 h d a s
  | .lg2 h d a => Sys2Proof.Machine.execLg2 h d a s
  | .sin h d a => Sys2Proof.Machine.execSin h d a s
  | .cos h d a => Sys2Proof.Machine.execCos h d a s
  | .sincos h d a => Sys2Proof.Machine.execSincos h d a s
  | .tanh h d a => Sys2Proof.Machine.execTanh h d a s
  | .lanex h d a b c mode k => Sys2Proof.Machine.execLanex h d a b c mode k s
  | .poll h d p => Sys2Proof.Machine.execPoll h d p s
  | .kin h d a mode => Sys2Proof.Machine.execKin h d a mode s
  | .fold h d a op sc => Sys2Proof.Machine.execFold h d a op sc s
  | .scan h d a op ex => Sys2Proof.Machine.execScan h d a op ex s
  | .icmp h p a b cond uns => Sys2Proof.Machine.execIcmp h p a b cond uns s
  | .fcmp h p a b cond => Sys2Proof.Machine.execFcmp h p a b cond s
  | .plop h p pa pb pc fn => Sys2Proof.Machine.execPlop h p pa pb pc fn s
  | .sel h d a b pc => Sys2Proof.Machine.execSel h d a b pc s
  | .mov h d a => Sys2Proof.Machine.execMov h d a s
  | .movi h d imm => Sys2Proof.Machine.execMovi h d imm s
  | .movs h d src => Sys2Proof.Machine.execMovs h d src s
  | .pmovP2r h d => Sys2Proof.Machine.execPmovP2r h d s
  | .pmovR2p h a mask => Sys2Proof.Machine.execPmovR2p h a mask s
  | .fclass h p a mask => Sys2Proof.Machine.execFclass h p a mask s
  | .ld h d a off sz sx home => Sys2Proof.Machine.execLd h d a off sz sx home s
  | .st h a off c sz home => Sys2Proof.Machine.execSt h a off c sz home s
  | .ldx h d a off idx fmt geom => Sys2Proof.Machine.execLdx h d a off idx fmt geom s
  | .stx h a off idx c fmt geom sat => Sys2Proof.Machine.execStx h a off idx c fmt geom sat s
  | .lds h d a off sz sx => Sys2Proof.Machine.execLds h d a off sz sx s
  | .sts h a off c sz => Sys2Proof.Machine.execSts h a off c sz s
  | .ldc h d a off sz sx => Sys2Proof.Machine.execLdc h d a off sz sx s
  | .prefetch h a off far => Sys2Proof.Machine.execPrefetch h a off far s
  | .atom h d a off c op scope ord => Sys2Proof.Machine.execAtom h d a off c op scope ord s
  | .atomcas h d a off c w64 scope ord => Sys2Proof.Machine.execAtomcas h d a off c w64 scope ord s
  | .red h a off c op scope ord => Sys2Proof.Machine.execRed h a off c op scope ord s
  | .reddet h a off c op => Sys2Proof.Machine.execReddet h a off c op s
  | .atoms h d a off c op => Sys2Proof.Machine.execAtoms h d a off c op s
  | .atomscas h d a off c w64 => Sys2Proof.Machine.execAtomscas h d a off c w64 s
  | .reds h a off c op => Sys2Proof.Machine.execReds h a off c op s
  | .redmark h => Sys2Proof.Machine.execRedmark h s
  | .fence h kind scope => Sys2Proof.Machine.execFence h kind scope s
  | .wait h ld st cp tl => Sys2Proof.Machine.execWait h ld st cp tl s
  | .binit h n a off => Sys2Proof.Machine.execBinit h n a off s
  | .barrive h n d cnt => Sys2Proof.Machine.execBarrive h n d cnt s
  | .barwait h n a => Sys2Proof.Machine.execBarwait h n a s
  | .barsync h n cnt => Sys2Proof.Machine.execBarsync h n cnt s
  | .qinit h n es a off entries allow => Sys2Proof.Machine.execQinit h n es a off entries allow s
  | .qpush h n a => Sys2Proof.Machine.execQpush h n a s
  | .qpop h n d => Sys2Proof.Machine.execQpop h n d s
  | .qtry h n d p => Sys2Proof.Machine.execQtry h n d p s
  | .chainw h a off c scope ge => Sys2Proof.Machine.execChainw h a off c scope ge s
  | .chainp h a off c scope => Sys2Proof.Machine.execChainp h a off c scope s
  | .tokacq h => Sys2Proof.Machine.execTokacq h s
  | .tokpass h => Sys2Proof.Machine.execTokpass h s
  | .cpl h t a off so sz s2g scope => Sys2Proof.Machine.execCpl h t a off so sz s2g scope s
  | .cpt h t row col td tx s2g scope => Sys2Proof.Machine.execCpt h t row col td tx s2g scope s
  | .cpr h t a td op first count scope => Sys2Proof.Machine.execCpr h t a td op first count scope s
  | .chkwait h td mask first => Sys2Proof.Machine.execChkwait h td mask first s
  | .chktest h p td mask first => Sys2Proof.Machine.execChktest h p td mask first s
  | .tdesc h td a len fmt geom pitch rows cols => Sys2Proof.Machine.execTdesc h td a len fmt geom pitch rows cols s
  | .tfree h td => Sys2Proof.Machine.execTfree h td s
  | .trec h tx a off => Sys2Proof.Machine.execTrec h tx a off s
  | .cpcancel h t => Sys2Proof.Machine.execCpcancel h t s
  | .mma h t a off eng res => Sys2Proof.Machine.execMma h t a off eng res s
  | .mmv h t a off eng res => Sys2Proof.Machine.execMmv h t a off eng res s
  | .mprog h d eng => Sys2Proof.Machine.execMprog h d eng s
  | .accld h t eng td arow acol => Sys2Proof.Machine.execAccld h t eng td arow acol s
  | .accst h t eng td arow acol md sat ty epi => Sys2Proof.Machine.execAccst h t eng td arow acol md sat ty epi s
  | .acczero h eng arow nrows => Sys2Proof.Machine.execAcczero h eng arow nrows s
  | .mabort h eng => Sys2Proof.Machine.execMabort h eng s
  | .gset h g a off => Sys2Proof.Machine.execGset h g a off s
  | .gseed h g a => Sys2Proof.Machine.execGseed h g a s
  | .geval h d g a b => Sys2Proof.Machine.execGeval h d g a b s
  | .coll h t a off slot => Sys2Proof.Machine.execColl h t a off slot s
  | .collwait h mask => Sys2Proof.Machine.execCollwait h mask s
  | .enq h r a off q => Sys2Proof.Machine.execEnq h r a off q s
  | .spawn h p a off prio => Sys2Proof.Machine.execSpawn h p a off prio s
  | .fork h t a off => Sys2Proof.Machine.execFork h t a off s
  | .cancel h t a level b => Sys2Proof.Machine.execCancel h t a level b s
  | .cntrd h d a field free => Sys2Proof.Machine.execCntrd h d a field free s
  | .cntwait h p a b => Sys2Proof.Machine.execCntwait h p a b s
  | .arena h d a fmt geom trk => Sys2Proof.Machine.execArena h d a fmt geom trk s
  | .tropen h r a c lg => Sys2Proof.Machine.execTropen h r a c lg s
  | .trclose h r a free => Sys2Proof.Machine.execTrclose h r a free s
  | .prop h t a => Sys2Proof.Machine.execProp h t a s
  | .trfork h r a b => Sys2Proof.Machine.execTrfork h r a b s
  | .trstat h d a sel => Sys2Proof.Machine.execTrstat h d a sel s
  | .trmark h a off => Sys2Proof.Machine.execTrmark h a off s
  | .nnq h t slot a off => Sys2Proof.Machine.execNnq h t slot a off s
  | .nnwait h mask => Sys2Proof.Machine.execNnwait h mask s
  | .nncancel h slot => Sys2Proof.Machine.execNncancel h slot s
  | .nngraph h r n a off => Sys2Proof.Machine.execNngraph h r n a off s
  | .nngraphBump h r n long => Sys2Proof.Machine.execNngraphBump h r n long s
  | .nngraphDrop h r n long => Sys2Proof.Machine.execNngraphDrop h r n long s
  | .trap h n => Sys2Proof.Machine.execTrap h n s
  | .rti h => Sys2Proof.Machine.execRti h s
  | .csrrd h d csr => Sys2Proof.Machine.execCsrrd h d csr s
  | .csrwr h csr a => Sys2Proof.Machine.execCsrwr h csr a s
  | .tlbinvPage h a off => Sys2Proof.Machine.execTlbinvPage h a off s
  | .tlbinvAll h long => Sys2Proof.Machine.execTlbinvAll h long s
  | .stop h => Sys2Proof.Machine.execStop h s
  | .smark h n a => Sys2Proof.Machine.execSmark h n a s
  | .regroupMerge tid g => Sys2Proof.Machine.execRegroupMerge tid g s
  | .dispatchDecision tenant core => Sys2Proof.Machine.execDispatchDecision tenant core s
  | .queueAging tenant q => Sys2Proof.Machine.execQueueAging tenant q s
  | .taskEnd tid => Sys2Proof.Machine.execTaskEnd tid s
  | .budgetCharge core => Sys2Proof.Machine.execBudgetCharge core s
  | .hangDetect tenant core => Sys2Proof.Machine.execHangDetect tenant core s
  | .oplogReplay tid g => Sys2Proof.Machine.execOplogReplay tid g s
  | .cancelReclaim id => Sys2Proof.Machine.execCancelReclaim id s
  | .forkComplete id => Sys2Proof.Machine.execForkComplete id s
  | .chunkLands id chunk => Sys2Proof.Machine.execChunkLands id chunk s
  | .cprChunkApply id chunk => Sys2Proof.Machine.execCprChunkApply id chunk s
  | .copyComplete id => Sys2Proof.Machine.execCopyComplete id s
  | .kblockComplete core eng => Sys2Proof.Machine.execKblockComplete core eng s
  | .matrixFetchFault core eng => Sys2Proof.Machine.execMatrixFetchFault core eng s
  | .matrixComplete core eng => Sys2Proof.Machine.execMatrixComplete core eng s
  | .accOpComplete core eng => Sys2Proof.Machine.execAccOpComplete core eng s
  | .rotaryTableBuilt tid g => Sys2Proof.Machine.execRotaryTableBuilt tid g s
  | .collectiveComplete id => Sys2Proof.Machine.execCollectiveComplete id s
  | .collTimeout id => Sys2Proof.Machine.execCollTimeout id s
  | .queryStart id => Sys2Proof.Machine.execQueryStart id s
  | .expansionRequest id => Sys2Proof.Machine.execExpansionRequest id s
  | .expansionReply id => Sys2Proof.Machine.execExpansionReply id s
  | .roundMerge id => Sys2Proof.Machine.execRoundMerge id s
  | .queryComplete id => Sys2Proof.Machine.execQueryComplete id s
  | .queryCancelArrival id => Sys2Proof.Machine.execQueryCancelArrival id s
  | .writeApplyAtPort id => Sys2Proof.Machine.execWriteApplyAtPort id s
  | .farlineUpdate upd => Sys2Proof.Machine.execFarlineUpdate upd s
  | .l1WritebackTimeout core line => Sys2Proof.Machine.execL1WritebackTimeout core line s
  | .l1InvalidateTimeout core line => Sys2Proof.Machine.execL1InvalidateTimeout core line s
  | .reddetAccept id => Sys2Proof.Machine.execReddetAccept id s
  | .blockRetire tenant launch => Sys2Proof.Machine.execBlockRetire tenant launch s
  | .horizonApply tenant launch => Sys2Proof.Machine.execHorizonApply tenant launch s
  | .traceRecord tenant => Sys2Proof.Machine.execTraceRecord tenant s
  | .windowForm tenant handle => Sys2Proof.Machine.execWindowForm tenant handle s
  | .taskCommit tenant handle => Sys2Proof.Machine.execTaskCommit tenant handle s
  | .sharingBreak id => Sys2Proof.Machine.execSharingBreak id s
  | .arenaPageBack id => Sys2Proof.Machine.execArenaPageBack id s
  | .migratedPageRestore id => Sys2Proof.Machine.execMigratedPageRestore id s
  | .framePoolRefill tenant => Sys2Proof.Machine.execFramePoolRefill tenant s
  | .migrationPoll tenant => Sys2Proof.Machine.execMigrationPoll tenant s
  | .migOut tenant => Sys2Proof.Machine.execMigOut tenant s
  | .migIn tenant => Sys2Proof.Machine.execMigIn tenant s
  | .migMove tenant => Sys2Proof.Machine.execMigMove tenant s
  | .migDirect tenant => Sys2Proof.Machine.execMigDirect tenant s
  | .migBadop tenant => Sys2Proof.Machine.execMigBadop tenant s
  | .quantumExpiry tenant core => Sys2Proof.Machine.execQuantumExpiry tenant core s
  | .contextSaveComplete tenant core => Sys2Proof.Machine.execContextSaveComplete tenant core s
  | .shadowSwitch tenant core => Sys2Proof.Machine.execShadowSwitch tenant core s
  | .contextRestoreComplete tenant core => Sys2Proof.Machine.execContextRestoreComplete tenant core s
  | .breakpointMatch tid g => Sys2Proof.Machine.execBreakpointMatch tid g s
  | .preciseStop tid => Sys2Proof.Machine.execPreciseStop tid s
  | .samplePoint core sched => Sys2Proof.Machine.execSamplePoint core sched s
  | .sampleRecord core sched => Sys2Proof.Machine.execSampleRecord core sched s
  | .dbgStop tenant => Sys2Proof.Machine.execDbgStop tenant s
  | .dbgResume tenant => Sys2Proof.Machine.execDbgResume tenant s
  | .dbgStep tenant => Sys2Proof.Machine.execDbgStep tenant s
  | .dbgEnd tenant => Sys2Proof.Machine.execDbgEnd tenant s
  | .dbgRead tenant => Sys2Proof.Machine.execDbgRead tenant s
  | .dbgWrite tenant => Sys2Proof.Machine.execDbgWrite tenant s
  | .dbgBadarg tenant => Sys2Proof.Machine.execDbgBadarg tenant s
  | .spillPoolApply tenant => Sys2Proof.Machine.execSpillPoolApply tenant s
  | .hostRingTake tenant n => Sys2Proof.Machine.execHostRingTake tenant n s
  | .priGroupSend tenant => Sys2Proof.Machine.execPriGroupSend tenant s
  | .tenantResetComplete tenant => Sys2Proof.Machine.execTenantResetComplete tenant s
  | .matrixEngineEnable island => Sys2Proof.Machine.execMatrixEngineEnable island s
  | .islandSetOff island => Sys2Proof.Machine.execIslandSetOff island s
  | .islandSetLow island => Sys2Proof.Machine.execIslandSetLow island s
  | .islandSetFull island => Sys2Proof.Machine.execIslandSetFull island s
  | .islandDrainComplete island => Sys2Proof.Machine.execIslandDrainComplete island s
  | .rateChange stack => Sys2Proof.Machine.execRateChange stack s
  | .rateChangeDeferredStart stack => Sys2Proof.Machine.execRateChangeDeferredStart stack s
  | .retrainComplete stack ok => Sys2Proof.Machine.execRetrainComplete stack ok s
  | .loadDataReturn tid g id => Sys2Proof.Machine.execLoadDataReturn tid g id s
  | .constCacheDrop core line => Sys2Proof.Machine.execConstCacheDrop core line s
  | .keyownWrite k v => Sys2Proof.Machine.execKeyownWrite k v s
  | .registerWrite sp off v => Sys2Proof.Machine.execRegisterWrite sp off v s
  | .sriovVfEnable n => Sys2Proof.Machine.execSriovVfEnable n s
  | .pqsetWrite from_ v => Sys2Proof.Machine.execPqsetWrite from_ v s
  | .hqDoorbell tenant n v => Sys2Proof.Machine.execHqDoorbell tenant n v s
  | .cqheadWrite tenant v => Sys2Proof.Machine.execCqheadWrite tenant v s
  | .dqcfgWrite tenant q v => Sys2Proof.Machine.execDqcfgWrite tenant q v s
  | .watchArm tenant w v => Sys2Proof.Machine.execWatchArm tenant w v s
  | .csrWindowWrite tenant csr v => Sys2Proof.Machine.execCsrWindowWrite tenant csr v s
  | .bar2Access tenant off how data => Sys2Proof.Machine.execBar2Access tenant off how data s
  | .commWrite tenant h ix v => Sys2Proof.Machine.execCommWrite tenant h ix v s
  | .frrespWrite tenant v => Sys2Proof.Machine.execFrrespWrite tenant v s
  | .priResponse tenant grp code => Sys2Proof.Machine.execPriResponse tenant grp code s
  | .tenantReset tenant => Sys2Proof.Machine.execTenantReset tenant s
  | .flr tenant => Sys2Proof.Machine.execFlr tenant s
  | .powerMeasure watts => Sys2Proof.Machine.execPowerMeasure watts s
  | .patrolScrub line outcome => Sys2Proof.Machine.execPatrolScrub line outcome s
  | .selfRefreshEntry stack pc => Sys2Proof.Machine.execSelfRefreshEntry stack pc s
  | .priReenable tenant => Sys2Proof.Machine.execPriReenable tenant s
  | .nop => Sys2Proof.Machine.execNop s
  | .nop96 => Sys2Proof.Machine.execNop96 s
  | .nop128 => Sys2Proof.Machine.execNop128 s
  | .fillWord => Sys2Proof.Machine.execFillWord s
  | .coldReset => Sys2Proof.Machine.execColdReset s
  | .standby => Sys2Proof.Machine.execStandby s
  | .islandRampStart => Sys2Proof.Machine.execIslandRampStart s
  | .mapLoad => Sys2Proof.Machine.execMapLoad s
  | .mapCheckComplete => Sys2Proof.Machine.execMapCheckComplete s
  | .modificationRecord => Sys2Proof.Machine.execModificationRecord s
  | .illegalInstr => Sys2Proof.Machine.execIllegalInstr s
  | .mbRdreg => Sys2Proof.Machine.execMbRdreg s
  | .mbWrreg => Sys2Proof.Machine.execMbWrreg s
  | .mbSetroot => Sys2Proof.Machine.execMbSetroot s
  | .mbIdent => Sys2Proof.Machine.execMbIdent s
  | .mbAttest => Sys2Proof.Machine.execMbAttest s
  | .mbStageimg => Sys2Proof.Machine.execMbStageimg s
  | .mbBadop => Sys2Proof.Machine.execMbBadop s

end Sys2Proof.Machine
end

