-- ==== Sys2Proof/Machine/Schedule.lean ====
section
/-! DEFINITION. What one step does (log entries 1 and 2): what every cycle brings, a turn of the script, a group's issue, and
the default schedule, which takes the first turn that changes something from the candidates rotated by the cycle count. -/

namespace Sys2Proof.Machine

open Host

/-! ### What every cycle brings -/

/-- Writes that waited for a write-protect window, of every tenant. -/
def sweepAll (s : State) : State := s.tens.foldl (fun (s : State) p => sweepWpw s p.1) s

/-- Broadcasts of arena generations that were sent 850 cycles ago have reached every core (R396). -/
def genTick (s : State) : State :=
  if s.cores.any (fun p => p.2.lag.any (fun l => decide (l.at_ + 850 ≤ s.cycle))) then
    { s with cores := s.cores.map (fun p => (p.1, { p.2 with lag := p.2.lag.filter (fun l => decide (s.cycle < l.at_ + 850)) })) }
  else s

/-- Host writes of a function that stood behind a parked BAR2 write are made in their order, as far as none must wait again
(R367, R391). -/
def drainPosted : Nat → State → Nat → State
  | 0, s, _ => s
  | n + 1, s, t =>
    match (tenant s t).posted with
    | [] => s
    | i :: is =>
      let s1 := wakeAll (hostWrite (modTenant s t (fun x => { x with posted := [] })) t i)
      if (tenant s1 t).posted.isEmpty then drainPosted n (modTenant s1 t (fun x => { x with posted := is })) t else s
def drainHost (s : State) : State := s.tens.foldl (fun (s : State) p => drainPosted p.2.posted.length s p.1) s

/-- Held writes of the spill pool's CSRs take effect once no DET launch runs (R260). -/
def spillHeld (s : State) : State := s.tens.foldl (fun (s : State) p => (spillApply s p.1).getD s) s

/-- One cycle: the count, the hang detectors, the waits that are over, the ages of the queues, the charges that are due, what
arrives by itself, and at the regrouping points the merges. -/
def tick (s : State) : State :=
  let s1 := settle (hangTick { s with cycle := s.cycle + 1, cur := none })
  regroupAll (chargeDue (ageQueues (spillHeld (drainHost (genTick (sweepAll s1))))))

/-! ### Issue -/

/-- The group issues what stands at its PC. -/
def issueAt (s : State) (tid g : Nat) : Outcome State Fault Refusal :=
  match headOf s tid g with
  | none => .next s
  | some (t, gr, e) =>
    match fetchAt { noteRound (beforeIssue s tid g) t.core gr.sched gr.slot with cur := some (tid, g), last := (tid, g) } t
        e.pc.toNat gr.trap.isNone with
    | .bytes s1 bs =>
      let i := readInstr bs
      if i.any afterFork && !forksTaken s1 tid g then .next (modGroup s1 tid g (fun x => { x with stall := true }))
      else match (match i with
        | some j => exec j s1
        | none => exec .illegalInstr s1) with
      | .next s2 => .next (afterIssue s1 s2 tid g bs i)
      | r => r
    | .serve s1 v => .next (fetchWait s1 t tid g v e.pc.toNat)
    | .fail s1 cause => .next (fetchTrap s1 tid g cause)
    | .hold => .next s

/-- A group named by a turn issues when it is ready and its scheduler's round has come to it (R36). -/
def issue (s : State) (tid g : Nat) : Outcome State Fault Refusal :=
  match task s tid with
  | none => .next s
  | some t =>
    match mget t.groups g with
    | none => .next s
    | some gr => if groupReady s t tid g gr && inTurn s t gr then issueAt s tid g else .next s

/-- A ready group's instruction waits on a late result: the group stalls, and its scheduler passes on (R36). -/
def lateResult (s : State) (tid g : Nat) : State :=
  match headOf s tid g with
  | none => s
  | some (_, _, e) => modGroup s tid g (fun x => { x with stall := true, sel := some e.id })

/-! ### Turns -/

/-- The host's translation of a page under a PASID changes: what the device holds of it is invalidated, as ATS has it. -/
def setAts (s : State) (t : Nat) (pasid : Option Nat) (vpage : Nat) (page : Option (Nat × Bool × Bool)) : State :=
  let k := atsKey pasid vpage
  modTenant (dropTlb s (fun e => e.tenant == t && e.host && e.vpage == vpage) (fun _ => false)) t (fun x =>
    { x with ats := match page with
      | none => mdel x.ats k
      | some p => mput x.ats k p })

/-- An uncorrectable error arises (R31, R409 Table 8). -/
def upsetAt (s : State) (u : Upset) : State :=
  match u with
  | .scratch tid a => modTask s tid (fun t => if a < t.scratchSize then { t with sbad := insertNat (a / 4) t.sbad } else t)
  | .reg tid g n => modGroup s tid g (fun x => { x with rbad := insertNat n x.rbad })
  | .acc tid e k => modTask s tid (fun t => if e then { t with abad1 := insertNat k t.abad1 } else { t with abad0 := insertNat k t.abad0 })
  | .line c k a =>
    let x := core s c
    setCore s c { x with l1 := mmod x.l1 k (fun l =>
      if l.dirty.any (fun p => p.1 / 4 == a / 4) then { l with mbad := insertNat (a / 4) l.mbad } else l) }
  | .query id => { s with queries := mmod s.queries id (fun q =>
      if q.started && q.status.isNone then { q with status := some 0x14 } else q) }

/-- Entry n of a list dropped. -/
def dropNth {α : Type} (l : List α) (n : Nat) : List α := l.take n ++ l.drop (n + 1)

/-- A TLB, or a walker cache, loses an entry (R386). -/
def evictTlb (s : State) (c : Nat) (tile : Bool) (n : Nat) : State :=
  let v := if tile then Via.tile c else Via.core c
  setTlb s v (dropNth (tlbOf s v) n)
def evictWalk (s : State) (d n : Nat) : State :=
  let x := die s d
  setDie s d { x with walks := dropNth x.walks n }

/-- A broadcast reaches a core: the oldest of the job's that has not (R396). -/
def genArrives (s : State) (c t job : Nat) : State :=
  let k := core s c
  match k.lag.find? (fun l => l.tenant == t && l.job == job) with
  | none => s
  | some l => setCore s c { k with lag := k.lag.erase l }

/-- One turn. -/
def takeTurn (x : Turn) (s : State) : Outcome State Fault Refusal :=
  match x with
  | .ev i => exec i s
  | .issue tid g => issue s tid g
  | .late tid g => .next (lateResult s tid g)
  | .hostMem a bs => .next (wakeAll (hostPut s a bs))
  | .ats t p v page => .next (wakeAll (setAts s t p v page))
  | .priAllow t a => .next (wakeAll (modTenant s t (fun x => { x with priA := a })))
  | .islandFail i => .next (wakeAll (islandFails s i))
  | .peer id rank fields elems => .next (peerArrives s id rank fields elems)
  | .hostLoad sp off n => .next (hostLoad s sp off n)
  | .hostFails a n => .next { s with hostBad := s.hostBad ++ [(a, n)] }
  | .upset u => .next (wakeAll (upsetAt s u))
  | .tlbEvict c tile n => .next (evictTlb s c tile n)
  | .walkEvict d n => .next (evictWalk s d n)
  | .genArrive c t job => .next (wakeAll (genArrives s c t job))
  | .arenaClear t root va => .next (clearGranule s t root va (fun w1 => stalePage s t w1))

/-! ### The default schedule -/

/-- The debug commands and the other events of a tenant that need no operand. -/
def tenantUnits (t : Nat) : List Instr :=
  let mem : List Instr := [Instr.framePoolRefill t, Instr.priGroupSend t, Instr.spillPoolApply t, Instr.tenantResetComplete t]
  let mig : List Instr := [Instr.migrationPoll t, Instr.migOut t, Instr.migIn t, Instr.migMove t, Instr.migDirect t,
    Instr.migBadop t]
  let dbg : List Instr := [Instr.dbgStop t, Instr.dbgResume t, Instr.dbgStep t, Instr.dbgEnd t, Instr.dbgRead t,
    Instr.dbgWrite t, Instr.dbgBadarg t]
  mem ++ mig ++ dbg

/-- Events of a context. -/
def ctxEvents (t c : Nat) : List Instr :=
  [Instr.hangDetect t c, Instr.quantumExpiry t c, Instr.contextSaveComplete t c, Instr.shadowSwitch t c,
   Instr.contextRestoreComplete t c]

/-- Events of a tenant. Modifications and records on their way to its traces come before windows and commits. -/
def tenantEvents (s : State) (t : Nat) (x : Tenant) : List Instr :=
  let ds : List Instr := if turnOf s == some t then (upTo 1152).map (fun c => Instr.dispatchDecision t c) else []
  let qs : List Instr := x.queues.map (fun q => Instr.queueAging t q.1)
  let cs : List Instr := x.ctxs.flatMap (fun c => ctxEvents t c.1)
  let ls : List Instr := x.launches.flatMap (fun l => [Instr.blockRetire t l.1, Instr.horizonApply t l.1])
  let trs : List Instr :=
    if x.trq.isEmpty && !s.modq.any (fun m => m.tenant == t) then
      x.traces.flatMap (fun h => [Instr.windowForm t h.1, Instr.taskCommit t h.1])
    else [Instr.traceRecord t]
  let hs : List Instr := (upTo 64).map (fun n => Instr.hostRingTake t n)
  ds ++ qs ++ cs ++ ls ++ trs ++ hs ++ tenantUnits t

/-- Events of a task. -/
def taskEvents (tid : Nat) (t : Task) : List Instr :=
  [Instr.taskEnd tid, Instr.preciseStop tid] ++
  t.groups.flatMap (fun g => [Instr.oplogReplay tid g.1, Instr.breakpointMatch tid g.1, Instr.rotaryTableBuilt tid g.1] ++
    g.2.loads.map (fun l => Instr.loadDataReturn tid g.1 l.1))

/-- Events of a copy. -/
def copyEvents (id : Nat) (o : CopyOp) : List Instr :=
  o.todo.flatMap (fun k => [Instr.chunkLands id k, Instr.cprChunkApply id k]) ++ [Instr.copyComplete id]

/-- Events of a query: a cancellation of it is heeded before a round is merged. -/
def queryEvents (s : State) (id : Nat) : List Instr :=
  [Instr.queryStart id, Instr.expansionRequest id, Instr.expansionReply id, Instr.queryCancelArrival id] ++
  (if (queryCancelArrival s id).isNone then [Instr.roundMerge id] else []) ++ [Instr.queryComplete id]

/-- Events of a core. -/
def coreEvents (c : Nat) (k : Core) : List Instr :=
  [false, true].flatMap (fun e => [Instr.kblockComplete c e, Instr.matrixFetchFault c e, Instr.matrixComplete c e, Instr.accOpComplete c e]) ++
  [Instr.budgetCharge c] ++ (upTo 4).flatMap (fun n => [Instr.samplePoint c n, Instr.sampleRecord c n]) ++
  (k.l1.map (fun p => lineOfKey p.1)).dedup.flatMap (fun l => [Instr.l1WritebackTimeout c l, Instr.l1InvalidateTimeout c l]) ++
  (k.cc.map (fun p => lineOfKey p.1)).dedup.map (fun l => Instr.constCacheDrop c l)

/-- Events of the management complex. -/
def mgmtEvents : List Instr :=
  let ms : List Instr := [Instr.islandRampStart, Instr.mapLoad, Instr.mapCheckComplete]
  let mb : List Instr := [Instr.mbRdreg, Instr.mbWrreg, Instr.mbSetroot, Instr.mbIdent, Instr.mbAttest, Instr.mbStageimg,
    Instr.mbBadop]
  let isl : List Instr := (upTo 24).flatMap (fun i => [Instr.matrixEngineEnable i, Instr.islandSetOff i, Instr.islandSetLow i,
    Instr.islandSetFull i, Instr.islandDrainComplete i])
  let rs : List Instr := (upTo 8).flatMap (fun k => [Instr.rateChange k, Instr.rateChangeDeferredStart k,
    Instr.retrainComplete k true])
  ms ++ mb ++ isl ++ rs

/-- Every event that may be due. -/
def dueEvents (s : State) : List Instr :=
  let ts : List Instr := s.tasks.flatMap (fun p => taskEvents p.1 p.2)
  let cps : List Instr := s.copies.flatMap (fun p => copyEvents p.1 p.2)
  let cos : List Instr := s.cores.flatMap (fun p => coreEvents p.1 p.2)
  let cls : List Instr := s.colls.flatMap (fun p => [Instr.collectiveComplete p.1, Instr.collTimeout p.1])
  let qs : List Instr := s.queries.flatMap (fun p => queryEvents s p.1)
  let ws : List Instr := s.wq.map (fun w => Instr.writeApplyAtPort w.id)
  let fs : List Instr := (upTo 4).map (fun d => Instr.farlineUpdate ⟨d, 0⟩)
  let rs : List Instr := (s.reds.filter (fun r => !r.accepted)).map (fun r => Instr.reddetAccept r.order)
  let ns : List Instr := s.needs.flatMap (fun p => [Instr.sharingBreak p.1, Instr.arenaPageBack p.1, Instr.migratedPageRestore p.1])
  let cs : List Instr := s.cancels.map (fun p => Instr.cancelReclaim p.1)
  let ks : List Instr := s.forks.map (fun p => Instr.forkComplete p.1)
  let es : List Instr := s.tens.flatMap (fun p => tenantEvents s p.1 p.2)
  ts ++ cps ++ cos ++ cls ++ qs ++ ws ++ [Instr.modificationRecord] ++ fs ++ rs ++ ns ++ cs ++ ks ++ es ++ mgmtEvents

/-- Every candidate. -/
def candidates (s : State) : List Turn :=
  ((nextGroup s).toList ++ turnGroups s).map (fun p => Turn.issue p.1 p.2) ++ (dueEvents s).map Turn.ev

/-- A turn that stops the machine or changes its state. -/
def acts (s : State) (x : Turn) : Bool :=
  match takeTurn x s with
  | .next s1 => decide (s1 ≠ s)
  | _ => true

/-- The candidates from place n on, then those before it. -/
def rotated (n : Nat) (xs : List Turn) : List Turn := xs.drop (n % xs.length) ++ xs.take (n % xs.length)

/-- The turn that the default schedule takes. -/
def defaultTurn (s : State) : Option Turn := (rotated s.cycle (candidates s)).find? (acts s)

/-- One step, once the cycle has been counted: the first turn of the script, or the default turn. -/
def act (script : List Turn) (s : State) : Outcome State Fault Refusal :=
  match script with
  | x :: r => takeTurn x { s with script := r }
  | [] =>
    match defaultTurn s with
    | some x => takeTurn x s
    | none => .next s

end Sys2Proof.Machine
end

