-- ==== Sys2Proof/Machine/Step.lean ====
section
/-! DEFINITION. One step, and the state that a fetched word runs in. -/

namespace Sys2Proof.Machine

open Host

/-- One step. -/
def step (s : State) : Outcome State Fault Refusal := act s.script (tick s)

/-- The state in which the next step fetches the instruction whose bits are w: a block resident on core 0 (log entry 4)
whose one entry stands at PC 0, a translation of page 0, and the window that holds the words. -/
def State.withFetchWord (s : State) (nbits w : Nat) : State :=
  let t := Task.start 0 0 0 0 0 0 [0, 0, 0, 0] Origin.blank 1 16 524288 512
  let t1 := { t with groups := [(0, Group.start 0 0 0 0 0)] }
  let s1 := { s with script := [.issue 0 0], tasks := [(0, t1)], serial := s.serial + 1 }
  let s2 := fregSet s1 0 0x40004 0xC0
  let e : TlbEntry := { tenant := 0, root := tenantRoot s 0, vpage := 0, bytes := 2 ^ 12, w0 := 0x173, w1 := 2 ^ 28,
                        shr := false, leaf := 0, host := false }
  let x := core s2 0
  setCore s2 0 { x with tlb := [e], iw := [(1, leBytes 32 (w % 2 ^ nbits))] }

end Sys2Proof.Machine
end

