-- ==== Sys2Proof/Safety.lean ====
section
/-! DEFINITION. What counts as a safe run, and the words that the statements are made of: bundles that may issue, frames,
and the results of the computing instructions written from chapter 09 in operations on words. -/

namespace Sys2Proof

/-- A state from which k steps meet no fault and no refusal. -/
def Safe (k : Nat) (s : Machine.State) : Prop :=
  ∃ s', core.run k s = Host.Outcome.next s'

end Sys2Proof

namespace Sys2Proof.Machine

open Host

/-! ### Bundles -/

/-- `c` is the bundle from which the current group issues an instruction of n bytes with header h (R36, R174). -/
abbrev Issues (s : State) (c : Ctx) (h : Hdr) (n : Nat) : Prop :=
  s.cur = some (c.tid, c.g) ∧ bundleOf s c.tid c.g h n = some c

/-- A register of a lane holds an uncorrectable error (R31, R409 Table 8). -/
def Group.regBad (x : Group) (r : Rg) (lane : Nat) : Bool :=
  match r with
  | .v n => x.rbad.contains (32 * n + lane)
  | .s n => x.rbad.contains (16384 + n)

/-- No lane that forms operands would read a register that holds an uncorrectable error (R31). -/
abbrev NoError (c : Ctx) (uses : List Use) : Prop := ∀ r ∈ uses.flatMap Use.regs, ∀ i ∈ c.lanes, c.grp.regBad r i = false

/-- Every register that an instruction names exists (R68), awaits no load or logged fault (R57, R244), is no pending
token (R78), and holds no uncorrectable error (R31). -/
abbrev Free (c : Ctx) (uses : List Use) : Prop :=
  (∀ r ∈ uses.flatMap Use.regs, r.fits c.task.granules = true ∧ r ∉ c.grp.pendRegs ∧ c.grp.pendTok r = false) ∧ NoError c uses

/-- `c` may execute an instruction that reads and writes registers as named, with at least one active lane. -/
abbrev Executes (s : State) (c : Ctx) (h : Hdr) (n : Nat) (uses : List Use) : Prop :=
  Issues s c h n ∧ Free c uses ∧ c.act ≠ 0

/-! ### Frames -/

/-- A group without its registers and the errors they hold, its predicates, its issuing frontier and the marks that every issue
clears. -/
def Group.rest (x : Group) : Group :=
  { x with v := [], sr := [], pr := [], front := if x.trap.isSome then x.front else [],
           trap := x.trap.map (fun m => { m with hfront := [] }), stall := false, sel := none, exempt := none, steps := 0,
           rbad := [] }

/-- A task without its groups. -/
def Task.rest (t : Task) : Task := { t with groups := [] }

/-- Every byte of memory, of the capacity tier and of host memory reads, under every key, as it did. -/
def SameMemory (s t : State) : Prop := ∀ k a, readPa t k a = readPa s k a

/-- Every CSR of every tenant holds what it held. -/
def SameCsrs (s t : State) : Prop := ∀ n r, csrGet t n r = csrGet s n r

/-- Every other task, and every other group of the task, is as it was. -/
def SameGroups (s t : State) (tid g : Nat) : Prop :=
  (∀ u, u ≠ tid → task t u = task s u) ∧ (∀ j, j ≠ g → group t tid j = group s tid j)

/-- Nothing differs but group g of task `tid` (and the model's own count of serial numbers): every byte of memory, every
CSR, every other group and task is as before. -/
def OnlyGroup (s t : State) (tid g : Nat) : Prop :=
  SameMemory s t ∧ SameCsrs s t ∧ SameGroups s t tid g ∧ (task t tid).map Task.rest = (task s tid).map Task.rest ∧
  { t with tasks := s.tasks, serial := s.serial } = s

/-- What of an entry a program can tell: its lanes, its PC, its priority and whether it waits. -/
def Entry.view (e : Entry) : Nat × VA × Lanes × Byte × Bool := (e.id, e.pc, e.mask, e.prio, e.blk.isSome)

/-- No register holds an uncorrectable error that it did not hold. -/
def NoNewErrors (old new : Group) : Prop := ∀ n ∈ new.rbad, n ∈ old.rbad

/-- The bundle's entry stands past the instruction, every other entry stands where it stood (R34, R174), and the group's
other state is as before. -/
def Moved (c : Ctx) (x : Group) : Prop :=
  x.live.map Entry.view =
    (c.grp.live.map (fun e => if e.id = c.ent.id then { e with pc := c.ent.pc + BitVec.ofNat 57 c.len } else e)).map Entry.view ∧
  NoNewErrors c.grp x
def Advanced (c : Ctx) (x : Group) : Prop := Moved c x ∧ x.rest = c.grp.rest

/-- A bundle is replaced: each of its lanes stands in an entry at the PC `tgt` gives it, every entry is either one of the
others as it was or holds lanes of the bundle only, at their PC and with the priority that `prio` gives the entry's lanes,
and no other entry is lost (R34, R197, R199). The third case, two entries with one identity, is one that no run reaches. -/
def Splits (c : Ctx) (x : Group) (tgt : Nat → VA) (prio : Lanes → Byte) : Prop :=
  (∀ i, i < 32 → has c.ent.mask i → ∃ e ∈ x.live, has e.mask i ∧ e.pc = tgt i) ∧
  (∀ e ∈ x.live, (∃ f ∈ c.grp.live, f.id ≠ c.ent.id ∧ e.view = f.view) ∨
    (e.prio = prio e.mask ∧ ∀ i, i < 32 → has e.mask i → has c.ent.mask i ∧ e.pc = tgt i) ∨
    (∃ f ∈ c.grp.live, f ≠ c.ent ∧ f.id = c.ent.id ∧ e.mask = f.mask)) ∧
  (∀ f ∈ c.grp.live, f.id ≠ c.ent.id → ∃ e ∈ x.live, e.view = f.view) ∧
  NoNewErrors c.grp x

/-- An instruction of bundle c answers a next state in which its bundle has advanced, its group is as `P` says, and nothing
else differs. -/
def Leaves (s : State) (c : Ctx) (o : Outcome State Fault Refusal) (P : Group → Prop) : Prop :=
  ∃ t x, o = .next t ∧ OnlyGroup s t c.tid c.g ∧ group t c.tid c.g = some x ∧ P x ∧ Advanced c x

/-- The group has taken a trap (R60 to R63): the cause and the place saved, a handler frontier of one entry at HVEC with the
bundle's lanes and PRIO 0, and the user frontier as it was without those lanes. Registers and predicates are untouched. -/
def TrapTaken (s : State) (c : Ctx) (x : Group) (cause : Byte) (lanes : Lanes) (addr : VA) : Prop :=
  x.ecause = cause ∧ x.epc = c.ent.pc ∧ x.emask = lanes ∧ x.ebmask = c.ent.mask ∧ x.eaddr = addr ∧
  (∃ m e, x.trap = some m ∧ m.hfront = [e] ∧ e.pc = BitVec.ofNat 57 (hvec s c.task.tenant) ∧ e.mask = c.ent.mask ∧ e.prio = 0 ∧
    e.blk = none ∧ e.yld = false ∧ m.bundle = c.ent.mask ∧ m.prio = c.ent.prio ∧ m.rti = 0) ∧
  (x.front.map (fun e => (e.id, e.pc, e.mask, e.prio)) =
    ((c.grp.front.map (fun e => (e.id, e.pc, e.mask &&& ~~~c.ent.mask, e.prio))).filter (fun q => q.2.2.1 != 0))) ∧
  (∀ r i, x.reg r i = c.grp.reg r i) ∧ (∀ p, x.pred p = c.grp.pred p) ∧
  x.toks = c.grp.toks ∧ x.loads = c.grp.loads ∧ x.stores = c.grp.stores ∧ x.oplog = c.grp.oplog ∧ x.seq = c.grp.seq ∧
  x.rbad = c.grp.rbad

/-- An instruction of bundle c answers the state in which its group has taken a trap, and nothing else differs. -/
def Traps (s : State) (c : Ctx) (o : Outcome State Fault Refusal) (cause : Byte) (lanes : Lanes) (addr : VA) : Prop :=
  ∃ t x, o = .next t ∧ OnlyGroup s t c.tid c.g ∧ group t c.tid c.g = some x ∧ TrapTaken s c x cause lanes addr

/-- The lane whose operands form the result of a lane (R172). -/
def Ctx.src (c : Ctx) (lane : Nat) : Nat := if c.h.u then lowest c.act else lane

/-- The n registers from field d hold `val`: a vector register in the active lanes, a scalar register once; every other
register of every lane holds what it held (R171 to R174). -/
def Writes (c : Ctx) (u : Bool) (d : Reg) (n : Nat) (val : Nat → Nat → Word) (x : Group) : Prop :=
  ∀ r lane, lane < 32 → x.reg r lane =
    match (List.range n).find? (fun k => fieldRg u d k == r) with
    | some k =>
      match r with
      | .v _ => if has c.act lane then val (c.src lane) k else c.grp.reg r lane
      | .s _ => val (lowest c.act) k
    | none => c.grp.reg r lane

/-- Every register holds what it held. -/
def SameRegs (c : Ctx) (x : Group) : Prop := ∀ r lane, lane < 32 → x.reg r lane = c.grp.reg r lane
/-- Every predicate holds what it held. -/
def SamePreds (c : Ctx) (x : Group) : Prop := ∀ p, x.pred p = c.grp.pred p

/-- Predicate p holds `val` in the active lanes; every other predicate, and p in the other lanes, holds what it held; pt is
not written. -/
def WritesPred (c : Ctx) (p : Nat) (val : Nat → Bool) (x : Group) : Prop :=
  ∀ q lane, lane < 32 → has (x.pred q) lane =
    if q = p ∧ q ≠ 7 ∧ has c.act lane then val (c.src lane) else has (c.grp.pred q) lane

/-- What an instruction that only computes reads and writes: header, length, registers read, destination field, number of
destination registers, and the word of register k formed at a lane. -/
structure Calc where
  h : Hdr
  len : Nat
  reads : List Use
  d : Reg
  n : Nat
  val : Ctx → State → Nat → Nat → Word

/-- The same for an instruction that writes a predicate. -/
structure PCalc where
  h : Hdr
  len : Nat
  reads : List Use
  p : BitVec 3
  val : Ctx → Nat → Bool

/-- One source register, one destination register. -/
def calc1 (h : Hdr) (d a : Reg) (f : Word → Word) : Calc :=
  { h := h, len := 8, reads := [⟨h.u, a, 1⟩], d := d, n := 1, val := fun c _ i _ => f (c.ra a 0 i) }

/-- Sources A and B: `rb` says how B is read. -/
def calc2 (rb : Ctx → SrcB → Nat → Word) (h : Hdr) (d a : Reg) (b : SrcB) (f : Word → Word → Word) : Calc :=
  { h := h, len := b.len, reads := ⟨h.u, a, 1⟩ :: useB h.u b 1, d := d, n := 1,
    val := fun c _ i _ => f (c.ra a 0 i) (rb c b i) }

/-- Sources A, B and C. -/
def calc3 (rb : Ctx → SrcB → Nat → Word) (rc : Ctx → SrcC → Nat → Word) (h : Hdr) (d a : Reg) (b : SrcB) (x : SrcC)
    (f : Word → Word → Word → Word) : Calc :=
  { h := h, len := b.len, reads := ⟨h.u, a, 1⟩ :: (useB h.u b 1 ++ useC h.u x 1), d := d, n := 1,
    val := fun c _ i _ => f (c.ra a 0 i) (rb c b i) (rc c x i) }

/-! ### Integer (R201, R202) -/

/-- A field read unsigned or in two's complement. -/
def intOf {w : Nat} (uns : Bool) (x : BitVec w) : Int := if uns then (x.toNat : Int) else x.toInt

/-- A mathematical result wrapped modulo 2^32, or under `.sat` clamped to the range of its type. -/
def toWord (uns sat : Bool) (z : Int) : Word :=
  if sat then
    if uns then (if z < 0 then 0 else if 0xFFFFFFFF < z then 0xFFFFFFFF else BitVec.ofInt 32 z)
    else if z < -0x80000000 then 0x80000000 else if 0x7FFFFFFF < z then 0x7FFFFFFF else BitVec.ofInt 32 z
  else BitVec.ofInt 32 z

/-- Bits 63:32 of the exact 64-bit product. -/
def highProduct (uns : Bool) (x y : Word) : Word :=
  if uns then (x.setWidth 64 * y.setWidth 64).extractLsb' 32 32 else (x.signExtend 64 * y.signExtend 64).extractLsb' 32 32

/-- The smaller and the larger of two words. -/
def lesser (uns : Bool) (x y : Word) : Word := if intOf uns y < intOf uns x then y else x
def larger (uns : Bool) (x y : Word) : Word := if intOf uns x < intOf uns y then y else x

/-- The absolute value of a signed word. -/
def magnitude (sat : Bool) (x : Word) : Word :=
  if x = 0x80000000 then (if sat then 0x7FFFFFFF else 0x80000000) else if x.msb then -x else x

/-- The sum of products of n fields of w bits. -/
def dotOf (w n : Nat) (ua ub : Bool) (x y : Word) : Int :=
  (List.range n).foldl (fun t k => t + intOf ua (x.extractLsb' (w * k) w) * intOf ub (y.extractLsb' (w * k) w)) 0

/-- Table 2 of chapter 09, but for `iaddc`. -/
def integerCalc : Instr → Option Calc
  | .iadd h d a b uns sat => some (calc2 Ctx.b h d a b (fun x y => toWord uns sat (intOf uns x + intOf uns y)))
  | .isub h d a b uns sat => some (calc2 Ctx.b h d a b (fun x y => toWord uns sat (intOf uns x - intOf uns y)))
  | .imul h d a b uns sat => some (calc2 Ctx.b h d a b (fun x y => toWord uns sat (intOf uns x * intOf uns y)))
  | .imulhi h d a b uns => some (calc2 Ctx.b h d a b (highProduct uns))
  | .imad h d a b c uns sat =>
    some (calc3 Ctx.b Ctx.c h d a b c (fun x y z => toWord uns sat (intOf uns x * intOf uns y + intOf uns z)))
  | .imin h d a b uns => some (calc2 Ctx.b h d a b (lesser uns))
  | .imax h d a b uns => some (calc2 Ctx.b h d a b (larger uns))
  | .iabs h d a sat => some (calc1 h d a (magnitude sat))
  | .lea h d a b sh => some (calc2 Ctx.b h d a b (fun x y => x + y * BitVec.twoPow 32 sh.toNat))
  | .idot4 h d a b c ua sat ub =>
    some (calc3 Ctx.b Ctx.c h d a b c (fun x y z => toWord false sat (z.toInt + dotOf 8 4 ua ub x y)))
  | .idot8 h d a b c ua sat ub =>
    some (calc3 Ctx.b Ctx.c h d a b c (fun x y z => toWord false sat (z.toInt + dotOf 4 8 ua ub x y)))
  | .iclamp h d a b c uns => some (calc3 Ctx.b Ctx.c h d a b c (fun x y z => lesser uns (larger uns x y) z))
  | _ => none

/-! ### Logic and bit (R203, R204) -/

/-- The eight products of an 8-bit truth table, joined. -/
def truthWord (fn : Byte) (x y z : Word) : Word :=
  (List.range 8).foldl (fun w k =>
    if fn.getLsbD k then
      w ||| ((if k % 2 = 1 then x else ~~~x) &&& (if k / 2 % 2 = 1 then y else ~~~y) &&& (if k / 4 = 1 then z else ~~~z))
    else w) 0

/-- The lowest n bits set. -/
def onesBelow (n : Nat) : Word := BitVec.ofNat 32 (2 ^ n - 1)

/-- Position and effective length of a control word. -/
def ctlPos (ctl : Word) : Nat := (ctl &&& 0xFF).toNat
def ctlLen (ctl : Word) : Nat := if ctlPos ctl < 32 then min ((ctl >>> 8) &&& 0xFF).toNat (32 - ctlPos ctl) else 0

/-- A field taken out, and a field put in. -/
def takeField (uns : Bool) (x ctl : Word) : Word :=
  let n := ctlLen ctl
  if n = 0 then 0
  else if uns then (x >>> ctlPos ctl) &&& onesBelow n
  else (x <<< (32 - ctlPos ctl - n)).sshiftRight (32 - n)
def putField (x ctl z : Word) : Word :=
  let m := onesBelow (ctlLen ctl) <<< ctlPos ctl
  (z &&& ~~~m) ||| ((x <<< ctlPos ctl) &&& m)

/-- Result byte i of `bsel`. -/
def chosenByte (x sel z : Word) (i : Nat) : Byte :=
  let ctl : Byte := sel.extractLsb' (8 * i) 8
  let src : Byte := (z ++ x).extractLsb' (8 * (ctl &&& 7).toNat) 8
  if ctl.msb then 0 else if ctl.getLsbD 6 then (if src.msb then 0xFF else 0) else src

/-- The number of leading zeros; 32 for 0. -/
def leadingZeros (x : Word) : Nat := if x = 0 then 32 else 31 - Nat.log2 x.toNat

/-- Table 3 of chapter 09. -/
def logicCalc : Instr → Option Calc
  | .and h d a b => some (calc2 Ctx.b h d a b (fun x y => x &&& y))
  | .or h d a b => some (calc2 Ctx.b h d a b (fun x y => x ||| y))
  | .xor h d a b => some (calc2 Ctx.b h d a b (fun x y => x ^^^ y))
  | .bool3 h d a b c fn => some (calc3 Ctx.b Ctx.c h d a b c (truthWord fn))
  | .shl h d a b => some (calc2 Ctx.b h d a b (fun x y => x <<< y.toNat))
  | .shr h d a b => some (calc2 Ctx.b h d a b (fun x y => x >>> y.toNat))
  | .sar h d a b => some (calc2 Ctx.b h d a b (fun x y => x.sshiftRight y.toNat))
  | .rot h d a b right =>
    some (calc2 Ctx.b h d a b (fun x y =>
      let n := y.toNat % 32
      if right then (x >>> n) ||| (x <<< (32 - n)) else (x <<< n) ||| (x >>> (32 - n))))
  | .bfe h d a b uns => some (calc2 Ctx.b h d a b (takeField uns))
  | .bfi h d a b c => some (calc3 Ctx.b Ctx.c h d a b c putField)
  | .popc h d a => some (calc1 h d a (fun x => BitVec.ofNat 32 ((List.range 32).countP (fun i => x.getLsbD i))))
  | .clz h d a => some (calc1 h d a (fun x => BitVec.ofNat 32 (leadingZeros x)))
  | .brev h d a => some (calc1 h d a BitVec.reverse)
  | .bsel h d a b c => some (calc3 Ctx.b Ctx.c h d a b c (fun x y z =>
      chosenByte x y z 3 ++ chosenByte x y z 2 ++ chosenByte x y z 1 ++ chosenByte x y z 0))
  | _ => none

/-! ### Floating point (R205 to R211) -/

/-- The smaller or the larger of two codes of a format: -0 below +0, a single NaN gives way, two NaNs give the canonical one
(R206). -/
def pick (f : FloatFmt) (max : Bool) (a b : Nat) : Nat :=
  let x := decodeF f a
  let y := decodeF f b
  if x = .nan then (if y = .nan then f.cnan else b)
  else if y = .nan then a
  else if (if max then cmpZ y x = .gt else cmpZ y x = .lt) then b else a

def pickW (max : Bool) (a b : Word) : Word := BitVec.ofNat 32 (pick fp32 max a.toNat b.toNat)

/-- The value of half k of a word, and two halves joined (R207). -/
def halfPart (bf : Bool) (w : Word) (k : Nat) : FV := decodeF (halfFmt bf) (w.extractLsb' (16 * k) 16).toNat
def joinHalves (lo hi : Nat) : Word := BitVec.ofNat 16 hi ++ BitVec.ofNat 16 lo

/-- Each half formed exactly and rounded once. -/
def perHalf (bf : Bool) (md : Rm) (f : Nat → FV) : Word :=
  joinHalves (roundF (halfFmt bf) md false (f 0)) (roundF (halfFmt bf) md false (f 1))
def perHalfPick (bf max : Bool) (x y : Word) : Word :=
  joinHalves (pick (halfFmt bf) max (x.extractLsb' 0 16).toNat (y.extractLsb' 0 16).toNat)
    (pick (halfFmt bf) max (x.extractLsb' 16 16).toNat (y.extractLsb' 16 16).toNat)

/-- Table 4 of chapter 09: the exact result, rounded once. -/
def floatCalc : Instr → Option Calc
  | .fadd h d a b md => some (calc2 Ctx.bf h d a b (fun x y => toF32 md (sumV md [f32 x, f32 y])))
  | .fsub h d a b md => some (calc2 Ctx.bf h d a b (fun x y => toF32 md (sumV md [f32 x, (f32 y).neg])))
  | .fmul h d a b md => some (calc2 Ctx.bf h d a b (fun x y => toF32 md (mulV (f32 x) (f32 y))))
  | .ffma h d a b c md =>
    some (calc3 Ctx.bf Ctx.cf h d a b c (fun x y z => toF32 md (sumV md [mulV (f32 x) (f32 y), f32 z])))
  | .fmin h d a b => some (calc2 Ctx.bf h d a b (pickW false))
  | .fmax h d a b => some (calc2 Ctx.bf h d a b (pickW true))
  | .fclamp h d a b c => some (calc3 Ctx.bf Ctx.cf h d a b c (fun x y z => pickW false (pickW true x y) z))
  | .fround h d a md => some (calc1 h d a (f32round md))
  | .fdot2 h d a b c md bf => some (calc3 (fun c x i => c.bh bf x i) Ctx.cf h d a b c (fun x y z =>
      toF32 md (sumV md [f32 z, mulV (halfPart bf x 0) (halfPart bf y 0), mulV (halfPart bf x 1) (halfPart bf y 1)])))
  | _ => none

/-- The lanes quantised together with a lane (R209). -/
def blockMates (c : Ctx) (b16 : Bool) (i : Nat) : List Nat :=
  (List.range 32).filter (fun j => has c.act j && (!b16 || j / 16 == i / 16))

/-- Element `pos` of w bits of a word replaced, and taken out (R211). -/
def elemPut (w pos : Nat) (x y : Word) : Word :=
  (y &&& ~~~(onesBelow w <<< (w * pos))) ||| ((x &&& onesBelow w) <<< (w * pos))
def elemTake (w pos : Nat) (zext : Bool) (x : Word) : Word :=
  if zext then (x >>> (w * pos)) &&& onesBelow w else (x <<< (32 - w - w * pos)).sshiftRight (32 - w)

/-- Table 5 of chapter 09 and R208 to R211. -/
def halfCalc : Instr → Option Calc
  | .hadd2 h d a b md bf => some (calc2 (fun c x i => c.bh bf x i) h d a b
      (fun x y => perHalf bf md (fun k => sumV md [halfPart bf x k, halfPart bf y k])))
  | .hmul2 h d a b md bf => some (calc2 (fun c x i => c.bh bf x i) h d a b
      (fun x y => perHalf bf md (fun k => mulV (halfPart bf x k) (halfPart bf y k))))
  | .hfma2 h d a b c md bf => some (calc3 (fun c x i => c.bh bf x i) (fun c x i => c.ch bf x i) h d a b c
      (fun x y z => perHalf bf md (fun k => sumV md [mulV (halfPart bf x k) (halfPart bf y k), halfPart bf z k])))
  | .hmin2 h d a b bf => some (calc2 (fun c x i => c.bh bf x i) h d a b (perHalfPick bf false))
  | .hmax2 h d a b bf => some (calc2 (fun c x i => c.bh bf x i) h d a b (perHalfPick bf true))
  | .cvt h d a dt st md sat sel => some
      { h := h, len := 12, reads := [⟨h.u, a, 1⟩], d := d, n := 1,
        val := fun c _ i _ => convert dt st md sat ((c.ra a 0 i >>> (sel.toNat * st.width)) &&& onesBelow st.width).toNat }
  | .cvtq h d a fmt ty b16 => some
      { h := h, len := 8, reads := [⟨h.u, a, 1⟩], d := d, n := 1,
        val := fun c _ i _ =>
          let scale := blockScale fmt ty.toNat ((blockMates c b16 i).map (fun j => f32 (c.ra a 0 j)))
          BitVec.ofNat 32 (blockCode fmt scale (f32 (c.ra a 0 i)) + 256 * scale) }
  | .cvtd h d a fmt => some (calc1 h d a (fun x =>
      elemWord fmt ((x >>> 8) &&& 0xFF).toNat (x &&& onesBelow (elemBits fmt)).toNat))
  | .pack h d a b w pos => some (calc2 Ctx.b h d a b (elemPut w.bits pos.toNat))
  | .unpack h d a w pos zext => some (calc1 h d a (elemTake w.bits pos.toNat zext))
  | _ => none

/-- Table 7 of chapter 09: fixed functions of the input bits. -/
def sfuCalc : Instr → Option Calc
  | .rcp h d a => some (calc1 h d a sfuRcp)
  | .rsq h d a => some (calc1 h d a sfuRsq)
  | .sqrt h d a => some (calc1 h d a sfuSqrt)
  | .ex2 h d a => some (calc1 h d a sfuEx2)
  | .lg2 h d a => some (calc1 h d a sfuLg2)
  | .sin h d a => some (calc1 h d a sfuSin)
  | .cos h d a => some (calc1 h d a sfuCos)
  | .sincos h d a => some
      { h := h, len := 8, reads := [⟨h.u, a, 1⟩], d := d, n := 2,
        val := fun c _ i k => if k = 0 then sfuSin (c.ra a 0 i) else sfuCos (c.ra a 0 i) }
  | .tanh h d a => some (calc1 h d a sfuTanh)
  | _ => none

/-! ### Lanes (R214 to R218) -/

/-- The source lane of an exchange within segments of w lanes (R215). -/
def exchangeSrc (mode : XMode) (w i j : Nat) : Nat :=
  let seg := i / w * w
  match mode with
  | .at => seg + j % w
  | .rotinc => seg + (i % w + w - j % w) % w
  | .rotdec => seg + (i % w + j % w) % w
  | .flip => seg + ((BitVec.ofNat 5 (i % w)) ^^^ (BitVec.ofNat 5 (j % w))).toNat

/-- The active lanes whose word is a lane's own (R217). -/
def sameWord (c : Ctx) (a : Reg) (i : Nat) : List Nat :=
  (List.range 32).filter (fun j => has c.act j && c.ra a 0 j == c.ra a 0 i)

/-- The set of a list of lanes. -/
def laneSet (l : List Nat) : Lanes := maskOf (fun i => l.contains i)

/-- Active lanes whose predicate is 1 (R216). -/
def pollLanes (c : Ctx) (p : PSrc) : List Nat := (List.range 32).filter (fun i => has c.act i && c.p p i)

/-- The words that enter a fold or a scan (R218): a lane that is not active supplies the identity. -/
def entering (c : Ctx) (a : Reg) (op : ROp) (i : Nat) : Word := if has c.act i then c.ra a 0 i else ropIdentity op

/-- The tree of R114: lane i takes up lane i + d for d = 16, 8, 4, 2, 1. -/
def foldFrom (op : ROp) (x : Nat → Word) : Nat → Nat → Word
  | 0, i => x i
  | k + 1, i => ropApply op (foldFrom op x k i) (foldFrom op x k (i + 16 / 2 ^ k))

/-- The steps of R115: after k steps lane i holds what lane i - 2^(k-1) and lane i held. -/
def scanFrom (op : ROp) (x : Nat → Word) : Nat → Nat → Word
  | 0, i => x i
  | k + 1, i => if i < 2 ^ k then scanFrom op x k i else ropApply op (scanFrom op x k (i - 2 ^ k)) (scanFrom op x k i)

/-- Lane instructions with a word result in a vector register. -/
def laneCalc : Instr → Option Calc
  | .lanex h d a b x mode k => some
      { h := h, len := b.len, reads := ⟨h.u, a, 1⟩ :: (useB h.u b 1 ++ useC h.u x 1), d := d, n := 1,
        val := fun c _ i _ =>
          let src := exchangeSrc mode (32 / 2 ^ k.toNat) i (c.b b i).toNat
          if has c.act src then c.ra a 0 src else c.c x i }
  | .poll h (.vec .mask d) p => some
      { h := h, len := 8, reads := [], d := d, n := 1, val := fun c _ _ _ => laneSet (pollLanes c p) }
  | .poll h (.vec .count d) p => some
      { h := h, len := 8, reads := [], d := d, n := 1, val := fun c _ _ _ => BitVec.ofNat 32 (pollLanes c p).length }
  | .kin h d a mode => some
      { h := h, len := 8, reads := [⟨h.u, a, 1⟩], d := d, n := 1,
        val := fun c _ i _ =>
          match mode with
          | .mask => laneSet (sameWord c a i)
          | .lead => BitVec.ofNat 32 ((sameWord c a i).headD 0)
          | .rank => BitVec.ofNat 32 ((sameWord c a i).countP (fun j => decide (j < i)))
          | .alleq => if laneSet (sameWord c a i) = c.act then c.act else 0 }
  | .fold h d a op false => some
      { h := h, len := 8, reads := [⟨h.u, a, 1⟩], d := d, n := 1, val := fun c _ _ _ => foldFrom op (entering c a op) 5 0 }
  | .scan h d a op ex => some
      { h := h, len := 8, reads := [⟨h.u, a, 1⟩], d := d, n := 1,
        val := fun c _ i _ =>
          if ex then (if i = 0 then ropIdentity op else scanFrom op (entering c a op) 5 (i - 1))
          else scanFrom op (entering c a op) 5 i }
  | _ => none

/-! ### Compare, select and move (R219 to R222) -/

/-- An FP32 comparison: with a NaN only `ne` and `nan` hold; -0 equals +0. -/
def fcompare (cond : Cond) (a b : Word) : Bool :=
  if f32 a = .nan ∨ f32 b = .nan then cond == .ne || cond == .nan
  else
    match cond, cmpV (f32 a) (f32 b) with
    | .eq, o => o == .eq
    | .ne, o => o != .eq
    | .lt, o => o == .lt
    | .le, o => o == .lt || o == .eq
    | .gt, o => o == .gt
    | .ge, o => o == .gt || o == .eq
    | .num, _ => true
    | .nan, _ => false

/-- An integer comparison of words. -/
def icompare (cond : Cond) (uns : Bool) (a b : Word) : Bool :=
  match cond with
  | .eq => a == b
  | .ne => a != b
  | .lt => if uns then a.ult b else a.slt b
  | .le => if uns then a.ule b else a.sle b
  | .gt => if uns then b.ult a else b.slt a
  | .ge => if uns then b.ule a else b.sle a
  | .num => false
  | .nan => false

/-- Bit a + 2 b + 4 c of a truth table. -/
def truthBit (fn : Byte) (a b c : Bool) : Bool :=
  fn.getLsbD ((if a then 1 else 0) + (if b then 2 else 0) + (if c then 4 else 0))

/-- Instructions that write one predicate. -/
def predCalc : Instr → Option PCalc
  | .icmp h p a b cond uns => some
      { h := h, len := b.len, reads := ⟨h.u, a, 1⟩ :: useB h.u b 1, p := p,
        val := fun c i => icompare cond uns (c.ra a 0 i) (c.b b i) }
  | .fcmp h p a b cond => some
      { h := h, len := b.len, reads := ⟨h.u, a, 1⟩ :: useB h.u b 1, p := p,
        val := fun c i => fcompare cond (c.ra a 0 i) (c.bf b i) }
  | .plop h p pa pb pc fn => some
      { h := h, len := 8, reads := [], p := p, val := fun c i => truthBit fn (c.p pa i) (c.p pb i) (c.p pc i) }
  | .fclass h p a mask => some
      { h := h, len := 8, reads := [⟨h.u, a, 1⟩], p := p, val := fun c i => mask.getLsbD (classBit (c.ra a 0 i)) }
  | .poll h (.pred m q) p => some
      { h := h, len := 8, reads := [], p := q,
        val := fun c _ =>
          match m with
          | .some => decide (0 < (pollLanes c p).length)
          | .every => (List.range 32).all (fun i => !has c.act i || c.p p i)
          | .same => (List.range 32).all (fun i => (List.range 32).all (fun j =>
              !(has c.act i && has c.act j) || c.p p i == c.p p j)) }
  | _ => none

/-- Table 10 of chapter 09. -/
def sourceValue (c : Ctx) (s : State) (src : SReg) (lane : Nat) : Nat :=
  match src with
  | .laneid => lane
  | .groupid => c.g
  | .ngroups => c.task.ngrp
  | .blockid => c.task.blk
  | .nblocks => c.task.org.nblk
  | .actmask => c.act.toNat
  | .bndmask => c.ent.mask.toNat
  | .core => virtCore s c.task.core + 256 * clusterOf c.task.core
  | .cyclo => s.cycle
  | .cychi => c.grp.cychi.toNat
  | .sbeg => (streamShare c.task.org c.task.blk).1
  | .send => (streamShare c.task.org c.task.blk).2.1
  | .sfix => (streamShare c.task.org c.task.blk).2.2
  | .arg0 => (c.task.args.getD 0 0).toNat
  | .arg1 => (c.task.args.getD 1 0).toNat
  | .arg2 => (c.task.args.getD 2 0).toNat
  | .arg3 => (c.task.args.getD 3 0).toNat
  | .launchcnt => c.task.org.launchcnt
  | .phasecnt => c.task.org.phasecnt
  | .jobcnt => c.task.org.jobcnt
  | .tlablo => taskLabel s c.task
  | .tlabhi => taskLabel s c.task / 2 ^ 32
  | .tenant => c.task.tenant

/-- Selection and moves; `movs cyclo` has its own statement. -/
def moveCalc : Instr → Option Calc
  | .sel h d a b pc => some
      { h := h, len := b.len, reads := ⟨h.u, a, 1⟩ :: useB h.u b 1, d := d, n := 1,
        val := fun c _ i _ => if c.p pc i then c.ra a 0 i else c.b b i }
  | .mov h d a => some (calc1 h d a (fun x => x))
  | .movi h d w => some { h := h, len := 12, reads := [], d := d, n := 1, val := fun _ _ _ _ => w }
  | .pmovP2r h d => some
      { h := h, len := 8, reads := [], d := d, n := 1,
        val := fun c _ i _ => BitVec.ofNat 32 (((List.range 7).map (fun k => if has (c.grp.pred k) i then 2 ^ k else 0)).sum) }
  | .movs h d src => if src = .cyclo then none else some
      { h := h, len := 8, reads := [], d := d, n := 1, val := fun c s i _ => BitVec.ofNat 32 (sourceValue c s src i) }
  | _ => none

/-! ### Control (R197 to R200) -/

/-- A branch: registers read and written, the target of an active lane, whether it is sent to the branch's target, the two
priorities, and the words that its destination field takes. -/
structure Jump where
  h : Hdr
  reads : List Use
  d : Reg
  n : Nat
  tgt : Ctx → Nat → VA
  sent : Ctx → Nat → Bool
  tp : Byte
  fp : Byte
  val : Ctx → Nat → Nat → Word

/-- A PC-relative target, and one taken from a pair, of which bits 56:0 count. -/
def relTarget (c : Ctx) (off : Word) : VA := c.ent.pc + off.signExtend 57
def pairTarget (c : Ctx) (a : Reg) (off : Word) (i : Nat) : VA :=
  (((c.ra a 1 (c.src i)).extractLsb' 0 25 ++ c.ra a 0 (c.src i) : BitVec 57)) + off.signExtend 57

/-- The words of the address just past a 12-byte instruction. -/
def linkWord (c : Ctx) (k : Nat) : Word := ((c.ent.pc + 12) >>> (32 * k)).setWidth 32

/-- The branches of R197. -/
def jumpOf : Instr → Option Jump
  | .bra h off tp fp => some { h := h, reads := [], d := 0, n := 0, tgt := fun c _ => relTarget c off, sent := fun _ _ => true,
                               tp := tp, fp := fp, val := fun _ _ _ => 0 }
  | .brx h a off tp fp => some { h := h, reads := [⟨h.u, a, 2⟩], d := 0, n := 0, tgt := fun c i => pairTarget c a off i,
                                 sent := fun _ _ => true, tp := tp, fp := fp, val := fun _ _ _ => 0 }
  | .call h d off tp fp => some { h := h, reads := [], d := d, n := 2, tgt := fun c _ => relTarget c off,
                                  sent := fun _ _ => true, tp := tp, fp := fp, val := fun c _ k => linkWord c k }
  | .callx h d a off tp fp => some { h := h, reads := [⟨h.u, a, 2⟩], d := d, n := 2, tgt := fun c i => pairTarget c a off i,
                                     sent := fun _ _ => true, tp := tp, fp := fp, val := fun c _ k => linkWord c k }
  | .ret h a tp fp => some { h := h, reads := [⟨h.u, a, 2⟩], d := 0, n := 0, tgt := fun c i => pairTarget c a 0 i,
                             sent := fun _ _ => true, tp := tp, fp := fp, val := fun _ _ _ => 0 }
  | .loopc h d off tp fp => some { h := h, reads := [⟨h.u, d, 1⟩], d := d, n := 1,
                                   tgt := fun c i => if c.ra d 0 (c.src i) = 1 then c.ent.pc + 12 else relTarget c off,
                                   sent := fun c i => c.ra d 0 (c.src i) != 1, tp := tp, fp := fp,
                                   val := fun c i _ => c.ra d 0 i - 1 }
  | _ => none

/-- The lanes of a bundle that a branch sends to its target. -/
def Jump.sentLanes (q : Jump) (c : Ctx) : Lanes := maskOf (fun i => has c.act i && q.sent c i)

/-! ### Scratchpad (R70, R73, R74, R80, R235, R240) -/

/-- A scratchpad offset, taken without wrapping. -/
def spOffset (c : Ctx) (a : Reg) (off : SrcB) (i : Nat) : Int := ((c.ra a 0 i).toNat : Int) + (c.b off i).toInt

/-- n bytes at an offset touch no word that holds an uncorrectable error (R31, R409). -/
abbrev spSound (t : Task) (o : Int) (n : Nat) : Prop := ∀ w ∈ t.sbad, ¬ (o < 4 * (w : Int) + 4 ∧ 4 * (w : Int) < o + n)

/-- An access of n bytes at an offset is aligned, in bounds and in no tile; a store meets no tagged word, and a read no word that
holds an uncorrectable error. -/
def spAllowed (t : Task) (o : Int) (n : Nat) (store rd : Bool) : Prop :=
  0 ≤ o ∧ o % n = 0 ∧ o + n ≤ t.scratchSize ∧ (∀ q ∈ t.tds, ¬ ((q.2.base : Int) ≤ o ∧ o < q.2.base + q.2.len)) ∧
  (store = true → ∀ w ∈ t.tags, ¬ (o < 4 * (w.1 : Int) + 4 ∧ 4 * (w.1 : Int) < o + n)) ∧ (rd = true → spSound t o n)

/-- One byte of a task's scratchpad, and n of them as a number. -/
def spByte (t : Task) (o : Nat) : Byte := mgetD 0 t.scratch o
def spNum (t : Task) (o n : Nat) : Nat := ((List.range n).map (fun j => (spByte t (o + j)).toNat * 256 ^ j)).sum

/-- The words that a load of a size gives (R225). -/
def sizedWord (sz : Size) (sx : Bool) (raw k : Nat) : Word :=
  match sz with
  | .b8 => if sx then (BitVec.ofNat 8 raw).signExtend 32 else (BitVec.ofNat 8 raw).setWidth 32
  | .b16 => if sx then (BitVec.ofNat 16 raw).signExtend 32 else (BitVec.ofNat 16 raw).setWidth 32
  | _ => BitVec.ofNat 32 (raw / 2 ^ (32 * k))

/-- Byte j of a list of words, lowest first. -/
def wordByte (ws : List Word) (j : Nat) : Byte := ((ws.getD (j / 4) 0) >>> (8 * (j % 4))).setWidth 8

/-- The lane whose store of n bytes stands at byte b after all lanes, ascending, have stored. -/
def lastStorer (lanes : List Nat) (at_ : Nat → Int) (n : Nat) (b : Nat) : Option Nat :=
  lanes.reverse.find? (fun i => decide (at_ i ≤ b) && decide ((b : Int) < at_ i + n))

/-- The new value of an atomic operation (R238 Table 6), in operations on words. -/
def atomicResult (op : AOp) (o d : Nat) : Nat :=
  let ow := BitVec.ofNat 32 o
  let dw := BitVec.ofNat 32 d
  match op with
  | .addN32 => (ow + dw).toNat
  | .addN64 => (BitVec.ofNat 64 o + BitVec.ofNat 64 d).toNat
  | .minI32 => (lesser false ow dw).toNat
  | .maxI32 => (larger false ow dw).toNat
  | .minN32 => (lesser true ow dw).toNat
  | .maxN32 => (larger true ow dw).toNat
  | .andB32 => (ow &&& dw).toNat
  | .orB32 => (ow ||| dw).toNat
  | .xorB32 => (ow ^^^ dw).toNat
  | .exchB32 => d
  | .exchB64 => d
  | .incN32 => if d ≤ o then 0 else o + 1
  | .decN32 => if o = 0 ∨ d < o then d else o - 1
  | .addF32 => (toF32 .rn (sumV .rn [f32 ow, f32 dw])).toNat
  | .minF32 => (pickW false ow dw).toNat
  | .maxF32 => (pickW true ow dw).toNat

/-- Words as a number, low word first. -/
def ofWords (ws : List Word) : Nat := ((List.range ws.length).map (fun k => (ws.getD k 0).toNat * 2 ^ (32 * k))).sum

/-- A scratchpad atomic: header, length, registers read, destination, bytes, offsets, and a lane's new value from the old. -/
structure SAtom where
  h : Hdr
  len : Nat
  reads : List Use
  d : Option Reg
  n : Nat
  at_ : Ctx → Nat → Int
  f : Ctx → Nat → Nat → Nat

/-- The scratchpad atomics of R240. -/
def satomOf : Instr → Option SAtom
  | .atoms h d a off x op => some
      { h := h, len := off.len, reads := ⟨h.u, a, 1⟩ :: (useB h.u off 1 ++ useC h.u x (aopRegs op)), d := some d,
        n := 4 * aopRegs op, at_ := fun c i => spOffset c a off i,
        f := fun c i o => atomicResult op o (ofWords (c.aopData op x i)) }
  | .reds h a off x op => some
      { h := h, len := off.len, reads := ⟨h.u, a, 1⟩ :: (useB h.u off 1 ++ useC h.u x (aopRegs op)), d := none,
        n := 4 * aopRegs op, at_ := fun c i => spOffset c a off i,
        f := fun c i o => atomicResult op o (ofWords (c.aopData op x i)) }
  | .atomscas h d a off x w64 => some
      { h := h, len := off.len, reads := ⟨h.u, a, 1⟩ :: ⟨h.u, x, if w64 then 4 else 2⟩ :: useB h.u off 1, d := some d,
        n := if w64 then 8 else 4, at_ := fun c i => spOffset c a off i,
        f := fun c i o =>
          if w64 then (if o = ofWords [c.ra x 0 i, c.ra x 1 i] then ofWords [c.ra x 2 i, c.ra x 3 i] else o)
          else (if o = (c.ra x 0 i).toNat then (c.ra x 1 i).toNat else o) }
  | _ => none

/-- The scratchpad as lanes in ascending order leave it, and the old value that each lane read. -/
def rmwLanes (n : Nat) (at_ : Nat → Nat) (f : Nat → Nat → Nat) : List Nat → (Nat → Byte) → (Nat → Byte) × (Nat → Nat)
  | [], m => (m, fun _ => 0)
  | i :: is, m =>
    let old := ((List.range n).map (fun j => (m (at_ i + j)).toNat * 256 ^ j)).sum
    let m1 := fun b => if at_ i ≤ b ∧ b < at_ i + n then BitVec.ofNat 8 (f i old / 256 ^ (b - at_ i)) else m b
    let r := rmwLanes n at_ f is m1
    (r.1, fun k => if k = i then old else r.2 k)

/-! ### CSRs (R63, R329) -/

/-- The CSRs of a group, as read. -/
def groupWord (x : Group) (n : Nat) : Word :=
  if n = 0x026 then x.ecause.setWidth 32
  else if n = 0x027 then x.epc.setWidth 32
  else if n = 0x028 then (x.epc >>> 32).setWidth 32
  else if n = 0x029 then x.emask
  else if n = 0x02A then x.ebmask
  else if n = 0x02B then x.eaddr.setWidth 32
  else (x.eaddr >>> 32).setWidth 32

/-- A CSR after a write of w: written bits take w's, bits that a 1 clears are cleared, the others keep theirs. -/
def csrAfter (old w : Word) (mask clears : Nat) : Word :=
  ((old &&& ~~~(BitVec.ofNat 32 mask)) ||| (w &&& BitVec.ofNat 32 mask)) &&& ~~~(w &&& BitVec.ofNat 32 clears)

/-! ### Global memory (R57, R223 to R241, R384) -/

/-- The address of a lane: the pair plus the sign-extended offset, modulo 2^64 (R223). -/
def address (c : Ctx) (a : Reg) (off : SrcB) (i : Nat) : Nat :=
  ((c.ra a 1 i ++ c.ra a 0 i : BitVec 64) + (c.b off i).signExtend 64).toNat

/-- What a per-lane access to global memory reads and writes, what it does, and each lane's address and data. -/
structure Access where
  h : Hdr
  len : Nat
  reads : List Use
  writes : List Use
  op : MemOp
  accs : Ctx → List LaneAcc

/-- The accesses of the computing lanes at their addresses. -/
def plainAccs (a : Reg) (off : SrcB) (data : Ctx → Nat → List Word) (c : Ctx) : List LaneAcc :=
  c.lanes.map (fun i => laneAcc i (address c a off i) (address c a off i) 0 (data c i))

/-- The accesses of the computing lanes to elements of a sheet (R230). -/
def elemAccs (a : Reg) (off : SrcB) (f : Fmt) (g : Geom) (idx : Ctx → Nat → Nat) (data : Ctx → Nat → List Word) (c : Ctx) :
    List LaneAcc :=
  c.lanes.map (fun i => laneAcc i (address c a off i + (placeOf f g (idx c i)).off) (address c a off i) (idx c i) (data c i))

/-- Loads. -/
def loadOf : Instr → Option Access
  | .ld h d a off sz sx home => some
      { h := h, len := off.len, reads := ⟨h.u, a, 2⟩ :: useB h.u off 1, writes := [⟨h.u, d, sizeRegs sz⟩],
        op := .load d h.u sz sx home false, accs := plainAccs a off (fun _ _ => []) }
  | .ldc h d a off sz sx => some
      { h := h, len := off.len, reads := ⟨h.u, a, 2⟩ :: useB h.u off 1, writes := [⟨h.u, d, sizeRegs sz⟩],
        op := .load d h.u sz sx false true, accs := plainAccs a off (fun _ _ => []) }
  | .ldx h d a off idx f g => some
      { h := h, len := off.len, reads := ⟨h.u, a, 2⟩ :: (useB h.u off 1 ++ useC h.u idx 1), writes := [⟨h.u, d, 1⟩],
        op := .loadx d h.u f g, accs := elemAccs a off f g (fun c i => (c.c idx i).toNat) (fun _ _ => []) }
  | _ => none

/-- Stores. A floating-point format takes a literal as its value (R175, R231). -/
def storeOf : Instr → Option Access
  | .st h a off v sz home => some
      { h := h, len := off.len, reads := ⟨h.u, a, 2⟩ :: (useB h.u off 1 ++ useC h.u v (sizeRegs sz)), writes := [],
        op := .store sz home, accs := plainAccs a off (fun c i => c.cs v (sizeRegs sz) i) }
  | .stx h a off idx v f g sat => some
      { h := h, len := off.len, reads := ⟨h.u, a, 2⟩ :: ⟨h.u, idx, 1⟩ :: (useB h.u off 1 ++ useC h.u v 1), writes := [],
        op := .storex f g sat,
        accs := elemAccs a off f g (fun c i => (c.ra idx 0 i).toNat)
          (fun c i => [if f = .int8 ∨ f = .int4 ∨ f = .int32 then c.c v i else c.cf v i]) }
  | _ => none

/-- Atomics and reductions: with the access, a lane's new value from the old. -/
structure Atomic extends Access where
  f : Ctx → Nat → Nat → Nat

/-- The atomics of R237 to R241; `reddet` as it acts outside DET launches (R258). -/
def atomicOf : Instr → Option Atomic
  | .atom h d a off v op sc o => some
      { h := h, len := off.len, reads := ⟨h.u, a, 2⟩ :: (useB h.u off 1 ++ useC h.u v (aopRegs op)),
        writes := [⟨h.u, d, aopRegs op⟩], op := .atom d h.u op sc o, accs := plainAccs a off (fun c i => c.aopData op v i),
        f := fun c i old => atomicResult op old (ofWords (c.aopData op v i)) }
  | .red h a off v op sc o => some
      { h := h, len := off.len, reads := ⟨h.u, a, 2⟩ :: (useB h.u off 1 ++ useC h.u v (aopRegs op)), writes := [],
        op := .red op sc o, accs := plainAccs a off (fun c i => c.aopData op v i),
        f := fun c i old => atomicResult op old (ofWords (c.aopData op v i)) }
  | .reddet h a off v op => some
      { h := h, len := off.len, reads := ⟨h.u, a, 2⟩ :: (useB h.u off 1 ++ useC h.u v (aopRegs op)), writes := [],
        op := .red op .group .relaxed, accs := plainAccs a off (fun c i => c.aopData op v i),
        f := fun c i old => atomicResult op old (ofWords (c.aopData op v i)) }
  | .atomcas h d a off x w64 sc o => some
      { h := h, len := off.len, reads := ⟨h.u, a, 2⟩ :: ⟨h.u, x, if w64 then 4 else 2⟩ :: useB h.u off 1,
        writes := [⟨h.u, d, if w64 then 2 else 1⟩], op := .cas d h.u w64 sc o,
        accs := plainAccs a off (fun c i => (List.range (if w64 then 4 else 2)).map (fun k => c.ra x k i)),
        f := fun c i old =>
          if w64 then (if old = ofWords [c.ra x 0 i, c.ra x 1 i] then ofWords [c.ra x 2 i, c.ra x 3 i] else old)
          else (if old = (c.ra x 0 i).toNat then (c.ra x 1 i).toNat else old) }
  | _ => none

/-- The group awaits no load, no store and no logged fault. -/
def Quiet (x : Group) : Prop := x.loads = [] ∧ x.stores = [] ∧ x.loggedOps = []

/-- Every lane's access is allowed (R57, R60, R384): the state that their translations leave, and the translated accesses. -/
def Granted (s : State) (c : Ctx) (op : MemOp) (accs : List LaneAcc) (s1 : State) (las : List LaneAcc) : Prop :=
  lanesCheck s c.task c.user op accs = (s1, accs.zip (las.map LaneOut.go)) ∧ las.length = accs.length

/-- The state in which an access of lanes reaches the ports: what a release writes back (R82, R95), and the copies of the lanes' lines
(R81), have left the L1. -/
def atPorts (s : State) (c : Ctx) (op : MemOp) (las : List LaneAcc) : State :=
  flushLanes (if ordRel (opOrder op).2 then relDone (relAct s c.task.core (opOrder op).1) c.task.core (opOrder op).1 else s)
    c.task.core op las

/-- Nothing of the task but the group, no other task, no CSR differs. -/
def OnlyGroupIn (s t : State) (c : Ctx) : Prop :=
  SameCsrs s t ∧ SameGroups s t c.tid c.g ∧ (task t c.tid).map Task.rest = (task s c.tid).map Task.rest

/-- A translation's marks: under the tables' key bytes differ only by bits that `bits` names, set in byte 1 of an entry (A and D,
R387), and under any other key only bytes of the units that hold those (R86). -/
def MarksOnly (s t : State) (n : Nat) (bits : Byte) : Prop :=
  (∀ a, readPa t (tableKey s n) a = readPa s (tableKey s n) a ∨
    ∃ m : Byte, m &&& ~~~bits = 0 ∧ readPa t (tableKey s n) a = readPa s (tableKey s n) a ||| m) ∧
  (∀ k a, readPa t k a = readPa s k a ∨ ∃ b, b / 16 = a / 16 ∧ readPa t (tableKey s n) b ≠ readPa s (tableKey s n) b)

/-- A byte as loads of a core would take it from the core's own writes: at home, under its die's writes on their way, under
its L1's written bytes. -/
def coreByte (s : State) (core key pa : Nat) : Byte := (coreView s core pa key 1).getD 0 0

/-- Byte j that a store stores (R225, R231). -/
def storedByte (op : MemOp) (data : List Word) (j : Nat) : Byte :=
  match op with
  | .storex f _ sat => BitVec.ofNat 8 (stxCode f sat (data.getD 0 0) / 256 ^ j)
  | _ => wordByte data j

/-- What a write on its way to its port carries. -/
def Wr.view (w : Wr) : Nat × Nat × Nat × Nat × Map Byte × Option (Nat × Nat × Nat) :=
  (w.die, w.keyid, w.tenant, w.line, w.bytes, w.owner)

/-- n bytes of memory under a key, little-endian. -/
def numAt (s : State) (key pa n : Nat) : Nat := ((List.range n).map (fun j => (readPa s key (pa + j)).toNat * 256 ^ j)).sum

/-- No cache on the way of a lane's read holds the line (R81, R233). -/
def Uncached (s : State) (t : Task) (op : MemOp) (la : LaneAcc) (line : Nat) : Prop :=
  (opConst op = false ∧ la.port = true) ∨
  ((if opConst op then mget (core s t.core).cc (256 * line + la.key) = none
    else mget (core s t.core).l1 (256 * line + la.key) = none) ∧ mget (die s (dieOf t.core)).far (256 * line + la.key) = none)

/-- The registers that a load's lanes write: with U = 1 the words of its one lane stand in every lane of `dst`. -/
def Delivers (x0 x : Group) (u : Bool) (d : Reg) (n : Nat) (dst : Lanes) (las : List LaneAcc) (val : LaneAcc → Nat → Word) :
    Prop :=
  ∀ r lane, lane < 32 → x.reg r lane =
    match (List.range n).find? (fun k => fieldRg u d k == r) with
    | none => x0.reg r lane
    | some k =>
      match las.reverse.find? (fun la =>
          if u then (match r with
            | .v _ => has dst lane
            | .s _ => true) else la.lane == lane) with
      | some la => val la k
      | none => x0.reg r lane

/-- A group but for its registers and their errors, its outstanding loads and the stamp of what its reads have returned. -/
def Group.sansLoads (x : Group) : Group := { x with v := [], sr := [], rbad := [], loads := [], stall := false, seen := [] }

/-! ### Synchronisation (R80, R242 to R256) -/

/-- An instruction of bundle c cannot go on: its group stalls, and nothing else differs. -/
def Stalls (s : State) (c : Ctx) (o : Outcome State Fault Refusal) : Prop :=
  o = .next (modGroup s c.tid c.g (fun x => { x with stall := true, sel := some c.ent.id }))

/-- The bundle's entry is blocked in a wait at its PC, and every other entry stands as it was (R37). -/
def Blocks (c : Ctx) (x : Group) (w : Wait) : Prop :=
  x.live.map (fun e => (e.id, e.pc, e.mask, e.prio, e.blk)) =
    c.grp.live.map (fun e => (e.id, e.pc, e.mask, e.prio, if e.id = c.ent.id then some (w, c.len) else e.blk))

/-- No event of the barriers is recorded for the bundle (R436). -/
def NoBarrierEvents (s : State) (c : Ctx) : Prop :=
  evOn s c.task.tenant 3 c.user = false ∧ evOn s c.task.tenant 4 c.user = false

/-- Every other byte of a scratchpad holds what it held, and so does everything else of the block but what the names say. -/
def OtherBytes (t t1 : Task) (o n : Nat) : Prop := ∀ b, ¬ (o ≤ b ∧ b < o + n) → spByte t1 b = spByte t b

/-- A field of an object of n bytes at o. -/
def fieldAt (t : Task) (o n lo w : Nat) : Nat := spNum t o n / 2 ^ lo % 2 ^ w

/-- The five fields of a barrier (R80 Table 6): COUNT, PHASE, ARRCNT, ARRSET, WAITSET. -/
def barFields (t : Task) (o : Nat) : List Nat :=
  [fieldAt t o 16 0 16, fieldAt t o 16 16 16, fieldAt t o 16 32 16, fieldAt t o 16 48 16, fieldAt t o 16 64 16]

/-- A set of groups with one more. -/
def withGroup (set g : Nat) : Nat := (BitVec.ofNat 16 set ||| BitVec.twoPow 16 g).toNat

/-- A barrier's fields after n arrivals of group g where COUNT is to be `cnt`. -/
def arrived (t : Task) (o g cnt n : Nat) : List Nat :=
  let ph := fieldAt t o 16 16 16
  if fieldAt t o 16 32 16 + n = cnt then [0, (ph + 1) % 2 ^ 16, 0, 0, 0]
  else [cnt, ph, fieldAt t o 16 32 16 + n, withGroup (fieldAt t o 16 48 16) g, fieldAt t o 16 64 16]

/-- An arrival of n threads may be made (R246). -/
def mayArrive (t : Task) (o cnt n : Nat) : Prop :=
  1 ≤ cnt ∧ cnt ≤ 512 ∧ (fieldAt t o 16 0 16 = 0 ∨ fieldAt t o 16 0 16 = cnt) ∧ fieldAt t o 16 32 16 + n ≤ cnt

/-- HEAD, TAIL, ENTRIES, bytes of an entry, and ALLOW of a queue (R248). -/
def qHeadOf (t : Task) (o : Nat) : Nat := fieldAt t o 32 0 32
def qTailOf (t : Task) (o : Nat) : Nat := fieldAt t o 32 32 32
def qEntriesOf (t : Task) (o : Nat) : Nat := fieldAt t o 32 64 13
def qBytesOf (t : Task) (o : Nat) : Nat := 4 * 2 ^ fieldAt t o 32 86 2
def qAllowOf (t : Task) (o : Nat) : Nat := fieldAt t o 32 88 8
def qCountOf (t : Task) (o g : Nat) : Nat := fieldAt t o 32 (128 + 8 * g) 8

/-- Word k of the entry with free-running number j. -/
def qWord (t : Task) (o j k : Nat) : Word :=
  BitVec.ofNat 32 (spNum t (o + 32 + j % qEntriesOf t o * qBytesOf t o + 4 * k) 4)

/-- A bound queue at o whose numbers do not wrap within n more entries. -/
def QueueAt (t : Task) (q o n : Nat) : Prop :=
  mget t.queues q = some o ∧ 1 ≤ qEntriesOf t o ∧ qHeadOf t o ≤ qTailOf t o ∧ qTailOf t o - qHeadOf t o ≤ qEntriesOf t o ∧
  qTailOf t o + n < 2 ^ 32 ∧ spSound t o (32 + qEntriesOf t o * qBytesOf t o)

/-- No group waits in a `qpush`, and none in a `qpop`, of a queue. -/
def NoQueueWaits (t : Task) (q : Nat) : Prop :=
  ∀ x ∈ taskWaits t, (∀ es n, x.2.2.1 ≠ .push q es n) ∧ ∀ d u m n, x.2.2.1 ≠ .pop q d u m n

/-- Every byte that a core's L1 holds is as at home, and no write of its die is on its way. -/
def Drained (s : State) (core : Nat) : Prop :=
  (∀ p ∈ (Machine.core s core).l1, p.2.dirty = []) ∧ s.wq = []

/-- What the acquire of a handover, and of `fence.sc`, leaves of a core's caches (R82, R97, R233). -/
def Acquired (s : State) (core : Nat) (scope : Scope) : Prop :=
  scope = .group ∨ scope = .block ∨ ((Machine.core s core).l1 = [] ∧ (Machine.core s core).cc = [] ∧
    (scope = .cluster ∨ (die s (dieOf core)).farq = []))

/-- The same of a fence (R97): of the updates on their way, none that the group's earlier reads depend on is left. -/
def AcquiredSeen (s : State) (core : Nat) (scope : Scope) (seen : List Nat) : Prop :=
  scope = .group ∨ scope = .block ∨ ((Machine.core s core).l1 = [] ∧ (Machine.core s core).cc = [] ∧
    (scope = .cluster ∨ ∀ u ∈ (die s (dieOf core)).farq, stampAt seen u.origin < stampAt u.stamp u.origin))

/-! ### Engines (R72 to R79, R261 to R264) -/

/-- A tile's chunks `js` are owned by the threads and read by no engine. -/
def IdleTile (x : Tile) (js : List Nat) : Prop := ∀ j ∈ js, x.own.getLsbD j = true ∧ mgetD 0 x.rcnt j = 0

/-- The chunks of a tile that a mask names from `first` (R276). -/
def namedChunks (x : Tile) (mask : Word) (first : Nat) : List Nat :=
  ((List.range 32).filter (fun i => mask.getLsbD i && decide (first + i < x.len / 512))).map (first + ·)

/-- An engine has taken scratchpad chunks: those that it writes are not the threads', those that it reads have one more reader
(R75); nothing else of any tile differs. (Tiles lie at multiples of 512 bytes.) -/
def Taken (t tk : Task) (writes reads : List Nat) : Prop :=
  ∀ d, match mget t.tds d with
    | none => mget tk.tds d = none
    | some x => x.base % 512 = 0 → x.len % 512 = 0 → x.len ≤ 65536 →
      ∃ y, mget tk.tds d = some y ∧ { y with own := x.own, rcnt := x.rcnt } = x ∧ ∀ j, j < x.len / 512 →
        y.own.getLsbD j = (x.own.getLsbD j && !writes.contains (x.base / 512 + j)) ∧
        mgetD 0 y.rcnt j = mgetD 0 x.rcnt j + (if reads.contains (x.base / 512 + j) then 1 else 0)

/-- The status word of R303. -/
def status (code value : Nat) : Word := BitVec.ofNat 32 (2 ^ 24 * code + min value 0xFFFFFF)

/-- A token has been written: its register holds the word and no error, it is pending no longer (R78); nothing else of the group
differs. -/
def TokenWritten (x0 x : Group) (tok : Nat) (w : Word) : Prop :=
  { x with sr := x0.sr, toks := x0.toks, stall := x0.stall, rbad := x0.rbad } = x0 ∧ x.reg (.s tok) 0 = w ∧
  x.toks = x0.toks.filter (· != tok) ∧ (∀ n, n ∈ x.rbad ↔ n ∈ x0.rbad ∧ n ≠ 16384 + tok) ∧
  ∀ r lane, r ≠ .s tok → x.reg r lane = x0.reg r lane

/-- The same but for a token that has become pending, whose register an earlier load no longer writes (R345). -/
def Group.restTok (c : Ctx) (x : Group) : Group := { x.rest with toks := c.grp.toks, passed := c.grp.passed }

/-- A token has become pending. -/
def TokenPending (c : Ctx) (x : Group) (t : Reg) : Prop := x.toks = c.grp.toks ++ [t.toNat - 448]

/-- A copy operation and a matrix operation at their start. -/
def newCopy (c : Ctx) (tok : Reg) (scope : Scope) (k : CopyKind) : CopyOp :=
  { tid := c.tid, g := c.g, tok := tok.toNat - 448, user := c.user, scope := scope, kind := k, todo := copyUnits k,
    done := [], ending := none }
def newMat (s : State) (c : Ctx) (tok : Option Reg) (k : MatKind) (kdone : Nat) : MatOp :=
  { id := s.serial, tid := c.tid, g := c.g, tok := tok.map (fun r => r.toNat - 448), user := c.user, kind := k,
    scopes := scopeWords s c.task, kdone := kdone, faulted := false, ending := none }

/-- A copy has started: a new operation with its units to do and its token pending, its chunks taken, and nothing else of the task,
of any other, of memory or of a CSR is different. -/
def CopyStarts (s t : State) (c : Ctx) (tok : Reg) (scope : Scope) (k : CopyKind) : Prop :=
  ∃ x tk m, SameMemory s t ∧ SameCsrs s t ∧ SameGroups s t c.tid c.g ∧ group t c.tid c.g = some x ∧ task t c.tid = some tk ∧
    Moved c x ∧ SameRegs c x ∧ SamePreds c x ∧ TokenPending c x tok ∧ x.restTok c = c.grp.rest ∧
    { tk with groups := c.task.groups, tds := c.task.tds } = c.task ∧
    Taken c.task tk (copyWrites k (copyUnits k)) (copyReads k (copyUnits k)) ∧
    ∀ n, mget t.copies n = if n = m then some (newCopy c tok scope k) else mget s.copies n

/-- The chunks of a copy or matrix operation are free for it now (R263), and the group may start one more (R244). -/
def MayTake (s : State) (c : Ctx) (writes reads : List Nat) : Prop :=
  (∀ k ∈ writes, ∃ p, chunkNo c.task k = some p ∧ IdleTile p.1 [p.2]) ∧
  (∀ k ∈ reads, ∃ p, chunkNo c.task k = some p ∧ p.1.own.getLsbD p.2 = true ∧ mgetD 0 p.1.rcnt p.2 < 7) ∧
  cpCount s c.tid c.g < 63 ∧ tlCount s c.task c.tid c.g < 63

/-- The granules of a checked access, none of whose lines the die's far-line cache holds. -/
def FreshGranules (s : State) (t : Task) (las : List LaneAcc) : Prop :=
  ∀ la ∈ las, la.pa % 32 = 0 ∧ (la.port = true ∨ mget (die s (dieOf t.core)).far (256 * (la.pa / lineBytes) + la.key) = none)

/-- n bytes of global memory as checked granules show them, by virtual address. -/
def granNum (s : State) (las : List LaneAcc) (va n : Nat) : Nat :=
  ((List.range n).map (fun j => (match las.find? (fun la => la.addr / 32 == (va + j) / 32) with
    | some la => (readPa s la.key (la.pa + (va + j) % 32)).toNat
    | none => 0) * 256 ^ j)).sum

/-! ### Matrix engines (R278 to R288) -/

/-- An operation has entered an engine's queue at its end, with its chunks taken. -/
def MatStarts (s t : State) (c : Ctx) (e : Bool) (tok : Option Reg) (k : MatKind) (kdone : Nat) : Prop :=
  ∃ x tk, SameMemory s t ∧ SameCsrs s t ∧ SameGroups s t c.tid c.g ∧ group t c.tid c.g = some x ∧ task t c.tid = some tk ∧
    Moved c x ∧ SameRegs c x ∧ SamePreds c x ∧ x.toks = c.grp.toks ++ (tok.map (fun r => r.toNat - 448)).toList ∧
    x.restTok c = c.grp.rest ∧ Taken c.task tk (matWrites k) (matReads k) ∧
    { tk with groups := c.task.groups, tds := c.task.tds, prog0 := c.task.prog0, prog1 := c.task.prog1 } = c.task ∧
    engQueue t c.task.core e = engQueue s c.task.core e ++ [newMat s c tok k kdone] ∧
    engQueue t c.task.core (!e) = engQueue s c.task.core (!e)

/-- The slot that a tensor-record image loads (R269). -/
def recordOf (n : Nat) (f : Fmt) (g : Geom) : TRec :=
  { base := n / 2 ^ 455 % 2 ^ 57, rows := n / 2 ^ 416 % 2 ^ 32, cols := n / 2 ^ 384 % 2 ^ 32, rstride := n / 2 ^ 352 % 2 ^ 32,
    fmt := f, geom := g }

/-- An operation of an engine after an abort of its task (R284): one that runs keeps its count, a queued one reports 0. -/
def abortedMat (s : State) (c : Ctx) (e : Bool) (o : MatOp) : MatOp :=
  if o.tid = c.tid then
    { o with ending := some 1, kdone := if (matHead s c.task.core e).map (·.id) = some o.id then o.kdone else 0 }
  else o

/-- The operands of an epilogue as `accst` reads them, and their registers. -/
def epilogue (c : Ctx) (epi : Option (BitVec 3 × Reg × Reg)) : Option (BitVec 256 × Nat × Nat) :=
  epi.map (fun p => (mgetD 0 c.task.gens p.1.toNat, (c.ra p.2.1 0 (lowest c.act)).toNat, (c.ra p.2.2 0 (lowest c.act)).toNat))
def epilogueUses (u : Bool) (epi : Option (BitVec 3 × Reg × Reg)) : List Use :=
  match epi with
  | some (_, q, x) => [⟨u, q, 1⟩, ⟨u, x, 1⟩]
  | none => []

/-- A word of an accumulator of a task. -/
def accWord (t : Task) (e : Bool) (row col : Nat) : Word := mgetD 0 (if e then t.acc1 else t.acc0) (128 * row + col)

/-! ### Generators (R289 to R295) -/

/-- The two mixing rounds of R291, and its hash of a seed, a scope value and coordinates. -/
def mix64 (x : BitVec 64) : BitVec 64 :=
  let x1 := (x ^^^ (x >>> 31)) * 0xA3C59AC23D6F4E17
  let x2 := (x1 ^^^ (x1 >>> 29)) * 0x8F1BBCDC57E61A93
  x2 ^^^ (x2 >>> 32)
def hash64 (seed scope : BitVec 64) (r c : Word) : BitVec 64 :=
  mix64 (mix64 (seed ^^^ (scope.rotateLeft 17) ^^^ 0xE58A7D31C9460B2D) ^^^ (r ++ c))

/-- A word with its sign changed where a bit says so. -/
def signBy (b : Bool) (w : Word) : Word := if b then w ^^^ 0x80000000 else w

/-- The value of a generator register at its own coordinates (R290 Table 13), for every kind but ROTARY. -/
def generated (g : BitVec 256) (scope : BitVec 64) (r c : Word) : Word :=
  let h := hash64 (g.extractLsb' 192 64) scope r c
  let scale := g.extractLsb' 160 32
  let p := fun i => g.extractLsb' (128 - 32 * i) 32
  let odd := fun (w : Word) => (List.range 32).countP (fun i => w.getLsbD i) % 2 == 1
  match (g.extractLsb' 0 4).toNat with
  | 1 => signBy h.msb scale
  | 2 => toF32 .rn (sumV .rn [mulV (f32 (toF32 .rn (sumV .rn [f32 (p 1), (f32 (p 0)).neg])))
      (f32 (toF32 .rn (.fin false (h.extractLsb' 40 24).toNat (-24)))), f32 (p 0)])
  | 3 =>
    let t : Int := (((List.range 4).map (fun i => (h.extractLsb' (16 * i) 16).toNat)).sum : Nat) - 131070
    toF32 .rn (mulV (f32 (toF32 .rn (mulV (f32 (toF32 .rn (.fin (decide (t < 0)) t.natAbs (-16)))) (f32 0x3FDDB3D7)))) (f32 scale))
  | 4 => signBy (odd (r &&& c)) scale
  | 5 => signBy (odd (r &&& c) != (signBy (hash64 (g.extractLsb' 192 64) scope 0 c).msb scale).msb) scale
  | 6 =>
    let o : Int := (p 0).toInt
    let w : Int := (p 1).toNat
    let keep := match (p 3).toNat % 4 with
      | 0 => decide ((c.toNat : Int) ≤ r.toNat + o)
      | 1 => decide ((r.toNat : Int) - w < c.toNat) && decide ((c.toNat : Int) ≤ r.toNat + o)
      | 2 => decide ((r.toNat : Int) + o - w ≤ c.toNat) && decide ((c.toNat : Int) ≤ r.toNat + o + w)
      | _ => decide ((h.extractLsb' 40 24).toNat < (p 2).toNat % 2 ^ 24)
    if g.getLsbD 9 then (if keep then 0 else 0xFF800000)
    else if keep then (if (p 3).toNat = 3 then scale else 0x3F800000) else 0
  | _ => 0

/-! ### Task records and counters (R44 to R48, R305 to R317) -/

/-- The status with which a task record is refused, in the order of R307; none when it is accepted. -/
def recordRefusal (s : State) (n num q : Nat) : Option Nat :=
  if recBad s n num then some 5
  else if parentOk s n (trecOfNum num).level (trecOfNum num).parent = false then some 4
  else if (trecOfNum num).level = 1 ∧ (63 < q ∨ queueCap s n q = 0) then some 3
  else if (trecOfNum num).level = 1 ∧ queueCap s n q ≤ (queueOf s n q).recs.length then some 2
  else if (List.range 4095).all (fun i => (counter s n (i + 1)).isSome) then some 1
  else none

/-- The dependences of a launch name entries that are OPEN (R47). -/
def DepsOpen (s : State) (n : Nat) (r : TaskRec) : Prop :=
  ∀ d ∈ [r.dep0c, r.dep1c], d = 0 ∨ ∃ e, counter s n d = some e ∧ e.status = .open

/-- The lowest entry that is FREE (R307). -/
def LowestFree (s : State) (n i : Nat) : Prop :=
  1 ≤ i ∧ i ≤ 4095 ∧ counter s n i = none ∧ ∀ j, 1 ≤ j → j < i → counter s n j ≠ none

/-- A new counter entry of an accepted record (R44, R307). -/
def newCounter (r : TaskRec) : Counter :=
  { used := 0, budget := if r.level = 4 then (r.args.getD 2 0).toNat + 2 ^ 32 * (r.args.getD 3 0).toNat else 0, parent := r.parent,
    status := .open, level := r.level, target := if r.level = 1 then r.blocks else (r.args.getD 0 0).toNat, done := 0,
    scopew := r.scopew, bad := false, began := false }

/-- The counter entry that an operand names, and one field of it (R309). -/
def namedCounter (s : State) (n i : Nat) : Option Counter := if i < 4096 then counter s n i else none
def fieldWord (e : Option Counter) (f : CField) : Word :=
  match e with
  | none => 0
  | some e =>
    match f with
    | .done => BitVec.ofNat 32 e.done
    | .target => BitVec.ofNat 32 e.target
    | .stat => BitVec.ofNat 32 (e.status.code + 16 * e.level + 65536 * e.parent)
    | .usedlo => BitVec.ofNat 32 e.used
    | .usedhi => BitVec.ofNat 32 (e.used / 2 ^ 32)

/-- The LEVEL of an entry that a `cancel` of a level names. -/
def cancelLevel : Level → Nat
  | .task => 1
  | .launch => 1
  | .graph => 2
  | .phase => 3
  | .job => 4

/-- A fork at its start (R312). -/
def newFork (s : State) (c : Ctx) (tok : Reg) (va : Nat) : ForkOp :=
  { tenant := c.task.tenant, tid := c.tid, g := c.g, tok := tok.toNat - 448, user := c.user,
    job := jobOf s c.task.tenant c.task.launch, addr := va, cancelled := false }

/-! ### The distributor (R38, R49 to R56) -/

/-- A frontier after every merge of a regrouping point (R38): unblocked entries stand at different PCs, each holding the lanes of
the unblocked entries that stood there, with the highest of their priorities; blocked ones stand as they stood. -/
def Regrouped (old new : List Entry) : Prop :=
  ((new.filter (fun e => e.blk.isNone)).map (·.pc)).Nodup ∧
  (∀ f ∈ old, f.blk = none → ∃ e ∈ new, e.blk = none ∧ e.pc = f.pc) ∧
  (∀ e ∈ new, e.blk = none →
    (∀ i, has e.mask i = true ↔ ∃ f ∈ old, f.blk = none ∧ f.pc = e.pc ∧ has f.mask i = true) ∧
    (∀ f ∈ old, f.blk = none → f.pc = e.pc → f.prio.toNat ≤ e.prio.toNat) ∧
    ∃ f ∈ old, f.blk = none ∧ f.pc = e.pc ∧ f.prio = e.prio) ∧
  (new.filter (fun e => e.blk.isSome)).map Entry.view = (old.filter (fun e => e.blk.isSome)).map Entry.view

/-- A task has been placed on a core (R42, R69, R192): its groups, all lanes at the entry PC with every register 0, and nothing in
its scratchpad, tiles and accumulators; every other task is as it was. -/
def TaskPlaced (s t : State) (n c launch blk : Nat) (entry : VA) (prio : Byte) (args : List Word) (r : TaskRec) : Prop :=
  ∃ tid tk, (∀ u, u ≠ tid → task t u = task s u) ∧ task t tid = some tk ∧
    (tk.tenant, tk.core, tk.launch, tk.blk, tk.entry, tk.prio, tk.args) = (n, c, launch, blk, entry, prio, args) ∧
    (tk.ngrp, tk.granules, tk.scratchSize, tk.accRows) = (r.groups + 1, r.regs, 1024 * r.scratch, 32 * r.accg) ∧
    tk.scratch = [] ∧ tk.acc0 = [] ∧ tk.acc1 = [] ∧ tk.tds = [] ∧ tk.bars = [] ∧ tk.queues = [] ∧
    ∀ g, if g < r.groups + 1 then ∃ x, mget tk.groups g = some x ∧
        x.front.map Entry.view = [(x.front.headD (Entry.new 0 0 0 0)).id].map (fun i => (i, entry, 0xFFFFFFFF, prio, false)) ∧
        x.trap = none ∧ x.v = [] ∧ x.sr = [] ∧ x.pr = [] ∧ x.toks = []
      else mget tk.groups g = none

/-- An engine reads n bytes at an address as the number v; s1 is the state that its translations leave. -/
def EngReads (s s1 : State) (t : Task) (user : Bool) (va n v : Nat) : Prop :=
  ∃ s0 las, engPlan s t user true false none ((upTo n).map (va + ·)) = .go s0 las ∧
    s1 = (engLoad s0 t las).1 ∧ v = bytesNum (engLoad s0 t las).2 va n

/-- A token's word stands in its register, if its group is still there. -/
def TokenHolds (t : State) (tid g tok : Nat) (w : Word) : Prop :=
  ∀ x, group t tid g = some x → x.reg (.s tok) 0 = w ∧ tok ∉ x.toks

/-- A core has written back what it wrote, and its die's writes have arrived (R198). -/
def Written (s : State) (c : Nat) : Prop :=
  (∀ p ∈ (core s c).l1, p.2.dirty = []) ∧ ∀ w ∈ s.wq, w.die ≠ dieOf c

/-- No launch of a tenant waits for a counter. -/
def NoneWaits (s : State) (n : Nat) : Prop := ∀ p ∈ (tenant s n).launches, p.2.trec.dep0c = 0 ∧ p.2.trec.dep1c = 0

/-! ### Traces (R119 to R144, R319 to R324) -/

/-- The blocks of the launches that a trace covers, in the order in which they were enqueued (R123, R125). -/
def topBlocks (s : State) (n c : Nat) : List (Nat × Nat) :=
  (coveredLaunches s n c).flatMap (fun p => (List.range p.2.trec.blocks).map (fun b => (p.1, b)))

/-- A handle that is not in use, the lowest one (R319). -/
def LowestHandle (s : State) (n k : Nat) : Prop := k < 16 ∧ trOf s n k = none ∧ ∀ j, j < k → trOf s n j ≠ none

/-- Nothing that reached the Eventide, or the ports, of a tenant still waits to be taken. -/
def EventideQuiet (s : State) (n h : Nat) : Prop :=
  (∀ e ∈ (tenant s n).trq, evOf h e = false) ∧ (∀ m ∈ s.modq, m.tenant ≠ n) ∧ hasNeed s (.eventide h) = false

/-- A task of a trace after a modification of a granule (R132, R140), where it is not re-executing. -/
def modified (g : Nat) (k : TTask) : TTask :=
  if k.rd.contains g = true ∧ (k.state = 1 ∨ k.state = 6) then { k with state := 2 }
  else if k.rd.contains g = true ∧ k.state = 0 then { k with late := true }
  else k

/-- A task of a trace after a commit of a re-execution that wrote nothing (R137). -/
def committed (k : TTask) : TTask :=
  { k with rd := k.nrd, nrd := [], kids := k.nkids, nkids := [], state := 1, win := false, old := false, squashBy := none }

/-- The propagation that a first `prop` asks for (R321). -/
def newProp (s : State) (c : Ctx) (tok : Reg) : PropRun :=
  { tid := c.tid, g := c.g, tok := tok.toNat - 448, job := chargeJob s c.task, root := rootOf s c.task, started := false,
    others := [], cancelled := false }

/-! ### Neighbour search (R147 to R163, R325 to R327) -/

/-- A query of a task without a trace at its issue (R152). -/
def newQuery (s : State) (c : Ctx) (tok : Reg) (slot va : Nat) : Query :=
  { tid := c.tid, g := c.g, tenant := c.task.tenant, tok := tok.toNat - 448, user := c.user, slot := slot,
    engine := clusterOf c.task.core, addr := va, job := chargeJob s c.task, traced := c.task.traced, started := false,
    cancelled := false, vis := [], beam := [], res := [], hops := 0, rounds := 0, cand := [], asked := [], reps := [],
    status := none, qv := [], hdr := 0, graph := none, read := false, spill := [], written := false, denied := [], verSeen := true }

/-- A query as its header makes it. -/
def headed (s : State) (q : Query) (n : Nat) : Query :=
  { q with started := true, read := true, hdr := BitVec.ofNat 512 n,
           graph := mget (tenant s q.tenant).graphs (n / 2 ^ 186 % 2 ^ 6) }

/-- A query of one entry id whose first round has been chosen (R155). -/
def firstRound (q : Query) (e d : Word) (pass : Bool) : Query :=
  { q with vis := [e], beam := [(d, e, true)], res := if pass then [(d, e)] else [], hops := 1, rounds := 1, cand := [e],
           asked := [e], reps := [] }

/-- The triples of a round's replies. -/
def triplesOf (q : Query) : List (Word × Word × Bool) := q.reps.flatMap (fun r => r.2.1)

/-! ### Pages and migration (R391 to R398) -/

/-- A need awaits service v through a root, and p is its next page. -/
def Awaits (s : State) (id : Nat) (n : Need) (v : Service) (root p : Nat) : Prop :=
  mget s.needs id = some n ∧ n.svc = v ∧ needDying s n = false ∧ needRoot s n = some root ∧ n.pages.head? = some p

/-- The page has been served; a need ends with its last page. -/
def PageServed (t : State) (id : Nat) (n : Need) (p : Nat) : Prop :=
  let left := n.pages.filter (· != p)
  mget t.needs id = if left = [] ∧ n.out = [] then none else some { n with pages := left }

/-- The pool ring of a tenant holds no entry that has not been taken. -/
def PoolEmpty (s : State) (n : Nat) : Prop := csrGet s n 0x045 = csrGet s n 0x046

/-- The two words of a table entry. -/
def tableEntry (s : State) (n a : Nat) : Nat × Nat := (numAt s (tableKey s n) a 8, numAt s (tableKey s n) (a + 8) 8)

/-- n bytes at an address read, under a key, as bytes at another address did. -/
def CopiedTo (s t : State) (key src dst n : Nat) : Prop := ∀ j, j < n → readPa t key (dst + j) = readPa s key (src + j)

/-- An aligned table entry that lies outside a range. -/
def Apart (a pa n : Nat) : Prop := a % 16 = 0 ∧ (a + 16 ≤ pa ∨ pa + n ≤ a)

/-- A migration command has ended: MGHEAD stands past its slot, whose STATUS is as said and whose VALID bit is 0 (R397). -/
def CommandEnds (s t : State) (n cmd status : Nat) : Prop :=
  (tenant t n).mig = none ∧ csrGet t n 0x04E = csrGet s n 0x04E + 1 ∧
  ∀ s1 pa x, access s .fresh n (tenantRoot s n) (mgSlot s n) ⟨false, true, false, false⟩ = (s1, .ok pa x) →
    x.legal = true → spillHolds s1 (pa / lineBytes) = false → (∀ j, j < 4 → blockBad s1 (pa + j) = false) →
    numAt t x.key pa 4 = 2 ^ 24 * status + cmd % 2 ^ 24 / 2 * 2

/-- The Stop Marker for a PASID that the host is sent when a reset is over (R371, R376). -/
def stopMarker (n p : Nat) : PriMsg :=
  { tenant := n, pasid := some p, stop := true, page := 0, grp := 0, last := true, rd := false, wr := false }

/-! ### Debug (R428 to R432) -/

/-- A debug command has ended with a result: BUSY and GO are clear. -/
def DbgEnds (t : State) (n res : Nat) : Prop :=
  csrGet t n 0x061 &&& 0x8000000F = BitVec.ofNat 32 res ∧ (csrGet t n 0x062).getLsbD 31 = false ∧ (tenant t n).dbgWait = none

/-- The block that a debug command names. -/
def DbgBlock (s : State) (n tid : Nat) (x : Task) : Prop :=
  blockNamed s n (dbgName s n) = some (tid, x) ∧ task s tid = some x ∧ dying s tid x = false ∧ x.saved = false

/-! ### The management complex (R408, R441 to R449) -/

/-- A mailbox command has ended with a result: BUSY and GO are clear. -/
def MailEnds (t : State) (res : Nat) : Prop :=
  mboxGet t 4 &&& 0x8000000F = BitVec.ofNat 32 res ∧ (mboxGet t 0).getLsbD 31 = false

/-- No two combinations of the rows are equal: the matrix is invertible over GF(2) (R401). -/
def Invertible (rows : List Nat) : Prop :=
  ∀ v : Word, v ≠ 0 → (List.range 32).foldl (fun w i => if v.getLsbD i then w ^^^ rows.getD i 0 else w) 0 ≠ 0

end Sys2Proof.Machine
end

