-- ==== Sys2Proof/Certificates/Slice0/Obligations.lean ====
section
/-! DEFINITION. The statements for the provers. -/

open Sys2Proof Sys2Proof.Machine Host

/-! ### Encoding and the step -/

/-- Words that the manual prints decode to the instructions that it prints them for: one of each of several families. -/
def Obligations.DecodeWords : Prop :=
  decode ([0x010199B9, 0x00000004].flatMap (leBytes 4)) = some (.ffma ⟨false, false, 7, 0⟩ 3 1 (.reg 2) (.reg 0) .rn, 8) ∧
  decode ([0x05038851, 0x002803FA].flatMap (leBytes 4)) =
    some (.iadd ⟨false, true, 2, 1⟩ 7 5 (.lit 0x1FD) false false, 8) ∧
  decode ([0x00000082, 0x64000050, 0xFFFFFFD0].flatMap (leBytes 4)) =
    some (.bra ⟨false, false, 0, 0⟩ 0xFFFFFFD0 200 40, 12) ∧
  decode ([0x02043839, 0x06200080].flatMap (leBytes 4)) =
    some (.ld ⟨false, false, 7, 0⟩ 8 2 (.lit 0x40) .b16 true false, 8) ∧
  decode ([0x040052BB, 0x01800000, 0x02000108, 0x00800008].flatMap (leBytes 4)) =
    some (.tdesc ⟨false, false, 7, 0⟩ 3 4 8 1 0 0x200 8 0x80, 16) ∧
  decode ([0x06E16839, 0x00601500].flatMap (leBytes 4)) =
    some (.enq ⟨false, false, 7, 0⟩ 0x1C2 6 (.lit 0x80) (.lit 5), 8)

/-- R165 to R178: every well-formed instruction that has an encoding, encoded, decodes to itself and to its own length,
whatever bytes follow it. -/
def Obligations.RoundTrip : Prop :=
  ∀ (i : Instr) (r : List Byte), wf i = true → encodable i = true →
    decode (encode i ++ r) = some (i, (encode i).length)

/-- R166, R168, R171 to R178: whatever decodes is well formed, is 4, 8, 12 or 16 bytes long, and has an encoding. -/
def Obligations.DecodedIsWellFormed : Prop :=
  ∀ (bs : List Byte) (i : Instr) (n : Nat), decode bs = some (i, n) →
    wf i = true ∧ encodable i = true ∧ n ∈ [4, 8, 12, 16]

/-- A turn in which a group issues, whether the script or the default schedule names it, runs the decoded instruction: when the
group may issue, it is its turn in its scheduler's round, and the fetch at its PC gives bytes that decode to i, the step is `exec`
of i in the state that the fetch leaves. What surrounds `exec` is the tick of the cycle count, the note of the round and, where a
sampler follows the group, its record. An instruction that must come after the snapshot of a `fork` of the group waits for it.
Bytes that decode to nothing run the illegal encoding, which traps. -/
def Obligations.StepRunsDecoded : Prop :=
  ∀ (s s0 s1 : State) (tid g : Nat) (rest : List Turn) (t : Task) (x : Group) (e : Entry) (bs : List Byte),
    ((tick s).script = .issue tid g :: rest ∧ s0 = { tick s with script := rest }) ∨
      ((tick s).script = [] ∧ defaultTurn (tick s) = some (.issue tid g) ∧ s0 = tick s) →
    task s0 tid = some t → mget t.groups g = some x → groupReady s0 t tid g x = true → inTurn s0 t x = true →
    headOf s0 tid g = some (t, x, e) →
    fetchAt { noteRound (beforeIssue s0 tid g) t.core x.sched x.slot with cur := some (tid, g), last := (tid, g) } t e.pc.toNat
      x.trap.isNone = .bytes s1 bs →
    (∀ i, readInstr bs = some i → afterFork i = true → forksTaken s1 tid g = false →
      step s = .next (modGroup s1 tid g (fun y => { y with stall := true }))) ∧
    (∀ i, readInstr bs = some i → (afterFork i = true → forksTaken s1 tid g = true) →
      step s = match exec i s1 with
        | .next s2 => .next (afterIssue s1 s2 tid g bs (some i))
        | r => r) ∧
    (readInstr bs = none →
      step s = match exec .illegalInstr s1 with
        | .next s2 => .next (afterIssue s1 s2 tid g bs none)
        | r => r)

/-! ### Computing instructions (chapter 09) -/

/-- Table 2 of R201: each integer instruction forms the exact result and wraps or clamps it, per active lane, or once for the
bundle with U = 1; every other register, predicate, flag, CSR and byte of memory keeps its value. R203 and R204: the logic and
bit instructions.
Completes: `iadd`, `isub`, `imul`, `imulhi`, `imad`, `imin`, `imax`, `iabs`, `lea`, `idot4`, `idot8`, `iclamp`, `and`, `or`,
`xor`, `bool3`, `shl`, `shr`, `sar`, `rot`, `bfe`, `bfi`, `popc`, `clz`, `brev`, `bsel`. -/
def Obligations.IntegerAndLogicResults : Prop :=
  (∀ (i : Instr) (q : Calc) (s : State) (c : Ctx), integerCalc i = some q →
     Executes s c q.h q.len (q.reads ++ [⟨q.h.u, q.d, q.n⟩]) →
     Leaves s c (exec i s) (fun x => Writes c q.h.u q.d q.n (q.val c s) x ∧ SamePreds c x)) ∧
  (∀ (i : Instr) (q : Calc) (s : State) (c : Ctx), logicCalc i = some q →
     Executes s c q.h q.len (q.reads ++ [⟨q.h.u, q.d, q.n⟩]) →
     Leaves s c (exec i s) (fun x => Writes c q.h.u q.d q.n (q.val c s) x ∧ SamePreds c x))

/-- R202: `iaddc` adds with the carry that CI names (0 for 7) and writes the carry out of bit 31 to CO (7 discards it); a
predicate that is both is read before it is written.
Completes: `iaddc`. -/
def Obligations.CarryAdd : Prop :=
  ∀ (h : Hdr) (d a : Reg) (b : SrcB) (ci co : BitVec 3) (s : State) (c : Ctx),
    Executes s c h b.len ((⟨h.u, a, 1⟩ :: useB h.u b 1) ++ [⟨h.u, d, 1⟩]) →
    let cin := fun i => if ci ≠ 7 ∧ has (c.grp.pred ci.toNat) i then 1 else 0
    let sum := fun i => (c.ra a 0 i).setWidth 33 + (c.b b i).setWidth 33 + BitVec.ofNat 33 (cin i)
    Leaves s c (exec (.iaddc h d a b ci co) s) (fun x =>
      Writes c h.u d 1 (fun i _ => (sum i).setWidth 32) x ∧ WritesPred c co.toNat (fun i => (sum i).msb) x)

/-- R205 and R206: each FP32 instruction forms its exact value and rounds it once; minima and maxima choose an operand. R207 to
R211: packed halves, conversions, quantisation, `pack` and `unpack`.
Completes: `fadd`, `fsub`, `fmul`, `ffma`, `fmin`, `fmax`, `fclamp`, `fround`, `fdot2`, `hadd2`, `hmul2`, `hfma2`, `hmin2`,
`hmax2`, `cvt`, `cvtq`, `cvtd`, `pack`, `unpack`. -/
def Obligations.FloatAndHalfResults : Prop :=
  (∀ (i : Instr) (q : Calc) (s : State) (c : Ctx), floatCalc i = some q →
     Executes s c q.h q.len (q.reads ++ [⟨q.h.u, q.d, q.n⟩]) →
     Leaves s c (exec i s) (fun x => Writes c q.h.u q.d q.n (q.val c s) x ∧ SamePreds c x)) ∧
  (∀ (i : Instr) (q : Calc) (s : State) (c : Ctx), halfCalc i = some q →
     Executes s c q.h q.len (q.reads ++ [⟨q.h.u, q.d, q.n⟩]) →
     Leaves s c (exec i s) (fun x => Writes c q.h.u q.d q.n (q.val c s) x ∧ SamePreds c x))

/-- R212: a special function writes a function of the input bits, the same for every lane, group and run, and `sincos` writes
what `sin` and `cos` write. R213 Table 8: the results that special operands have, and a NaN for a NaN.
Completes: `rcp`, `rsq`, `sqrt`, `ex2`, `lg2`, `sin`, `cos`, `sincos`, `tanh`. -/
def Obligations.SpecialFunctions : Prop :=
  (∀ (i : Instr) (q : Calc) (s : State) (c : Ctx), sfuCalc i = some q →
     Executes s c q.h q.len (q.reads ++ [⟨q.h.u, q.d, q.n⟩]) →
     Leaves s c (exec i s) (fun x => Writes c q.h.u q.d q.n (q.val c s) x ∧ SamePreds c x)) ∧
  ((∀ a : Word, f32 a = .nan → ∀ f ∈ [sfuRcp, sfuRsq, sfuSqrt, sfuEx2, sfuLg2, sfuSin, sfuCos, sfuTanh], f a = 0x7FC00000) ∧
   [sfuRcp, sfuRsq, sfuSqrt, sfuEx2, sfuLg2, sfuSin, sfuCos, sfuTanh].map (fun f => f 0xFF800000) =
     [0x80000000, 0x7FC00000, 0x7FC00000, 0, 0x7FC00000, 0x7FC00000, 0x7FC00000, 0xBF800000] ∧
   [sfuRcp, sfuRsq, sfuSqrt, sfuEx2, sfuLg2, sfuSin, sfuCos, sfuTanh].map (fun f => f 0x80000000) =
     [0xFF800000, 0xFF800000, 0x80000000, 0x3F800000, 0xFF800000, 0x80000000, 0x3F800000, 0x80000000] ∧
   [sfuRcp, sfuRsq, sfuSqrt, sfuEx2, sfuLg2, sfuSin, sfuCos, sfuTanh].map (fun f => f 0) =
     [0x7F800000, 0x7F800000, 0, 0x3F800000, 0xFF800000, 0, 0x3F800000, 0] ∧
   [sfuRcp, sfuRsq, sfuSqrt, sfuEx2, sfuLg2, sfuSin, sfuCos, sfuTanh].map (fun f => f 0x7F800000) =
     [0, 0, 0x7F800000, 0x7F800000, 0x7F800000, 0x7FC00000, 0x7FC00000, 0x3F800000] ∧
   (∀ (a : Word) (m : Nat) (e : Int), f32 a = .fin true m e → m ≠ 0 → ∀ f ∈ [sfuRsq, sfuSqrt, sfuLg2], f a = 0x7FC00000))

/-- R214 to R218: lane exchanges, polls, kinds, folds by the tree of R114 and scans by the steps of R115. A `poll` or `fold`
with `.s` writes its scalar register once.
Completes: `lanex`, `poll`, `kin`, `fold`, `scan`. -/
def Obligations.LaneResults : Prop :=
  (∀ (i : Instr) (q : Calc) (s : State) (c : Ctx), laneCalc i = some q →
    Executes s c q.h q.len (q.reads ++ [⟨q.h.u, q.d, q.n⟩]) → q.h.u = false →
    Leaves s c (exec i s) (fun x => Writes c false q.d q.n (q.val c s) x ∧ SamePreds c x)) ∧
  (∀ (h : Hdr) (d a : Reg) (op : ROp) (s : State) (c : Ctx), 448 ≤ d.toNat →
    Executes s c h 8 [⟨h.u, a, 1⟩, ⟨true, d, 1⟩] →
    Leaves s c (exec (.fold h d a op true) s) (fun x =>
      Writes c true d 1 (fun _ _ => foldFrom op (entering c a op) 5 0) x ∧ SamePreds c x)) ∧
  (∀ (h : Hdr) (d : Reg) (p : PSrc) (m : PollW) (s : State) (c : Ctx), 448 ≤ d.toNat →
    Executes s c h 8 [⟨true, d, 1⟩] →
    Leaves s c (exec (.poll h (.scal m d) p) s) (fun x => SamePreds c x ∧
      Writes c true d 1 (fun _ _ => match m with
        | .mask => laneSet (pollLanes c p)
        | .count => BitVec.ofNat 32 (pollLanes c p).length) x))

/-- A fold of integer additions is the sum of the active lanes' words modulo 2^32, and an inclusive scan of them the sum over the
active lanes up to each lane (R114, R115, R218). -/
def Obligations.FoldAndScanSum : Prop :=
  ∀ (c : Ctx) (a : Reg),
    foldFrom .iadd (entering c a .iadd) 5 0 = ((lanesOf c.act).map (fun i => c.ra a 0 i)).sum ∧
    ∀ j, j < 32 → scanFrom .iadd (entering c a .iadd) 5 j =
      (((lanesOf c.act).filter (fun i => decide (i ≤ j))).map (fun i => c.ra a 0 i)).sum

/-- R216, R219, R220: instructions that write one predicate in the active lanes.
Completes: `poll`, `icmp`, `fcmp`, `plop`, `fclass`. -/
def Obligations.PredicateResults : Prop :=
  ∀ (i : Instr) (q : PCalc) (s : State) (c : Ctx), predCalc i = some q → Executes s c q.h q.len q.reads →
    Leaves s c (exec i s) (fun x => SameRegs c x ∧ WritesPred c q.p.toNat (q.val c) x)

/-- R220 to R222: selection, moves and `movs`; `pmov.r2p` sets the predicates that its mask names from the bits of a word; the
read of `cyclo` latches bits 63:32 of the count for the group's `cychi`.
Completes: `sel`, `mov`, `movi`, `movs`, `pmovP2r`, `pmovR2p`. -/
def Obligations.MoveResults : Prop :=
  (∀ (i : Instr) (q : Calc) (s : State) (c : Ctx), moveCalc i = some q →
    Executes s c q.h q.len (q.reads ++ [⟨q.h.u, q.d, q.n⟩]) →
    Leaves s c (exec i s) (fun x => Writes c q.h.u q.d q.n (q.val c s) x ∧ SamePreds c x)) ∧
  (∀ (h : Hdr) (a : Reg) (mask : BitVec 7) (s : State) (c : Ctx), Executes s c h 8 [⟨h.u, a, 1⟩] →
    Leaves s c (exec (.pmovR2p h a mask) s) (fun x => SameRegs c x ∧
      ∀ p i, i < 32 → has (x.pred p) i =
        if p < 7 ∧ mask.getLsbD p ∧ has c.act i then (c.ra a 0 (c.src i)).getLsbD p else has (c.grp.pred p) i)) ∧
  (∀ (h : Hdr) (d : Reg) (s : State) (c : Ctx), Executes s c h 8 [⟨h.u, d, 1⟩] →
    ∃ t x, exec (.movs h d .cyclo) s = .next t ∧ OnlyGroup s t c.tid c.g ∧ group t c.tid c.g = some x ∧ Moved c x ∧
      Writes c h.u d 1 (fun _ _ => BitVec.ofNat 32 s.cycle) x ∧ SamePreds c x ∧
      x.cychi = BitVec.ofNat 32 (s.cycle / 2 ^ 32) ∧ { x.rest with cychi := c.grp.cychi } = c.grp.rest)

/-- R172, R174: with no active lane an instruction that only computes changes no register and no predicate, and its bundle
advances. R68, R57, R78: a register that does not exist traps ILLEGAL_INSTR for the whole bundle; with every register present, a
destination that is a pending token traps TOKEN_MISUSE, and otherwise a register that awaits a load, a logged fault or a token
stalls the group, which changes nothing else. R31, R409: a read of a register that holds an uncorrectable error traps DATA_ERROR
for the lanes that read it, and a destination that holds one is overwritten and holds it no longer. (That EMASK of TOKEN_MISUSE is
the lowest active lane, and EADDR of this DATA_ERROR 0, is the model's reading, log entries 30 and 91.) -/
def Obligations.InactiveBundlesAndRegisterChecks : Prop :=
  (∀ (i : Instr) (q : Calc) (s : State) (c : Ctx),
     (integerCalc i = some q ∨ logicCalc i = some q ∨ floatCalc i = some q ∨ halfCalc i = some q ∨ sfuCalc i = some q ∨
       laneCalc i = some q ∨ moveCalc i = some q) → wf i = true →
     Issues s c q.h q.len → c.act = 0 →
     (∀ r ∈ (q.reads ++ [(⟨q.h.u, q.d, q.n⟩ : Use)]).flatMap Use.regs, r.fits c.task.granules = true) →
     Leaves s c (exec i s) (fun x => SameRegs c x ∧ SamePreds c x)) ∧
  (∀ (i : Instr) (q : Calc) (s : State) (c : Ctx),
     (integerCalc i = some q ∨ logicCalc i = some q ∨ floatCalc i = some q ∨ halfCalc i = some q ∨ sfuCalc i = some q ∨
       laneCalc i = some q ∨ moveCalc i = some q) → wf i = true →
     Issues s c q.h q.len → c.act ≠ 0 →
     let reads := q.reads.flatMap Use.regs
     let writes := (⟨q.h.u, q.d, q.n⟩ : Use).regs
     ((∃ r ∈ reads ++ writes, r.fits c.task.granules = false) → c.grp.trap = none → hvec s c.task.tenant ≠ 0 →
       Traps s c (exec i s) 0x01 c.ent.mask 0) ∧
     ((∀ r ∈ reads ++ writes, r.fits c.task.granules = true) →
       let awaits := ∃ r ∈ reads ++ writes, r ∈ c.grp.pendRegs ∨ (r ∈ reads ∧ c.grp.pendTok r = true)
       let bad := maskOf (fun j => c.lanes.contains j && reads.any (fun r => c.grp.regBad r j))
       ((∃ r ∈ writes, c.grp.pendTok r = true) → (awaits ∨ bad = 0) → c.grp.trap = none → hvec s c.task.tenant ≠ 0 →
         Traps s c (exec i s) 0x0D (oneLane (lowest c.act)) 0) ∧
       ((∀ r ∈ writes, c.grp.pendTok r = false) → awaits → Stalls s c (exec i s)) ∧
       (¬ awaits → bad ≠ 0 → c.grp.trap = none → hvec s c.task.tenant ≠ 0 → Traps s c (exec i s) 0x0C bad 0) ∧
       (¬ awaits → (∀ r ∈ writes, c.grp.pendTok r = false) → bad = 0 → (laneCalc i = some q → q.h.u = false) →
         Leaves s c (exec i s) (fun x => Writes c q.h.u q.d q.n (q.val c s) x ∧ SamePreds c x ∧
           ∀ r ∈ writes, ∀ lane, lane < 32 → (∀ n, r = .v n → has c.act lane) → x.regBad r lane = false))))

/-! ### Control and traps -/

/-- R166, R180: the three `nop` forms and the fill word only advance. A word with LEN = 0b00 is the fill word when it equals
0x4B58_F11C, and else no instruction (which traps ILLEGAL_INSTR); an instruction with the opcode of `nop` is a `nop` when every
other field is 0 and PG = 7, and else no instruction.
Completes: `nop`, `nop96`, `nop128`, `fillWord`, `illegalInstr`. -/
def Obligations.NopsAdvance : Prop :=
  (∀ (i : Instr) (n : Nat) (s : State) (c : Ctx),
    (i, n) ∈ [(Instr.nop, 8), (Instr.nop96, 12), (Instr.nop128, 16), (Instr.fillWord, 4)] →
    Executes s c Hdr.plain n [] → Leaves s c (exec i s) (fun x => SameRegs c x ∧ SamePreds c x)) ∧
  (∀ (w : Nat) (r : List Byte), w < 2 ^ 32 → w % 4 = 0 →
    readInstr (leBytes 4 w ++ r) = if w = 0x4B58F11C then some .fillWord else none) ∧
  (∀ (s : State) (c : Ctx), Issues s c Hdr.plain 4 → c.grp.trap = none → hvec s c.task.tenant ≠ 0 →
    Traps s c (exec .illegalInstr s) 0x01 c.ent.mask 0) ∧
  (∀ (k w : Nat) (i : Instr) (r : List Byte), (k, i) ∈ [(1, Instr.nop), (2, Instr.nop96), (3, Instr.nop128)] →
    w < 2 ^ (32 + 32 * k) → w % 4 = k → w / 2 ^ 7 % 2 ^ 8 = 0 →
    readInstr (leBytes (4 + 4 * k) w ++ r) = if w = 0x38 + k then some i else none)

/-- R179, R197: a branch moves each active lane to its target and each other lane of its bundle past the instruction, with the
target priority for an entry that holds a lane sent to the target; calls write the link pair, and `loopc` its counter. (No
DIVERGE record is asked for.) R197: an indirect branch with a target that is no multiple of 4 traps MISALIGNED for the lanes
that have one, at the target of the lowest of them, and moves no lane.
Completes: `bra`, `brx`, `call`, `callx`, `ret`, `loopc`. -/
def Obligations.Branches : Prop :=
  (∀ (i : Instr) (q : Jump) (s : State) (c : Ctx), jumpOf i = some q →
     Executes s c q.h 12 (q.reads ++ (if q.n = 0 then [] else [⟨q.h.u, q.d, q.n⟩])) → evOn s c.task.tenant 1 c.user = false →
     (∀ j, has c.act j → ∀ a off, i = .brx q.h a off q.tp q.fp ∨ (∃ d, i = .callx q.h d a off q.tp q.fp) ∨
       (off = 0 ∧ i = .ret q.h a q.tp q.fp) → (pairTarget c a off j).toNat % 4 = 0) →
     ∃ t x, exec i s = .next t ∧ OnlyGroup s t c.tid c.g ∧ group t c.tid c.g = some x ∧
       Splits c x (fun j => if has c.act j then q.tgt c j else c.ent.pc + 12)
         (fun m => if m &&& q.sentLanes c ≠ 0 then q.tp else q.fp) ∧
       Writes c q.h.u q.d q.n (q.val c) x ∧ SamePreds c x ∧ x.rest = c.grp.rest) ∧
  (∀ (i : Instr) (h : Hdr) (a d : Reg) (off : Word) (tp fp : Byte) (s : State) (c : Ctx),
     (i = .brx h a off tp fp ∧ Executes s c h 12 [⟨h.u, a, 2⟩]) ∨ (i = .ret h a tp fp ∧ off = 0 ∧ Executes s c h 12 [⟨h.u, a, 2⟩]) ∨
       (i = .callx h d a off tp fp ∧ Executes s c h 12 [⟨h.u, a, 2⟩, ⟨h.u, d, 2⟩]) →
     c.grp.trap = none → hvec s c.task.tenant ≠ 0 →
     let bad := maskOf (fun j => (if h.u then j == lowest c.act else has c.act j) && (pairTarget c a off j).toNat % 4 != 0)
     bad ≠ 0 → Traps s c (exec i s) 0x03 bad (pairTarget c a off (lowest bad)))

/-- R40, R199: `setprio` gives its active lanes the priority n and leaves the others theirs, all past the instruction; `yield`
marks the entry of its active lanes as yielded when another entry may issue, and not when none is left. (No DIVERGE record is
asked for.)
Completes: `yield`, `setprio`. -/
def Obligations.PriorityAndYield : Prop :=
  (∀ (h : Hdr) (n : Byte) (s : State) (c : Ctx), Executes s c h 8 [] → evOn s c.task.tenant 1 c.user = false →
    ∃ t x, exec (.setprio h n) s = .next t ∧ OnlyGroup s t c.tid c.g ∧ group t c.tid c.g = some x ∧
      Splits c x (fun _ => c.ent.pc + 8) (fun m => if m &&& c.act ≠ 0 then n else c.ent.prio) ∧
      SameRegs c x ∧ SamePreds c x ∧ x.rest = c.grp.rest) ∧
  (∀ (h : Hdr) (s : State) (c : Ctx), Executes s c h 8 [] →
    ∃ t x, exec (.yield h) s = .next t ∧ OnlyGroup s t c.tid c.g ∧ group t c.tid c.g = some x ∧
      Splits c x (fun _ => c.ent.pc + 8) (fun _ => c.ent.prio) ∧
      SameRegs c x ∧ SamePreds c x ∧ x.rest = c.grp.rest ∧
      ((∃ f ∈ c.grp.live, f.id ≠ c.ent.id ∧ f.eligible = true) →
        ∀ e ∈ x.live, e.mask &&& c.act ≠ 0 → (∀ f ∈ c.grp.live, f.id ≠ c.ent.id → f.mask &&& c.act = 0) → e.yld = true) ∧
      (c.grp.live = [c.ent] → c.act = c.ent.mask → ∀ e ∈ x.live, e.yld = false))

/-- R34, R61, R198: `exit` takes its active lanes out of the frontier that issues, in trap mode out of the user frontier too;
the other lanes of the bundle stand past it. A group outside trap mode that has no lane left, in its frontier or in its operand
log, has ended. (No sampler waits for an instruction of the group.) R61: `rti` of the last
lanes of a handler that logged no fault ends trap mode: the lanes that have returned form one entry at EPC with the priority
that the bundle had, beside the frozen user frontier.
Completes: `exit`, `rti`. -/
def Obligations.ExitAndReturn : Prop :=
  (∀ (h : Hdr) (s : State) (c : Ctx), Executes s c h 8 [] → (∀ o ∈ c.grp.oplog, o.act &&& c.act = 0) →
     (∀ q ∈ (tenant s c.task.tenant).samplers, ∀ y, q.2.tag = some y → y.note ≠ none ∨ y.tid ≠ c.tid ∨ y.g ≠ c.g) →
     ∃ t, exec (.exit h) s = .next t ∧ SameMemory s t ∧ SameCsrs s t ∧ SameGroups s t c.tid c.g ∧
       (c.grp.trap = none →
         if (∀ e ∈ c.grp.front, e.mask &&& ~~~c.act = 0) ∧ ∀ o ∈ c.grp.oplog, o.resume = [] then group t c.tid c.g = none
         else ∃ x, group t c.tid c.g = some x ∧ x.trap = none ∧ SameRegs c x ∧ SamePreds c x ∧
           x.front.map (fun e => (e.id, e.pc, e.mask, e.prio)) =
             ((c.grp.front.map (fun e => (e.id, if e.id = c.ent.id then c.ent.pc + 8 else e.pc, e.mask &&& ~~~c.act,
               e.prio))).filter (fun q => q.2.2.1 != 0))) ∧
       (∀ m, c.grp.trap = some m → (∃ e ∈ m.hfront, e.mask &&& ~~~c.act ≠ 0) →
         ∃ x m1, group t c.tid c.g = some x ∧ x.trap = some m1 ∧ SameRegs c x ∧ SamePreds c x ∧
           ∀ e ∈ m1.hfront ++ x.front, e.mask &&& c.act = 0)) ∧
  (∀ (h : Hdr) (s : State) (c : Ctx) (m : TrapMode), Executes s c h 8 [] → c.grp.trap = some m → m.logged = none →
     m.hfront = [c.ent] → c.act = c.ent.mask →
     ∃ t x e, exec (.rti h) s = .next t ∧ OnlyGroup s t c.tid c.g ∧ group t c.tid c.g = some x ∧ x.trap = none ∧
       x.front = c.grp.front ++ [e] ∧ e.pc = c.grp.epc ∧ e.mask = m.rti ||| c.act ∧ e.prio = m.prio ∧ e.yld = false ∧ e.blk = none ∧
       SameRegs c x ∧ SamePreds c x ∧
       (x.ecause, x.epc, x.emask, x.ebmask, x.eaddr) =
         (c.grp.ecause, c.grp.epc, c.grp.emask, c.grp.ebmask, c.grp.eaddr))

/-- R60, R63, R200, R328: `brk` takes the trap BREAKPOINT and `trap` the trap SOFTWARE for the active lanes with their
code as the address; in trap mode each is delivered to the supervisor as a DOUBLE_TRAP, which stops the block (R62, R421), and
with no active lane each only advances. R63, R329, R330, R61: outside trap mode `rti`, `tlbinv`, and writes of EPC or of a CSR
with a field that software may write raise PRIV. (EMASK of PRIV is the model's reading, log entry 30.)
Completes: `brk`, `trap`. -/
def Obligations.TrapsAndPrivilege : Prop :=
  (∀ (i : Instr) (h : Hdr) (n cause : Byte) (s : State) (c : Ctx),
     (i = .brk h n ∧ cause = 0x11) ∨ (i = .trap h n ∧ cause = 0x10) →
     (Executes s c h 8 [] → c.grp.trap = none → hvec s c.task.tenant ≠ 0 → Traps s c (exec i s) cause c.act (n.setWidth 57)) ∧
     (Executes s c h 8 [] → c.grp.trap ≠ none → ∃ t,
       exec i s = .next t ∧ t = deliver (c.move s id) c.tid 1 0x0F c.g
         { epc := c.ent.pc.toNat, cause := cause, emask := c.act, ebmask := c.ent.mask, eaddr := n.toNat,
           oepc := c.grp.epc.toNat, ocause := c.grp.ecause } ∧
       ((csrGet s c.task.tenant 0x05A).getLsbD 0 = true →
         (task t c.tid).map (·.run) = some (.held (some (c.g, c.ent.pc, c.ent.mask))))) ∧
     (Issues s c h 8 → c.act = 0 → Leaves s c (exec i s) (fun x => SameRegs c x ∧ SamePreds c x))) ∧
  (∀ (s : State) (c : Ctx), c.grp.trap = none → hvec s c.task.tenant ≠ 0 →
     (∀ h, Executes s c h 8 [] → Traps s c (exec (.rti h) s) 0x02 c.act 0 ∧
       Traps s c (exec (.tlbinvAll h false) s) 0x02 (oneLane (lowest c.act)) 0) ∧
     (∀ h, Executes s c h 12 [] → Traps s c (exec (.tlbinvAll h true) s) 0x02 (oneLane (lowest c.act)) 0) ∧
     (∀ h a off, Executes s c h off.len (⟨h.u, a, 2⟩ :: useB h.u off 1) →
       Traps s c (exec (.tlbinvPage h a off) s) 0x02 (oneLane (lowest c.act)) 0) ∧
     (∀ h n a, Executes s c h 12 [⟨h.u, a, 1⟩] →
       (n.toNat = 0x027 ∨ n.toNat = 0x028 ∨ (csrOfGroup n.toNat = false ∧ ∃ k, csrMask n.toNat = some k ∧ k ≠ 0)) →
       Traps s c (exec (.csrwr h n a) s) 0x02 (oneLane (lowest c.act)) 0))

/-- R63, R329: `csrrd` gives every active lane (or one scalar register) the value of a group's trap CSR or of a tenant's CSR; a
number that no CSR has traps ILLEGAL_INSTR. The tails of rings, whose read also acquires, have a statement of their own. R63,
R329, R10: in trap mode `csrwr` writes EPC word by word, with bits 1:0 dropped, and writes the bits of a tenant's CSR that
software writes, clearing those that a written 1 clears; every other CSR, register, predicate and byte of memory keeps its
value. A CSR without such a field ignores the write.
Completes: `csrrd`, `csrwr`. -/
def Obligations.CsrAccess : Prop :=
  (∀ (h : Hdr) (d : Reg) (n : BitVec 12) (s : State) (c : Ctx), Executes s c h 12 [⟨h.u, d, 1⟩] →
     (csrOfGroup n.toNat = true → Leaves s c (exec (.csrrd h d n) s) (fun x =>
       Writes c h.u d 1 (fun _ _ => groupWord c.grp n.toNat) x ∧ SamePreds c x)) ∧
     (csrOfGroup n.toNat = false → (csrMask n.toNat).isSome → csrTail n.toNat = false →
       Leaves s c (exec (.csrrd h d n) s) (fun x =>
         Writes c h.u d 1 (fun _ _ => csrValue s c.task.tenant n.toNat) x ∧ SamePreds c x)) ∧
     (csrOfGroup n.toNat = false → csrMask n.toNat = none → c.grp.trap = none → hvec s c.task.tenant ≠ 0 →
       Traps s c (exec (.csrrd h d n) s) 0x01 c.ent.mask 0)) ∧
  (∀ (h : Hdr) (n : BitVec 12) (a : Reg) (s : State) (c : Ctx), Executes s c h 12 [⟨h.u, a, 1⟩] → c.grp.trap ≠ none →
     let w := c.ra a 0 (lowest c.act)
     (n.toNat = 0x027 ∨ n.toNat = 0x028 →
       ∃ t x, exec (.csrwr h n a) s = .next t ∧ OnlyGroup s t c.tid c.g ∧ group t c.tid c.g = some x ∧ Moved c x ∧
         SameRegs c x ∧ SamePreds c x ∧ { x.rest with epc := c.grp.epc } = c.grp.rest ∧
         x.epc = if n.toNat = 0x027 then (c.grp.epc &&& 0x1FFFFFF00000000) ||| (w.setWidth 57 &&& 0xFFFFFFFC)
                 else (c.grp.epc &&& 0xFFFFFFFF) ||| (w.setWidth 57 <<< 32)) ∧
     (∀ m, csrOfGroup n.toNat = false → csrMask n.toNat = some m → (m ≠ 0 ∨ csrClears n.toNat ≠ 0) →
       csrLocked s c.task.tenant n.toNat = false → csrInRange n.toNat w.toNat = true →
       n.toNat ≠ 0x052 → n.toNat ≠ 0x062 → (0x030 ≤ n.toNat ∧ n.toNat ≤ 0x032 → detRuns s c.task.tenant = false) →
       ∃ t x, exec (.csrwr h n a) s = .next t ∧ SameMemory s t ∧ group t c.tid c.g = some x ∧ Moved c x ∧
         SameRegs c x ∧ SamePreds c x ∧
         ∀ k r, csrGet t k r = if k = c.task.tenant ∧ r = n.toNat then
           csrAfter (csrGet s k r) w m (csrClears n.toNat) else csrGet s k r) ∧
     (csrOfGroup n.toNat = false → csrMask n.toNat = some 0 → csrClears n.toNat = 0 →
       Leaves s c (exec (.csrwr h n a) s) (fun x => SameRegs c x ∧ SamePreds c x)))

/-! ### Scratchpad -/

/-- R70, R225, R235: `lds` gives each active lane the little-endian value at its offset, extended as SX says. R70, R227, R235:
`sts` stores each lane's data at its offset, where two lanes store to one byte the higher lane's; every other byte of the
scratchpad, and everything else of the block, keeps its value. R31, R409: a word that holds an uncorrectable error keeps it, and its
bytes, under a store of part of it, and loses it under a store of all of it.
Completes: `lds`, `sts`. -/
def Obligations.ScratchLoadsAndStores : Prop :=
  (∀ (h : Hdr) (d a : Reg) (off : SrcB) (sz : Size) (sx : Bool) (s : State) (c : Ctx),
     Executes s c h off.len ((⟨h.u, a, 1⟩ :: useB h.u off 1) ++ [⟨h.u, d, sizeRegs sz⟩]) →
     (∀ i ∈ c.lanes, spAllowed c.task (spOffset c a off i) (sizeBytes sz) false true) →
     Leaves s c (exec (.lds h d a off sz sx) s) (fun x => SamePreds c x ∧
       Writes c h.u d (sizeRegs sz) (fun i k =>
         sizedWord sz sx (spNum c.task (spOffset c a off i).toNat (sizeBytes sz)) k) x)) ∧
  (∀ (h : Hdr) (a : Reg) (off : SrcB) (v : SrcC) (sz : Size) (s : State) (c : Ctx),
     Executes s c h off.len (⟨h.u, a, 1⟩ :: (useB h.u off 1 ++ useC h.u v (sizeRegs sz))) →
     (∀ i ∈ c.lanes, spAllowed c.task (spOffset c a off i) (sizeBytes sz) true false) →
     let at_ := lastStorer c.lanes (spOffset c a off) (sizeBytes sz)
     ∃ t tk x, exec (.sts h a off v sz) s = .next t ∧ SameMemory s t ∧ SameCsrs s t ∧ SameGroups s t c.tid c.g ∧
       task t c.tid = some tk ∧ { tk with groups := c.task.groups, scratch := c.task.scratch, sbad := c.task.sbad } = c.task ∧
       group t c.tid c.g = some x ∧ Advanced c x ∧ SameRegs c x ∧ SamePreds c x ∧
       (∀ w, w ∈ tk.sbad ↔ w ∈ c.task.sbad ∧ (sizeBytes sz < 4 ∨ at_ (4 * w) = none)) ∧
       ∀ b, spByte tk b = if sizeBytes sz < 4 ∧ b / 4 ∈ c.task.sbad then spByte c.task b else match at_ b with
         | some i => wordByte (c.cs v (sizeRegs sz) i) (b - (spOffset c a off i).toNat)
         | none => spByte c.task b)

/-- R238, R240: a scratchpad atomic applies lane by lane in ascending order, each lane seeing what the lanes below it left; a
destination takes the value that was current at the lane's own turn.
Completes: `atoms`, `atomscas`, `reds`. -/
def Obligations.ScratchAtomics : Prop :=
  ∀ (i : Instr) (q : SAtom) (s : State) (c : Ctx), satomOf i = some q →
    Executes s c q.h q.len (q.reads ++ (match q.d with
      | some d => [⟨q.h.u, d, q.n / 4⟩]
      | none => [])) →
    (∀ j ∈ c.lanes, spAllowed c.task (q.at_ c j) q.n true true) →
    let r := rmwLanes q.n (fun j => (q.at_ c j).toNat) (q.f c) c.lanes (spByte c.task)
    ∃ t tk x, exec i s = .next t ∧ SameMemory s t ∧ SameCsrs s t ∧ SameGroups s t c.tid c.g ∧
      task t c.tid = some tk ∧ { tk with groups := c.task.groups, scratch := c.task.scratch } = c.task ∧
      group t c.tid c.g = some x ∧ Advanced c x ∧ SamePreds c x ∧ (∀ b, spByte tk b = r.1 b) ∧
      (match q.d with
        | some d => Writes c q.h.u d (q.n / 4) (fun j k => BitVec.ofNat 32 (r.2 j / 2 ^ (32 * k))) x
        | none => SameRegs c x)

/-- R65, R70, R235: when some lane of a scratchpad load or store is misaligned, the instruction traps MISALIGNED for exactly those
lanes, at the offset of the lowest of them; when none is and some lane is out of bounds, it traps with cause 0x04 for exactly
those. R31, R409: when no lane raises any of these, nor meets a tile, an `lds` traps DATA_ERROR for exactly the lanes whose bytes
hold an uncorrectable error. -/
def Obligations.ScratchChecksTrap : Prop :=
  ∀ (i : Instr) (h : Hdr) (a : Reg) (off : SrcB) (sz : Size) (s : State) (c : Ctx),
    ((∃ d sx, i = .lds h d a off sz sx ∧
        Executes s c h off.len ((⟨h.u, a, 1⟩ :: useB h.u off 1) ++ [⟨h.u, d, sizeRegs sz⟩])) ∨
      (∃ v, i = .sts h a off v sz ∧ Executes s c h off.len (⟨h.u, a, 1⟩ :: (useB h.u off 1 ++ useC h.u v (sizeRegs sz))))) →
    c.grp.trap = none → hvec s c.task.tenant ≠ 0 →
    let n : Int := sizeBytes sz
    let mis := maskOf (fun j => c.lanes.contains j && spOffset c a off j % n != 0)
    let out := maskOf (fun j => c.lanes.contains j &&
      (decide (spOffset c a off j < 0) || decide ((c.task.scratchSize : Int) < spOffset c a off j + n)))
    (mis ≠ 0 → Traps s c (exec i s) 0x03 mis (BitVec.ofNat 57 (spOffset c a off (lowest mis) % 2 ^ 32).toNat)) ∧
    (mis = 0 → out ≠ 0 → Traps s c (exec i s) 0x04 out (BitVec.ofNat 57 (spOffset c a off (lowest out) % 2 ^ 32).toNat)) ∧
    (mis = 0 → out = 0 → (∃ d sx, i = .lds h d a off sz sx) →
      (∀ j ∈ c.lanes, ∀ q ∈ c.task.tds, ¬ ((q.2.base : Int) ≤ spOffset c a off j ∧ spOffset c a off j < q.2.base + q.2.len)) →
      let bad := maskOf (fun j => c.lanes.contains j && c.task.sbad.any (fun w =>
        decide (spOffset c a off j < 4 * (w : Int) + 4) && decide (4 * (w : Int) < spOffset c a off j + n)))
      bad ≠ 0 → Traps s c (exec i s) 0x0C bad (BitVec.ofNat 57 (spOffset c a off (lowest bad)).toNat))


/-! ### Global memory -/

/-- R57, R223 to R233, R244, R384: a load whose lanes all pass their checks issues; its registers await the data (they are
pending until it returns), every register, predicate and byte of memory keeps its value, and its bundle advances. A load of an
ordered page, but for `ldc`, waits for lower blocks (R255), and any access for a matrix of its region or a retraining of its stack
(R402, R408).
Completes: `ld`, `ldx`, `ldc`. -/
def Obligations.LoadsIssue : Prop :=
  ∀ (i : Instr) (q : Access) (s s1 : State) (c : Ctx) (las : List LaneAcc), loadOf i = some q →
    Executes s c q.h q.len (q.reads ++ q.writes) → Quiet c.grp → Granted s c q.op (q.accs c) s1 las →
    (∀ la ∈ las, mapHolds s la.pa = false) →
    (opOrdReads q.op = true → (∃ la ∈ las, la.ordsh = true) → lowerPublished s c.task = true) →
    ∃ t x n, exec i s = .next t ∧ OnlyGroupIn s1 t c ∧ SameMemory s1 t ∧ group t c.tid c.g = some x ∧ Moved c x ∧
      SameRegs c x ∧ SamePreds c x ∧ x.loads = [(n, { op := q.op, act := c.act, lanes := las, vals := [] })] ∧
      (∀ r, r ∈ x.pendRegs ↔ r ∈ q.writes.flatMap Use.regs) ∧ { x.rest with loads := [] } = c.grp.rest

/-- R81, R226, R227, R231: a store whose lanes all pass their checks: in its core's view every byte stored to holds the datum of
the highest lane that stores to it, and every other byte what it held; memory at home is not yet changed; lanes whose page or
form asks for the home port are on their way there, one write a lane, and count in ST until accepted. (Formats whose element
shares a byte or needs a scale are executed at the port; the lines stored to at the port do not lie in the L1, lanes that meet
on a line agree about the port, the L1 has room for the lines, and a naturally aligned datum lies in one line.)
Completes: `st`, `stx`. -/
def Obligations.StoresIssue : Prop :=
  ∀ (i : Instr) (q : Access) (s s1 : State) (c : Ctx) (las : List LaneAcc), storeOf i = some q → opAtPort q.op = false →
    Executes s c q.h q.len q.reads → Quiet c.grp → Granted s c q.op (q.accs c) s1 las →
    ((∃ la ∈ las, la.ordsh = true) → tokenPos s c.task ≠ .before) →
    (∀ la ∈ las, la.port = true → ∀ p ∈ (core s1 c.task.core).l1, lineOfKey p.1 ≠ la.pa / lineBytes) →
    (∀ x ∈ las, ∀ y ∈ las, x.pa / lineBytes = y.pa / lineBytes → x.port = y.port) →
    (∀ la ∈ las, mapHolds s la.pa = false) → (core s1 c.task.core).l1.length + las.length ≤ l1Lines →
    let n := opBytes q.op
    (∀ la ∈ las, la.pa % lineBytes + n ≤ lineBytes) →
    ∃ t x m, exec i s = .next t ∧ OnlyGroupIn s1 t c ∧ SameMemory s1 t ∧ group t c.tid c.g = some x ∧ Moved c x ∧
      SameRegs c x ∧ SamePreds c x ∧ { x.rest with stores := [] } = c.grp.rest ∧
      x.stores = (if (las.filter LaneAcc.port).length = 0 then [] else [(m, (las.filter LaneAcc.port).length)]) ∧
      t.wq.map Wr.view = s1.wq.map Wr.view ++ (las.filter LaneAcc.port).map (fun la =>
        (dieOf c.task.core, la.key, c.task.tenant, la.pa / lineBytes,
          (List.range n).map (fun j => (la.pa + j, storedByte q.op la.data j)), some (c.tid, c.g, m))) ∧
      ∀ pa key, key < 256 → coreByte t c.task.core key pa =
        match (las.filter (fun la => la.key == key && decide (la.pa ≤ pa) && decide (pa < la.pa + n))).getLast? with
        | some la => storedByte q.op la.data (pa - la.pa)
        | none => coreByte s1 c.task.core key pa

/-- R81, R232, R237 to R240: an atomic or reduction reads and writes each lane's word at its home as one, in ascending order of
lanes, each lane seeing what the lanes below it left; an atomic holds the old values for its destinations, a reduction none;
every other byte under the key keeps its value. (All lanes meet one key and no uncorrectable line, and the port, the order's
fence and the rules of ordered pages let the access be made now.)
Completes: `atom`, `atomcas`, `red`, `reddet`. -/
def Obligations.AtomicsAtThePort : Prop :=
  ∀ (i : Instr) (q : Atomic) (s s1 : State) (c : Ctx) (las : List LaneAcc) (key : Nat), atomicOf i = some q →
    Executes s c q.h q.len (q.reads ++ q.writes) → Quiet c.grp → Granted s c q.op (q.accs c) s1 las →
    ((∃ h a off v op, i = .reddet h a off v op) → detLaunch s c.task = none) →
    (∀ la ∈ las, la.key = key ∧ mapHolds s la.pa = false ∧ ∀ j, j < opBytes q.op → blockBad s1 (la.pa + j) = false) →
    ((∃ la ∈ las, la.ordsh = true) → lowerPublished s c.task = true ∧ tokenPos s c.task ≠ .before) →
    (ordRel (opOrder q.op).2 = true → relReady (relAct s c.task.core (opOrder q.op).1) c (opOrder q.op).1 = true) →
    portReady (atPorts s1 c q.op las) c.task.core las = true →
    let n := opBytes q.op
    let w := rmwLanes n (fun j => ((las.find? (fun la => la.lane == j)).map (·.pa)).getD 0) (q.f c) c.lanes (readPa s1 key)
    ∃ t x m, exec i s = .next t ∧ OnlyGroupIn s1 t c ∧ group t c.tid c.g = some x ∧ Moved c x ∧ SameRegs c x ∧
      SamePreds c x ∧ { x.rest with loads := [], seen := c.grp.seen } = c.grp.rest ∧ (∀ a, readPa t key a = w.1 a) ∧
      x.loads = if q.writes = [] then [] else
        [(m, { op := q.op, act := c.act, lanes := las,
               vals := c.lanes.map (fun j => (j, (List.range (n / 4)).map (fun k => BitVec.ofNat 32 (w.2 j / 2 ^ (32 * k))))) })]

/-- R106, R231, R232: `stx` to an element that shares its byte, or whose block has a scale, rewrites that element's code at the home
port, rounded with the scale that stands there, and leaves the other element of the byte; the padding of its sheet is written as 0;
lanes act in ascending order.
Completes: `stx`. -/
def Obligations.FormattedStoresAtThePort : Prop :=
  ∀ (i : Instr) (q : Access) (h : Hdr) (a idx : Reg) (off : SrcB) (v : SrcC) (f : Fmt) (g : Geom) (sat : Bool) (s s1 : State)
    (c : Ctx) (las : List LaneAcc) (key : Nat), i = .stx h a off idx v f g sat → storeOf i = some q →
    blockFmt f = true ∨ elemBits f = 4 →
    Executes s c q.h q.len q.reads → Quiet c.grp → Granted s c q.op (q.accs c) s1 las →
    (∀ la ∈ las, la.key = key ∧ (∀ j, j < elemBytes f → blockBad s1 (la.pa + j) = false) ∧
      (blockFmt f = true → ∀ j, j < (sheetPad f g).2 → blockBad s1 (la.pa / 4096 * 4096 + (sheetPad f g).1 + j) = false)) →
    ((∃ la ∈ las, la.ordsh = true) → tokenPos s c.task ≠ .before) → (∀ la ∈ las, mapHolds s la.pa = false) →
    opReady (flushLanes s1 c.task.core q.op las) c.task.core q.op las = true →
    let put := fun (m : Nat → Byte) (la : LaneAcc) =>
      let old := ((List.range (elemBytes f)).map (fun j => (m (la.pa + j)).toNat * 256 ^ j)).sum
      let code := if blockFmt f then blockCode f (m (scalePa f g la)).toNat (f32 (la.data.headD 0))
                  else stxCode f sat (la.data.headD 0)
      fun b => if blockFmt f = true ∧ b / 4096 = la.pa / 4096 ∧ (sheetPad f g).1 ≤ b % 4096 ∧
          b % 4096 < (sheetPad f g).1 + (sheetPad f g).2 then 0 else if la.pa ≤ b ∧ b < la.pa + elemBytes f
        then BitVec.ofNat 8 (codeInto f (placeOf f g la.idx).high old code / 256 ^ (b - la.pa)) else m b
    ∃ t x, exec i s = .next t ∧ OnlyGroupIn s1 t c ∧ group t c.tid c.g = some x ∧ Advanced c x ∧ SameRegs c x ∧
      SamePreds c x ∧ ∀ b, readPa t key b = (las.foldl put (readPa s1 key)) b

/-- R65, R230: a global access of which some lane's address is not a multiple of what its form needs traps MISALIGNED for exactly
those lanes, with the address of the lowest of them, and accesses nothing. -/
def Obligations.MisalignedAccessTraps : Prop :=
  ∀ (i : Instr) (q : Access) (s : State) (c : Ctx),
    (loadOf i = some q ∨ storeOf i = some q ∨ ((∃ p, atomicOf i = some p ∧ p.toAccess = q) ∧
      ((∃ h a off v op, i = .reddet h a off v op) → detLaunch s c.task = none))) →
    Executes s c q.h q.len (q.reads ++ q.writes) → Quiet c.grp → c.grp.trap = none → hvec s c.task.tenant ≠ 0 →
    let bad := (q.accs c).filter (fun la => la.base % opAlign q.op != 0)
    bad ≠ [] → Traps s c (exec i s) 0x03 (laneSet (bad.map (·.lane)))
      (BitVec.ofNat 57 ((bad.head?.map (·.base)).getD 0))

/-- R234: `prefetch` never traps and changes no register, no predicate and no byte of memory but the A bits of the pages that it
translates. (A full L1 may write back a line to make room.)
Completes: `prefetch`. -/
def Obligations.PrefetchOnlyHints : Prop :=
  ∀ (h : Hdr) (a : Reg) (off : SrcB) (far : Bool) (s : State) (c : Ctx),
    Executes s c h off.len (⟨h.u, a, 2⟩ :: useB h.u off 1) →
    ∃ t x, exec (.prefetch h a off far) s = .next t ∧ OnlyGroupIn s t c ∧ group t c.tid c.g = some x ∧ Advanced c x ∧
      SameRegs c x ∧ SamePreds c x ∧ MarksOnly s t c.task.tenant 1 ∧
      ((core s c.task.core).l1.length + c.lanes.length ≤ l1Lines → t.wq = s.wq)

/-- R384, R386 to R389: an access that a translation allows has the permission bits that it needs (R, W, X, and not S at user
level) and a key that its tenant owns; the page's D bit is set when it is a write. Whatever its outcome, an access changes in
memory only A and D bits, and no register, CSR or task. -/
def Obligations.AccessPermissions : Prop :=
  ∀ (s : State) (v : Via) (n root va : Nat) (w : Want),
    let r := Machine.access s v n root va w
    MarksOnly s r.1 n 3 ∧ SameCsrs s r.1 ∧ r.1.tasks = s.tasks ∧
    ∀ pa x, r.2 = .ok pa x →
      (w.r = true → x.w0.testBit 4 = true) ∧ (w.w = true → x.w0.testBit 5 = true) ∧ (w.x = true → x.w0.testBit 6 = true) ∧
      (w.user = true → x.w0.testBit 7 = false) ∧
      (x.host = false → ownsKey s n x.key = true ∧ (w.w = true → x.w0.testBit 9 = true))

/-- R244, R225, R230, R238: when a load's data returns, its registers take, in its lanes, the bytes that memory holds at each
lane's physical address, extended as its size says, or the value of its element; an atomic's take the old values that it read.
Every other register and all of memory keep their values, and the load is no longer outstanding. (No cache holds a line that is
read; R81 says that they would be read there. No later operation has a register of it as its token, R345.)
Completes: `loadDataReturn`. -/
def Obligations.LoadDataReturns : Prop :=
  ∀ (s : State) (tid g id : Nat) (t : Task) (x0 : Group) (l : LoadRec), task s tid = some t → mget t.groups g = some x0 →
    mget x0.loads id = some l → loadReady s t x0 id l = true → (∀ p ∈ x0.passed, p.2 ≤ id) →
    (∀ la ∈ l.lanes, ∀ ln ∈ loadLines l.op la, Uncached s t l.op la ln) →
    (∀ la ∈ l.lanes, la.lane < 32 ∧ la.pa % 128 + opBytes l.op ≤ 128) →
    ∃ t1 x, exec (.loadDataReturn tid g id) s = .next t1 ∧ SameMemory s t1 ∧ SameCsrs s t1 ∧
      group t1 tid g = some x ∧ x.sansLoads = x0.sansLoads ∧ x.loads = mdel x0.loads id ∧
      (∀ d u sz sx home const, l.op = .load d u sz sx home const →
        Delivers x0 x u d (sizeRegs sz) l.act l.lanes (fun la k => sizedWord sz sx (numAt s la.key la.pa (sizeBytes sz)) k)) ∧
      (∀ d u f geo, l.op = .loadx d u f geo →
        Delivers x0 x u d 1 l.act l.lanes (fun la _ =>
          ldxWord f (if blockFmt f then (readPa s la.key (scalePa f geo la)).toNat else 0)
            (codeIn f (placeOf f geo la.idx).high (numAt s la.key la.pa (elemBytes f))))) ∧
      (∀ d u n, (∃ op sc o, l.op = .atom d u op sc o ∧ n = aopRegs op) ∨ (∃ w sc o, l.op = .cas d u w sc o ∧ n = if w then 2 else 1) →
        (∀ la ∈ l.lanes, ∃ ws, (l.vals.find? (fun p => p.1 == la.lane)) = some (la.lane, ws) ∧ ws.length = n) →
        Delivers x0 x u d n l.act l.lanes (fun la k =>
          ((l.vals.find? (fun p => p.1 == la.lane)).map (fun p => p.2.getD k 0)).getD 0))

/-! ### The memory system's events -/

/-- R81, R90, R244, R408, R409: a write arrives at its home port once every write that its stamp names has, and its stack does not
retrain: each of its bytes then
stands in memory under its key (but for those in an uncorrectable unit that it does not cover), every other byte under that key
keeps its value, and the write is on its way no longer. Before, the event changes nothing. R23, R81, R82, R94, R233: the oldest
update on its way to a die's far-line cache replaces its bytes in the copies of its line; a written L1 line is written back
whole, as writes on their way to its port; an unwritten L1 line, and a line of a constant cache, is dropped. None of them
changes memory at home.
Completes: `writeApplyAtPort`, `farlineUpdate`, `l1WritebackTimeout`, `l1InvalidateTimeout`, `constCacheDrop`. -/
def Obligations.WritesAndCaches : Prop :=
  (∀ (s : State) (w : Wr), s.wq.find? (fun v => v.id == w.id) = some w → mapOk w.bytes = true →
     let may := applicable s w && !retraining s (lineBytes * w.line)
     (may = false → exec (.writeApplyAtPort w.id) s = .next s) ∧
     (may = true → ∃ t, exec (.writeApplyAtPort w.id) s = .next t ∧ t.wq = s.wq.filter (fun v => v.id != w.id) ∧
       SameCsrs s t ∧
       ∀ a, readPa t w.keyid a =
         match mget w.bytes a with
         | some b => if blockBad s a = true ∧ coversUnit w.bytes a = false then readPa s w.keyid a else b
         | none => readPa s w.keyid a)) ∧
  ((∀ (s : State) (d : Nat) (u : FarUpd) (us : List FarUpd), (die s d).farq = u :: us →
     ∃ t, exec (.farlineUpdate ⟨d, 0⟩) s = .next (wakeAll t) ∧ { t with dies := s.dies } = s ∧ (∀ e, e ≠ d → die t e = die s e) ∧
       (die t d).farq = us ∧ (die t d).clock = (die s d).clock ∧
       ∀ k, mget (die t d).far k = (mget (die s d).far k).map (fun l =>
         if k / 256 = u.line ∧ k % 256 = u.keyid then
           { l with data := l.data.mapIdx (fun j b => (mget u.bytes (128 * u.line + j)).getD b),
                    stamp := List.zipWith max l.stamp u.stamp }
         else l)) ∧
   (∀ (s : State) (c line : Nat), mapOk (core s c).l1 = true →
     let dirty := (core s c).l1.filter (fun p => p.1 / 256 == line && !p.2.dirty.isEmpty)
     dirty ≠ [] →
     ∃ t, exec (.l1WritebackTimeout c line) s = .next (wakeAll t) ∧ SameMemory s t ∧ SameCsrs s t ∧ t.tasks = s.tasks ∧
       t.wq.map Wr.view = s.wq.map Wr.view ++ dirty.map (fun p => (dieOf c, p.2.keyid, p.2.tenant, line, p.2.dirty, none)) ∧
       (∀ p ∈ (core t c).l1, p.1 / 256 = line → p.2.dirty = []) ∧
       ∀ k, k / 256 ≠ line → mget (core t c).l1 k = mget (core s c).l1 k) ∧
   (∀ (s : State) (c line : Nat), mapOk (core s c).l1 = true →
     (∃ p ∈ (core s c).l1, p.1 / 256 = line ∧ p.2.dirty = []) →
     ∃ t, exec (.l1InvalidateTimeout c line) s = .next (wakeAll t) ∧ { t with cores := s.cores } = s ∧
       (∀ e, e ≠ c → core t e = core s e) ∧
       core t c = { core s c with l1 := (core s c).l1.filter (fun p => !(p.1 / 256 == line && p.2.dirty.isEmpty)) }) ∧
   (∀ (s : State) (c line : Nat), (∃ p ∈ (core s c).cc, p.1 / 256 = line) →
     ∃ t, exec (.constCacheDrop c line) s = .next (wakeAll t) ∧ { t with cores := s.cores } = s ∧
       (∀ e, e ≠ c → core t e = core s e) ∧
       core t c = { core s c with cc := (core s c).cc.filter (fun p => p.1 / 256 != line) }))

/-- R257, R258, R465: inside a DET launch `reddet` issues one ordered reduction a lane, with the key (block, SEQ, group, lane),
and touches no memory; `redmark` adds 1 to SEQ, which stays at 65,535. R255, R258 to R260, R465: a port accepts an ordered
reduction once the die's own writes to the line are applied; the lowest block that is over retires, the horizon and the commit
token move up to the next block that has not retired; and the accepted reductions below the horizon apply in key order, each
word taking the operation's result, and leave the ports. A block that so comes to hold the token acquires at package scope (R100).
Completes: `reddet`, `redmark`, `reddetAccept`, `blockRetire`, `horizonApply`. -/
def Obligations.OrderedReductions : Prop :=
  ((∀ (h : Hdr) (a : Reg) (off : SrcB) (v : SrcC) (op : AOp) (s s1 : State) (c : Ctx) (las : List LaneAcc),
     Executes s c h off.len (⟨h.u, a, 2⟩ :: (useB h.u off 1 ++ useC h.u v (aopRegs op))) → Quiet c.grp →
     (detLaunch s c.task).isSome = true →
     let m0 := MemOp.reddet op c.grp.seq.toNat
     Granted s c m0 (plainAccs a off (fun c i => c.aopData op v i) c) s1 las → (∀ la ∈ las, mapHolds s la.pa = false) →
     opReady (flushLanes s1 c.task.core m0 las) c.task.core m0 las = true →
     ∃ t x m new, exec (.reddet h a off v op) s = .next t ∧ OnlyGroupIn s1 t c ∧ SameMemory s1 t ∧
       group t c.tid c.g = some x ∧ Moved c x ∧ SameRegs c x ∧ SamePreds c x ∧ x.stores = [(m, las.length)] ∧
       { x.rest with stores := [] } = c.grp.rest ∧ t.reds = s1.reds ++ new ∧
       new.map (fun r => ((r.tenant, r.launch, r.blk, r.seq), (r.g, r.lane, r.pa, r.keyid), r.op, r.d, r.accepted, r.run)) =
         las.map (fun la => ((c.task.tenant, c.task.launch, c.task.blk, c.grp.seq.toNat), (c.g, la.lane, la.pa, la.key), op,
           la.data.headD 0, false, 0)) ∧
       ∀ r ∈ new, r.owner = some (c.tid, c.g, m)) ∧
   (∀ (h : Hdr) (s : State) (c : Ctx), Executes s c h 8 [] →
     ∃ t x, exec (.redmark h) s = .next t ∧ OnlyGroup s t c.tid c.g ∧ group t c.tid c.g = some x ∧ Moved c x ∧ SameRegs c x ∧
       SamePreds c x ∧ x.seq.toNat = min 0xFFFF (c.grp.seq.toNat + 1) ∧ { x.rest with seq := c.grp.seq } = c.grp.rest)) ∧
  ((∀ (s : State) (r : RedOp), s.reds.find? (fun q => q.order == r.order && !q.accepted) = some r →
     (∀ q ∈ s.reds, q.owner = r.owner → q.accepted = false → q.pa = r.pa → r.order ≤ q.order) →
     spillHolds s (r.pa / lineBytes) = false →
     (∀ o u, r.owner = some o → task s o.1 = some u → wrPending s (dieOf u.core) (r.pa / lineBytes) = false) →
     (s.reds.countP (fun q => decide (q.pa / lineBytes = r.pa / lineBytes))) ≤ 16 →
     ∃ t, exec (.reddetAccept r.order) s = .next (wakeAll t) ∧
       t.reds = s.reds.map (fun q => if q.order = r.order then { q with accepted := true } else q) ∧
       SameMemory s t ∧ SameCsrs s t ∧ { t with tasks := s.tasks, reds := s.reds } = s) ∧
   (∀ (s : State) (n launch b : Nat) (l : Launch), mget (tenant s n).launches launch = some l → l.trec.det = true →
     l.aborted = false → b < l.trec.blocks → blockOver s n launch l b = true →
     (∀ k, k < b → blockOver s n launch l k = false) →
     ∃ t l1, exec (.blockRetire n launch) s = .next (wakeAll t) ∧ SameMemory s t ∧ SameCsrs s t ∧ t.tasks = s.tasks ∧
       (l1.token = l.token → { t with tens := s.tens } = s) ∧
       (l1.token ≠ l.token → ∀ u ∈ blockTasks s n launch l1.token, Acquired t u.core .package) ∧ (∀ k, k ≠ n → tenant t k = tenant s k) ∧ mget (tenant t n).launches launch = some l1 ∧
       (∀ k, k ∈ l1.retired ↔ k ∈ l.retired ∨ k = b) ∧
       (l.horizon ≤ l1.horizon ∧ l1.horizon ∉ l1.retired ∧ ∀ k, l.horizon ≤ k → k < l1.horizon → k ∈ l1.retired) ∧
       (l.token ≤ l1.token ∧ l1.token ∉ l1.retired ∧ ∀ k, l.token ≤ k → k < l1.token → k ∈ l1.retired)) ∧
   (∀ (s : State) (n launch key : Nat) (l : Launch), mget (tenant s n).launches launch = some l → l.aborted = false → l.ends = [] →
     let rs := redsReady s n launch l
     rs ≠ [] → (∀ r ∈ rs, r.keyid = key ∧ ∀ j, j < 4 → blockBad s (r.pa + j) = false) →
     let w := rmwLanes 4 (fun j => ((rs[j]?).map (·.pa)).getD 0)
       (fun j o => ((rs[j]?).map (fun r => atomicResult r.op o r.d.toNat % 2 ^ 32)).getD 0) (List.range rs.length) (readPa s key)
     ∃ t, exec (.horizonApply n launch) s = .next (wakeAll t) ∧ (∀ a, readPa t key a = w.1 a) ∧
       t.reds = s.reds.filter (fun q => !(rs.map (·.order)).contains q.order) ∧ t.tasks = s.tasks))


/-! ### Synchronisation -/

/-- R37, R82, R95 to R97, R233, R242, R244: once nothing of its group is outstanding and its core's writes are at their ports, a
fence completes: no byte of memory and no register changes; one of a scope from cluster on leaves the L1 empty, and one of an
acquire kind the constant cache too and, from die on, no far-line update on its way that the group's reads depend on. `wait` completes when each count is at most its operand, and else stalls its group. R256, R255,
R465: outside a DET launch `tokacq` and `tokpass` only advance; the block that holds the commit token acquires with `tokacq`,
passes the token with `tokpass` to the next block that has not retired, which acquires, and is published by it once every access of
its tasks is complete; one that waits for the token
blocks, and one whose token has passed traps TOKEN_MISUSE, as does a `tokpass` without the token.
Completes: `fence`, `wait`, `tokacq`, `tokpass`. -/
def Obligations.FencesWaitsAndCommitToken : Prop :=
  ((∀ (h : Hdr) (kind : FKind) (scope : Scope) (s : State) (c : Ctx), Executes s c h 8 [] → Quiet c.grp →
     Drained s c.task.core →
     ∃ t x, exec (.fence h kind scope) s = .next t ∧ OnlyGroupIn s t c ∧ SameMemory s t ∧ group t c.tid c.g = some x ∧
       Advanced c x ∧ SameRegs c x ∧ SamePreds c x ∧ t.wq = [] ∧
       (scope ≠ .group → scope ≠ .block → (core t c.task.core).l1 = []) ∧
       (kind = .acq ∨ kind = .ar → AcquiredSeen t c.task.core scope c.grp.seen) ∧ (kind = .sc → Acquired t c.task.core scope)) ∧
   (∀ (h : Hdr) (ld st cp tl : BitVec 6) (s : State) (c : Ctx), Executes s c h 12 [] →
     let lds := (c.grp.loads.map (·.1) ++ (c.grp.oplog.filter (fun o => opCountsLd o.op)).map (·.id)).dedup.length
     let sts := (c.grp.stores.map (·.1) ++ (c.grp.oplog.filter (fun o => !opCountsLd o.op)).map (·.id)).dedup.length
     let cps := s.copies.countP (fun p => p.2.tid == c.tid && p.2.g == c.g) +
       s.colls.countP (fun p => p.2.tid == c.tid && p.2.g == c.g)
     let tls := ((core s c.task.core).ma0 ++ (core s c.task.core).ma1).countP (fun o => o.tid == c.tid && o.g == c.g &&
       (match o.kind with
        | .acczero _ _ => false
        | _ => true))
     (lds ≤ ld.toNat ∧ sts ≤ st.toNat ∧ cps ≤ cp.toNat ∧ tls ≤ tl.toNat →
       Leaves s c (exec (.wait h ld st cp tl) s) (fun x => SameRegs c x ∧ SamePreds c x)) ∧
     (¬ (lds ≤ ld.toNat ∧ sts ≤ st.toNat ∧ cps ≤ cp.toNat ∧ tls ≤ tl.toNat) → Stalls s c (exec (.wait h ld st cp tl) s)))) ∧
  (∀ (h : Hdr) (s : State) (c : Ctx), Executes s c h 8 [] → Quiet c.grp →
     (detLaunch s c.task = none →
       Leaves s c (exec (.tokacq h) s) (fun x => SameRegs c x ∧ SamePreds c x) ∧
       Leaves s c (exec (.tokpass h) s) (fun x => SameRegs c x ∧ SamePreds c x)) ∧
     (∀ l, detLaunch s c.task = some l →
       (l.token = c.task.blk →
         (∃ t x, exec (.tokacq h) s = .next t ∧ OnlyGroupIn s t c ∧ SameMemory s t ∧ group t c.tid c.g = some x ∧ Advanced c x ∧
           SameRegs c x ∧ SamePreds c x ∧ Acquired t c.task.core .package) ∧
         ((∀ u ∈ blockTasks s c.task.tenant c.task.launch c.task.blk, Drained s u.core ∧ ∀ q ∈ u.groups, Quiet q.2) → ∃ t x l1, exec (.tokpass h) s = .next t ∧ SameMemory s t ∧ SameCsrs s t ∧
           group t c.tid c.g = some x ∧ Advanced c x ∧ SameRegs c x ∧ SamePreds c x ∧
           mget (tenant t c.task.tenant).launches c.task.launch = some l1 ∧ c.task.blk ∈ l1.published ∧
           c.task.blk < l1.token ∧ l1.token ∉ l1.retired ∧ (∀ k, c.task.blk < k → k < l1.token → k ∈ l1.retired) ∧
           { l1 with published := l.published, token := l.token } = l ∧
           ∀ u ∈ blockTasks s c.task.tenant c.task.launch l1.token, Acquired t u.core .package)) ∧
       (c.task.blk < l.token → c.grp.trap = none → hvec s c.task.tenant ≠ 0 →
         Traps s c (exec (.tokacq h) s) 0x0D (oneLane (lowest c.act)) 0 ∧
         Traps s c (exec (.tokpass h) s) 0x0D (oneLane (lowest c.act)) 0) ∧
       (l.token < c.task.blk →
         (∃ t x, exec (.tokacq h) s = .next t ∧ OnlyGroup s t c.tid c.g ∧ group t c.tid c.g = some x ∧ Blocks c x .tok ∧
           SameRegs c x ∧ SamePreds c x) ∧
         (c.grp.trap = none → hvec s c.task.tenant ≠ 0 →
           Traps s c (exec (.tokpass h) s) 0x0D (oneLane (lowest c.act)) 0))))

/-- R302, R329 to R331, R421, R429, R434, R436: `csrrd` of a ring's tail also acquires at package scope; in trap mode `tlbinv` drops
from every TLB and every walker cache the tenant's entries that its operand covers, once what was translated before has completed
(a page operand from 2^57 on raises PROTECTION, R66);
`stop` does nothing while DBGCTL enables no debugging and else asks for a precise stop of the block; `smark` without records
only advances.
Completes: `csrrd`, `tlbinvPage`, `tlbinvAll`, `stop`, `smark`. -/
def Obligations.SystemInstructions : Prop :=
  (∀ (h : Hdr) (d : Reg) (n : BitVec 12) (s : State) (c : Ctx), Executes s c h 12 [⟨h.u, d, 1⟩] → Quiet c.grp →
    n.toNat ∈ [0x059, 0x07C, 0x084, 0x08C] →
    ∃ t x, exec (.csrrd h d n) s = .next t ∧ OnlyGroupIn s t c ∧ SameMemory s t ∧ group t c.tid c.g = some x ∧ Advanced c x ∧
      Writes c h.u d 1 (fun _ _ => csrGet s c.task.tenant n.toNat) x ∧ SamePreds c x ∧ Acquired t c.task.core .package) ∧
  (∀ (h : Hdr) (a : Reg) (off : SrcB) (s : State) (c : Ctx), Executes s c h off.len (⟨h.u, a, 2⟩ :: useB h.u off 1) →
    c.grp.trap ≠ none → 2 ^ 57 ≤ address c a off (lowest c.act) →
    exec (.tlbinvPage h a off) s = .next (c.takeTrap s 0x0A (oneLane (lowest c.act)) (address c a off (lowest c.act) % 2 ^ 57))) ∧
  (∀ (i : Instr) (h : Hdr) (n : Nat) (reads : List Use) (hit : Nat → Nat → Nat → Prop) (s : State) (c : Ctx),
    (∃ long, i = .tlbinvAll h long ∧ n = (if long then 12 else 8) ∧ reads = [] ∧ hit = fun k _ _ => k = c.task.tenant) ∨
      (∃ a off, i = .tlbinvPage h a off ∧ n = off.len ∧ reads = ⟨h.u, a, 2⟩ :: useB h.u off 1 ∧
        address c a off (lowest c.act) < 2 ^ 57 ∧
        let p := address c a off (lowest c.act) / 2 ^ 12 * 2 ^ 12
        hit = fun k lo len => k = c.task.tenant ∧ lo < p + 2 ^ 12 ∧ p < lo + len) →
    Executes s c h n reads → Quiet c.grp → c.grp.trap ≠ none → s.wq = [] → s.reds = [] →
    (∀ k, ∀ p ∈ (core s k).l1, p.2.dirty = []) → (∀ p ∈ s.tasks, ∀ q ∈ p.2.groups, q.2.loads = []) →
    ∃ t x, exec i s = .next t ∧ SameMemory s t ∧ SameCsrs s t ∧ group t c.tid c.g = some x ∧ Advanced c x ∧ SameRegs c x ∧
      SamePreds c x ∧
      (∀ k e, (e ∈ (core t k).tlb ↔ e ∈ (core s k).tlb ∧ ¬ hit e.tenant (e.vpage * e.bytes) e.bytes) ∧
        (e ∈ (core t k).wtlb ↔ e ∈ (core s k).wtlb ∧ ¬ hit e.tenant (e.vpage * e.bytes) e.bytes)) ∧
      ∀ k e, e ∈ (die t k).walks ↔ e ∈ (die s k).walks ∧ ¬ hit e.tenant e.lo e.size) ∧
  (∀ (h : Hdr) (s : State) (c : Ctx), Executes s c h 8 [] →
    ((csrGet s c.task.tenant 0x060).getLsbD 0 = false →
      Leaves s c (exec (.stop h) s) (fun x => SameRegs c x ∧ SamePreds c x)) ∧
    ((csrGet s c.task.tenant 0x060).getLsbD 0 = true → c.task.stopReq = none →
      ∃ t x tk, exec (.stop h) s = .next t ∧ SameMemory s t ∧ SameCsrs s t ∧ group t c.tid c.g = some x ∧ Advanced c x ∧
        SameRegs c x ∧ SamePreds c x ∧ task t c.tid = some tk ∧ tk.stopReq = some (1, 0) ∧
        { tk with stopReq := none }.rest = c.task.rest)) ∧
  (∀ (h : Hdr) (n : Byte) (a : Reg) (s : State) (c : Ctx), Executes s c h 8 [⟨h.u, a, 1⟩] →
    evOn s c.task.tenant 5 c.user = false →
    Leaves s c (exec (.smark h n a) s) (fun x => SameRegs c x ∧ SamePreds c x))

/-- R80, R245, R246, R247: `binit` binds a barrier to 16 bytes of scratchpad and clears them; an arrival of the active threads
counts up, records its group, and completes the phase at COUNT, which clears the object for the next phase; `barrive` answers
the phase, `barsync` goes on at once when it completes the phase and else blocks until it has passed, and `barwait` blocks only
while its phase is current. An arrival with a wrong count, or at a barrier that is not bound, traps with cause 0x07, and one at an
object that holds an uncorrectable error with DATA_ERROR (R31; that EADDR is the object's offset is the model's choice, log entry
91).
Completes: `binit`, `barrive`, `barwait`, `barsync`. -/
def Obligations.Barriers : Prop :=
  (∀ (h : Hdr) (n : BitVec 4) (a : Reg) (off : SrcB) (s : State) (c : Ctx),
    Executes s c h off.len (⟨h.u, a, 1⟩ :: useB h.u off 1) →
    let o := spOffset c a off (lowest c.act)
    0 ≤ o → o % 16 = 0 → o + 16 ≤ c.task.scratchSize →
    (∀ p ∈ c.task.tds, ¬ (o < p.2.base + p.2.len ∧ (p.2.base : Int) < o + 16)) →
    (∀ p ∈ c.task.tags, (4 * (p.1 : Int) < o + 16 ∧ o < 4 * p.1 + 4) → p.2 = .bar n.toNat) →
    (∀ p, mget c.task.bars n.toNat = some p → fieldAt c.task p 16 32 16 = 0 ∧ fieldAt c.task p 16 64 16 = 0 ∧ spSound c.task p 16) →
    ∃ t tk x, exec (.binit h n a off) s = .next t ∧ SameMemory s t ∧ SameCsrs s t ∧ SameGroups s t c.tid c.g ∧
      task t c.tid = some tk ∧ group t c.tid c.g = some x ∧ Advanced c x ∧ SameRegs c x ∧ SamePreds c x ∧
      mget tk.bars n.toNat = some o.toNat ∧ (∀ m, m ≠ n.toNat → mget tk.bars m = mget c.task.bars m) ∧
      spNum tk o.toNat 16 = 0 ∧ OtherBytes c.task tk o.toNat 16 ∧
      (∀ w, o.toNat / 4 ≤ w → w < o.toNat / 4 + 4 → mget tk.tags w = some (.bar n.toNat)) ∧
      { tk with groups := c.task.groups, scratch := c.task.scratch, sbad := c.task.sbad, tags := c.task.tags,
                bars := c.task.bars } = c.task ∧
      ∀ w, w ∈ tk.sbad ↔ w ∈ c.task.sbad ∧ ¬ (o.toNat / 4 ≤ w ∧ w < o.toNat / 4 + 4)) ∧
  (∀ (h : Hdr) (n : BitVec 4) (d : Reg) (cnt : SrcB) (s : State) (c : Ctx) (o : Nat),
    mget c.task.bars n.toNat = some o → spSound c.task o 16 → Quiet c.grp → NoBarrierEvents s c →
    let k := (c.b cnt (lowest c.act)).toNat
    let m := (lanesOf c.act).length
    mayArrive c.task o k m →
    (Executes s c h cnt.len (useB h.u cnt 1 ++ [⟨h.u, d, 1⟩]) →
      ∃ t tk x, exec (.barrive h n d cnt) s = .next t ∧ SameMemory s t ∧ SameCsrs s t ∧ SameGroups s t c.tid c.g ∧
        task t c.tid = some tk ∧ group t c.tid c.g = some x ∧ Advanced c x ∧ SamePreds c x ∧
        Writes c h.u d 1 (fun _ _ => BitVec.ofNat 32 (fieldAt c.task o 16 16 16)) x ∧
        barFields tk o = arrived c.task o c.g k m ∧ OtherBytes c.task tk o 16 ∧
        { tk with groups := c.task.groups, scratch := c.task.scratch, phases := c.task.phases } = c.task ∧
        tk.phases = c.task.phases + if fieldAt c.task o 16 32 16 + m = k then 1 else 0) ∧
    (Executes s c h cnt.len (useB h.u cnt 1) →
      ∃ t tk x, exec (.barsync h n cnt) s = .next t ∧ SameMemory s t ∧ SameCsrs s t ∧ SameGroups s t c.tid c.g ∧
        task t c.tid = some tk ∧ group t c.tid c.g = some x ∧ SameRegs c x ∧ SamePreds c x ∧ OtherBytes c.task tk o 16 ∧
        (if fieldAt c.task o 16 32 16 + m = k then Advanced c x ∧ barFields tk o = arrived c.task o c.g k m
         else Blocks c x (.bar n.toNat (fieldAt c.task o 16 16 16)) ∧
           barFields tk o = (arrived c.task o c.g k m).set 4 (withGroup (fieldAt c.task o 16 64 16) c.g)))) ∧
  (∀ (h : Hdr) (n : BitVec 4) (d a : Reg) (cnt : SrcB) (s : State) (c : Ctx) (o : Nat),
    mget c.task.bars n.toNat = some o → ¬ spSound c.task o 16 → c.grp.trap = none → hvec s c.task.tenant ≠ 0 → Quiet c.grp →
    (Executes s c h cnt.len (useB h.u cnt 1 ++ [⟨h.u, d, 1⟩]) →
      Traps s c (exec (.barrive h n d cnt) s) 0x0C (oneLane (lowest c.act)) (BitVec.ofNat 57 o)) ∧
    (Executes s c h cnt.len (useB h.u cnt 1) →
      Traps s c (exec (.barsync h n cnt) s) 0x0C (oneLane (lowest c.act)) (BitVec.ofNat 57 o)) ∧
    (Executes s c h 8 [⟨h.u, a, 1⟩] →
      Traps s c (exec (.barwait h n a) s) 0x0C (oneLane (lowest c.act)) (BitVec.ofNat 57 o))) ∧
  (∀ (h : Hdr) (n : BitVec 4) (d : Reg) (cnt : SrcB) (s : State) (c : Ctx),
    c.grp.trap = none → hvec s c.task.tenant ≠ 0 → Quiet c.grp →
    (∀ o, mget c.task.bars n.toNat = some o → spSound c.task o 16 ∧
      ¬ mayArrive c.task o (c.b cnt (lowest c.act)).toNat (lanesOf c.act).length) →
    (Executes s c h cnt.len (useB h.u cnt 1 ++ [⟨h.u, d, 1⟩]) →
      Traps s c (exec (.barrive h n d cnt) s) 0x07 (oneLane (lowest c.act)) 0) ∧
    (Executes s c h cnt.len (useB h.u cnt 1) → Traps s c (exec (.barsync h n cnt) s) 0x07 (oneLane (lowest c.act)) 0)) ∧
  (∀ (h : Hdr) (n : BitVec 4) (a : Reg) (s : State) (c : Ctx) (o : Nat), Executes s c h 8 [⟨h.u, a, 1⟩] →
    mget c.task.bars n.toNat = some o → spSound c.task o 16 → Quiet c.grp →
    let p := (c.ra a 0 (lowest c.act)).toNat % 2 ^ 16
    if fieldAt c.task o 16 16 16 = p then
      ∃ t tk x, exec (.barwait h n a) s = .next t ∧ SameMemory s t ∧ SameCsrs s t ∧ SameGroups s t c.tid c.g ∧
        task t c.tid = some tk ∧ group t c.tid c.g = some x ∧ SameRegs c x ∧ SamePreds c x ∧ OtherBytes c.task tk o 16 ∧
        Blocks c x (.bar n.toNat p) ∧
        barFields tk o = (barFields c.task o).set 4 (withGroup (fieldAt c.task o 16 64 16) c.g)
    else Leaves s c (exec (.barwait h n a) s) (fun x => SameRegs c x ∧ SamePreds c x))

/-- R248 to R252: `qinit` binds an empty queue; a push that fits appends one entry a lane in ascending order, from the lane's
registers, and raises TAIL; a pop that finds enough entries takes the oldest, one a lane in ascending order, and raises HEAD;
`qtry` takes as many as there are and says which lanes received one; a push or pop that does not fit blocks, and one that never
could, or of a queue that is not bound, traps with cause 0x08. (No word of the queue holds an uncorrectable error.)
Completes: `qinit`, `qpush`, `qpop`, `qtry`. -/
def Obligations.Queues : Prop :=
  (∀ (h : Hdr) (n : BitVec 3) (es : BitVec 2) (a : Reg) (off : Word) (entries : BitVec 13) (allow : Byte) (s : State) (c : Ctx),
    Executes s c h 16 [⟨h.u, a, 1⟩] →
    let o := spOffset c a (.imm off) (lowest c.act)
    let len := 32 + entries.toNat * (4 * 2 ^ es.toNat)
    0 ≤ o → o % 32 = 0 → o + len ≤ c.task.scratchSize → 1 ≤ entries.toNat → entries.toNat ≤ 4096 →
    (∀ p ∈ c.task.tds, ¬ (o < p.2.base + p.2.len ∧ (p.2.base : Int) < o + len)) →
    (∀ p ∈ c.task.tags, (4 * (p.1 : Int) < o + len ∧ o < 4 * p.1 + 4) → ∃ g, p.2 = .queue n.toNat g) →
    (∀ p, mget c.task.queues n.toNat = some p →
      fieldAt c.task p 32 96 16 = 0 ∧ fieldAt c.task p 32 112 16 = 0 ∧ spSound c.task p 32) →
    ∃ t tk x, exec (.qinit h n es a off entries allow) s = .next t ∧ SameMemory s t ∧ SameCsrs s t ∧
      SameGroups s t c.tid c.g ∧ task t c.tid = some tk ∧ group t c.tid c.g = some x ∧ Advanced c x ∧ SameRegs c x ∧
      SamePreds c x ∧ mget tk.queues n.toNat = some o.toNat ∧ OtherBytes c.task tk o.toNat 32 ∧
      qHeadOf tk o.toNat = 0 ∧ qTailOf tk o.toNat = 0 ∧ qEntriesOf tk o.toNat = entries.toNat ∧
      qBytesOf tk o.toNat = 4 * 2 ^ es.toNat ∧ qAllowOf tk o.toNat = allow.toNat ∧
      { tk with groups := c.task.groups, scratch := c.task.scratch, sbad := c.task.sbad, tags := c.task.tags,
                queues := c.task.queues } = c.task) ∧
  (∀ (h : Hdr) (n : BitVec 3) (r : Reg) (p : BitVec 3) (s : State) (c : Ctx), mget c.task.queues n.toNat = none →
    Executes s c h 8 [⟨h.u, r, 1⟩] → c.grp.trap = none → hvec s c.task.tenant ≠ 0 →
    ∀ i ∈ [Instr.qpush h n r, Instr.qpop h n r, Instr.qtry h n r p], Traps s c (exec i s) 0x08 (laneSet c.lanes) 0) ∧
  (∀ (h : Hdr) (n : BitVec 3) (a : Reg) (s : State) (c : Ctx) (o : Nat), QueueAt c.task n.toNat o c.lanes.length →
    Executes s c h 8 [⟨h.u, a, qBytesOf c.task o / 4⟩] → Quiet c.grp → NoQueueWaits c.task n.toNat →
    let k := c.lanes.length
    let used := qTailOf c.task o - qHeadOf c.task o
    (used + k ≤ qEntriesOf c.task o → (qAllowOf c.task o = 0 ∨ qCountOf c.task o c.g + k ≤ qAllowOf c.task o) →
      ∃ t tk x, exec (.qpush h n a) s = .next t ∧ SameMemory s t ∧ SameCsrs s t ∧ SameGroups s t c.tid c.g ∧
        task t c.tid = some tk ∧ group t c.tid c.g = some x ∧ Advanced c x ∧ SameRegs c x ∧ SamePreds c x ∧
        qHeadOf tk o = qHeadOf c.task o ∧ qTailOf tk o = qTailOf c.task o + k ∧
        (∀ j w, qHeadOf c.task o ≤ j → j < qTailOf c.task o → w < qBytesOf c.task o / 4 → qWord tk o j w = qWord c.task o j w) ∧
        (∀ m w, m < k → w < qBytesOf c.task o / 4 → qWord tk o (qTailOf c.task o + m) w = c.ra a w (c.lanes.getD m 0)) ∧
        (qAllowOf c.task o ≠ 0 → c.g < 16 → qCountOf tk o c.g = qCountOf c.task o c.g + k) ∧
        OtherBytes c.task tk o (32 + qEntriesOf c.task o * qBytesOf c.task o)) ∧
    (k ≤ qEntriesOf c.task o → (qAllowOf c.task o = 0 ∨ k ≤ qAllowOf c.task o) →
      (qEntriesOf c.task o < used + k ∨ (qAllowOf c.task o ≠ 0 ∧ qAllowOf c.task o < qCountOf c.task o c.g + k)) →
      ∃ t x, exec (.qpush h n a) s = .next t ∧ SameMemory s t ∧ SameCsrs s t ∧ SameGroups s t c.tid c.g ∧
        group t c.tid c.g = some x ∧ SameRegs c x ∧ SamePreds c x ∧
        Blocks c x (.push n.toNat (c.lanes.map (fun i => (List.range (qBytesOf c.task o / 4)).map (fun w => c.ra a w i)))
          c.task.qord)) ∧
    (qEntriesOf c.task o < k ∨ (qAllowOf c.task o ≠ 0 ∧ qAllowOf c.task o < k) → c.grp.trap = none → hvec s c.task.tenant ≠ 0 →
      Traps s c (exec (.qpush h n a) s) 0x08 (laneSet c.lanes) 0)) ∧
  (∀ (h : Hdr) (n : BitVec 3) (d : Reg) (p : BitVec 3) (s : State) (c : Ctx) (o : Nat),
    QueueAt c.task n.toNat o 0 → Executes s c h 8 [⟨h.u, d, qBytesOf c.task o / 4⟩] → Quiet c.grp →
    NoQueueWaits c.task n.toNat →
    let k := c.lanes.length
    let used := qTailOf c.task o - qHeadOf c.task o
    let place := fun i => ((List.range k).find? (fun m => c.lanes[m]? == some i)).getD 0
    (k ≤ used →
      ∃ t tk x, exec (.qpop h n d) s = .next t ∧ SameMemory s t ∧ SameCsrs s t ∧ SameGroups s t c.tid c.g ∧
        task t c.tid = some tk ∧ group t c.tid c.g = some x ∧ Advanced c x ∧ SamePreds c x ∧
        qHeadOf tk o = qHeadOf c.task o + k ∧ qTailOf tk o = qTailOf c.task o ∧ OtherBytes c.task tk o 32 ∧
        Writes c h.u d (qBytesOf c.task o / 4) (fun i w => qWord c.task o (qHeadOf c.task o + place i) w) x) ∧
    (used < k → k ≤ qEntriesOf c.task o →
      ∃ t x, exec (.qpop h n d) s = .next t ∧ SameMemory s t ∧ SameCsrs s t ∧ SameGroups s t c.tid c.g ∧
        group t c.tid c.g = some x ∧ SameRegs c x ∧ SamePreds c x ∧ Blocks c x (.pop n.toNat d h.u c.act c.task.qord)) ∧
    (qEntriesOf c.task o < k → c.grp.trap = none → hvec s c.task.tenant ≠ 0 →
      Traps s c (exec (.qpop h n d) s) 0x08 (laneSet c.lanes) 0) ∧
    (∃ t tk x, exec (.qtry h n d p) s = .next t ∧ SameMemory s t ∧ SameCsrs s t ∧ SameGroups s t c.tid c.g ∧
      task t c.tid = some tk ∧ group t c.tid c.g = some x ∧ Advanced c x ∧
      qHeadOf tk o = qHeadOf c.task o + min k used ∧ qTailOf tk o = qTailOf c.task o ∧ OtherBytes c.task tk o 32 ∧
      WritesPred c p.toNat (fun i => decide (place i < min k used)) x ∧
      ∀ r lane, lane < 32 → x.reg r lane =
        match (List.range (qBytesOf c.task o / 4)).find? (fun w => fieldRg h.u d w == r) with
        | some w => if (match r with | .v _ => has c.act lane | .s _ => true) = true ∧ place (c.src lane) < min k used then
                      qWord c.task o (qHeadOf c.task o + place (c.src lane)) w
                    else c.grp.reg r lane
        | none => c.grp.reg r lane))

/-- R253, R254, R255, R463: `chainp` sends its word to the home port after everything of its core has reached its port, and in a DET
launch after everything of its block, which it publishes; `chainw` reads the word at its home, goes on with an acquire when the word
is the awaited one (or, with `.ge`, at most 2^31 - 1 ahead of it), and else blocks.
Completes: `chainw`, `chainp`. -/
def Obligations.Chains : Prop :=
  ∀ (h : Hdr) (a : Reg) (off : SrcB) (v : SrcC) (scope : Scope) (ge : Bool) (s s1 : State) (c : Ctx) (la : LaneAcc),
    Executes s c h off.len (⟨h.u, a, 2⟩ :: (useB h.u off 1 ++ useC h.u v 1)) → Quiet c.grp → Drained s c.task.core →
    let va := address c a off (lowest c.act)
    let w := c.c v (lowest c.act)
    mapHolds s1 la.pa = false →
    (laneCheck s c.task c.user (.store .b32 true) (laneAcc (lowest c.act) va va 0 []) = (s1, .go la) → la.ordsh = false →
      (∀ p ∈ (core s1 c.task.core).l1, lineOfKey p.1 ≠ la.pa / lineBytes) →
      (detLaunch s c.task ≠ none →
        ∀ u ∈ blockTasks s c.task.tenant c.task.launch c.task.blk, Drained s u.core ∧ ∀ q ∈ u.groups, Quiet q.2) →
      ∃ t x, exec (.chainp h a off v scope) s = .next t ∧ OnlyGroupIn (wakeAll s1) t c ∧ SameMemory s1 t ∧ group t c.tid c.g = some x ∧
        Advanced c x ∧ SameRegs c x ∧ SamePreds c x ∧ t.wq.map Wr.view = [(dieOf c.task.core, la.key, c.task.tenant,
          la.pa / lineBytes, (List.range 4).map (fun j => (la.pa + j, (w >>> (8 * j)).setWidth 8)), none)] ∧
        ∀ l, detLaunch s c.task = some l → ∃ l1, mget (tenant t c.task.tenant).launches c.task.launch = some l1 ∧
          c.task.blk ∈ l1.published ∧ { l1 with published := l.published } = l) ∧
    (laneCheck s c.task c.user (.load 0 false .b32 false true false) (laneAcc (lowest c.act) va va 0 []) = (s1, .go la) →
      la.ordsh = false → la.pa % 128 + 4 ≤ 128 →
      (∀ p ∈ (core s1 c.task.core).l1, lineOfKey p.1 ≠ la.pa / lineBytes) → redsDue s1 (la.pa / lineBytes) = false →
      let word := BitVec.ofNat 32 (numAt s1 la.key la.pa 4)
      if (if ge then (word - w).toNat < 2 ^ 31 else word = w) then
        ∃ t x, exec (.chainw h a off v scope ge) s = .next t ∧ OnlyGroupIn s1 t c ∧ SameMemory s1 t ∧
          group t c.tid c.g = some x ∧ Moved c x ∧ SameRegs c x ∧ SamePreds c x ∧ { x.rest with seen := c.grp.seen } = c.grp.rest ∧
          AcquiredSeen t c.task.core scope x.seen
      else
        ∃ t x, exec (.chainw h a off v scope ge) s = .next t ∧ OnlyGroupIn s1 t c ∧ SameMemory s1 t ∧
          group t c.tid c.g = some x ∧ SameRegs c x ∧ SamePreds c x ∧ Blocks c x (.chain va w ge scope))


/-! ### Engines -/

/-- R72, R77, R261 to R277: tiles are defined, freed, awaited and tested; a tensor record is loaded with the format of its page;
`cpl`, `cpt` and `cpr` start a copy of their lanes, their tile window or their chunks with a pending token and its chunks taken;
`cpcancel` stops the copy that a token names, and does nothing for a token that is not pending. A descriptor or parameter in
conflict with its rules traps ENGINE_PARAM.
Completes: `cpl`, `cpt`, `cpr`, `chkwait`, `chktest`, `tdesc`, `tfree`, `trec`, `cpcancel`. -/
def Obligations.TilesAndCopies : Prop :=
  (∀ (h : Hdr) (td : BitVec 4) (a : Reg) (len : Byte) (fmt geom : BitVec 4) (pitch rows cols : Half) (s : State) (c : Ctx),
    Executes s c h 16 [⟨h.u, a, 1⟩] →
    let base := (c.ra a 0 (lowest c.act)).toNat
    let bad := tdescBad c.task td.toNat base len.toNat fmt.toNat geom.toNat pitch.toNat rows.toNat cols.toNat
    (bad = false → ∃ t tk x tile, exec (.tdesc h td a len fmt geom pitch rows cols) s = .next t ∧ SameMemory s t ∧
      SameCsrs s t ∧ SameGroups s t c.tid c.g ∧ task t c.tid = some tk ∧ group t c.tid c.g = some x ∧ Advanced c x ∧
      SameRegs c x ∧ SamePreds c x ∧ { tk with groups := c.task.groups, tds := c.task.tds } = c.task ∧
      (∀ n, mget tk.tds n = if n = td.toNat then some tile else mget c.task.tds n) ∧
      (tile.base, tile.len, tile.pitch, tile.rows, tile.cols) =
        (base, 512 * len.toNat, pitch.toNat, rows.toNat, cols.toNat) ∧
      tile.fmt.code = fmt.toNat ∧ tile.geom.code = geom.toNat ∧ (∀ j, j < 128 → tile.own.getLsbD j = decide (j < len.toNat)) ∧
      tile.rcnt = []) ∧
    (bad = true → c.grp.trap = none → hvec s c.task.tenant ≠ 0 →
      Traps s c (exec (.tdesc h td a len fmt geom pitch rows cols) s) 0x13 (oneLane (lowest c.act)) 0)) ∧
  (∀ (h : Hdr) (td : BitVec 4) (mask : Word) (first : BitVec 7) (p : BitVec 3) (s : State) (c : Ctx) (tile : Tile),
    mget c.task.tds td.toNat = some tile →
    (Executes s c h 8 [] → IdleTile tile (List.range (tile.len / 512)) →
      ∃ t tk x, exec (.tfree h td) s = .next t ∧ SameMemory s t ∧ SameCsrs s t ∧ SameGroups s t c.tid c.g ∧
        task t c.tid = some tk ∧ group t c.tid c.g = some x ∧ Advanced c x ∧ SameRegs c x ∧ SamePreds c x ∧
        { tk with groups := c.task.groups, tds := c.task.tds } = c.task ∧
        ∀ n, mget tk.tds n = if n = td.toNat then none else mget c.task.tds n) ∧
    (Executes s c h 12 [] →
      (IdleTile tile (namedChunks tile mask first.toNat) →
        Leaves s c (exec (.chkwait h td mask first) s) (fun x => SameRegs c x ∧ SamePreds c x) ∧
        Leaves s c (exec (.chktest h p td mask first) s) (fun x => SameRegs c x ∧ WritesPred c p.toNat (fun _ => true) x)) ∧
      (¬ IdleTile tile (namedChunks tile mask first.toNat) → Stalls s c (exec (.chkwait h td mask first) s) ∧
        Leaves s c (exec (.chktest h p td mask first) s) (fun x => SameRegs c x ∧ WritesPred c p.toNat (fun _ => false) x)))) ∧
  (∀ (h : Hdr) (tx : BitVec 3) (a : Reg) (off : SrcB) (s s1 s2 : State) (c : Ctx) (las : List LaneAcc) (pa : Nat) (xl : Xl)
      (f : Fmt) (g : Geom),
    Executes s c h off.len (⟨h.u, a, 2⟩ :: useB h.u off 1) → Quiet c.grp → Drained s c.task.core →
    let va := address c a off (lowest c.act)
    va % 64 = 0 → va < 2 ^ 57 → engPlan s c.task c.user true false none [va, va + 32] = .go s1 las →
    FreshGranules s1 c.task las →
    let n := granNum s1 las va 64
    let base := n / 2 ^ 455 % 2 ^ 57
    Machine.access (engLoad s1 c.task las).1 (.tile c.task.core) c.task.tenant (rootOf s c.task) base
      { r := true, w := false, x := false, user := c.user } = (s2, .ok pa xl) →
    Fmt.ofCode xl.fmt = some f → Geom.ofCode xl.geom = some g → pairOk f g = true → trecBad n (trecOf n f g) = false →
    ∃ t tk x, exec (.trec h tx a off) s = .next t ∧ SameCsrs s2 t ∧ SameGroups s2 t c.tid c.g ∧ task t c.tid = some tk ∧
      group t c.tid c.g = some x ∧ Advanced c x ∧ SameRegs c x ∧ SamePreds c x ∧ SameMemory s2 t ∧
      ∀ k, mget tk.txs k = if k = tx.toNat then some (recordOf n f g) else mget c.task.txs k) ∧
  (∀ (h : Hdr) (tok a : Reg) (off : Word) (so : Reg) (sz : CSz) (s2g : Bool) (scope : Scope) (s : State) (c : Ctx),
    Executes s c h 12 [⟨h.u, a, 2⟩, ⟨h.u, so, 1⟩] → tok.toNat - 448 ∉ c.grp.toks →
    let n := cszBytes sz
    let ls := c.lanes.map (fun i => (i, address c a (.imm off) i, (c.ra so 0 i).toNat))
    let k := CopyKind.cpl n s2g ls
    (∀ l ∈ ls, l.2.1 % n = 0 ∧ l.2.2 % n = 0 ∧ l.2.1 < 2 ^ 57 ∧ l.2.2 + n ≤ c.task.scratchSize ∧
      ∃ p ∈ c.task.tds, p.2.base ≤ l.2.2 ∧ l.2.2 + n ≤ p.2.base + p.2.len) →
    MayTake s c (copyWrites k (copyUnits k)) (copyReads k (copyUnits k)) →
    ∃ t, exec (.cpl h tok a off so sz s2g scope) s = .next t ∧ CopyStarts s t c tok scope k) ∧
  (∀ (h : Hdr) (tok row : Reg) (col : SrcC) (td : BitVec 4) (tx : BitVec 3) (s2g : Bool) (scope : Scope) (s : State) (c : Ctx)
      (tile : Tile) (r : TRec),
    Executes s c h 12 (⟨h.u, row, 1⟩ :: useC h.u col 1) → tok.toNat - 448 ∉ c.grp.toks →
    mget c.task.tds td.toNat = some tile → mget c.task.txs tx.toNat = some r →
    let i := (c.ra row 0 (lowest c.act)).toNat
    let j := (c.c col (lowest c.act)).toNat
    let k := CopyKind.cpt s2g td.toNat tile r i j
    tile.rows ≠ 0 → tile.fmt ≠ .raw → tile.fmt = r.fmt → tile.geom = r.geom →
    (blockFmt tile.fmt = true → j % blockSize tile.geom = 0) →
    MayTake s c (copyWrites k (copyUnits k)) (copyReads k (copyUnits k)) →
    ∃ t, exec (.cpt h tok row col td tx s2g scope) s = .next t ∧ CopyStarts s t c tok scope k) ∧
  (∀ (h : Hdr) (tok a : Reg) (td : BitVec 4) (op : AOp) (first count : Byte) (scope : Scope) (s : State) (c : Ctx) (tile : Tile),
    Executes s c h 12 [⟨h.u, a, 2⟩] → tok.toNat - 448 ∉ c.grp.toks → mget c.task.tds td.toNat = some tile →
    let va := (c.ra a 1 (lowest c.act) ++ c.ra a 0 (lowest c.act) : BitVec 64).toNat
    let k := CopyKind.cpr op td.toNat tile va first.toNat count.toNat
    va % 512 = 0 → va < 2 ^ 57 → 1 ≤ count.toNat → first.toNat + count.toNat ≤ tile.len / 512 →
    MayTake s c (copyWrites k (copyUnits k)) (copyReads k (copyUnits k)) →
    ∃ t, exec (.cpr h tok a td op first count scope) s = .next t ∧ CopyStarts s t c tok scope k) ∧
  (∀ (h : Hdr) (tok : Reg) (s : State) (c : Ctx), Executes s c h 8 [] →
    (tok.toNat - 448 ∉ c.grp.toks → Leaves s c (exec (.cpcancel h tok) s) (fun x => SameRegs c x ∧ SamePreds c x)) ∧
    (∀ id op, tok.toNat - 448 ∈ c.grp.toks →
      s.copies.find? (fun p => p.2.tid == c.tid && p.2.g == c.g && p.2.tok == tok.toNat - 448) = some (id, op) →
      op.ending = none →
      ∃ t x, exec (.cpcancel h tok) s = .next t ∧ SameMemory s t ∧ SameCsrs s t ∧ SameGroups s t c.tid c.g ∧
        group t c.tid c.g = some x ∧ Advanced c x ∧ SameRegs c x ∧ SamePreds c x ∧
        ∀ n, mget t.copies n = if n = id then some { op with todo := [], ending := some 1 } else mget s.copies n))

/-- R79, R263, R271 to R274: a unit of a `cpl` into the scratchpad lands whole, each byte as global memory shows it, and its chunk
returns to the threads; one to global memory leaves for its port; a chunk of `cpr` applies its 128 word operations at the port at
once; and a copy with nothing left, whose writes have arrived, writes its token: status 0, or why it stopped, and the units done.
Completes: `chunkLands`, `cprChunkApply`, `copyComplete`. -/
def Obligations.CopiesProgress : Prop :=
  (∀ (s s1 : State) (id u n : Nat) (op : CopyOp) (tk : Task) (ls : List (Nat × Nat × Nat)) (las : List LaneAcc),
    mget s.copies id = some op → task s op.tid = some tk → copyGoes s id op tk = true → u ∈ op.todo →
    op.kind = .cpl n false ls → n ∈ [4, 8, 16] → (∀ p ∈ ls, p.2.2 % n = 0) →
    ((ls.filter (fun p => p.2.2 / 512 == u)).map (fun p => p.2.2)).Nodup →
    engPlan s tk op.user true false none (inReads op.kind u) = .go s1 las → FreshGranules s1 tk las →
    ∃ t tk1, exec (.chunkLands id u) s = .next (wakeAll t) ∧ SameMemory s1 t ∧ SameCsrs s1 t ∧ task t op.tid = some tk1 ∧
      (∀ p ∈ ls, p.2.2 / 512 = u → ∀ j, j < n → (spByte tk1 (p.2.2 + j)).toNat = granNum s1 las (p.2.1 + j) 1) ∧
      (∀ b, (∀ p ∈ ls, p.2.2 / 512 = u → ¬ (p.2.2 ≤ b ∧ b < p.2.2 + n)) → spByte tk1 b = spByte tk b) ∧
      tk1.groups = tk.groups ∧
      mget t.copies id = some { op with todo := op.todo.filter (· != u), done := insertNat u op.done } ∧
      ∀ x ∈ tk1.tds, x.2.base % 512 = 0 → x.2.base / 512 ≤ u → 512 * u < x.2.base + x.2.len → x.2.len ≤ 65536 →
        x.2.own.getLsbD (u - x.2.base / 512) = true) ∧
  (∀ (s s1 : State) (id u n : Nat) (op : CopyOp) (tk : Task) (ls : List (Nat × Nat × Nat)) (las : List LaneAcc),
    mget s.copies id = some op → task s op.tid = some tk → copyGoes s id op tk = true → u ∈ op.todo →
    op.kind = .cpl n true ls → n ∈ [4, 8, 16] → (∀ p ∈ ls, p.2.1 % n = 0) →
    ((ls.filter (fun p => p.2.1 / 512 == u)).map (fun p => p.2.1)).Nodup →
    engPlan s tk op.user false true none ((outBytes tk op.kind u).1.map (·.1)) = .go s1 las → outBad tk op.kind u = false →
    ∃ t, exec (.chunkLands id u) s = .next (wakeAll t) ∧ SameMemory s1 t ∧ SameCsrs s1 t ∧
      (∀ p ∈ ls, p.2.1 / 512 = u → ∀ j, j < n → ∀ la ∈ las, la.addr / 32 = (p.2.1 + j) / 32 →
        ∃ w ∈ t.wq, w.owner = some (op.tid, op.g, id) ∧ w.keyid = la.key ∧
          mget w.bytes (la.pa + (p.2.1 + j) % 32) = some (spByte tk (p.2.2 + j))) ∧
      mget t.copies id = some { op with todo := op.todo.filter (· != u), done := insertNat u op.done }) ∧
  (∀ (s s1 : State) (id u dst first count key pa : Nat) (a : AOp) (td : Nat) (tile : Tile) (op : CopyOp) (tk : Task)
      (las : List LaneAcc),
    mget s.copies id = some op → task s op.tid = some tk → copyGoes s id op tk = true → u ∈ op.todo →
    op.kind = .cpr a td tile dst first count → dst % 512 = 0 → pa % 512 = 0 →
    let va := dst + 512 * (u - (tile.base / 512 + first))
    engPlan s tk op.user true true none ((List.range 16).map (fun i => va + 32 * i)) = .go s1 las →
    (∀ la ∈ las, la.key = key ∧ la.pa = pa + (la.addr - va)) → (∀ j, j < 512 → blockBad s1 (pa + j) = false) →
    portReady s1 tk.core las = true → outBad tk op.kind u = false →
    ∃ t, exec (.cprChunkApply id u) s = .next (wakeAll t) ∧ SameCsrs s1 t ∧
      (∀ w, w < 128 → numAt t key (pa + 4 * w) 4 =
        atomicResult a (numAt s1 key (pa + 4 * w) 4) (spNum tk (512 * u + 4 * w) 4) % 2 ^ 32) ∧
      (∀ b, ¬ (pa ≤ b ∧ b < pa + 512) → readPa t key b = readPa s1 key b) ∧
      mget t.copies id = some { op with todo := op.todo.filter (· != u), done := insertNat u op.done }) ∧
  (∀ (s : State) (id : Nat) (op : CopyOp) (tk : Task) (x0 : Group), mget s.copies id = some op → task s op.tid = some tk →
    mget tk.groups op.g = some x0 → op.todo = [] → tk.saved = false →
    (∀ w ∈ s.wq, w.owner ≠ some (op.tid, op.g, id)) →
    ∃ t x, exec (.copyComplete id) s = .next (wakeAll t) ∧ SameMemory s t ∧ SameCsrs s t ∧ SameGroups s t op.tid op.g ∧
      group t op.tid op.g = some x ∧ TokenWritten x0 x op.tok (status (op.ending.getD 0) op.done.length) ∧
      Acquired t tk.core .package ∧ ∀ n, mget t.copies n = if n = id then none else mget s.copies n)

/-- R278 to R288: `mma` and `mmv` whose block of parameters obeys its rules enter the queue of their engine with private copies of
their operands, and the progress register names them; `mprog` reads it; `accld`, `accst` and `acczero` enter the queue; `mabort`
ends the task's operations there with status 1. A bad parameter traps ENGINE_PARAM.
Completes: `mma`, `mmv`, `mprog`, `accld`, `accst`, `acczero`, `mabort`. -/
def Obligations.MatrixInstructions : Prop :=
  (∀ (vec : Bool) (h : Hdr) (tok : Option Reg) (a : Reg) (off : SrcB) (e : Bool) (s : State) (c : Ctx) (ctl : MatCtl)
      (oa ob : MOperand),
    Executes s c h off.len (⟨h.u, a, 1⟩ :: useB h.u off 1) → (∀ r, tok = some r → r.toNat - 448 ∉ c.grp.toks) →
    let o := spOffset c a off (lowest c.act)
    o % 64 = 0 → 0 ≤ o → o + 64 ≤ c.task.scratchSize → spSound c.task o 64 →
    let p := spNum c.task o.toNat 64
    let da := p / 2 ^ 384 % 2 ^ 128
    let db := p / 2 ^ 256 % 2 ^ 128
    let k := MatKind.mul oa ob ctl.m ctl.n ctl.kb ctl.arow ctl.acol ctl.zero
    matCtl p vec = some ctl → matOperand c.task da ctl.m (32 * ctl.kb) = (oa, false) →
    matOperand c.task db ctl.n (32 * ctl.kb) = (ob, false) → matGenBad oa = false → matGenBad ob = false →
    (vec = true → ob.kind = 0) → ctl.arow + ctl.m ≤ c.task.accRows → ctl.acol + ctl.n ≤ 128 →
    matGenWaits c.task da = false → matGenWaits c.task db = false → engFull s c.task.core e = false →
    MayTake s c (matWrites k) (matReads k) →
    ∃ t tk, exec (if vec then .mmv h tok a off e false else .mma h tok a off e false) s = .next t ∧
      MatStarts s t c e tok k 0 ∧ task t c.tid = some tk ∧
      (if e then tk.prog1 else tk.prog0) = { op := s.serial, pblk := o.toNat, state := 1, kdone := 0 } ∧
      (if e then tk.prog0 = c.task.prog0 else tk.prog1 = c.task.prog1)) ∧
  (∀ (h : Hdr) (d : Reg) (e : Bool) (s : State) (c : Ctx), Executes s c h 8 [⟨h.u, d, 2⟩] →
    let p := if e then c.task.prog1 else c.task.prog0
    Leaves s c (exec (.mprog h d e) s) (fun x => SamePreds c x ∧ Writes c h.u d 2 (fun _ k =>
      if k = 0 then BitVec.ofNat 32 (p.kdone % 2 ^ 17 + 2 ^ 29 * p.state) else
        BitVec.ofNat 32 ((p.kdone % 2 ^ 17 + 2 ^ 29 * p.state) / 2 ^ 32 + p.pblk % 2 ^ 19)) x)) ∧
  (∀ (h : Hdr) (tok : Reg) (e : Bool) (td : BitVec 4) (row : BitVec 9) (col : BitVec 7) (md : Rm) (sat : Bool) (ty : BitVec 2)
      (epi : Option (BitVec 3 × Reg × Reg)) (s : State) (c : Ctx) (tile : Tile),
    tok.toNat - 448 ∉ c.grp.toks → mget c.task.tds td.toNat = some tile →
    tile.rows ≠ 0 → tile.fmt ≠ .raw → (tile.fmt = .e2m1 → tile.geom = .none) → row.toNat + tile.rows ≤ c.task.accRows →
    col.toNat + tile.cols ≤ 128 → engFull s c.task.core e = false →
    (Executes s c h 12 [] → MayTake s c [] (matReads (.accld td.toNat tile row.toNat col.toNat)) →
      ∃ t, exec (.accld h tok e td row col) s = .next t ∧
        MatStarts s t c e (some tok) (.accld td.toNat tile row.toNat col.toNat) 0) ∧
    (∀ k, k = MatKind.accst td.toNat tile row.toNat col.toNat md sat ty.toNat (epilogue c epi) →
      Executes s c h 12 (epilogueUses h.u epi) → MayTake s c (matWrites k) [] →
      (ty ≠ 0 → tile.fmt = .ts4) → (blockFmt tile.fmt = true → md = .rn ∧ sat = false) →
      (∀ q, epilogue c epi = some q → genIsEpilogue q.1 = true ∧ fmtInt tile.fmt = false) →
      ∃ t, exec (.accst h tok e td row col md sat ty epi) s = .next t ∧ MatStarts s t c e (some tok) k 0)) ∧
  (∀ (h : Hdr) (e : Bool) (row : SrcB) (n : SrcC) (s : State) (c : Ctx),
    Executes s c h row.len (useB h.u row 1 ++ useC h.u n 1) →
    let r := (c.b row (lowest c.act)).toNat
    let k := (c.c n (lowest c.act)).toNat
    (1 ≤ k → r + k ≤ c.task.accRows → engFull s c.task.core e = false →
      ∃ t, exec (.acczero h e row n) s = .next t ∧ MatStarts s t c e none (.acczero r k) 0) ∧
    (k = 0 ∨ c.task.accRows < r + k → c.grp.trap = none → hvec s c.task.tenant ≠ 0 →
      Traps s c (exec (.acczero h e row n) s) 0x13 (oneLane (lowest c.act)) 0)) ∧
  (∀ (h : Hdr) (e : Bool) (s : State) (c : Ctx), Executes s c h 8 [] →
    ((engQueue s c.task.core e).map (·.id)).Nodup → (∀ o ∈ engQueue s c.task.core e, o.ending = none) →
    ∃ t x, exec (.mabort h e) s = .next t ∧ SameMemory s t ∧ SameCsrs s t ∧ group t c.tid c.g = some x ∧ Advanced c x ∧
      SameRegs c x ∧ SamePreds c x ∧
      engQueue t c.task.core e = (engQueue s c.task.core e).map (abortedMat s c e) ∧
      engQueue t c.task.core (!e) = engQueue s c.task.core (!e))

/-- R112, R113, R280 to R288: a k-block adds to each accumulator element the sum of its 32 products, exact for integer operands
and wrapped, otherwise rounded once to FP32 and then added in FP32; the multiplication's count rises; with all its k-blocks
applied, or stopped, it leaves the queue and its token is written. A fault of an operand that cannot be served ends it, one that
can be served makes it wait. `accld` and `acczero` write their accumulator words and nothing else of them.
Completes: `kblockComplete`, `matrixFetchFault`, `matrixComplete`, `accOpComplete`. -/
def Obligations.MatrixProgress : Prop :=
  (∀ (s s1 : State) (n : Nat) (e : Bool) (o : MatOp) (tk : Task) (a b : MOperand) (m nn kb arow acol : Nat) (zero : Bool)
      (ma mb : Map Byte),
    matRuns s n e = some (o, tk) → o.kind = .mul a b m nn kb arow acol zero → o.kdone < kb → acol + nn ≤ 128 →
    fetchAll s tk e o = .go s1 ma mb →
    ∃ t tk1, exec (.kblockComplete n e) s = .next (wakeAll t) ∧ SameMemory s1 t ∧ SameCsrs s1 t ∧ task t o.tid = some tk1 ∧
      (∀ row col, col < 128 → accWord tk1 e row col =
        if arow ≤ row ∧ row < arow + m ∧ acol ≤ col ∧ col < acol + nn then
          let old := if zero = true ∧ o.kdone = 0 then 0 else accWord tk e row col
          let ks := (List.range 32).map (fun j => 32 * o.kdone + j)
          if operandInt a = true ∧ operandInt b = true then
            old + BitVec.ofInt 32 ((ks.map (fun k => dataInt tk a ma (row - arow) k * dataInt tk b mb (col - acol) k)).sum)
          else toF32 .rn (sumV .rn [f32 old, f32 (toF32 .rn (sumV .rn (ks.map (fun k =>
            mulV (operandValue tk a o.scopes ma false (row - arow) k) (operandValue tk b o.scopes mb true (col - acol) k)))))])
        else accWord tk e row col) ∧
      (∀ row col, accWord tk1 (!e) row col = accWord tk (!e) row col) ∧
      (engQueue t n e).map (fun q => (q.id, q.kdone)) =
        (engQueue s n e).map (fun q => (q.id, if q.id = o.id then o.kdone + 1 else q.kdone))) ∧
  (∀ (s : State) (n : Nat) (e : Bool) (o : MatOp) (x0 : Group) (k : Nat), o.tok = some k → group s o.tid o.g = some x0 →
    (∃ a b m nn kb arow acol zero, o.kind = .mul a b m nn kb arow acol zero ∧ kb ≤ o.kdone) →
    matStopped s n e true = none → matHead s n e = some o →
    ∃ t x, exec (.matrixComplete n e) s = .next (wakeAll t) ∧ SameMemory s t ∧ SameCsrs s t ∧ group t o.tid o.g = some x ∧
      TokenWritten x0 x k (BitVec.ofNat 32 (o.kdone % 2 ^ 17)) ∧
      (∀ tk, task s o.tid = some tk → Acquired t tk.core .package) ∧ engQueue t n e = (engQueue s n e).filter (·.id != o.id)) ∧
  (∀ (s s1 : State) (n : Nat) (e : Bool) (o : MatOp) (tk : Task) (a b : MOperand) (m nn kb arow acol : Nat) (zero : Bool),
    matRuns s n e = some (o, tk) → o.kind = .mul a b m nn kb arow acol zero → o.kdone < kb →
    (∀ cause va, fetchAll s tk e o = .bad s1 cause va → cause = 0x0B ∨ cause = 0x0C →
      ∃ t, exec (.matrixFetchFault n e) s = .next (wakeAll t) ∧ SameMemory s1 t ∧ SameCsrs s1 t ∧
        ∀ q ∈ engQueue t n e, q.id = o.id → q.ending = some (if cause = 0x0B then 3 else 4)) ∧
    (∀ ps, fetchAll s tk e o = .serve s1 ps →
      ∃ t, exec (.matrixFetchFault n e) s = .next (wakeAll t) ∧ SameMemory s1 t ∧ SameCsrs s1 t ∧
        (∀ q ∈ engQueue t n e, q.id = o.id → q.faulted = true) ∧ (ps ≠ [] → hasNeed t (.mat n e o.id) = true))) ∧
  (∀ (s : State) (n : Nat) (e : Bool) (o : MatOp) (tk : Task), matStopped s n e false = none → matHead s n e = some o →
    task s o.tid = some tk →
    (∀ row k, o.kind = .acczero row k →
      ∃ t tk1, exec (.accOpComplete n e) s = .next (wakeAll t) ∧ SameMemory s t ∧ SameCsrs s t ∧ task t o.tid = some tk1 ∧
        (∀ r col, col < 128 → accWord tk1 e r col = if row ≤ r ∧ r < row + k then 0 else accWord tk e r col) ∧
        engQueue t n e = (engQueue s n e).filter (·.id != o.id)) ∧
    (∀ td tile row col, o.kind = .accld td tile row col → col + tile.cols ≤ 128 → accDataBad tk e o.kind = false →
      ∃ t tk1, exec (.accOpComplete n e) s = .next (wakeAll t) ∧ SameMemory s t ∧ SameCsrs s t ∧ task t o.tid = some tk1 ∧
        (∀ r k, k < 128 → accWord tk1 e r k =
          if row ≤ r ∧ r < row + tile.rows ∧ col ≤ k ∧ k < col + tile.cols then
            elemWord tile.fmt (tileElem tk tile (r - row) (k - col)).2 (tileElem tk tile (r - row) (k - col)).1
          else accWord tk e r k) ∧
        engQueue t n e = (engQueue s n e).filter (·.id != o.id)))

/-- R289 to R295: `gset` loads a generator image that obeys its rules and traps with cause 0x12 on one that does not; `gseed`
replaces its seed; `geval` gives each lane the value of Table 13 at the generator's own coordinates, and for ROTARY the cosine
or sine of its angle, once the table is built.
Completes: `gset`, `gseed`, `geval`, `rotaryTableBuilt`. -/
def Obligations.Generators : Prop :=
  (∀ (h : Hdr) (n : BitVec 3) (a : Reg) (off : SrcB) (s s1 : State) (c : Ctx) (las : List LaneAcc),
    Executes s c h off.len (⟨h.u, a, 2⟩ :: useB h.u off 1) → Quiet c.grp → Drained s c.task.core →
    let va := address c a off (lowest c.act)
    va % 32 = 0 → va < 2 ^ 57 → engPlan s c.task c.user true false none [va] = .go s1 las → FreshGranules s1 c.task las →
    let g := BitVec.ofNat 256 (granNum s1 las va 32)
    (genBad g = false →
      ∃ t tk x, exec (.gset h n a off) s = .next t ∧ SameMemory s1 t ∧ SameCsrs s1 t ∧ SameGroups s1 t c.tid c.g ∧
        task t c.tid = some tk ∧ group t c.tid c.g = some x ∧ Advanced c x ∧ SameRegs c x ∧ SamePreds c x ∧
        { tk with groups := c.task.groups, gens := c.task.gens, building := c.task.building } = c.task ∧
        (∀ k, mget tk.gens k = if k = n.toNat then some g else mget c.task.gens k) ∧
        (n.toNat ∈ tk.building ↔ g.extractLsb' 0 4 = 7#4)) ∧
    (genBad g = true → c.grp.trap = none → hvec s1 c.task.tenant ≠ 0 →
      Traps (engLoad s1 c.task las).1 c (exec (.gset h n a off) s) 0x12 (oneLane (lowest c.act)) 0)) ∧
  (∀ (h : Hdr) (n : BitVec 3) (a : Reg) (s : State) (c : Ctx), Executes s c h 8 [⟨h.u, a, 2⟩] →
    (mgetD 0 c.task.gens n.toNat).extractLsb' 0 4 ≠ 0#4 →
    ∃ t tk x, exec (.gseed h n a) s = .next t ∧ SameMemory s t ∧ SameCsrs s t ∧ SameGroups s t c.tid c.g ∧
      task t c.tid = some tk ∧ group t c.tid c.g = some x ∧ Advanced c x ∧ SameRegs c x ∧ SamePreds c x ∧
      { tk with groups := c.task.groups, gens := c.task.gens } = c.task ∧
      ∀ k, mget tk.gens k = if k = n.toNat then
        some ((c.ra a 1 (lowest c.act) ++ c.ra a 0 (lowest c.act)) ++ (mgetD 0 c.task.gens n.toNat).extractLsb' 0 192 : BitVec 256)
        else mget c.task.gens k) ∧
  (∀ (h : Hdr) (d : Reg) (n : BitVec 3) (a : Reg) (b : SrcB) (s : State) (c : Ctx),
    Executes s c h b.len ((⟨h.u, a, 1⟩ :: useB h.u b 1) ++ [⟨h.u, d, 1⟩]) → n.toNat ∉ c.task.building →
    let g := mgetD 0 c.task.gens n.toNat
    let sc := scopeFor (scopeWords s c.task) g
    g.extractLsb' 0 4 ≠ 0#4 → sc < 2 ^ 64 →
    Leaves s c (exec (.geval h d n a b) s) (fun x => SamePreds c x ∧
      Writes c h.u d 1 (fun i _ =>
        if g.extractLsb' 0 4 = 7#4 then
          (if (c.b b i).getLsbD 0 then sfuSin (rotaryAngle g (c.ra a 0 i).toNat (c.b b i).toNat)
           else sfuCos (rotaryAngle g (c.ra a 0 i).toNat (c.b b i).toNat))
        else generated g (BitVec.ofNat 64 sc) (c.ra a 0 i) (c.b b i)) x)) ∧
  (∀ (s : State) (tid n : Nat) (tk : Task), task s tid = some tk → n ∈ tk.building → tk.saved = false →
    ∃ t tk1, exec (.rotaryTableBuilt tid n) s = .next (wakeAll t) ∧ { t with tasks := s.tasks } = s ∧
      (∀ u, u ≠ tid → task t u = task s u) ∧ task t tid = some tk1 ∧ { tk1 with building := tk.building } = tk ∧
      ∀ k, k ∈ tk1.building ↔ k ∈ tk.building ∧ k ≠ n)

/-- R116, R119, R296 to R300: `coll` starts a collective in its slot with a pending token; `collwait` waits for the slots that its
mask names; the unit reads the descriptor, then the contribution, and with every rank's contribution there the result, summed in
ascending rank order in FP32, stands at DST and the token is written 0; a bad descriptor gives status 4, ranks that disagree 5,
and a rank that is missing when TIMEOUT has passed 3.
Completes: `coll`, `collwait`, `collectiveComplete`, `collTimeout`. -/
def Obligations.Collectives : Prop :=
  (∀ (h : Hdr) (tok a : Reg) (off : SrcB) (slot : BitVec 3) (s : State) (c : Ctx),
    Executes s c h off.len (⟨h.u, a, 2⟩ :: useB h.u off 1) → tok.toNat - 448 ∉ c.grp.toks →
    let va := address c a off (lowest c.act)
    va % 64 = 0 → va < 2 ^ 57 → (∀ p ∈ s.colls, ¬ (p.2.tid = c.tid ∧ p.2.g = c.g ∧ p.2.slot = slot.toNat)) →
    cpCount s c.tid c.g < 63 →
    ∃ t x n op, exec (.coll h tok a off slot) s = .next t ∧ OnlyGroupIn s t c ∧ SameMemory s t ∧ group t c.tid c.g = some x ∧
      Moved c x ∧ SameRegs c x ∧ SamePreds c x ∧ TokenPending c x tok ∧ x.restTok c = c.grp.rest ∧
      (∀ k, mget t.colls k = if k = n then some op else mget s.colls k) ∧
      (op.tid, op.g, op.tenant, op.tok, op.slot, op.addr, op.stage) =
        (c.tid, c.g, c.task.tenant, tok.toNat - 448, slot.toNat, va, 0)) ∧
  (∀ (h : Hdr) (mask : Byte) (s : State) (c : Ctx), Executes s c h 8 [] →
    let busy := ∃ p ∈ s.colls, p.2.tid = c.tid ∧ p.2.g = c.g ∧ p.2.slot < 8 ∧ mask.getLsbD p.2.slot = true
    (¬ busy → Leaves s c (exec (.collwait h mask) s) (fun x => SameRegs c x ∧ SamePreds c x)) ∧
    (busy → Stalls s c (exec (.collwait h mask) s))) ∧
  (∀ (s s1 : State) (id : Nat) (op : CollOp) (tk : Task) (las : List LaneAcc) (parts : List (List Word)) (key : Nat) (x0 : Group),
    mget s.colls id = some op → task s op.tid = some tk → mget tk.groups op.g = some x0 → tk.saved = false → op.bad = none →
    op.stage = 2 → op.kind = 0 → hasNeed s (.coll id) = false → earlierDone s op.tid op.g id = true →
    let ps := collParts s id op
    (ps.map (·.1)).Perm (List.range op.nrank) → (∀ p ∈ ps, p.2.1 = collAgree op) → 1 ≤ op.nrank →
    parts = (List.range op.nrank).map (fun r => ((ps.find? (fun p => p.1 == r)).map (fun p => p.2.2)).getD []) →
    op.dst % 512 = 0 → engPlan s tk op.user false true none (wordGrans op.dst op.count) = .go s1 las →
    (las.map (·.pa)).Nodup → (∀ la ∈ las, la.pa % 32 = 0 ∧ la.key = key ∧ ∀ j, j < 32 → blockBad s1 (la.pa + j) = false) →
    portReady s1 tk.core las = true →
    ∃ t x, exec (.collectiveComplete id) s = .next (wakeAll t) ∧ SameCsrs s1 t ∧ group t op.tid op.g = some x ∧
      TokenWritten x0 x op.tok 0 ∧ mget t.colls id = none ∧
      ∀ i, i < op.count → ∀ la ∈ las, la.addr / 32 = (op.dst + 4 * i) / 32 → numAt t key (la.pa + (op.dst + 4 * i) % 32) 4 =
        ((parts.tail.foldl (fun (acc : Word) q => toF32 .rn (sumV .rn [f32 acc, f32 (q.getD i 0)]))
          ((parts.headD []).getD i 0))).toNat) ∧
  (∀ (s : State) (id : Nat) (op : CollOp) (tk : Task) (x0 : Group), mget s.colls id = some op → task s op.tid = some tk →
    mget tk.groups op.g = some x0 → tk.saved = false → op.stage = 2 → op.bad = none → op.timeout ≠ 0 →
    op.started + 850000 * op.timeout ≤ s.cycle → (∃ r, r < op.nrank ∧ ∀ p ∈ collParts s id op, p.1 ≠ r) →
    ∃ t x, exec (.collTimeout id) s = .next (wakeAll t) ∧ SameMemory s t ∧ SameCsrs s t ∧ SameGroups s t op.tid op.g ∧
      group t op.tid op.g = some x ∧ TokenWritten x0 x op.tok (status 3 0) ∧ mget t.colls id = none)


/-! ### Tasks -/

/-- R305 to R308: `enq` of a record that breaks a rule answers the status of the first rule and does nothing else; an accepted one
takes the lowest FREE counter entry, OPEN at 0 with its target, parent and budget, answers its index, and a launch stands at the
tail of its queue. R311: a `spawn` of an untraced task puts one child with its arguments into the spawn store and raises TARGET
of the launch; in a launch that is being cancelled it creates nothing, and with a full store it waits.
Completes: `enq`, `spawn`. -/
def Obligations.TaskRecordsAndSpawns : Prop :=
  (∀ (h : Hdr) (r a : Reg) (off : SrcB) (q : SrcC) (s : State) (c : Ctx), 448 ≤ r.toNat →
    Executes s c h off.len ((⟨h.u, a, 1⟩ :: (useB h.u off 1 ++ useC h.u q 1)) ++ [⟨true, r, 1⟩]) → Quiet c.grp →
    Drained s c.task.core →
    let o := spOffset c a off (lowest c.act)
    o % 64 = 0 → 0 ≤ o → o + 64 ≤ c.task.scratchSize → spSound c.task o 64 →
    (chunkAt c.task o.toNat).any (fun p => !chunkAllows p.1 p.2 false) = false →
    let n := c.task.tenant
    let num := spNum c.task o.toNat 64
    let qn := (c.c q (lowest c.act)).toNat
    let r0 := trecOfNum num
    (∀ st, recordRefusal s n num qn = some st → Leaves s c (exec (.enq h r a off q) s) (fun x =>
      Writes c true r 1 (fun _ _ => status st 0) x ∧ SamePreds c x)) ∧
    (∀ i, recordRefusal s n num qn = none → LowestFree s n i → DepsOpen s n r0 →
      (∀ p ∈ (tenant s n).launches, DepsOpen s n p.2.trec) →
      ∃ t x, exec (.enq h r a off q) s = .next t ∧ SameMemory s t ∧ SameCsrs s t ∧
        SameGroups (if r0.level = 1 then wakeAll s else s) t c.tid c.g ∧ group t c.tid c.g = some x ∧ Advanced c x ∧
        Writes c true r 1 (fun _ _ => status 0 i) x ∧ SamePreds c x ∧
        (∀ j, 1 ≤ j → counter t n j = if j = i then some (newCounter r0) else counter s n j) ∧
        (r0.level = 1 → (queueOf t n qn).recs = (queueOf s n qn).recs ++ [i] ∧
          ∃ l, mget (tenant t n).launches i = some l ∧ l.next = 0 ∧ l.aborted = false ∧ l.queue = qn ∧
            { l.trec with dep0c := r0.dep0c, dep1c := r0.dep1c, trw := r0.trw } = r0))) ∧
  (∀ (h : Hdr) (p : BitVec 3) (a : Reg) (off : Word) (prio : Byte) (s : State) (c : Ctx), Executes s c h 12 [⟨h.u, a, 4⟩] →
    c.task.traced = none →
    let n := c.task.tenant
    let dies := (∃ p ∈ s.cancels, p.2.tenant = n ∧ c.tid ∈ p.2.tasks) ∨
      (c.task.prop = false ∧ ∀ e, counter s n c.task.launch = some e → e.status ≠ .open)
    (dies → Leaves s c (exec (.spawn h p a off prio) s) (fun x => SameRegs c x ∧ WritesPred c p.toNat (fun _ => false) x)) ∧
    (¬ dies → 65536 ≤ (tenant s n).spawns.length → Stalls s c (exec (.spawn h p a off prio) s)) ∧
    (¬ dies → (tenant s n).spawns.length < 65536 → Quiet c.grp → Drained s c.task.core →
      ∃ t x, exec (.spawn h p a off prio) s = .next t ∧ SameMemory s t ∧ SameCsrs s t ∧ SameGroups (wakeAll s) t c.tid c.g ∧
        group t c.tid c.g = some x ∧ Advanced c x ∧ SameRegs c x ∧ WritesPred c p.toNat (fun _ => false) x ∧
        (tenant t n).spawns = (tenant s n).spawns ++ [
          { launch := c.task.launch, blk := c.task.blk, entry := relTarget c off, prio := prio,
            args := (List.range 4).map (fun k => c.ra a k (lowest c.act)), org := c.task.org, traced := none,
            prop := c.task.prop, cancelled := false }] ∧
        ∀ j, 1 ≤ j → counter t n j =
          if j = c.task.launch ∧ c.task.prop = false then (counter s n j).map (fun e => { e with target := e.target + 1 })
          else counter s n j))

/-- R309, R310, R316, R317, R312, R315, R395: `cntrd` reads a field of a counter entry with an acquire, and with `.free` frees one in a
final status with its subtree; `cntwait` answers 1 once DONE has reached the threshold, 0 when it never will, and else blocks;
`cancel` leaves its token pending, and marks every OPEN entry of the level's subtree CANCELLED at once; `fork` leaves its token
pending; `arena` gives the address of a free range of the window, or 0.
Completes: `fork`, `cancel`, `cntrd`, `cntwait`, `arena`. -/
def Obligations.CountersCancelsForksArenas : Prop :=
  (∀ (h : Hdr) (d a : Reg) (f : CField) (free : Bool) (s : State) (c : Ctx),
    Executes s c h 8 [⟨h.u, a, 1⟩, ⟨h.u, d, 1⟩] → Quiet c.grp →
    let n := c.task.tenant
    let i := (c.ra a 0 (lowest c.act)).toNat
    let e := namedCounter s n i
    (¬ (free = true ∧ ∃ k, e = some k ∧ k.status ≠ .open) →
      ∃ t x, exec (.cntrd h d a f free) s = .next t ∧ OnlyGroupIn s t c ∧ SameMemory s t ∧ group t c.tid c.g = some x ∧
        Advanced c x ∧ Writes c h.u d 1 (fun _ _ => fieldWord e f) x ∧ SamePreds c x ∧ Acquired t c.task.core .package ∧
        t.tens = s.tens) ∧
    (∀ k, free = true → e = some k → k.status ≠ .open → (∀ p ∈ (tenant s n).traces, p.2.job ∉ subtree s n i) →
      (∀ p ∈ s.cancels, p.2.tenant = n → p.2.status = 0 → ∀ j ∈ subtree s n i, j ∉ p.2.entries) →
      ∃ t x, exec (.cntrd h d a f free) s = .next t ∧
        ((∀ j ∈ subtree s n i, ∀ m, counter s n j = some m → m.level ≠ 4) → SameMemory s t) ∧ SameCsrs s t ∧ SameGroups (wakeAll s) t c.tid c.g ∧
        group t c.tid c.g = some x ∧ Advanced c x ∧ Writes c h.u d 1 (fun _ _ => fieldWord e f) x ∧ SamePreds c x ∧
        ∀ j, 1 ≤ j → counter t n j = if j ∈ subtree s n i then none else counter s n j)) ∧
  (∀ (h : Hdr) (p : BitVec 3) (a : Reg) (b : SrcB) (s : State) (c : Ctx),
    Executes s c h b.len (⟨h.u, a, 1⟩ :: useB h.u b 1) → Quiet c.grp →
    let i := (c.ra a 0 (lowest c.act)).toNat
    let thr := (c.b b (lowest c.act)).toNat
    let e := namedCounter s c.task.tenant i
    ((∃ k, e = some k ∧ thr ≤ k.done) →
      ∃ t x, exec (.cntwait h p a b) s = .next t ∧ OnlyGroupIn s t c ∧ SameMemory s t ∧ group t c.tid c.g = some x ∧
        Advanced c x ∧ SameRegs c x ∧ WritesPred c p.toNat (fun _ => true) x ∧ Acquired t c.task.core .package) ∧
    ((∀ k, e = some k → k.done < thr ∧ k.status ≠ .open) →
      Leaves s c (exec (.cntwait h p a b) s) (fun x => SameRegs c x ∧ WritesPred c p.toNat (fun _ => false) x)) ∧
    ((∃ k, e = some k ∧ k.done < thr ∧ k.status = .open) →
      ∃ t x, exec (.cntwait h p a b) s = .next t ∧ OnlyGroup s t c.tid c.g ∧ group t c.tid c.g = some x ∧
        Blocks c x (.cnt p c.act h.u i thr) ∧ SameRegs c x ∧ SamePreds c x)) ∧
  (∀ (h : Hdr) (tok a : Reg) (lv : Level) (b : Option SrcB) (s : State) (c : Ctx),
    Executes s c h ((b.map SrcB.len).getD 8) (⟨h.u, a, 1⟩ :: ((b.map (fun x => useB h.u x 1)).getD [])) →
    tok.toNat - 448 ∉ c.grp.toks →
    let n := c.task.tenant
    let i := (c.ra a 0 (lowest c.act)).toNat
    let e := namedCounter s n i
    ∃ t x id op, exec (.cancel h tok a lv b) s = .next t ∧ t.mem = s.mem ∧ SameCsrs s t ∧ group t c.tid c.g = some x ∧
      Moved c x ∧ SameRegs c x ∧ SamePreds c x ∧ TokenPending c x tok ∧ x.restTok c = c.grp.rest ∧
      mget t.cancels id = some op ∧ (∀ k, k ≠ id → mget t.cancels k = mget s.cancels k) ∧
      op.tenant = n ∧ op.tok = some (c.tid, c.g, tok.toNat - 448) ∧
      ((∀ k, e = some k → k.level ≠ cancelLevel lv) → op.status = 6 ∧ tenant t n = tenant s n) ∧
      (∀ k, e = some k → k.level = cancelLevel lv → lv ≠ .task →
        (k.status ≠ .open → op.status = 7 ∧ tenant t n = tenant s n) ∧
        (k.status = .open → op.status = 0 ∧ op.entries = subtree s n i ∧
          op.value = (subtree s n i).countP (fun j => (counter s n j).any (fun m => m.status == .open)) ∧
          ∀ j ∈ subtree s n i, ∀ m, counter s n j = some m → m.status = .open →
            (counter t n j).map (·.status) = some .cancelled))) ∧
  (∀ (h : Hdr) (tok a : Reg) (off : SrcB) (s : State) (c : Ctx), Executes s c h off.len (⟨h.u, a, 2⟩ :: useB h.u off 1) →
    Quiet c.grp → Drained s c.task.core → tok.toNat - 448 ∉ c.grp.toks →
    let va := address c a off (lowest c.act)
    va % 64 = 0 → va < 2 ^ 57 →
    ∃ t x id, exec (.fork h tok a off) s = .next t ∧ SameMemory s t ∧ SameCsrs s t ∧ SameGroups s t c.tid c.g ∧
      group t c.tid c.g = some x ∧ Moved c x ∧ SameRegs c x ∧ SamePreds c x ∧ TokenPending c x tok ∧
      x.restTok c = c.grp.rest ∧
      ∀ k, mget t.forks k = if k = id then some (newFork s c tok va) else mget s.forks k) ∧
  (∀ (h : Hdr) (d a : Reg) (f : Fmt) (g : Geom) (trk : Bool) (s : State) (c : Ctx),
    Executes s c h 8 [⟨h.u, a, 1⟩, ⟨h.u, d, 2⟩] →
    let n := c.task.tenant
    let job := jobOf s n c.task.launch
    let grans := ((c.ra a 0 (lowest c.act)).toNat + 65535) / 65536
    (pairOk f g = false → c.grp.trap = none → hvec s n ≠ 0 → Traps s c (exec (.arena h d a f g trk) s) 0x01 c.ent.mask 0) ∧
    (pairOk f g = true → job = 0 ∨ grans = 0 →
      Leaves s c (exec (.arena h d a f g trk) s) (fun x => SamePreds c x ∧ Writes c h.u d 2 (fun _ _ => 0) x)) ∧
    (pairOk f g = true → arenaAlloc s n (rootOf s c.task) job (c.ra a 0 (lowest c.act)).toNat f g trk ≠ none →
      ∃ t x i, exec (.arena h d a f g trk) s = .next t ∧ (∀ k r, r ≠ 0x046 → csrGet t k r = csrGet s k r) ∧ SameGroups s t c.tid c.g ∧
        group t c.tid c.g = some x ∧ Advanced c x ∧ SamePreds c x ∧
        (∀ p ∈ (tenant s n).arenas, ¬ (i < p.1 + p.2.2 ∧ p.1 < i + grans)) ∧ i + grans ≤ (csrGet s n 0x04A).toNat % 2 ^ 24 ∧
        (∀ k, mget (tenant t n).arenas k = if k = i then some (job, grans) else mget (tenant s n).arenas k) ∧
        Writes c h.u d 2 (fun _ k => BitVec.ofNat 32 ((csrAddr s n 0x048 16 + 65536 * i) / 2 ^ (32 * k))) x))


/-! ### The distributor and its events -/

/-- R38, R49 to R54, R198, R45: a regrouping merges a group's entries; a dispatch decision places a block of a queue's head, or the
oldest task of the spawn store, on a core, or calls a saved context back; a queue's age raises its priority; the end of a task
whose operations and writes are over counts at its launch; a context that hangs is reported and its blocks end, or are held.
Completes: `regroupMerge`, `dispatchDecision`, `queueAging`, `taskEnd`, `hangDetect`. -/
def Obligations.DistributorEvents : Prop :=
  (∀ (s : State) (tid g : Nat) (tk : Task) (x0 : Group), task s tid = some tk → mget tk.groups g = some x0 → taskRuns s tk = true →
    tk.run = .running → regroupPoint s tk.core = true → evOn s tk.tenant 2 x0.trap.isNone = false →
    ¬ ((x0.live.filter (fun e => e.blk.isNone)).map (·.pc)).Nodup →
    ∃ t x, exec (.regroupMerge tid g) s = .next (wakeAll t) ∧ OnlyGroup s t tid g ∧ group t tid g = some x ∧ x.rest = x0.rest ∧
      x.v = x0.v ∧ x.sr = x0.sr ∧ x.pr = x0.pr ∧ Regrouped x0.live x.live) ∧
  (∀ (s : State) (n c q i b : Nat) (l : Launch), turnOf s = some n → decision s n = some (.queue q i l) →
    fitsOn s n c none l.trec = true → (l.trec.stream = true → l.trec.det = true ∨ l.strB ≠ none) → nextBlock l = some b →
    ∃ t, exec (.dispatchDecision n c) s = .next (wakeAll t) ∧
      TaskPlaced s t n c i b l.trec.entry l.trec.prio l.trec.args l.trec ∧ t.rrTen = n ∧ SameMemory s t ∧ SameCsrs s t ∧
      mget (tenant t n).launches i = some { l with next := b + 1 } ∧
      (queueOf t n q).since = s.cycle ∧ (queueOf t n q).bump = 0) ∧
  (∀ (s : State) (n c : Nat) (p : Spawned), turnOf s = some n → decision s n = some (.spawn p) →
    fitsOn s n c none p.org.trec = true →
    ∃ t, exec (.dispatchDecision n c) s = .next (wakeAll t) ∧ TaskPlaced s t n c p.launch p.blk p.entry p.prio p.args p.org.trec ∧
      t.rrTen = n ∧ SameMemory s t ∧ SameCsrs s t ∧ (tenant t n).spawns = (tenant s n).spawns.erase p) ∧
  (∀ (s : State) (n c : Nat), turnOf s = some n → decision s n = some .back → canReturn s n c = true →
    ∃ t, exec (.dispatchDecision n c) s = .next (wakeAll t) ∧ (ctxOf t n c).map (·.phase) = some .restoring) ∧
  (∀ (s : State) (n q : Nat), (queueOf s n q).recs ≠ [] → (queueOf s n q).since + 850000 * ((queueOf s n q).bump + 1) ≤ s.cycle →
    ∃ t, exec (.queueAging n q) s = .next (wakeAll t) ∧ { t with tens := s.tens } = s ∧
      queueOf t n q = { queueOf s n q with bump := (queueOf s n q).bump + 1 } ∧ ∀ k, k ≠ q → queueOf t n k = queueOf s n k) ∧
  (∀ (s : State) (tid : Nat) (tk : Task), task s tid = some tk → unitRuns s tk = true → tk.groups = [] →
    (∀ p ∈ s.copies, p.2.tid ≠ tid) → (∀ p ∈ s.colls, p.2.tid ≠ tid) → (∀ p ∈ s.queries, p.2.tid ≠ tid) →
    (∀ o ∈ (core s tk.core).ma0 ++ (core s tk.core).ma1, o.tid ≠ tid) → Written s tk.core →
    (∀ p ∈ (tenant s tk.tenant).ctr, p.2.budget = 0) →
    ∃ t, exec (.taskEnd tid) s = .next (wakeAll t) ∧ task t tid = none ∧
      ∀ e, counter s tk.tenant tk.launch = some e → tk.prop = false → NoneWaits s tk.tenant →
        (∀ l, mget (tenant s tk.tenant).launches tk.launch = some l → l.trec.det = false ∨ l.aborted = true) →
        e.status = .open → tk.launch ∉ chainOf s tk.tenant e.parent →
        (counter t tk.tenant tk.launch).map (fun e1 => (e1.done, e1.status)) =
          some (e.done + 1, if e.target ≤ e.done + 1 then (if e.bad = true ∨ tk.faulted = true then .faulted else .done) else .open)) ∧
  (∀ (s : State) (n c : Nat) (x : Context), ctxOf s n c = some x → (csrGet s n 0x020).getLsbD 1 = true →
    2 ^ ((csrGet s n 0x022).toNat % 64) ≤ x.hang → ctxHangs s n c = true →
    ∃ t, exec (.hangDetect n c) s = .next (wakeAll t) ∧
      ∀ tid tk, task s tid = some tk → tk.tenant = n → tk.core = c → tk.saved = false →
        if (csrGet s n 0x05A).getLsbD 0 = true then (task t tid).map (·.run) = some (.held none)
        else (task t tid).map (fun x => (x.groups, x.run, x.faulted)) = some ([], .running, true))

/-- R56, R59, R462, R316, R312, R313: the cycles of a core's tasks are charged to their jobs, and one over its budget ends BUDGET with
its subtree; a logged access that failed takes its trap at the replay point, and one that is served is made; a cancellation
ends the tasks of its entries and writes its token; a fork creates its children's entries, writes their indices and its token.
Completes: `budgetCharge`, `oplogReplay`, `cancelReclaim`, `forkComplete`. -/
def Obligations.ChargesReplaysReclaims : Prop :=
  (∀ (s : State) (c tid : Nat) (tk : Task), s.tasks.filter (fun p => p.2.core == c && !p.2.saved) = [(tid, tk)] →
    task s tid = some tk → tk.prop = false → (chainOf s tk.tenant (jobOf s tk.tenant tk.launch)).Nodup →
    ∃ t, exec (.budgetCharge c) s = .next (wakeAll t) ∧ (task t tid).map (·.chargedAt) = some s.cycle ∧
      ((∀ p ∈ (tenant s tk.tenant).ctr, p.2.budget = 0) → SameMemory s t ∧ SameCsrs s t ∧ ∀ j e, counter s tk.tenant j = some e →
        counter t tk.tenant j = some (if e.level = 4 ∧ j ∈ chainOf s tk.tenant (jobOf s tk.tenant tk.launch)
          then { e with used := e.used + (s.cycle - tk.chargedAt) } else e)) ∧
      (∀ j e, counter s tk.tenant j = some e → e.level = 4 → e.status = .open → e.budget ≠ 0 →
        j ∈ chainOf s tk.tenant (jobOf s tk.tenant tk.launch) → e.budget < e.used + (s.cycle - tk.chargedAt) →
        (∀ p ∈ (tenant s tk.tenant).ctr, p.2.budget ≠ 0 → p.1 = j) → (counter t tk.tenant j).map (·.status) = some .budget)) ∧
  (∀ (s : State) (tid g : Nat) (tk : Task) (x0 : Group) (o : OpEntry) (os : List OpEntry), task s tid = some tk →
    mget tk.groups g = some x0 → x0.oplog = o :: os → unitRuns s tk = true → tk.run = .running → tk.stopReq = none →
    (∀ cause ls, o.failed = some (cause, ls) → x0.trap = none → hvec s tk.tenant ≠ 0 →
      ∃ t x m e, exec (.oplogReplay tid g) s = .next (wakeAll t) ∧ SameMemory s t ∧ SameCsrs s t ∧ SameGroups s t tid g ∧
        group t tid g = some x ∧ x.ecause = cause ∧ x.epc = o.pc ∧ x.emask = ls ∧ x.ebmask = o.act ∧
        x.eaddr = BitVec.ofNat 57 ((((o.lanes.find? (fun l => has ls l.lane)).map (·.addr)).getD 0) % 2 ^ 57) ∧
        x.oplog = x0.oplog.filter (fun p => p.id != o.id) ∧ x.trap = some m ∧ m.hfront = [e] ∧
        e.pc = BitVec.ofNat 57 (hvec s tk.tenant) ∧ e.mask = o.act ∧ e.prio = 0 ∧ m.bundle = o.act ∧ m.logged = some o ∧
        (∀ f ∈ x.front, f.mask &&& o.act = 0) ∧ x.v = x0.v ∧ x.sr = x0.sr ∧ x.pr = x0.pr) ∧
    (∀ (s1 : State) (las : List LaneAcc) (d : Reg) (u : Bool) (sz : Size) (sx const : Bool), o.failed = none →
      hasNeed s (.log tid g o.id) = false → o.op = .load d u sz sx false const → las ≠ [] → mget x0.loads o.id = none →
      lanesCheck s tk o.user o.op o.lanes = (s1, o.lanes.zip (las.map LaneOut.go)) → las.length = o.lanes.length →
      (∀ la ∈ las, la.ordsh = false) → (∀ r ∈ o.resume, r.1 < 32) →
      ∃ t x, exec (.oplogReplay tid g) s = .next (wakeAll t) ∧ SameMemory s1 t ∧ SameCsrs s t ∧ SameGroups s t tid g ∧
        group t tid g = some x ∧ x.oplog = x0.oplog.filter (fun p => p.id != o.id) ∧
        mget x.loads o.id = some { op := o.op, act := o.dst, lanes := las, vals := [] } ∧
        { x with oplog := x0.oplog, loads := x0.loads, front := x0.front, stall := x0.stall } = x0 ∧
        (o.resume = [] → x.front = x0.front) ∧
        ∀ r ∈ o.resume, ∃ e ∈ x.front, has e.mask r.1 = true ∧ e.pc = r.2.1 ∧ e.prio = r.2.2)) ∧
  (∀ (s : State) (id : Nat) (op : CancelOp), mget s.cancels id = some op →
    (op.status = 6 → ∃ t, exec (.cancelReclaim id) s = .next (wakeAll t) ∧ SameMemory s t ∧ SameCsrs s t ∧
      (∀ k, mget t.cancels k = if k = id then none else mget s.cancels k) ∧
      ∀ tid g tok, op.tok = some (tid, g, tok) → TokenHolds t tid g tok (status 6 op.value)) ∧
    (op.status = 0 →
      let dies := fun (tid : Nat) (tk : Task) =>
        tk.tenant = op.tenant ∧ (tid ∈ op.tasks ∨ (tk.prop = false ∧ tk.launch ∈ op.entries))
      (∀ p ∈ s.tasks, dies p.1 p.2 → Written s p.2.core) →
      (∀ p ∈ (tenant s op.tenant).traces, ∀ r, p.2.prop = some r → r.job = 0 ∨ r.job ∉ op.entries) →
      ∃ t, exec (.cancelReclaim id) s = .next (wakeAll t) ∧ mget t.cancels id = none ∧
        (∀ tid tk, task s tid = some tk → dies tid tk → task t tid = none) ∧
        ∀ tid g tok, op.tok = some (tid, g, tok) → TokenHolds t tid g tok (status 0 op.value))) ∧
  (∀ (s : State) (id : Nat) (op : ForkOp) (tk : Task), mget s.forks id = some op → task s op.tid = some tk →
    hasNeed s (.fork id) = false → dying s op.tid tk = false →
    (op.cancelled = true → ∃ t, exec (.forkComplete id) s = .next (wakeAll t) ∧ SameMemory s t ∧ mget t.forks id = none ∧
      TokenHolds t op.tid op.g op.tok (status 0x0D 0)) ∧
    (op.cancelled = false → op.job = 0 → ∃ t, exec (.forkComplete id) s = .next (wakeAll t) ∧ SameMemory s t ∧
      mget t.forks id = none ∧ TokenHolds t op.tid op.g op.tok (status 4 0)) ∧
    (∀ (s1 s2 s4 s5 s6 s7 s8 : State) (n m : Nat) (w0 las : List LaneAcc) (ids : List Nat) (j : Counter),
      op.cancelled = false → op.job ≠ 0 → EngReads s s1 tk op.user op.addr 64 n → forkBad n = false →
      EngReads s1 s2 tk op.user (op.addr + 64) (16 * (n / 2 ^ 304 % 2 ^ 16)) m → nb n 296 1 = 0 →
      let es := (upTo (nb n 304 16)).map (fun i => nb m (128 * i) 128)
      let spans := es.map (fun e => (nb e 71 57 / 2 ^ 12, nb e 28 36))
      let k := nb n 297 7
      es.any spanBad = false → spansOverlap spans = false → (∀ sp ∈ spans, spanState s2 tk.tenant (rootOf s2 tk) sp = .ok) →
      (tenant s2 tk.tenant).ctr.length + k ≤ 4095 → (s2.cores.map (·.1)).foldl (fun s c => writeBackAll s c) s2 = s2 → s2.wq = [] →
      engPlan s2 tk op.user false true none ((upTo (4 * k)).map (nb n 455 57 + ·)) = .go s4 w0 →
      forkChildren s4 tk op n spans (rootOf s2 tk) k = some (s5, ids) → counter s5 tk.tenant op.job = some j → op.job ∉ ids →
      s6 = setCounter s5 tk.tenant op.job { j with target := j.target + k } →
      let vas := (granules ((List.range (4 * ids.length)).map (nb n 455 57 + ·))).map (32 * ·)
      forkOwn s6 tk vas = .ok s7 → engPlan s7 tk op.user false true none vas = .go s8 las → ids.length = k →
      ∃ t, exec (.forkComplete id) s = .next (wakeAll t) ∧ mget t.forks id = none ∧ TokenHolds t op.tid op.g op.tok (status 0 k) ∧
        (counter t tk.tenant op.job).map (·.target) = some (j.target + k) ∧
        ∀ i ∈ ids, (mget (tenant t tk.tenant).roots i).isSome = true ∧ (counter t tk.tenant i).map (fun e =>
          (e.level, e.parent, e.status, e.done, e.target, e.budget)) = some (4, op.job, .open, 0, nb n 260 32, nb n 320 64)))


/-! ### Traces -/

/-- R319 to R324, R123, R125: `tropen` answers the lowest free handle and opens a trace whose top-level tasks, one per block in the
order of enqueueing, take the labels of R123, or the status of the first rule broken; `trclose` closes the trace, with `.free`
destroys it; `trstat` reads a count; `trmark` is a modification that writes nothing; `prop` leaves its token pending and asks for
a propagation; `trfork` gives a job its own copy of a trace.
Completes: `tropen`, `trclose`, `prop`, `trfork`, `trstat`, `trmark`. -/
def Obligations.TraceInstructions : Prop :=
  (∀ (h : Hdr) (r a : Reg) (e : SrcC) (lg : BitVec 5) (s : State) (c : Ctx), 448 ≤ r.toNat →
    Executes s c h 8 ((⟨h.u, a, 2⟩ :: useC h.u e 1) ++ [⟨true, r, 1⟩]) →
    let n := c.task.tenant
    let base := (c.ra a 0 (lowest c.act)).toNat + 2 ^ 32 * (c.ra a 1 (lowest c.act)).toNat
    let i := (c.c e (lowest c.act)).toNat
    let k := namedCounter s n i
    let ok := ∃ x, k = some x ∧ x.status = .open ∧ (x.level = 1 ∨ x.level = 2)
    let fresh := ∀ x, k = some x → x.began = false
    let bad := regionBad s n (rootOf s c.task) base lg.toNat
    (lg.toNat < 20 → c.grp.trap = none → hvec s n ≠ 0 → Traps s c (exec (.tropen h r a e lg) s) 0x01 c.ent.mask 0) ∧
    (∀ st, 20 ≤ lg.toNat → (¬ ok ∧ st = 6) ∨ (ok ∧ ¬ fresh ∧ st = 0x0A) ∨ (ok ∧ fresh ∧ bad = true ∧ st = 9) ∨
        (ok ∧ fresh ∧ bad = false ∧ (∀ j, j < 16 → trOf s n j ≠ none) ∧ st = 8) →
      ∃ t x, exec (.tropen h r a e lg) s = .next t ∧ OnlyGroup (wakeAll s) t c.tid c.g ∧ group t c.tid c.g = some x ∧
        Advanced c x ∧ Writes c true r 1 (fun _ _ => status st 0) x ∧ SamePreds c x) ∧
    (∀ j x0, 20 ≤ lg.toNat → ok → fresh → bad = false → LowestHandle s n j → eventideOn s (clusterOf c.task.core) = true →
      k = some x0 →
      ∃ t x tr, exec (.tropen h r a e lg) s = .next t ∧ group t c.tid c.g = some x ∧ Advanced c x ∧
        Writes c true r 1 (fun _ _ => status 0 j) x ∧ SamePreds c x ∧ trOf t n j = some tr ∧
        (tr.base, tr.lg, tr.eventide, tr.target, tr.job, tr.tstate) =
          (base, lg.toNat, clusterOf c.task.core, i, jobOf s n c.task.launch, 0) ∧ tr.prop = none ∧
        tr.ntop = (topBlocks s n i).length ∧
        tr.gap = (if x0.level = 2 then 2 ^ 62 else 2 ^ 63) / ((topBlocks s n i).length + 1) ∧
        tr.tasks.map (fun p => (p.2.launch, p.2.blk)) = topBlocks s n i ∧
        tr.tasks.map (fun p => (p.2.label, p.2.limit)) =
          (List.range (topBlocks s n i).length).map (fun m => ((m + 1) * tr.gap, (m + 2) * tr.gap)) ∧
        ∀ p ∈ tr.tasks, p.2.top = true ∧ p.2.state = 0 ∧ p.2.rd = [] ∧ p.2.wr = [] ∧ p.2.kids = [])) ∧
  (∀ (h : Hdr) (r a : Reg) (free : Bool) (s : State) (c : Ctx), 448 ≤ r.toNat →
    Executes s c h 8 [⟨h.u, a, 1⟩, ⟨true, r, 1⟩] →
    let n := c.task.tenant
    let j := (c.ra a 0 (lowest c.act)).toNat
    (trOf s n j = none → Leaves s c (exec (.trclose h r a free) s) (fun x =>
      Writes c true r 1 (fun _ _ => status 8 0) x ∧ SamePreds c x)) ∧
    (∀ tr, trOf s n j = some tr → recording s n j = true ∨ tr.prop ≠ none → Stalls s c (exec (.trclose h r a free) s)) ∧
    (∀ tr s2, trOf s n j = some tr → recording s n j = false → tr.prop = none → (∀ q, c.task.traced = some q → q.1 ≠ j) →
      writeTraceOr (if tr.tstate = 1 ∧ tr.dirty = false then s else setTr s n j (closeTrace tr)) n j = .ok s2 →
      ∃ t x, exec (.trclose h r a free) s = .next t ∧ group t c.tid c.g = some x ∧ Advanced c x ∧
        Writes c true r 1 (fun _ _ => status 0 0) x ∧ SamePreds c x ∧
        (trOf t n j).map (·.tstate) = if free then none else some 1)) ∧
  (∀ (h : Hdr) (d a : Reg) (sel : BitVec 3) (s : State) (c : Ctx), Executes s c h 8 [⟨h.u, a, 1⟩, ⟨h.u, d, 1⟩] →
    let tr := trOf s c.task.tenant (c.ra a 0 (lowest c.act)).toNat
    (tr = none → Leaves s c (exec (.trstat h d a sel) s) (fun x => Writes c h.u d 1 (fun _ _ => 0xFFFFFFFF) x ∧ SamePreds c x)) ∧
    (∀ k, tr = some k → Leaves s c (exec (.trstat h d a sel) s) (fun x => SamePreds c x ∧ Writes c h.u d 1 (fun _ _ =>
      BitVec.ofNat 32 (match sel.toNat with
        | 0 => k.tasks.countP (fun p => p.2.state == 2)
        | 1 => k.creexec % 2 ^ 24
        | 2 => k.cspliced % 2 ^ 24
        | 3 => k.cdiscard % 2 ^ 24
        | 4 => k.cnew % 2 ^ 24
        | 5 => nusedOf k
        | 6 => min k.viol.length 255
        | _ => (if propagating k then 2 else k.tstate) + 8 * k.part.isSome.toNat)) x))) ∧
  (∀ (h : Hdr) (a : Reg) (off : SrcB) (s s1 : State) (c : Ctx) (pa : Nat) (xl : Xl),
    Executes s c h off.len (⟨h.u, a, 2⟩ :: useB h.u off 1) → Quiet c.grp →
    let va := address c a off (lowest c.act)
    va < 2 ^ 57 → Machine.access s (.core c.task.core) c.task.tenant (rootOf s c.task) va
      { r := false, w := true, x := false, user := c.user } = (s1, .ok pa xl) →
    (∀ p ∈ (core s1 c.task.core).l1, lineOfKey p.1 ≠ pa / lineBytes) →
    ∃ t x, exec (.trmark h a off) s = .next t ∧ OnlyGroupIn (wakeAll s1) t c ∧ SameMemory s1 t ∧ group t c.tid c.g = some x ∧
      Advanced c x ∧ SameRegs c x ∧ SamePreds c x ∧
      t.wq.map Wr.view = s1.wq.map Wr.view ++ if xl.trk = true ∧ xl.const = false
        then [(dieOf c.task.core, xl.key, c.task.tenant, pa / lineBytes, [], none)] else []) ∧
  (∀ (h : Hdr) (tok a : Reg) (s : State) (c : Ctx), Executes s c h 8 [⟨h.u, a, 1⟩] → Quiet c.grp → Drained s c.task.core →
    tok.toNat - 448 ∉ c.grp.toks →
    let n := c.task.tenant
    let j := (c.ra a 0 (lowest c.act)).toNat
    (trOf s n j = none → ∃ t x, exec (.prop h tok a) s = .next t ∧ OnlyGroupIn s t c ∧ SameMemory s t ∧ group t c.tid c.g = some x ∧
      Moved c x ∧ SamePreds c x ∧ x.reg (.s (tok.toNat - 448)) 0 = status 8 0 ∧ x.toks = c.grp.toks ∧
      Acquired t c.task.core .package) ∧
    (∀ tr, trOf s n j = some tr →
      ∃ t x tr1, exec (.prop h tok a) s = .next t ∧ SameMemory s t ∧ SameCsrs s t ∧ SameGroups (wakeAll s) t c.tid c.g ∧
        group t c.tid c.g = some x ∧ Moved c x ∧ SameRegs c x ∧ SamePreds c x ∧ TokenPending c x tok ∧
        trOf t n j = some tr1 ∧ { tr1 with prop := tr.prop, dirty := tr.dirty } = tr ∧
        tr1.prop = some (match tr.prop with
          | none => newProp s c tok
          | some p => { p with others := p.others ++ [(c.tid, c.g, tok.toNat - 448)] }))) ∧
  (∀ (h : Hdr) (r a : Reg) (b : SrcB) (s : State) (c : Ctx), 448 ≤ r.toNat →
    Executes s c h b.len ((⟨h.u, a, 1⟩ :: useB h.u b 1) ++ [⟨true, r, 1⟩]) →
    let n := c.task.tenant
    let i := (c.ra a 0 (lowest c.act)).toNat
    let j := (c.b b (lowest c.act)).toNat
    let ok := ∃ x, namedCounter s n j = some x ∧ x.status = .open ∧ x.level = 4
    (∀ st, ((trOf s n i = none ∨ ∀ k, k < 16 → trOf s n k ≠ none) ∧ st = 8) ∨ ((trOf s n i).isSome = true ∧ (∃ k, LowestHandle s n k) ∧ ¬ ok ∧ st = 6) →
      ∃ t x, exec (.trfork h r a b) s = .next t ∧ OnlyGroup (wakeAll s) t c.tid c.g ∧ group t c.tid c.g = some x ∧
        Advanced c x ∧ Writes c true r 1 (fun _ _ => status st 0) x ∧ SamePreds c x) ∧
    (∀ tr k s2, trOf s n i = some tr → LowestHandle s n k → ok → tr.prop = none → recording s n i = false →
      eventideOn s (clusterOf c.task.core) = true → (∀ sp ∈ traceSpans tr, spanState s n tr.root sp ≠ .window) →
      (s.cores.map (·.1)).foldl (fun s c => writeBackAll s c) s = s → s.wq = [] →
      shareTrace s n tr.root (rootOfEntry s n j) (traceSpans tr) = some s2 →
      ∃ t x tr1, exec (.trfork h r a b) s = .next t ∧ group t c.tid c.g = some x ∧ Advanced c x ∧
        Writes c true r 1 (fun _ _ => status 0 k) x ∧ SamePreds c x ∧ trOf t n k = some tr1 ∧
        (tr1.root, tr1.eventide, tr1.job, tr1.prop) = (rootOfEntry s n j, clusterOf c.task.core, j, none) ∧
        { tr1 with root := tr.root, eventide := tr.eventide, job := tr.job, dirty := tr.dirty } = tr))

/-- R127, R128, R132 to R143: the Eventide takes the oldest record of a task (the first read of a granule, and the first write, whose
earlier contents stay as undo value); a modification makes the CLEAN readers of its granule STALE; a propagation that starts
clears the counts, sends the members of its window to the spawn store, commits in label order, and at its fixed point writes its
token with the number of re-executions.
Completes: `traceRecord`, `windowForm`, `taskCommit`, `modificationRecord`. -/
def Obligations.Propagations : Prop :=
  (∀ (s : State) (n h r g : Nat) (q : List TrEvent) (tr : Trace) (k : TTask), trOf s n h = some tr → mget tr.tasks r = some k →
    recOn tr k = true → k.live = false → k.norec = false → (∀ p ∈ tr.tasks, ∀ w ∈ p.2.wr, w.gran ≠ g) → (∀ w ∈ k.wr, w.gran ≠ g) →
    ((tenant s n).trq = .read h r g :: q → g ∉ k.rd → k.rd.length % 6 ≠ 0 → mapOk tr.tasks = true →
      ∃ t, exec (.traceRecord n) s = .next (wakeAll t) ∧ { t with tens := s.tens } = s ∧ (tenant t n).trq = q ∧
        (trOf t n h).bind (fun x => mget x.tasks r) = some { k with rd := k.rd ++ [g] }) ∧
    (∀ old s1, (tenant s n).trq = .write h r g old :: q → g ∉ k.rd → (∀ p ∈ tr.tasks, g ∉ p.2.rd) → mapOk tr.tasks = true →
      nusedRaw tr < nrecOf tr →
      reachFor (modTenant s n (fun x => { x with trq := q })) n h (trRoot tr) (tr.base + 64 * nusedRaw tr) = .ok s1 →
      ∃ t, exec (.traceRecord n) s = .next (wakeAll t) ∧ SameMemory s1 t ∧ SameCsrs s1 t ∧ (tenant t n).trq = q ∧
        (trOf t n h).bind (fun x => mget x.tasks r) = some { k with wr := k.wr ++ [⟨g, old⟩] })) ∧
  (∀ (s : State) (m : ModRec) (ms : List ModRec) (h : Nat) (tr : Trace), s.modq = m :: ms → (tenant s m.tenant).trq = [] →
    (tenant s m.tenant).traces = [(h, tr)] → modReaches s m.tenant h tr m.what = true →
    (∀ p ∈ tr.tasks, p.2.live = false ∧ (∀ w ∈ p.2.wr ++ p.2.prior, w.gran ≠ m.what.gran)) →
    ∃ t tr1, exec .modificationRecord s = .next (wakeAll t) ∧ SameMemory s t ∧ SameCsrs s t ∧ t.modq = ms ∧
      trOf t m.tenant h = some tr1 ∧ { tr1 with tasks := tr.tasks, dirty := tr.dirty } = tr ∧
      ∀ r, mget tr1.tasks r = (mget tr.tasks r).map (modified m.what.gran)) ∧
  (∀ (s : State) (n h : Nat) (tr : Trace) (p : PropRun), trOf s n h = some tr → tr.prop = some p → EventideQuiet s n h →
    (tenant s n).resetting = false → (p.cancelled = true →
      ∀ s1, applyAct s n h (endedEarly ((tenant s n).trq.filter (evOf h)) tr) = .ok s1 →
      ∃ t, exec (.windowForm n h) s = .next (wakeAll t) ∧ (trOf t n h).map (·.prop) = some none ∧
        ∀ q ∈ (p.tid, p.g, p.tok) :: p.others, TokenHolds t q.1 q.2.1 q.2.2 (status 0x0D tr.creexec)) ∧
    (p.cancelled = false → (p.started = false → recording s n h = false → tr.part = none →
      ∃ t tr1, exec (.windowForm n h) s = .next (wakeAll t) ∧ { t with tens := s.tens } = s ∧ trOf t n h = some tr1 ∧
        tr1.prop = some { p with started := true } ∧ (tr1.creexec, tr1.cspliced, tr1.cdiscard, tr1.cnew) = (0, 0, 0, 0) ∧
        tr1.tasks.map (fun x => (x.1, x.2.state, x.2.label, x.2.rd, x.2.wr)) =
          tr.tasks.map (fun x => (x.1, x.2.state, x.2.label, x.2.rd, x.2.wr))) ∧
    (p.started = true → nextMembers tr ≠ [] →
      ∃ t, exec (.windowForm n h) s = .next (wakeAll t) ∧ { t with tens := s.tens } = s ∧
        (tenant t n).spawns.map (·.traced) = (tenant s n).spawns.map (·.traced) ++ (nextMembers tr).map (fun r => some (h, r)) ∧
        ∀ r ∈ nextMembers tr, ((trOf t n h).bind (fun x => mget x.tasks r)).map (·.state) = some 3)) ∧
    (p.cancelled = false → p.started = true → tr.tstate ≠ 1 → (∀ x ∈ tr.tasks, x.2.busy = false) →
      let part := if tr.rerec then none else tr.part
      ∃ t, exec (.windowForm n h) s = .next (wakeAll t) ∧ SameMemory s t ∧ SameCsrs s t ∧
        (trOf t n h).map (fun x => (x.prop, x.part)) = some (none, part) ∧
        ∀ q ∈ (p.tid, p.g, p.tok) :: p.others, TokenHolds t q.1 q.2.1 q.2.2 (status (if part.isSome then 0x0E else 0) tr.creexec))) ∧
  (∀ (s : State) (n h r : Nat) (tr : Trace) (k : TTask), trOf s n h = some tr → propagating tr = true → EventideQuiet s n h →
    (tenant s n).resetting = false → (∀ p, tr.prop = some p → p.cancelled = false) →
    (byLabel tr).find? (fun p => p.2.busy) = some (r, k) → mget tr.tasks r = some k → k.state = 5 → k.prior = [] → k.wr = [] →
    (∀ c ∈ k.kids, (mget tr.tasks c).any (·.old) = false) → r ∉ k.nkids →
    (∀ p ∈ tr.tasks, ∀ w ∈ p.2.wr, w.gran ∉ k.nrd) →
    ∃ t tr1, exec (.taskCommit n h) s = .next (wakeAll t) ∧ SameCsrs s t ∧ trOf t n h = some tr1 ∧
      mget tr1.tasks r = some (committed k) ∧ tr1.viol = tr.viol ∧
      ∀ c ∈ k.nkids, (mget tr1.tasks c).map (·.state) = (mget tr.tasks c).map (fun x => if x.state = 6 then 1 else x.state))


/-! ### Neighbour search -/

/-- R150 to R161, R325 to R327: `nngraph` loads a graph slot and refuses a bad descriptor, a bump adds 1 to the graph's version word and
answers it, a drop frees the slot; `nnq` issues a query with a pending token, `nnwait` waits for the slots that its mask names,
`nncancel` marks the query of its slot. A query starts with its entry ids; an expansion's triples return as one reply; a round merges
every id that is not visited; the result stands in memory and the token is written.
Completes: `nnq`, `nnwait`, `nncancel`, `nngraph`, `nngraphBump`, `nngraphDrop`, `queryStart`, `expansionRequest`,
`expansionReply`, `roundMerge`, `queryComplete`, `queryCancelArrival`. -/
def Obligations.Searches : Prop :=
  (∀ (h : Hdr) (r : Reg) (n : BitVec 6) (a : Reg) (off : SrcB) (s s1 : State) (c : Ctx) (las : List LaneAcc), 448 ≤ r.toNat →
    Executes s c h off.len ((⟨h.u, a, 2⟩ :: useB h.u off 1) ++ [⟨true, r, 1⟩]) → Quiet c.grp → Drained s c.task.core →
    let va := address c a off (lowest c.act)
    engPlan s c.task c.user true false none ((upTo 5).map (fun i => va + 32 * i) ++ [va + 159]) = .go s1 las →
    FreshGranules s1 c.task las →
    let g := granNum s1 las va 160
    ∃ t x, exec (.nngraph h r n a off) s = .next t ∧ SameMemory s1 t ∧ SameCsrs s1 t ∧ SameGroups s1 t c.tid c.g ∧
      group t c.tid c.g = some x ∧ Advanced c x ∧ SamePreds c x ∧
      Writes c true r 1 (fun _ _ => status (if graphBad g then 0x0F else 0) 0) x ∧
      ∀ k, mget (tenant t c.task.tenant).graphs k =
        if k = n.toNat ∧ graphBad g = false then some (BitVec.ofNat 1280 g) else mget (tenant s c.task.tenant).graphs k) ∧
  (∀ (h : Hdr) (r : Reg) (n : BitVec 6) (long : Bool) (s : State) (c : Ctx), 448 ≤ r.toNat →
    Executes s c h (if long then 12 else 8) [⟨true, r, 1⟩] → Quiet c.grp →
    let g := mget (tenant s c.task.tenant).graphs n.toNat
    (g = none → Leaves s c (exec (.nngraphBump h r n long) s) (fun x =>
        Writes c true r 1 (fun _ _ => status 0x0F 0) x ∧ SamePreds c x) ∧
      Leaves s c (exec (.nngraphDrop h r n long) s) (fun x => Writes c true r 1 (fun _ _ => status 0x0F 0) x ∧ SamePreds c x)) ∧
    (∀ k, g = some k →
      (∃ t x, exec (.nngraphDrop h r n long) s = .next t ∧ SameMemory s t ∧ SameCsrs s t ∧ SameGroups s t c.tid c.g ∧
        group t c.tid c.g = some x ∧ Advanced c x ∧ SamePreds c x ∧ Writes c true r 1 (fun _ _ => status 0 0) x ∧
        ∀ j, mget (tenant t c.task.tenant).graphs j = if j = n.toNat then none else mget (tenant s c.task.tenant).graphs j) ∧
      (∀ (s1 : State) (la : LaneAcc),
        laneCheck s c.task c.user (.atom r true .addN64 .package .rel)
          (laneAcc (lowest c.act) (gVer k.toNat) (gVer k.toNat) 0 [1, 0]) = (s1, .go la) → la.ordsh = false →
        Drained s1 c.task.core → (∀ p ∈ (core s1 c.task.core).l1, lineOfKey p.1 ≠ la.pa / lineBytes) →
        portReady s1 c.task.core [la] = true → (∀ j, j < 8 → blockBad s1 (la.pa + j) = false) →
        let old := numAt s1 la.key la.pa 8
        ∃ t x, exec (.nngraphBump h r n long) s = .next t ∧ OnlyGroupIn (wakeAll s1) t c ∧ group t c.tid c.g = some x ∧
          Advanced c x ∧ SamePreds c x ∧ Writes c true r 1 (fun _ _ => BitVec.ofNat 32 ((old + 1) % 2 ^ 24)) x ∧
          numAt t la.key la.pa 8 = (old + 1) % 2 ^ 64 ∧
          ∀ b, ¬ (la.pa ≤ b ∧ b < la.pa + 8) → readPa t la.key b = readPa s1 la.key b))) ∧
  (∀ (h : Hdr) (tok : Reg) (slot : BitVec 4) (a : Reg) (off : SrcB) (s : State) (c : Ctx),
    Executes s c h off.len (⟨h.u, a, 2⟩ :: useB h.u off 1) → tok.toNat - 448 ∉ c.grp.toks → c.task.traced = none →
    slotQuery s c.tid c.g slot.toNat = none → s.queries.countP (fun p => p.2.engine == clusterOf c.task.core && !p.2.written) < 64 →
    (∀ v, (levLine s (clusterOf c.task.core)).head? = some v → v = ⟨clusterOf c.task.core, c.tid, c.g, c.ent.pc⟩) →
    ∃ t x id, exec (.nnq h tok slot a off) s = .next t ∧ OnlyGroupIn s t c ∧ SameMemory s t ∧ group t c.tid c.g = some x ∧
      Moved c x ∧ SameRegs c x ∧ SamePreds c x ∧ TokenPending c x tok ∧ x.restTok c = c.grp.rest ∧
      ∀ k, mget t.queries k =
        if k = id then some (newQuery s c tok slot.toNat (address c a off (lowest c.act))) else mget s.queries k) ∧
  (∀ (h : Hdr) (mask : Half) (s : State) (c : Ctx), Executes s c h 12 [] → Quiet c.grp →
    let busy := ∃ p ∈ s.queries, p.2.tid = c.tid ∧ p.2.g = c.g ∧ mask.getLsbD p.2.slot = true
    (busy → Stalls s c (exec (.nnwait h mask) s)) ∧
    (¬ busy → ∃ t x, exec (.nnwait h mask) s = .next t ∧ OnlyGroupIn s t c ∧ SameMemory s t ∧ group t c.tid c.g = some x ∧
      Advanced c x ∧ SameRegs c x ∧ SamePreds c x ∧ Acquired t c.task.core .package)) ∧
  (∀ (h : Hdr) (slot : BitVec 4) (s : State) (c : Ctx), Executes s c h 8 [] →
    (slotQuery s c.tid c.g slot.toNat = none →
      Leaves s c (exec (.nncancel h slot) s) (fun x => SameRegs c x ∧ SamePreds c x)) ∧
    (∀ id q, slotQuery s c.tid c.g slot.toNat = some (id, q) →
      ∃ t x, exec (.nncancel h slot) s = .next t ∧ OnlyGroupIn (wakeAll s) t c ∧ SameMemory s t ∧
        group t c.tid c.g = some x ∧ Advanced c x ∧ SameRegs c x ∧ SamePreds c x ∧
        ∀ k, mget t.queries k = if k = id then some { q with cancelled := true } else mget s.queries k)) ∧
  (∀ (s s1 s2 s3 s4 : State) (id : Nat) (q : Query) (tk : Task) (m m2 : Map Byte) (frames : List Nat) (d e : Word) (pass : Bool),
    mget s.queries id = some q → task s q.tid = some tk → nextToStart s id q = true → hasNeed s (.query id) = false →
    earlierDone s q.tid q.g id = true → q.addr % 64 = 0 → q.vis = [] → q.beam = [] → q.res = [] → q.hops = 0 → q.rounds = 0 →
    levRead s tk id q q.engine none (byteRange q.addr 64) [] = .ok s1 m →
    let q1 := headed s1 q (bytesNum m q.addr 64)
    queryBad q1 = false → spillPages s1 tk q1 = (s2, frames, false, []) →
    levRead s2 tk id q q.engine none (byteRange (q.addr + 64) (4 * qDims q1)) [] = .ok s3 m2 →
    let q2 := { q1 with spill := frames, verSeen := true,
                        qv := (upTo (qDims q1)).map (fun j => BitVec.ofNat 32 (bytesNum m2 (q.addr + 64 + 4 * j) 4)) }
    qEntryN q1 = 1 → qEntry q1 0 = e → tk.traced = none → nodeStep s3 tk id q2 q.engine e false = .ok s4 d pass [] → (f32 d).isNan = false →
    q.status = none →
    ∃ t, exec (.queryStart id) s = .next (wakeAll t) ∧ SameMemory s4 t ∧ mget t.queries id = some (firstRound q2 e d pass)) ∧
  (∀ (s s0 s1 : State) (id : Nat) (q : Query) (tk : Task) (c : Word) (ts : List (Word × Word × Bool)) (d : Word)
      (p : Bool) (ids : List Word),
    mget s.queries id = some q → task s q.tid = some tk → outstanding s q.asked = (s0, some c) → q.status = none →
    hasNeed s (.query id) = false → expand s0 tk id q c = (ts, .ok s1 d p ids) →
    ∃ t, exec (.expansionRequest id) s = .next (wakeAll t) ∧ SameMemory s1 t ∧ SameCsrs s1 t ∧ c ∈ q.asked ∧
      mget t.queries id = some { q with asked := q.asked.filter (· != c), reps := q.reps ++ [(c, ts, none)] }) ∧
  (∀ (s s0 : State) (id : Nat) (q : Query) (c : Word), mget s.queries id = some q → q.status = none →
    outstanding s (q.cand.filter (fun c => q.reps.any (fun r => r.1 == c))) = (s0, some c) →
    ∃ t, exec (.expansionReply id) s = .next (wakeAll t) ∧ { t with queries := s.queries } = s0 ∧ c ∈ q.cand ∧
      mget t.queries id = some { q with cand := q.cand.filter (· != c) }) ∧
  (∀ (s : State) (id : Nat) (q : Query) (tk : Task), mget s.queries id = some q → task s q.tid = some tk → q.status = none →
    q.started = true → q.cand = [] → q.asked = [] → q.reps ≠ [] → hasNeed s (.query id) = false →
    (∀ r ∈ q.reps, r.2.2 = none ∧ ∃ x ∈ q.beam, x.2.1 = r.1) → (q.reps.map (·.1)).Nodup → (qHops q = 0 ∨ q.hops ≤ qHops q) → q.vis.length + (triplesOf q).length ≤ 8192 →
    ∃ t q1 new, exec (.roundMerge id) s = .next (wakeAll t) ∧ { t with queries := s.queries } = s ∧ mget t.queries id = some q1 ∧
      q1.reps = [] ∧ q1.vis = q.vis ++ new ∧ new.Nodup ∧ (∀ v ∈ new, v ∉ q.vis) ∧
      (∀ v, v ∈ q1.vis ↔ v ∈ q.vis ∨ v ∈ (triplesOf q).map (·.1)) ∧
      q1.beam.length ≤ max q.beam.length (qL q) ∧ q1.res.length ≤ max q.res.length (qK q) ∧ q1.asked = q1.cand ∧
      (q1.cand = [] → q1.status = some 0 ∨ q1.status = some 1)) ∧
  (∀ (s s1 : State) (id st key : Nat) (q : Query) (tk : Task) (las : List LaneAcc), mget s.queries id = some q →
    task s q.tid = some tk → q.status = some st → q.written = false → q.read = true → hasNeed s (.query id) = false →
    tk.saved = false → qRes q % 16 = 0 → pendingBelow s (die s (dieOf tk.core)).clock = false →
    engPlan (setQuery s id { q with spill := [] }) tk q.user false true none ((resultBytes q st).map (·.1)) = .go s1 las → (las.map (·.pa)).Nodup →
    (∀ la ∈ las, la.pa % 32 = 0 ∧ la.key = key ∧ ∀ j, j < 32 → blockBad s1 (la.pa + j) = false) →
    ∃ t, exec (.queryComplete id) s = .next (wakeAll t) ∧ mget t.queries id = none ∧
      TokenHolds t q.tid q.g q.tok (BitVec.ofNat 32 (2 ^ 24 * st + 2 ^ 16 * (if st < 3 then q.res.length else 0) + min q.rounds 65535)) ∧
      ∀ p ∈ resultBytes q st, ∀ la ∈ las, la.addr / 32 = p.1 / 32 → readPa t key (la.pa + p.1 % 32) = p.2) ∧
  (∀ (s : State) (id : Nat) (q : Query), mget s.queries id = some q → q.cancelled = true → q.written = false →
    q.status ≠ some 3 →
    ∃ t, exec (.queryCancelArrival id) s = .next (wakeAll t) ∧ SameMemory s t ∧ SameCsrs s t ∧ t.tasks = s.tasks ∧
      mget t.queries id = some { q with started := true, status := some 3, cand := [], asked := [], reps := [], denied := [] })

/-! ### Pages and migration -/

/-- R392, R394, R395, R398 step 6, R371 to R373: a break of sharing clears COW of a page that nobody else shares, and copies a shared
one to a frame of its own; a first touch of an arena page maps a frame; a MIGRATED page comes back with its bytes and permissions;
the frame store takes entries of the pool ring; page requests go out in groups of at most 32 pages within the host's allowance, to
the fault region as records, and an answer serves the pages of its group or ends the access. (The page sizes are 4 KiB, for
arenas 64 KiB, and the pool ring is empty where a frame is taken.)
Completes: `sharingBreak`, `arenaPageBack`, `migratedPageRestore`, `framePoolRefill`, `priGroupSend`, `frrespWrite`,
`priResponse`, `priReenable`. -/
def Obligations.PagesServed : Prop :=
  (∀ (s : State) (id root p : Nat) (n : Need) (x : Xl), Awaits s id n .share root p → walk s n.tenant root (2 ^ 12 * p) = .leaf x →
    judgeLeaf s .fresh n.tenant (2 ^ 12 * p) (needWant n) x = .serve .share → breakWaits s id n root (2 ^ 12 * p) = false →
    x.shr = false → nb x.w0 2 2 = 0 → x.leaf % 16 = 0 →
    let fr := pointed x.w0 x.w1
    (shareOf s n.tenant fr (2 ^ 12) ≤ 1 →
      ∃ t, exec (.sharingBreak id) s = .next (wakeAll t) ∧ PageServed t id n p ∧ SameCsrs s t ∧
        tableEntry t n.tenant x.leaf = (x.w0, x.w1 - 2 ^ 14) ∧
        ∀ k a, ¬ (x.leaf ≤ a ∧ a < x.leaf + 16) → readPa t k a = readPa s k a) ∧
    (∀ s1 f, 1 < shareOf s n.tenant fr (2 ^ 12) → PoolEmpty s n.tenant →
      (∀ c ∈ s.cores, ∀ q ∈ c.2.l1, inFrame fr (2 ^ 12) (lineOfKey q.1 * lineBytes) = false) → frameBusy s fr (2 ^ 12) = false →
      takePage s n.tenant 0 x.w1 = some (s1, f) → f < 2 ^ 39 → Apart x.leaf f (2 ^ 12) →
      ∃ t, exec (.sharingBreak id) s = .next (wakeAll t) ∧ PageServed t id n p ∧
        shareOf t n.tenant fr (2 ^ 12) = shareOf s n.tenant fr (2 ^ 12) - 1 ∧
        tableEntry t n.tenant x.leaf = (f + x.w0 % 2 ^ 12, setF (x.w1 - 2 ^ 14) 15 1 0) ∧
        CopiedTo s t (nb x.w1 28 8) fr f (2 ^ 12))) ∧
  (∀ (s s1 : State) (id root p a w0 w1 f : Nat) (n : Need) (sh : Bool), Awaits s id n .arena root p → PoolEmpty s n.tenant →
    walk s n.tenant root (2 ^ 12 * p) = .absent 1 w0 w1 a sh →
    judge s .fresh n.tenant (2 ^ 12 * p) (needWant n) (.absent 1 w0 w1 a sh) = .serve .arena →
    takeFrame s n.tenant (fun s pa => frameFits s w1 pa) = some (s1, f) → f < 2 ^ 39 →
    ∃ t, exec (.arenaPageBack id) s = .next (wakeAll t) ∧ PageServed t id n p ∧ SameCsrs s t ∧
      ∀ i, i < 16 → let e := tableEntry t n.tenant (a / 256 * 256 + 16 * i)
        e.1 / 2 ^ 16 * 2 ^ 16 = f ∧ e.1 % 2 ^ 8 = 0x37 ∧ e.2 = w1) ∧
  (∀ (s s1 : State) (id root p a w0 w1 f : Nat) (n : Need) (sh : Bool), Awaits s id n .migrated root p → PoolEmpty s n.tenant →
    walk s n.tenant root (2 ^ 12 * p) = .absent 2 w0 w1 a sh →
    judge s .fresh n.tenant (2 ^ 12 * p) (needWant n) (.absent 2 w0 w1 a sh) = .serve .migrated →
    mget s.images (w0 / 2 ^ 12) = some (2 ^ 12) → takePage s n.tenant 0 w1 = some (s1, f) → f < 2 ^ 39 → Apart a f (2 ^ 12) →
    ∃ t, exec (.migratedPageRestore id) s = .next (wakeAll t) ∧ PageServed t id n p ∧ SameCsrs s t ∧
      tableEntry t n.tenant a = (f + w0 / 16 % 64 * 16 + 3, setF (setF w1 15 1 0) 13 1 0) ∧
      CopiedTo s t (nb w1 28 8) (tierBase + w0 / 2 ^ 12 * 2 ^ 12) f (2 ^ 12)) ∧
  (∀ (s s1 : State) (n e : Nat), 4 ≤ nb (csrGet s n 0x044).toNat 0 5 → nb (csrGet s n 0x044).toNat 0 5 ≤ 16 →
    csrGet s n 0x045 = csrGet s n 0x046 + 1 → (tenant s n).frames.length < 64 →
    poolEntry s n (csrAddr s n 0x042 12 + 8 * ((csrGet s n 0x046).toNat % 2 ^ nb (csrGet s n 0x044).toNat 0 5)) = (s1, some e) →
    let ok := e % 2 ^ 16 = 0 ∧ e < 2 ^ 39
    ∃ t, exec (.framePoolRefill n) s = .next (wakeAll t) ∧ SameMemory s1 t ∧ csrGet t n 0x046 = csrGet s n 0x046 + 1 ∧
      (ok → (tenant t n).frames = (tenant s n).frames ++ [e / 2 ^ 16]) ∧
      (¬ ok → (tenant t n).frames = (tenant s n).frames ∧ (fregGet t n 4).getLsbD 1 = true)) ∧
  (∀ (s : State) (id i : Nat) (n : Need), s.needs = [(id, n)] → n.pages ≠ [] → n.pages.Pairwise (· < ·) →
    grpFree s n.tenant = some i →
    (let k := min (tenant s n.tenant).priA 32
     n.svc = .pri → k ≠ 0 → priStopped s n.tenant = false →
      priOut s n.tenant + (n.pages.take k).length ≤ (tenant s n.tenant).priA →
      ∃ t, exec (.priGroupSend n.tenant) s = .next (wakeAll t) ∧ { t with needs := s.needs, pri := s.pri } = s ∧
        t.pri = s.pri ++ (n.pages.take k).zipIdx.map (fun q =>
          { tenant := n.tenant, pasid := pasidOf s n.tenant, stop := false, page := q.1, grp := i,
            last := decide (q.2 + 1 = (n.pages.take k).length), rd := needReads s n, wr := n.write }) ∧
        mget t.needs id = some { n with pages := n.pages.drop k, out := mput n.out i (n.pages.take k) }) ∧
    (∀ p, n.svc = .request → regionOn s n.tenant = true → n.pages = [p] → 1 ≤ frFree s n.tenant →
      let tail := fregGet s n.tenant 0x210
      let slot := (fregGet s n.tenant 0x200).toNat / 2 ^ 12 * 2 ^ 12 + 2 ^ 32 * (fregGet s n.tenant 0x204).toNat +
        32 * (tail.toNat % 2 ^ nb (fregGet s n.tenant 0x208).toNat 0 5)
      ∃ t, exec (.priGroupSend n.tenant) s = .next (wakeAll t) ∧ fregGet t n.tenant 0x210 = tail + 1 ∧
        t.msi = s.msi ++ [(n.tenant, 1)] ∧ mget t.needs id = some { n with pages := [], out := mput n.out i [p] } ∧
        numAt t (defaultKey s n.tenant) slot 8 =
          (needReads s n).toNat + 2 * n.write.toNat + 4 + 8 * i + 2 ^ 12 * (p % 2 ^ 52))) ∧
  (∀ (s : State) (id i : Nat) (n : Need) (v : Word) (e : Instr) (code : Nat), mget s.needs id = some n → (mget n.out i).isSome →
    (tenant s n.tenant).resetting = false →
    (∀ p ∈ s.needs, p.2.tenant = n.tenant → p.2.svc = n.svc → (mget p.2.out i).isSome → p = (id, n)) →
    (n.svc = .pri ∧ e = .priResponse n.tenant i code) ∨
      (n.svc = .request ∧ e = .frrespWrite n.tenant v ∧ funcUp s n.tenant = true ∧ (tenant s n.tenant).posted = [] ∧ i = v.toNat % 2 ^ 9 ∧ code = v.toNat / 2 ^ 12 % 2 ^ 4) →
    (code = 0 → ∃ t, exec e s = .next (wakeAll t) ∧ SameMemory s t ∧ SameCsrs s t ∧
      mget t.needs id = if n.pages = [] ∧ mdel n.out i = [] then none else some { n with out := mdel n.out i }) ∧
    (∀ tid g k, code = 1 ∨ code = 15 → n.who = .log tid g k → regionOn s n.tenant = false →
      ∃ t, exec e s = .next (wakeAll t) ∧ SameMemory s t ∧ SameCsrs s t ∧ (code = 15 → priStopped t n.tenant = true) ∧
        (group t tid g).map (·.oplog) = (group s tid g).map (fun x =>
          x.oplog.map (fun o => if o.id = k then { o with failed := some (0x09, lanesAt o (n.all)) } else o)))) ∧
  (∀ (s : State) (n : Nat), ∃ t, exec (.priReenable n) s = .next (wakeAll t) ∧ { t with tens := s.tens } = s ∧
    priStopped t n = false ∧ ∀ o, o ≠ 4 → fregGet t n o = fregGet s n o)

/-- R397, R398: MIGRATION_POLL takes a slot with VALID = 1; a command that breaks Table 7 ends BADOP, one for a page that cannot be
moved BADPAGE, one for a shared page SHARED; OUT, MOVE and DIRECT first set WPW, and once no access is on its way copy the
page, rewrite its entry and end OK; IN brings a MIGRATED page back, and ends NOSPACE without a frame. (Pages are 4 KiB.)
Completes: `migrationPoll`, `migOut`, `migIn`, `migMove`, `migDirect`, `migBadop`. -/
def Obligations.Migrations : Prop :=
  (∀ (s s1 : State) (n cmd : Nat), (tenant s n).mig = none → mgOn s n = true → mgRead s n = (s1, some cmd) →
    (cmd % 2 = 0 → exec (.migrationPoll n) s = .next s) ∧
    (cmd % 2 = 1 → ∃ t, exec (.migrationPoll n) s = .next (wakeAll t) ∧ SameMemory s1 t ∧ SameCsrs s1 t ∧
      (tenant t n).mig = some { cmd := BitVec.ofNat 256 cmd, step := 0 })) ∧
  (∀ (s : State) (n : Nat) (m : MigRun), (tenant s n).mig = some m → cmdBad m.cmd.toNat = true →
    ∃ t, exec (.migBadop n) s = .next (wakeAll t) ∧ CommandEnds s t n m.cmd.toNat 6) ∧
  (∀ (s : State) (n op : Nat) (e : Instr) (m : MigRun), (op, e) ∈ [(1, .migOut n), (3, Instr.migMove n), (4, .migDirect n)] →
    (tenant s n).mig = some m →
    let cmd := m.cmd.toNat
    cmdBad cmd = false → cmdOp cmd = op →
    ((∀ root x, cmdRoot s n cmd = some root → walk s n root (cmdVa cmd) = .leaf x → 2 ≤ nb x.w0 2 2 ∨ stalePage s n x.w1 = true) →
      ∃ t, exec e s = .next (wakeAll t) ∧ CommandEnds s t n cmd 2) ∧
    (∀ root x, cmdRoot s n cmd = some root → walk s n root (cmdVa cmd) = .leaf x → nb x.w0 2 2 = 0 →
      stalePage s n x.w1 = false →
      let old := pointed x.w0 x.w1
      (m.step = 0 → (x.shr = true ∨ underBreak s n cmd = true ∨ 1 < shareOf s n old (2 ^ 12)) → ∃ t, exec e s = .next (wakeAll t) ∧ CommandEnds s t n cmd 3) ∧
      (m.step = 0 → migShared s n cmd x.w0 x.w1 x.shr false = false → redsIn s old (2 ^ 12) = false →
        ∃ t, exec e s = .next (wakeAll t) ∧ SameCsrs s t ∧ (tenant t n).mig = some { m with step := 1 } ∧
          tableEntry t n x.leaf = (x.w0, setF x.w1 13 1 1)) ∧
      (∀ s1 pa, m.step ≠ 0 → pageQuiet s old (2 ^ 12) = true → frameBad s old (2 ^ 12) = false → PoolEmpty s n →
        migDest s n cmd 0 x.w1 = some (s1, pa) → Apart x.leaf pa (2 ^ 12) → (op = 3 → pa < 2 ^ 39) →
        ∃ t s2, exec e s = .next (wakeAll t) ∧ csrGet s2 n 0x04E = csrGet s n 0x04E ∧ CommandEnds s2 t n cmd 1 ∧
          CopiedTo s s2 (nb x.w1 28 8) old pa (2 ^ 12) ∧
          let w := tableEntry s2 n x.leaf
          w.1 / 2 ^ 12 * 2 ^ 12 = (if op = 3 then pa else pa - tierBase) ∧ w.1 % 16 = (if op = 1 then 4 else x.w0 % 16) ∧
          nb w.2 13 1 = 0 ∧ nb w.2 15 1 = (if op = 4 then 1 else if op = 3 then 0 else nb x.w1 15 1) ∧
          (op = 3 → nb w.2 23 2 = cmdPlace cmd ∧ nb w.2 25 3 = cmdPsel cmd) ∧
          (op = 4 → nb w.2 23 2 = 0 ∧ nb w.2 25 3 = 0) ∧
          (op = 1 → mget s2.images ((pa - tierBase) / 2 ^ 12) = some (2 ^ 12))))) ∧
  (∀ (s : State) (n : Nat) (m : MigRun), (tenant s n).mig = some m →
    let cmd := m.cmd.toNat
    cmdBad cmd = false → cmdOp cmd = 2 →
    ((∀ root w0 w1 a sh, cmdRoot s n cmd = some root → walk s n root (cmdVa cmd) = .absent 2 w0 w1 a sh →
        stalePage s n w1 = true) →
      ∃ t, exec (.migIn n) s = .next (wakeAll t) ∧ CommandEnds s t n cmd 2) ∧
    (∀ root w0 w1 a sh, cmdRoot s n cmd = some root → walk s n root (cmdVa cmd) = .absent 2 w0 w1 a sh →
      stalePage s n w1 = false → migShared s n cmd w0 w1 sh true = false → mget s.images (w0 / 2 ^ 12) = some (2 ^ 12) →
      frameBad s (tierBase + w0 / 2 ^ 12 * 2 ^ 12) (2 ^ 12) = false →
      (takePage s n 0 w1 = none → ∃ t, exec (.migIn n) s = .next (wakeAll t) ∧ CommandEnds s t n cmd 4) ∧
      (∀ s1 f, PoolEmpty s n → takePage s n 0 w1 = some (s1, f) → f < 2 ^ 39 → Apart a f (2 ^ 12) →
        ∃ t s2, exec (.migIn n) s = .next (wakeAll t) ∧ csrGet s2 n 0x04E = csrGet s n 0x04E ∧ CommandEnds s2 t n cmd 1 ∧
          CopiedTo s s2 (nb w1 28 8) (tierBase + w0 / 2 ^ 12 * 2 ^ 12) f (2 ^ 12) ∧
          tableEntry s2 n a = (f + w0 / 16 % 64 * 16 + 3, setF (setF w1 15 1 0) 13 1 0))))

/-! ### Pre-emption, sampling, debug -/

/-- R413, R414, R416, R418, R438, R440: a context whose quantum is over begins its save (STREAM) or is switched out (SHADOW), and is
switched back in; a save that finds its core clean leaves its blocks saved, a restore gives them back to the core, and one that
does not read what was saved ends them; a sampler starts with a gap from PERIOD to twice PERIOD, tags the one group of its
scheduler when it is due, and the record of what it followed goes to the sample ring or is counted as lost.
Completes: `quantumExpiry`, `contextSaveComplete`, `shadowSwitch`, `contextRestoreComplete`, `samplePoint`, `sampleRecord`. -/
def Obligations.PreemptionAndSampling : Prop :=
  (∀ (s : State) (n c : Nat) (x : Context), ctxOf s n c = some x → x.phase = .resident → (csrGet s n 0x051).toNat % 2 ^ 24 ≠ 0 →
    1024 * ((csrGet s n 0x051).toNat % 2 ^ 24) ≤ s.cycle - x.since → wanted s n c = true → longest s n c = true →
    (saveWaits s n c = false ∨ shadowTenant s n = true) →
    ∃ t, exec (.quantumExpiry n c) s = .next (wakeAll t) ∧
      (ctxOf t n c).map (·.phase) = some (if shadowTenant s n = true then .shadow else .saving)) ∧
  (∀ (s : State) (n c : Nat) (x : Context), ctxOf s n c = some x → x.phase = .shadow → wanted s n c = false →
    ∃ t, exec (.shadowSwitch n c) s = .next (wakeAll t) ∧ { t with tens := s.tens } = s ∧
      ctxOf t n c = some { x with phase := .resident, since := s.cycle, hang := 0 }) ∧
  (∀ (s s2 : State) (n c : Nat) (x : Context), ctxOf s n c = some x → x.phase = .saving → ctxQuiet s n c = true →
    Written s c →
    let s1 := { s with fresh := s.fresh + 1 }
    let size := 4097 + (Config.freeWord s.fresh).toNat % (2 ^ 21 - 4096)
    slotPut { s1 with serial := s.serial + 1 } n c 0 (slotImage s1 n c size (mgetD 0 (tenant s n).saves c + 1) x.since) = .ok s2 →
    ∃ t, exec (.contextSaveComplete n c) s = .next (wakeAll t) ∧
      ((∀ p ∈ (tenant s n).ctr, p.2.budget = 0) → SameMemory s2 t) ∧ (ctxOf t n c).map (·.phase) = some .saved ∧
      mgetD 0 (tenant t n).saves c = mgetD 0 (tenant s n).saves c + 1 ∧ (core t c).l1 = [] ∧ (core t c).cc = [] ∧
      ∀ tid tk, task s tid = some tk → tk.tenant = n → tk.core = c → (task t tid).map (·.saved) = some true) ∧
  (∀ (s s1 s2 : State) (n c : Nat) (x : Context) (bs : List Byte), ctxOf s n c = some x → x.phase = .restoring →
    slotReach n ⟨true, false, false, false⟩ (chunksOf (slotVa s n c) x.check.length) s = .ok s1 →
    devRead s1 n (tenantRoot s1 n) (slotVa s n c) x.check.length false = (s2, some bs) →
    ∃ t, exec (.contextRestoreComplete n c) s = .next (wakeAll t) ∧
      (bs.mapIdx (fun i b => (i, b)) = x.check → (ctxOf t n c).map (·.phase) = some .resident ∧
        ∀ tid tk, task s tid = some tk → tk.tenant = n → tk.core = c → (task t tid).map (·.saved) = some false) ∧
      (bs.mapIdx (fun i b => (i, b)) ≠ x.check → ∀ tid tk, task s tid = some tk → tk.tenant = n → tk.core = c →
        task t tid = none)) ∧
  (∀ (s : State) (n c k : Nat) (y : Tenant), s.tens = [(n, y)] → k < 4 → samplerOn s n = true →
    let p := (csrGet s n 0x085).toNat % 2 ^ 24
    p ≠ 0 →
    (mget y.samplers (4 * c + k) = none → schedGroups s n c k ≠ [] →
      ∃ t z, exec (.samplePoint c k) s = .next (wakeAll t) ∧ SameMemory s t ∧ SameCsrs s t ∧ t.tasks = s.tasks ∧
        mget (tenant t n).samplers (4 * c + k) = some z ∧ z.tag = none ∧ s.cycle + p ≤ z.next ∧ z.next < s.cycle + 2 * p) ∧
    (∀ z slot tid g x tk, mget y.samplers (4 * c + k) = some z → z.tag = none → z.next ≤ s.cycle →
      schedGroups s n c k = [(slot, tid, g)] → task s tid = some tk → group s tid g = some x →
      (hasNeed s (.fetch tid g) = true ∨ (x.select (fairOn s n) (fairLimit s n)).isSome = true) →
      ∃ t z1, exec (.samplePoint c k) s = .next (wakeAll t) ∧ SameMemory s t ∧ SameCsrs s t ∧ t.tasks = s.tasks ∧
        mget (tenant t n).samplers (4 * c + k) = some z1 ∧ s.cycle + p ≤ z1.next ∧ z1.next < s.cycle + 2 * p ∧
        z1.tag = some { tid := tid, g := g, at_ := s.cycle, fetch := hasNeed s (.fetch tid g), note := none, load := none })) ∧
  (∀ (s : State) (n c k : Nat) (y : Tenant) (z : Sampler) (x : SampTag) (r : Nat), s.tens = [(n, y)] → k < 4 →
    mget y.samplers (4 * c + k) = some z → z.tag = some x → x.note = some r → r ≠ 0 → awaited s x = true →
    (∀ q, group s x.tid x.g = some q → q.trap = none) →
    ∃ t, exec (.sampleRecord c k) s = .next (wakeAll t) ∧ t.tasks = s.tasks ∧
      mget (tenant t n).samplers (4 * c + k) = some { z with tag := none } ∧
      let size := (csrGet s n 0x082).toNat % 2 ^ 5
      (size < 6 ∨ 16 < size → SameMemory s t ∧
        csrGet t n 0x087 = if csrGet s n 0x087 = 0xFFFFFFFF then 0xFFFFFFFF else csrGet s n 0x087 + 1) ∧
      (∀ s1 pa xl, 6 ≤ size → size ≤ 16 → (csrGet s n 0x084 - csrGet s n 0x083).toNat < 2 ^ size →
        access s .fresh n (tenantRoot s n) (csrAddr s n 0x080 12 + 64 * ((csrGet s n 0x084).toNat % 2 ^ size))
          ⟨false, true, false, false⟩ = (s1, .ok pa xl) → xl.legal = true → spillHolds s1 (pa / lineBytes) = false → (∀ j, j < 64 → blockBad s1 (pa + j) = false) →
        csrGet t n 0x084 = csrGet s n 0x084 + 1 ∧ csrGet t n 0x087 = csrGet s n 0x087 ∧ numAt t xl.key pa 64 = r % 2 ^ 512))

/-- R426, R428, R430 to R434: a breakpoint asks for one stop of its block; a stop holds the block and writes its dump; STOP asks for
a stop or answers OK at once for a stopped block and NOTRES for one that is not there; RESUME and STEP let a stopped block go
on, for good or for one issue of each group; END takes its groups away, so that it issues nothing more and ends; READ and WRITE reach one register or the predicates of one lane; a
running block answers NOTSTOP, a register that is not there BADARG, and so does an operation that is not defined.
Completes: `breakpointMatch`, `preciseStop`, `dbgStop`, `dbgResume`, `dbgStep`, `dbgEnd`, `dbgRead`, `dbgWrite`, `dbgBadarg`. -/
def Obligations.DebugCommands : Prop :=
  (∀ (s : State) (tid g : Nat) (tk : Task) (x : Group), task s tid = some tk → mget tk.groups g = some x → bpNow s tk x ≠ 0 →
    ∃ t hit, exec (.breakpointMatch tid g) s = .next (wakeAll t) ∧ { t with tasks := s.tasks } = s ∧
      task t tid = some { tk with stopReq := some (2, hit) } ∧ ∀ q ∈ tk.groups, bpNow s tk q.2 ||| hit = hit) ∧
  (∀ (s : State) (tid : Nat) (tk : Task) (r : Nat × Nat), task s tid = some tk → unitRuns s tk = true → tk.stopReq = some r →
    tk.run = .running → (∀ q ∈ tk.groups, q.2.loads = [] ∧ q.2.stores = []) →
    ∃ t, exec (.preciseStop tid) s = .next (wakeAll t) ∧ SameMemory (writeDump s tk r.1 r.2) t ∧
      task t tid = some { tk with run := .stopped, stopReq := none,
                                  groups := tk.groups.map (fun q => (q.1, { q.2 with steps := 0 })) } ∧
      (nb (csrGet s tk.tenant 0x08A).toNat 0 5 < 6 → (tenant s tk.tenant).dbgWait ≠ some (tk.launch, tk.blk) →
        csrGet t tk.tenant 0x061 = csrGet s tk.tenant 0x061 ||| 0x100) ∧
      ((tenant s tk.tenant).dbgWait = some (tk.launch, tk.blk) → DbgEnds t tk.tenant 1)) ∧
  (∀ (s : State) (n : Nat), dbgPending s n 1 = true →
    (∀ tid x, DbgBlock s n tid x → x.run = .running → x.stopReq = none →
      ∃ t, exec (.dbgStop n) s = .next (wakeAll t) ∧ SameMemory s t ∧ SameCsrs s t ∧
        (tenant t n).dbgWait = some (dbgName s n) ∧ task t tid = some { x with stopReq := some (3, 0) }) ∧
    (∀ tid x, DbgBlock s n tid x → x.run ≠ .running →
      ∃ t, exec (.dbgStop n) s = .next (wakeAll t) ∧ { t with tens := s.tens } = s ∧ DbgEnds t n 1) ∧
    (blockNamed s n (dbgName s n) = none → blockQueued s n (dbgName s n) = false →
      ∃ t, exec (.dbgStop n) s = .next (wakeAll t) ∧ { t with tens := s.tens } = s ∧ DbgEnds t n 2)) ∧
  (∀ (s : State) (n op : Nat) (e : Instr), (op, e) ∈ [(2, .dbgResume n), (3, Instr.dbgStep n), (4, .dbgEnd n), (5, .dbgRead n),
      (6, .dbgWrite n)] → dbgPending s n op = true →
    (blockNamed s n (dbgName s n) = none →
      ∃ t, exec e s = .next (wakeAll t) ∧ { t with tens := s.tens } = s ∧ DbgEnds t n 2) ∧
    (∀ tid x, DbgBlock s n tid x → x.run = .running →
      ∃ t, exec e s = .next (wakeAll t) ∧ { t with tens := s.tens } = s ∧ DbgEnds t n 3)) ∧
  (∀ (s : State) (n tid : Nat) (x : Task), DbgBlock s n tid x → x.run ≠ .running →
    let l := (csrGet s n 0x063).toNat
    let gi := l / 2 ^ 12 % 2 ^ 4
    let lane := l / 2 ^ 16 % 2 ^ 5
    let cls := (csrGet s n 0x062).toNat / 2 ^ 4 % 2 ^ 4
    let idx := (csrGet s n 0x062).toNat / 2 ^ 8 % 2 ^ 9
    let w := csrGet s n 0x065
    (dbgPending s n 2 = true →
      ∃ t y, exec (.dbgResume n) s = .next (wakeAll t) ∧ SameMemory s t ∧ DbgEnds t n 1 ∧ task t tid = some y ∧
        y.run = .running ∧ y.stopReq = none ∧ { y with run := x.run, stopReq := x.stopReq, groups := x.groups } = x) ∧
    (dbgPending s n 3 = true → x.run = .stopped →
      ∃ t y, exec (.dbgStep n) s = .next (wakeAll t) ∧ SameMemory s t ∧ SameCsrs s t ∧
        (tenant t n).dbgWait = some (x.launch, x.blk) ∧ task t tid = some y ∧ { y with groups := x.groups } = x ∧
        ∀ k gr, mget x.groups k = some gr → ∃ gr1, mget y.groups k = some gr1 ∧
          { gr1 with stall := gr.stall, exempt := gr.exempt, steps := gr.steps } = gr ∧
          gr1.steps = if (gr.select (fairOn s x.tenant) (fairLimit s x.tenant)).isSome then 1 else 0) ∧
    (dbgPending s n 4 = true → ∃ t, exec (.dbgEnd n) s = .next (wakeAll t) ∧ DbgEnds t n 1 ∧
      task t tid = some { x with groups := [], run := .running, stopReq := none, faulted := x.run != .stopped }) ∧
    (dbgPending s n 5 = true →
      (∀ gr, mget x.groups gi = some gr →
        (∀ r, (cls = 0 ∧ r = Rg.v idx ∧ r.fits x.granules = true) ∨ (cls = 1 ∧ r = Rg.s idx ∧ idx < 64) →
          ∃ t, exec (.dbgRead n) s = .next (wakeAll t) ∧ { t with tens := s.tens } = s ∧ DbgEnds t n 1 ∧
            csrGet t n 0x065 = gr.reg r lane) ∧
        (cls = 2 → ∃ t, exec (.dbgRead n) s = .next (wakeAll t) ∧ { t with tens := s.tens } = s ∧ DbgEnds t n 1 ∧
          ∀ p, p < 32 → (csrGet t n 0x065).getLsbD p = (decide (p < 7) && has (gr.pred p) lane))) ∧
      (mget x.groups gi = none ∨ 2 < cls ∨ (cls = 0 ∧ (Rg.v idx).fits x.granules = false) ∨ (cls = 1 ∧ 64 ≤ idx) →
        ∃ t, exec (.dbgRead n) s = .next (wakeAll t) ∧ { t with tens := s.tens } = s ∧ DbgEnds t n 4)) ∧
    (dbgPending s n 6 = true →
      (∀ gr r, mget x.groups gi = some gr →
        (cls = 0 ∧ r = Rg.v idx ∧ r.fits x.granules = true) ∨ (cls = 1 ∧ r = Rg.s idx ∧ idx < 64) →
        (gr.pendTok r = true ∨ r ∈ gr.pendRegs →
          ∃ t, exec (.dbgWrite n) s = .next (wakeAll t) ∧ { t with tens := s.tens } = s ∧ DbgEnds t n 5) ∧
        (gr.pendTok r = false → r ∉ gr.pendRegs →
          ∃ t, exec (.dbgWrite n) s = .next (wakeAll t) ∧ SameMemory s t ∧ DbgEnds t n 1 ∧
            ∃ y, group t tid gi = some y ∧ { y with v := gr.v, sr := gr.sr, rbad := gr.rbad } = gr ∧ y.reg r lane = w ∧
              ∀ q i, (q ≠ r ∨ (cls = 0 ∧ i ≠ lane ∧ i < 32)) → i < 32 → y.reg q i = gr.reg q i)) ∧
      (∀ gr, mget x.groups gi = some gr → cls = 2 →
        ∃ t y, exec (.dbgWrite n) s = .next (wakeAll t) ∧ SameMemory s t ∧ DbgEnds t n 1 ∧ group t tid gi = some y ∧
          { y with pr := gr.pr } = gr ∧
          ∀ p i, p < 7 → i < 32 → has (y.pred p) i = if i = lane then w.getLsbD p else has (gr.pred p) i))) ∧
  (∀ (s : State) (n : Nat), (csrGet s n 0x061).getLsbD 31 = true →
    ((csrGet s n 0x062).toNat % 2 ^ 4 = 0 ∨ 7 ≤ (csrGet s n 0x062).toNat % 2 ^ 4) →
    ∃ t, exec (.dbgBadarg n) s = .next (wakeAll t) ∧ { t with tens := s.tens } = s ∧ DbgEnds t n 4)

/-! ### The host -/

/-- R361, R364 to R370, R374, R375, R410, R260: a doorbell moves its tail within the ring, or sets CFGERR; a ring slot is taken and its
head advances, and its completion stands in host memory; CQHEAD, queue configurations and watches take what is written; the CSR
window writes a CSR as a supervisor; PQSET sets a quantum from function 0 only; BAR2 reads and writes through the tenant's
tables; a communicator takes the map that it names; a KEYOWN write that changes its owner draws keys; FSTAT bits clear where 1 is
written; held writes of the spill pool take effect. A function that does not answer changes nothing, but a read of BAR2 during a
reset returns bytes that the spec leaves open; a write waits behind the function's earlier writes that wait.
Completes: `spillPoolApply`, `hostRingTake`, `keyownWrite`, `registerWrite`, `pqsetWrite`, `hqDoorbell`, `cqheadWrite`,
`dqcfgWrite`, `watchArm`, `csrWindowWrite`, `bar2Access`, `commWrite`. -/
def Obligations.HostRegistersAndRings : Prop :=
  (∀ (s : State) (n : Nat) (e : Instr), funcUp s n = false →
    (∃ q v, e = .hqDoorbell n q v ∨ e = .dqcfgWrite n q v ∨ e = .watchArm n q v ∨ e = .csrWindowWrite n q v ∨
      e = .cqheadWrite n v ∨ e = .registerWrite (.bar0 n) q v ∨ e = .pqsetWrite n v ∨ (n = 0 ∧ e = .keyownWrite q v)) ∨
    (∃ o w d h i v, (e = .bar2Access n o w d ∧ (w ≠ .read ∨ (tenant s n).resetting = false)) ∨ e = .commWrite n h i v) ∨
      e = .tenantReset n →
    exec e s = .next s) ∧
  (∀ (s : State) (n o : Nat) (d : List Byte), hostUp s = true → (tenant s n).enabled = true → (tenant s n).resetting = true →
    ∃ t, exec (.bar2Access n o .read d) s = .next t ∧ { t with hostRead := s.hostRead, fresh := s.fresh } = s ∧
      t.hostRead.length = d.length) ∧
  (∀ (s : State) (n : Nat) (e : Instr) (w : HostWrite), funcUp s n = true → (tenant s n).posted ≠ [] →
    (∃ o v, e = .registerWrite (.bar0 n) o v ∧ w = .reg o v) ∨ (∃ q v, e = .hqDoorbell n q v ∧ w = .reg (0x100C + 16 * q) v) ∨
      (∃ k v, e = .csrWindowWrite n k v ∧ w = .reg (0x10000 + 4 * k) v) ∨
      (∃ o d, e = .bar2Access n o (.write false) d ∧ o + d.length ≤ 2 ^ 36 ∧ w = .mem o d) →
    ∃ t, exec e s = .next t ∧ { t with tens := s.tens } = s ∧ tenant t n = { tenant s n with posted := (tenant s n).posted ++ [w] }) ∧
  (∀ (s : State) (n : Nat), funcUp s n = true → (tenant s n).posted = [] →
    (∀ (q : Nat) (v : Word), q < 64 →
      let head := hqHeadOf s n q
      let ok := (v - head).toNat ≤ hqSlots s n q ∧ (hqTailOf s n q - head).toNat ≤ (v - head).toNat
      ∃ t, exec (.hqDoorbell n q v) s = .next (wakeAll t) ∧ { t with tens := s.tens } = s ∧
        hqTailOf t n q = (if ok then v else hqTailOf s n q) ∧ fregGet t n 4 = (if ok then fregGet s n 4 else fregGet s n 4 ||| 2)) ∧
    (∀ (q st v : Nat) (s1 : State), q < 64 → hqSlots s n q ≠ 0 → hqTailOf s n q ≠ hqHeadOf s n q → queueAtCap s n q = false →
      cqOn s n = true → cqFull s n = false → (tenant s n).cqPend = [] → recordRefusal s n (hqRecord s n q) q = some st →
      let slot := (fregGet s n 0x100).toNat / 2 ^ 12 * 2 ^ 12 + 2 ^ 32 * (fregGet s n 0x104).toNat +
        16 * ((tenant s n).cqTail % 2 ^ cqSize s n)
      ∃ t, exec (.hostRingTake n q) s = .next (wakeAll t) ∧ hqHeadOf t n q = hqHeadOf s n q + 1 ∧ t.msi = s.msi ++ [(n, 0)] ∧
        (tenant t n).cqTail = (tenant s n).cqTail + 1 ∧ (tenant t n).ctr = (tenant s n).ctr ∧
        ∀ j, j < 16 → readHost t (slot + j) = BitVec.ofNat 8 ((2 ^ 32 * q + 2 ^ 40 * st + 2 ^ 96 * (hqHeadOf s n q).toNat +
          (if (tenant s n).cqTail / 2 ^ cqSize s n % 2 = 0 then 1 else 0)) / 256 ^ j)) ∧
    (∀ v : Word, (tenant s n).cqPend = [] →
      ∃ t, exec (.cqheadWrite n v) s = .next (wakeAll t) ∧ { t with tens := s.tens } = s ∧ fregGet t n 0x10C = v ∧
        ∀ o, o ≠ 0x10C → fregGet t n o = fregGet s n o) ∧
    (∀ (q : Nat) (v : Word), q < 64 →
      let cap := v.toNat / 2 ^ 16 % 2 ^ 13
      let ok := ((List.range 64).map (fun p => if p = q then 0 else queueCap s n p)).sum + cap ≤ 4096 ∧
        (cap = queueCap s n q ∨ (queueOf s n q).recs = [])
      ∃ t, exec (.dqcfgWrite n q v) s = .next (wakeAll t) ∧ { t with tens := s.tens } = s ∧
        fregGet t n (0x2000 + 4 * q) = (if ok then v &&& 0x1FFF0007 else fregGet s n (0x2000 + 4 * q)) ∧
        fregGet t n 4 = (if ok then fregGet s n 4 else fregGet s n 4 ||| 2)) ∧
    (∀ (w : Nat) (v : Word), w < 8 →
      let fires := v.getLsbD 31 = true ∧ ∀ e, counter s n (v.toNat % 2 ^ 12) = some e → e.status ≠ .open
      ∃ t, exec (.watchArm n w v) s = .next (wakeAll t) ∧ SameCsrs s t ∧
        fregGet t n (0x10 + 4 * w) = (if fires then v &&& 0xFFF else v &&& 0x80000FFF) ∧
        (fires → cqOn s n = true → cqFull s n = false → (tenant s n).cqPend = [] →
          (tenant t n).cqTail = (tenant s n).cqTail + 1 ∧ t.msi = s.msi ++ [(n, 0)]) ∧
        (¬ fires → { t with tens := s.tens } = s)) ∧
    (∀ (k : Nat) (v : Word), k < 4096 →
      (csrOfGroup k = true → exec (.csrWindowWrite n k v) s = .next (wakeAll s)) ∧
      (csrOfGroup k = false → csrMask k = none ∨ (k = 0x052 ∧ n ≠ 0) →
        ∃ t, exec (.csrWindowWrite n k v) s = .next (wakeAll t) ∧ SameMemory s t ∧ SameCsrs s t ∧
          fregGet t n 4 = fregGet s n 4 ||| 2) ∧
      (∀ m, csrOfGroup k = false → csrMask k = some m → (m ≠ 0 ∨ csrClears k ≠ 0) → csrLocked s n k = false →
        csrInRange k v.toNat = true → k ≠ 0x052 → k ≠ 0x062 → (0x030 ≤ k ∧ k ≤ 0x032 → detRuns s n = false) →
        ∃ t, exec (.csrWindowWrite n k v) s = .next (wakeAll t) ∧ SameMemory s t ∧
          ∀ j r, csrGet t j r = if j = n ∧ r = k then csrAfter (csrGet s n k) v m (csrClears k) else csrGet s j r)) ∧
    (∀ v : Word, ∃ t, exec (.pqsetWrite n v) s = .next (wakeAll t) ∧ SameMemory s t ∧
      (n = 0 → ∀ j r, csrGet t j r = if j = v.toNat / 2 ^ 24 % 2 ^ 4 ∧ r = 0x051 then v &&& 0xFFFFFF else csrGet s j r) ∧
      (n ≠ 0 → SameCsrs s t ∧ fregGet t n 4 = fregGet s n 4 ||| 2)) ∧
    (∀ (o : Nat) (data : List Byte) (s1 : State) (pa : Nat) (x : Xl) (wr relaxed : Bool), data ≠ [] → o + data.length ≤ 2 ^ 36 →
      let va := apBase s n + o
      va < 2 ^ 57 → va % lineBytes + data.length ≤ lineBytes → (∀ j, j < data.length → blockBad s1 (pa + j) = false) →
      access s .fresh n (tenantRoot s n) va ⟨!wr, wr, false, false⟩ = (s1, .ok pa x) → x.legal = true →
      (wr = true → spillHolds s1 (pa / lineBytes) = false) →
      (∀ s2 p, access s1 .fresh n (tenantRoot s1 n) va ⟨!wr, wr, false, false⟩ = (s2, p) → s2 = s1 ∧ p = .ok pa x) →
      (wr = true → ∃ t, exec (.bar2Access n o (.write relaxed) data) s = .next (wakeAll t) ∧ SameCsrs s t ∧
        ∀ j (h : j < data.length), readPa t x.key (pa + j) = data[j]) ∧
      (wr = false → (∀ j, j < data.length → ∃ s2 x2, access s1 .fresh n (tenantRoot s1 n) (va + j) ⟨true, false, false, false⟩ =
          (s2, .ok (pa + j) x2)) →
        ∃ t, exec (.bar2Access n o .read data) s = .next (wakeAll t) ∧ SameMemory s1 t ∧ SameCsrs s t ∧
          t.hostRead = (List.range data.length).map (fun j => readPa s1 x.key (pa + j)))) ∧
    (∀ (h i : Nat) (v : Word), h < 64 → i < 4 →
      (i ≠ 0 → ∃ t, exec (.commWrite n h i v) s = .next (wakeAll t) ∧ { t with tens := s.tens } = s ∧
        fregGet t n (0x3000 + 16 * h + 4 * i) = (if i = 1 then v &&& 0xFFFF else v)) ∧
      (i = 0 → v.getLsbD 0 = false → ∃ t, exec (.commWrite n h i v) s = .next (wakeAll t) ∧ { t with tens := s.tens } = s ∧
        fregGet t n (0x3000 + 16 * h) = 0 ∧ mget (tenant t n).comms h = none) ∧
      (∀ s2 ws, i = 0 → v.getLsbD 0 = true → commMap (fregSet s n (0x3000 + 16 * h) 1) n h = (s2, ws) →
        ∃ t, exec (.commWrite n h i v) s = .next (wakeAll t) ∧ SameMemory s2 t ∧ mget (tenant t n).comms h = ws ∧
          (ws = none → fregGet t n (0x3000 + 16 * h) = 0 ∧ (fregGet t n 4).getLsbD 1 = true))) ∧
    (∀ (o : Nat) (v : Word), (o, fregMask n o) ∈ [(0xC, 0x800FFFFF), (0x100, 0xFFFFF000), (0x104, 0xFFFFFFFF), (0x108, 0x1F),
        (0x200, 0xFFFFF000), (0x204, 0xFFFFFFFF), (0x208, 0x1F), (0x20C, 0xFFFFFFFF), (0x304, 0xFFFFFFF0)] →
      ∃ t, exec (.registerWrite (.bar0 n) o v) s = .next (wakeAll t) ∧ { t with tens := s.tens } = s ∧
        ∀ r, fregGet t n r = if r = o then v &&& BitVec.ofNat 32 (fregMask n o) else fregGet s n r) ∧
    (∀ v : Word, ∃ t, exec (.registerWrite (.bar0 n) 4 v) s = .next (wakeAll t) ∧ { t with tens := s.tens } = s ∧
      fregGet t n 4 = fregGet s n 4 &&& ~~~(v &&& 6))) ∧
  (∀ (s : State) (k : Nat) (v : Word), funcUp s 0 = true → (tenant s 0).posted = [] → 1 ≤ k → k < 256 →
    ∃ t, exec (.keyownWrite k v) s = .next (wakeAll t) ∧ { t with tens := s.tens, kepoch := s.kepoch, epochs := s.epochs } = s ∧
      (∀ o, fregGet t 0 o = if o = 0x40000 + 4 * k then v &&& 0xCF else fregGet s 0 o) ∧
      ∀ j, keyEpoch t j = if j = k ∧ (fregGet s 0 (0x40000 + 4 * k)).toNat % 16 ≠ v.toNat % 16 then s.epochs + 1
        else keyEpoch s j) ∧
  (∀ (s : State) (n k : Nat) (w : Word), (tenant s n).heldCsr = [(k, w)] → detRuns s n = false →
    ∃ t, exec (.spillPoolApply n) s = .next (wakeAll t) ∧ SameMemory s t ∧ (tenant t n).heldCsr = [] ∧
      ∀ j r, csrGet t j r = if j = n ∧ r = k then csrAfter (csrGet s n k) w ((csrMask k).getD 0) 0 else csrGet s j r)

/-- R364, R376, R377, R419: a reset of a tenant stops its blocks and marks its entries; when its reclamation is over, every CSR of the
tenant is at its reset value, it has no counter entry, trace or translation left, and the host hears of it on vector 2, but not
after an FLR. Virtual functions exist as SR-IOV says, and an FLR of function 0 ends every one of them.
Completes: `tenantResetComplete`, `sriovVfEnable`, `tenantReset`, `flr`. -/
def Obligations.TenantResets : Prop :=
  (∀ (s : State) (n : Nat), (tenant s n).resetting = false →
    (funcUp s n = true → (tenant s n).posted = [] → ∃ t, exec (.tenantReset n) s = .next (wakeAll t) ∧ (tenant t n).resetting = true ∧
      (tenant t n).resetFlr = false ∧ (∀ tid tk, task t tid = some tk → tk.tenant = n → tk.run = .stopped) ∧
      ∀ p ∈ t.forks, p.2.tenant ≠ n) ∧
    (hostUp s = true → (tenant s n).enabled = true →
      ∃ t, exec (.flr n) s = .next t ∧ (tenant t n).resetting = true ∧ (n ≠ 0 → (tenant t n).resetFlr = true) ∧
        (n = 0 → mapOk s.tens = true → ∀ j, j ≠ 0 → (tenant t j).enabled = false) ∧
        ∀ tid tk, task t tid = some tk → tk.tenant = n → tk.run = .stopped)) ∧
  (∀ (s : State) (n : Nat), (tenant s n).resetting = true → (∀ p ∈ s.tasks, p.2.tenant ≠ n) → (∀ p ∈ s.cancels, p.2.tenant ≠ n) →
    ∃ t, exec (.tenantResetComplete n) s = .next (wakeAll t) ∧ SameMemory { s with kepoch := t.kepoch } t ∧
      (tenant t n).resetting = false ∧ (tenant t n).enabled = (tenant s n).enabled ∧ (∀ r, csrGet t n r = csrReset r) ∧
      (∀ j, counter t n j = none) ∧ (tenant t n).traces = [] ∧ (tenant t n).graphs = [] ∧ (tenant t n).spawns = [] ∧
      (tenant t n).ats = (tenant s n).ats ∧ (∀ c k, mget s.cores c = some k → ∀ e ∈ (core t c).tlb, e.tenant ≠ n) ∧
      t.pri = s.pri ++ ((pasidOf s n).map (stopMarker n)).toList ∧
      (∀ q ∈ t.queries, q.2.tenant ≠ n) ∧ (∀ q ∈ t.needs, q.2.tenant ≠ n) ∧
      (∀ o, o < 0x40000 → ¬ (n = 0 ∧ o = 8) → fregGet t n o = 0) ∧
      t.msi = s.msi ++ (if (tenant s n).resetFlr = true then [] else [(n, 2)])) ∧
  (∀ (s : State) (k : Nat), hostUp s = true → k ≤ 15 →
    ∃ t, exec (.sriovVfEnable k) s = .next (wakeAll t) ∧ (tenant t 0).enabled = (tenant s 0).enabled ∧
      ∀ j, 1 ≤ j → j ≤ 15 → (tenant t j).enabled = decide (j ≤ k)) ∧
  (∀ (s : State) (k : Nat), hostUp s = false ∨ 15 < k → exec (.sriovVfEnable k) s = .next s)

/-! ### The management complex -/

/-- R32, R407 to R409, R441 to R445: cold reset starts the base dies and trains the stacks, or stays in RECOVERY without an image that
verifies; standby keeps no state; the next island to start ramps, and is ON once both its engines are enabled; OFF is refused to
the islands of the even half-clusters, base dies and busy Eventides, and drains an island that is ON, which turns off with its
caches empty once every context is saved; LOW and FULL set a level or start the island; power control lowers the highest FULL
island and returns the lowest; a rate change trains its stack, or waits for saves, and ends DONE or FAILED; a scrub counts what it
finds and marks an uncorrectable line; self-refresh changes nothing.
Completes: `matrixEngineEnable`, `islandSetOff`, `islandSetLow`, `islandSetFull`, `islandDrainComplete`, `rateChange`,
`rateChangeDeferredStart`, `retrainComplete`, `powerMeasure`, `patrolScrub`, `selfRefreshEntry`, `coldReset`, `standby`,
`islandRampStart`. -/
def Obligations.IslandsPowerAndRates : Prop :=
  (∀ s : State, ∃ t, exec .coldReset s = .next t ∧ t.tasks = [] ∧ t.cores = [] ∧ t.wq = [] ∧ t.mem = [] ∧ t.hostMem = s.hostMem ∧
    t.mgmt.banks = s.mgmt.banks ∧ (∀ n r, csrGet t n r = csrReset r) ∧ (∀ o, mregGet t o = mregReset o) ∧
    (bootBank s = none → t.mgmt.boot = 2 ∧ recovery t = true) ∧
    (∀ b, bootBank s = some b → t.mgmt.boot = 3 ∧ t.mgmt.runBank = some b ∧ nb (mboxGet t 4).toNat 4 3 = 1 ∧
      t.mgmt.toStart = [16, 17, 18, 19, 20, 21, 22, 23] ∧ ∀ k, k < 8 → mget t.mgmt.retrain k = some 0)) ∧
  (∀ s : State, ∃ t, exec .standby s = .next t ∧ t.mgmt.standby = true ∧ t.tasks = [] ∧ t.cores = [] ∧ t.mem = [] ∧
    t.hostMem = s.hostMem ∧ ∀ n, funcUp t n = false) ∧
  (∀ (s : State) (i : Nat) (is : List Nat), s.mgmt.toStart = i :: is → i < 24 →
    (s.mgmt.rampAt = 0 ∨ s.mgmt.rampAt + (mregGet s 0xD00).toNat % 2 ^ 16 ≤ s.cycle) →
    ∃ t, exec .islandRampStart s = .next (wakeAll t) ∧ { t with mgmt := s.mgmt } = s ∧ islandState t i = 1 ∧
      t.mgmt.toStart = is ∧ t.mgmt.rampAt = s.cycle ∧ t.mgmt.ramping = s.mgmt.ramping ++
        [{ island := i, at_ := s.cycle, mspace := (mregGet s 0xD00).toNat / 2 ^ 24, engines := 0 }]) ∧
  (∀ (s : State) (i : Nat) (r : Ramp), s.mgmt.ramping.find? (fun r => r.island == i) = some r → i < 24 →
    (i < 16 → r.at_ + (r.engines + 1) * r.mspace ≤ s.cycle) →
    ∃ t, exec (.matrixEngineEnable i) s = .next (wakeAll t) ∧ { t with mgmt := s.mgmt } = s ∧
      (i < 16 → r.engines = 0 → islandState t i = islandState s i ∧
        t.mgmt.ramping = s.mgmt.ramping.map (fun q => if q.island = i then { q with engines := 1 } else q)) ∧
      (16 ≤ i ∨ r.engines ≠ 0 → islandState t i = 2 ∧ (∀ q ∈ t.mgmt.ramping, q.island ≠ i) ∧
        levelOf t i = (if islandWants s i = 1 then 1 else 2))) ∧
  (∀ (s : State) (i : Nat), islandGo s i = true → islandWants s i = 0 → i < 24 →
    (i % 2 = 0 ∨ 15 < i ∨ eventideBusy s (i / 2) = true →
      ∃ t, exec (.islandSetOff i) s = .next (wakeAll t) ∧ { t with mgmt := s.mgmt } = s ∧ islandGo t i = false ∧
        nb (mregRead t (0xD40 + 4 * i)).toNat 8 3 = 5 ∧ islandState t i = islandState s i) ∧
    (i % 2 = 1 → i ≤ 15 → eventideBusy s (i / 2) = false → islandState s i = 2 → s.mgmt.retrain = [] →
      ∃ t, exec (.islandSetOff i) s = .next (wakeAll t) ∧ islandState t i = 3 ∧
        ∀ n c x, ctxOf s n c = some x → coreIsland c = i → x.phase = .resident ∨ x.phase = .shadow →
          mapOk s.tens = true → mapOk (tenant s n).ctxs = true → (ctxOf t n c).map (·.phase) = some .saving)) ∧
  (∀ (s : State) (i l : Nat) (e : Instr), (l, e) ∈ [(1, .islandSetLow i), (2, Instr.islandSetFull i)] → i < 24 →
    islandGo s i = true → islandWants s i = l →
    (islandState s i = 2 → (l = 2 → i ∉ s.mgmt.lowered) →
      ∃ t, exec e s = .next (wakeAll t) ∧ { t with mgmt := s.mgmt } = s ∧ levelOf t i = l ∧ islandGo t i = false ∧
        islandState t i = 2) ∧
    (islandState s i = 0 → i ∉ s.mgmt.toStart →
      ∃ t, exec e s = .next (wakeAll t) ∧ { t with mgmt := s.mgmt } = s ∧ t.mgmt = { s.mgmt with toStart := s.mgmt.toStart ++ [i] })) ∧
  (∀ (s : State) (i : Nat), islandState s i = 3 → i < 24 → (∀ q ∈ islandCtxs s i, q.2.2.phase = .saved) →
    ∃ t, exec (.islandDrainComplete i) s = .next (wakeAll t) ∧ SameMemory s t ∧ islandState t i = 0 ∧ islandGo t i = false ∧
      ∀ c, if coreIsland c = i then (core t c).l1 = [] ∧ (core t c).cc = [] ∧ (core t c).iw = [] ∧ (core t c).tlb = [] ∧
        (core t c).wtlb = [] else core t c = core s c) ∧
  (∀ (s : State) (w : Nat), ∃ t, exec (.powerMeasure w) s = .next t ∧ { t with mgmt := s.mgmt } = s ∧ t.mgmt.watts = w ∧
    (∀ i, 3300 < w → i ∈ fullIslands s → (∀ j ∈ fullIslands s, j ≤ i) →
      levelOf t i = 1 ∧ i ∈ t.mgmt.lowered ∧ ∀ j, j ≠ i → levelOf t j = levelOf s j) ∧
    (∀ i is, w < 3100 → s.mgmt.lowered = i :: is →
      levelOf t i = 2 ∧ t.mgmt.lowered = is ∧ ∀ j, j ≠ i → levelOf t j = levelOf s j) ∧
    (3100 ≤ w → w ≤ 3300 → t.mgmt = { s.mgmt with watts := w })) ∧
  (∀ (s : State) (k : Nat), k < 8 →
    let reg := fun (t : State) => (mregGet t (0xB20 + 4 * k)).toNat
    (reg s / 2 ^ 31 = 1 → nb (reg s) 8 3 ≠ 1 → nb (reg s) 8 3 ≠ 3 →
      ∃ t, exec (.rateChange k) s = .next (wakeAll t) ∧ { t with mgmt := s.mgmt } = s ∧
        (savesTo s k = true → nb (reg t) 8 3 = 3 ∧ t.mgmt.retrain = s.mgmt.retrain) ∧
        (savesTo s k = false → nb (reg t) 8 3 = 1 ∧ mget t.mgmt.retrain k = some (reg s % 4))) ∧
    (nb (reg s) 8 3 = 3 → savesTo s k = false →
      ∃ t, exec (.rateChangeDeferredStart k) s = .next (wakeAll t) ∧ { t with mgmt := s.mgmt } = s ∧ nb (reg t) 8 3 = 1 ∧
        mget t.mgmt.retrain k = some (reg s % 4)) ∧
    (∀ rate ok, mget s.mgmt.retrain k = some rate → s.mgmt.boot ≠ 3 → rate < 4 →
      ∃ t, exec (.retrainComplete k ok) s = .next (wakeAll t) ∧ { t with mgmt := s.mgmt } = s ∧ mget t.mgmt.retrain k = none ∧
        nb (reg t) 8 3 = (if ok = true then 2 else 4) ∧ reg t / 2 ^ 31 = 0 ∧
        nb (reg t) 4 2 = (if ok = true then rate else nb (reg s) 4 2)) ∧
    (∀ rate, mget s.mgmt.retrain k = some rate → s.mgmt.boot = 3 →
      ∃ t, exec (.retrainComplete k false) s = .next (wakeAll t) ∧ recovery t = true ∧ t.mgmt.boot = 2)) ∧
  (∀ (s : State) (line : Nat), (mregGet s 0xC40).toNat % 2 ^ 16 ≠ 0 → line * 128 < 2 ^ 39 → blockBad s (line * 128) = false →
    let k := 4 * homeStack s (line * 128)
    exec (.patrolScrub line 0) s = .next (wakeAll s) ∧
    (∃ t, exec (.patrolScrub line 1) s = .next (wakeAll t) ∧ { t with mgmt := s.mgmt } = s ∧
      mregGet t (0xC00 + k) = if mregGet s (0xC00 + k) = 0xFFFFFFFF then 0xFFFFFFFF else mregGet s (0xC00 + k) + 1) ∧
    (∃ t, exec (.patrolScrub line 2) s = .next (wakeAll t) ∧ { t with mgmt := s.mgmt, bad := s.bad } = s ∧
      (∀ j, j < 128 → blockBad t (line * 128 + j) = true) ∧
      mregGet t (0xC20 + k) = if mregGet s (0xC20 + k) = 0xFFFFFFFF then 0xFFFFFFFF else mregGet s (0xC20 + k) + 1)) ∧
  (∀ (s : State) (line o : Nat), tierBase ≤ line * 128 → line * 128 < tierBase + cxlCap 0 + cxlCap 1 → o = 2 ∨ o = 3 →
    ∃ t, exec (.patrolScrub line o) s = .next (wakeAll t) ∧ { t with bad := s.bad } = s ∧
      ∀ a, blockBad t a = (blockBad s a || decide (a / 64 = 2 * line + (o - 2)))) ∧
  (∀ (s : State) (k pc : Nat), exec (.selfRefreshEntry k pc) s = .next s)

/-- R401 to R403, R446 to R449: a mapping load sets BUSY, and its check answers KIND, STRUCTURE, SINGULAR or OK in that order; only OK
puts the staged rows in force, and OK means that they are invertible. A mailbox command ends with its result: RDREG and WRREG reach
the registers of the management space, SETROOT a tenant's root, IDENT and ATTEST the host's memory, STAGEIMG the bank that does not
run; in RECOVERY only RDREG of MBSTAT, IDENT and STAGEIMG are served.
Completes: `registerWrite`, `mapLoad`, `mapCheckComplete`, `mbRdreg`, `mbWrreg`, `mbSetroot`, `mbIdent`, `mbAttest`, `mbStageimg`,
`mbBadop`. -/
def Obligations.MapLoadsAndMailbox : Prop :=
  (∀ s : State, (mregGet s 0).getLsbD 31 = true → (mregGet s 4).getLsbD 31 = false →
    ∃ t, exec .mapLoad s = .next (wakeAll t) ∧ { t with mgmt := s.mgmt } = s ∧ (mregGet t 4).getLsbD 31 = true ∧
      ∀ o, o ≠ 4 → mregGet t o = mregGet s o) ∧
  (∀ s : State, (mregGet s 4).getLsbD 31 = true →
    let r := (mregGet s 0).toNat / 2 ^ 4 % 2 ^ 4
    let kind := (mregGet s 0).toNat % 2 ^ 2
    let rows := (List.range 32).map (fun i => (mregGet s (0x80 + 4 * i)).toNat)
    let res := if kind = 3 then 4 else if mapStructure rows kind = false then 3 else if gfRank 32 rows = false then 2 else 1
    (∀ v ∈ s.wq, v.line / 2 ^ 28 ≠ r) → (∀ v ∈ s.reds, v.accepted = true → v.pa / 2 ^ 35 ≠ r) →
    ∃ t, exec .mapCheckComplete s = .next (wakeAll t) ∧ t.tasks = s.tasks ∧ t.tens = s.tens ∧
      mregGet t 4 = BitVec.ofNat 32 (2 ^ 8 * r + res) ∧ (mregGet t 0).getLsbD 31 = false ∧
      (∀ q i, q < 16 → i < 32 → matRow t q i = if res = 1 ∧ q = r then rows.getD i 0 else matRow s q i) ∧
      (res ≠ 1 → SameMemory s t) ∧ (res = 1 → Invertible rows)) ∧
  (∀ s : State, mailRuns s 1 = true →
    ∃ t, exec .mbRdreg s = .next (wakeAll t) ∧ { t with mgmt := s.mgmt } = s ∧
      let o := (mboxGet s 8).toNat
      (recovery s = true → o ≠ 4 → MailEnds t 2) ∧ (recovery s = true → o = 4 → MailEnds t 1 ∧ mboxGet t 0xC = mboxGet s 4) ∧
      (recovery s = false → mregNamed o = true → MailEnds t 1 ∧ mboxGet t 0xC = mregRead s o) ∧
      (recovery s = false → mregNamed o = false → MailEnds t 3 ∧ mboxGet t 0xC = mboxGet s 0xC)) ∧
  (∀ s : State, mailRuns s 2 = true →
    ∃ t, exec .mbWrreg s = .next (wakeAll t) ∧ { t with mgmt := s.mgmt } = s ∧
      let o := (mboxGet s 8).toNat
      (recovery s = true → MailEnds t 2 ∧ ∀ r, mregGet t r = mregGet s r) ∧
      (recovery s = false → mregNamed o = false → MailEnds t 3 ∧ ∀ r, mregGet t r = mregGet s r) ∧
      (∀ m, recovery s = false →
        (0x80 ≤ o ∧ o < 0x100 ∧ o % 4 = 0 ∧ mapBusy s = false ∧ m = 0xFFFFFFFF) ∨
          (0xA00 ≤ o ∧ o < 0xA20 ∧ o % 4 = 0 ∧ m = 0xFFFFFFFF) ∨ (0xB00 ≤ o ∧ o < 0xB20 ∧ o % 4 = 0 ∧ m = 0x00FFFFFF) ∨
          (0xC00 ≤ o ∧ o < 0xC40 ∧ o % 4 = 0 ∧ m = 0xFFFFFFFF) ∨ (o = 0xC40 ∧ m = 0xFFFF) →
        MailEnds t 1 ∧ ∀ r, mregGet t r = if r = o then mboxGet s 0xC &&& m else mregGet s r)) ∧
  (∀ s : State, mailRuns s 3 = true →
    let n := (mboxGet s 8).toNat % 2 ^ 4
    ∃ t, exec .mbSetroot s = .next (wakeAll t) ∧ SameMemory s t ∧ t.tasks = s.tasks ∧
      (recovery s = true → MailEnds t 2 ∧ SameCsrs s t) ∧
      (recovery s = false → (∃ p ∈ s.tasks, p.2.tenant = n ∧ p.2.saved = false) → MailEnds t 3 ∧ SameCsrs s t) ∧
      (recovery s = false → (∀ p ∈ s.tasks, p.2.tenant = n → p.2.saved = true) →
        MailEnds t 1 ∧ ∀ j r, csrGet t j r =
          if j = n ∧ r = 0x040 then mboxGet s 0xC &&& 0xFFFFE000 ||| csrGet s n 0x040 &&& 0x1FFF
          else if j = n ∧ r = 0x041 then mboxGet s 0x10 &&& 0xFF00007F ||| csrGet s n 0x041 &&& 0x00FFFF80 else csrGet s j r)) ∧
  (∀ (s : State) (sig : List Byte) (n op : Nat) (e : Instr), mailRuns s op = true →
    (op = 4 ∧ e = .mbIdent ∧ n = 7888 ∧ sig = secret 1 0 32 ++ secret 2 (devinfo s).toNat 7856) ∨
      (op = 5 ∧ e = .mbAttest ∧ recovery s = false ∧ n = 7984 ∧
        sig = leBytes 128 (attestHeader s) ++ secret 4 (attestHeader s) 7856) →
    (hostFailed s (mailAddr s) n = true → ∃ t, exec e s = .next (wakeAll t) ∧ { t with mgmt := s.mgmt } = s ∧ MailEnds t 5) ∧
    sig.length = n ∧ (hostFailed s (mailAddr s) n = false → ∃ t, exec e s = .next (wakeAll t) ∧ MailEnds t 1 ∧ { t with mgmt := s.mgmt, hostMem := s.hostMem } = s ∧
      ∀ a, readHost t a = if mailAddr s ≤ a then (sig[a - mailAddr s]?).getD (readHost s a) else readHost s a)) ∧
  (∀ s : State, mailRuns s 5 = true → recovery s = true →
    ∃ t, exec .mbAttest s = .next (wakeAll t) ∧ { t with mgmt := s.mgmt } = s ∧ MailEnds t 2) ∧
  (∀ s : State, mailRuns s 6 = true →
    let bs := (List.range (mboxGet s 0x18).toNat).map (fun i => readHost s (mailAddr s + i))
    let k := if s.mgmt.runBank = some 0 then 1 else 0
    let failed := hostFailed s (mailAddr s) (mboxGet s 0x18).toNat
    ∃ t, exec .mbStageimg s = .next (wakeAll t) ∧ { t with mgmt := s.mgmt } = s ∧
      (failed = true → MailEnds t 5 ∧ t.mgmt.banks = s.mgmt.banks) ∧
      (failed = false → imgOk s bs = false → MailEnds t 4 ∧ t.mgmt.banks = s.mgmt.banks) ∧
      (failed = false → imgOk s bs = true → s.mgmt.banks.length = 2 → MailEnds t 1 ∧ bankOf t k = bs ∧ bankOf t (1 - k) = bankOf s (1 - k))) ∧
  (∀ s : State, (mboxGet s 4).getLsbD 31 = true → ((mboxGet s 0).toNat % 2 ^ 8 = 0 ∨ 6 < (mboxGet s 0).toNat % 2 ^ 8) →
    ∃ t, exec .mbBadop s = .next (wakeAll t) ∧ { t with mgmt := s.mgmt } = s ∧ MailEnds t 2) ∧
  (∀ (s : State) (v : Word), mailUp s = true → (mboxGet s 4).getLsbD 31 = false → v.getLsbD 31 = true →
    ∃ t, exec (.registerWrite .bar4 0 v) s = .next t ∧ { t with mgmt := s.mgmt } = s ∧ mailRuns t (v.toNat % 2 ^ 8) = true)

/-! ### The whole machine -/

/-- R86, R90: every step keeps memory in its canonical form: addresses rise, and no byte is listed that reads as one that is not
listed would. (That an unlisted byte reads 0 is the model's choice, log entry 5.) -/
def Obligations.MemoryStaysCanonical : Prop :=
  ∀ s t : State, Memory.wf s.mem = true → Memory.wf s.hostMem = true → step s = .next t →
    Memory.wf t.mem = true ∧ Memory.wf t.hostMem = true

/-- R41, R402, R406, R410, R425, R441, R442: at reset no island is on, no work and no byte of memory is there, the mailbox does not
answer, every CSR of a tenant holds 0 but CTXMODE, FAIRT, HANGT, PQUANT and SMPER, and the management registers hold the values of
their tables, with the recommended matrix in every region. -/
def Obligations.ResetState : Prop :=
  let s := core.reset
  s.tasks = [] ∧ s.mem = [] ∧ Memory.wf s.mem = true ∧ Memory.wf s.hostMem = true ∧ mailUp s = false ∧ s.cycle = 0 ∧
  (∀ n r, csrGet s n r = if r = 0x020 then 3 else if r = 0x021 then 0x100 else if r = 0x022 then 0x1A else
    if r = 0x051 then 0x33F else if r = 0x085 then 0x10000 else 0) ∧
  (∀ n o, fregGet s n o = 0) ∧ (∀ i, i < 24 → islandState s i = 0) ∧
  (∀ k, k < 8 → mregGet s (0xB00 + 4 * k) = 0x400 ∧ mregGet s (0xB20 + 4 * k) = 0) ∧ mregGet s 0xC40 = 0x5A0 ∧
  mregGet s 0xD00 = 0x400006A4 ∧
  ∀ r i, r < 16 → i < 32 → matRow s r i = [0x1, 0x2, 0x4, 0x10000, 0x20000, 0x8, 0x10, 0x100, 0x200, 0x400, 0x800, 0x1000, 0x2000,
    0x4000, 0x8000, 0x120, 0x240, 0x480, 0x40000, 0x80000, 0x100000, 0x200000, 0x400000, 0x800000, 0x1000000, 0x2000000,
    0x4000000, 0x8000000, 0x10000000, 0x20000000, 0x40000000, 0x80000000].getD i 0
end

