-- ==== Sys2Proof/Laws/Map.lean ====
section
/-! SUPPORT. Laws of maps: what a lookup gives after each change, and that every change keeps the canonical form. -/

namespace Sys2Proof.Machine

variable {α : Type}

@[simp] theorem mget_nil (x : Nat) : mget ([] : Map α) x = none := rfl

@[simp] theorem mget_mput (m : Map α) (k x : Nat) (v : α) : mget (mput m k v) x = if x = k then some v else mget m x := by
  induction m with
  | nil => simp [mput, mget]
  | cons p m ih =>
    obtain ⟨j, w⟩ := p
    by_cases h1 : k < j
    · simp [mput, h1, mget]
    · by_cases h2 : k = j
      · subst h2; simp only [mput, h1, if_false, if_true, mget]; split <;> rfl
      · simp only [mput, h1, h2, if_false, mget, ih]
        by_cases h3 : x = k
        · subst h3; simp [h2]
        · simp [h3]

@[simp] theorem mput_mput (m : Map α) (k : Nat) (v w : α) : mput (mput m k v) k w = mput m k w := by
  induction m with
  | nil => simp [mput]
  | cons p m ih =>
    obtain ⟨j, u⟩ := p
    by_cases h1 : k < j
    · simp [mput, h1]
    · by_cases h2 : k = j
      · subst h2; simp [mput]
      · simp [mput, h1, h2, ih]

@[simp] theorem mget_mdel (m : Map α) (k x : Nat) : mget (mdel m k) x = if x = k then none else mget m x := by
  induction m with
  | nil => simp [mdel, mget]
  | cons p m ih =>
    obtain ⟨j, u⟩ := p
    unfold mdel at ih ⊢
    by_cases h : j = k
    · subst h
      simp only [List.filter_cons, bne_self_eq_false, Bool.false_eq_true, if_false, ih, mget]
      split <;> rfl
    · simp only [List.filter_cons, bne_iff_ne, ne_eq, h, not_false_eq_true, if_true, mget, ih]
      by_cases h3 : x = j
      · subst h3; simp [h]
      · simp [h3]

@[simp] theorem mgetD_mput (d : α) (m : Map α) (k x : Nat) (v : α) :
    mgetD d (mput m k v) x = if x = k then v else mgetD d m x := by
  unfold mgetD; rw [mget_mput]; split <;> rfl

@[simp] theorem mgetD_mputD [DecidableEq α] (d : α) (m : Map α) (k x : Nat) (v : α) :
    mgetD d (mputD d m k v) x = if x = k then v else mgetD d m x := by
  unfold mgetD mputD
  split
  · next h => rw [mget_mdel]; split <;> simp [h]
  · rw [mget_mput]; split <;> simp

@[simp] theorem mget_mmod (m : Map α) (k x : Nat) (f : α → α) :
    mget (mmod m k f) x = if x = k then (mget m k).map f else mget m x := by
  unfold mmod
  split
  · next h => split <;> simp_all
  · next v h => simp [h]

theorem mmod_none (m : Map α) (k : Nat) (f : α → α) (h : mget m k = none) : mmod m k f = m := by simp [mmod, h]

theorem mmod_some (m : Map α) (k : Nat) (f : α → α) (v : α) (h : mget m k = some v) : mmod m k f = mput m k (f v) := by
  simp [mmod, h]

@[simp] theorem mmod_mmod (m : Map α) (k : Nat) (f g : α → α) : mmod (mmod m k f) k g = mmod m k (fun x => g (f x)) := by
  cases h : mget m k with
  | none => simp [mmod, h]
  | some v => simp [mmod, h]

/-! ### The canonical form -/

theorem mapFrom_mono (m : Map α) : ∀ a b, a ≤ b → mapFrom b m = true → mapFrom a m = true := by
  cases m with
  | nil => simp [mapFrom]
  | cons p m => intro a b h; simp only [mapFrom, Bool.and_eq_true, decide_eq_true_eq]; rintro ⟨h1, h2⟩; exact ⟨by omega, h2⟩

theorem mapFrom_mput (m : Map α) : ∀ a x v, a ≤ x → mapFrom a m = true → mapFrom a (mput m x v) = true := by
  induction m with
  | nil => intro a x v h _; simpa [mput, mapFrom] using h
  | cons p m ih =>
    obtain ⟨j, w⟩ := p
    intro a x v h
    simp only [mapFrom, Bool.and_eq_true, decide_eq_true_eq]
    rintro ⟨h1, h2⟩
    by_cases h3 : x < j
    · simp only [mput, h3, if_true, mapFrom, Bool.and_eq_true, decide_eq_true_eq]; exact ⟨h, by omega, h2⟩
    · by_cases h4 : x = j
      · subst h4; simp only [mput, h3, if_false, if_true, mapFrom, Bool.and_eq_true, decide_eq_true_eq]; exact ⟨h, h2⟩
      · simp only [mput, h3, h4, if_false, mapFrom, Bool.and_eq_true, decide_eq_true_eq]
        exact ⟨h1, ih _ _ _ (by omega) h2⟩

theorem mapFrom_filter (p : Nat × α → Bool) (m : Map α) : ∀ a, mapFrom a m = true → mapFrom a (m.filter p) = true := by
  induction m with
  | nil => simp [mapFrom]
  | cons q m ih =>
    obtain ⟨j, w⟩ := q
    intro a
    simp only [mapFrom, Bool.and_eq_true, decide_eq_true_eq]
    rintro ⟨h1, h2⟩
    simp only [List.filter_cons]
    split
    · simp only [mapFrom, Bool.and_eq_true, decide_eq_true_eq]; exact ⟨h1, ih _ h2⟩
    · exact mapFrom_mono _ _ _ (by omega) (ih _ h2)

theorem mapOk_mput (m : Map α) (x : Nat) (v : α) (h : mapOk m = true) : mapOk (mput m x v) = true :=
  mapFrom_mput m 0 x v (Nat.zero_le _) h

theorem mapOk_filter (p : Nat × α → Bool) (m : Map α) (h : mapOk m = true) : mapOk (m.filter p) = true :=
  mapFrom_filter p m 0 h

theorem mapOk_mdel (m : Map α) (x : Nat) (h : mapOk m = true) : mapOk (mdel m x) = true := mapOk_filter _ m h

theorem all_mput (p : Nat × α → Bool) (m : Map α) (x : Nat) (v : α) (hv : p (x, v) = true) (h : m.all p = true) :
    (mput m x v).all p = true := by
  induction m with
  | nil => simpa [mput] using hv
  | cons q m ih =>
    obtain ⟨j, w⟩ := q
    simp only [List.all_cons, Bool.and_eq_true] at h
    by_cases h3 : x < j
    · simp only [mput, h3, if_true, List.all_cons, Bool.and_eq_true]; exact ⟨hv, h⟩
    · by_cases h4 : x = j
      · simp only [mput, h4, if_false, if_true, List.all_cons, Bool.and_eq_true, lt_irrefl]
        exact ⟨by rw [← h4]; exact hv, h.2⟩
      · simp only [mput, h3, h4, if_false, List.all_cons, Bool.and_eq_true]; exact ⟨h.1, ih h.2⟩

theorem mapOkD_filter [DecidableEq α] (d : α) (p : Nat × α → Bool) (m : Map α) (h : mapOkD d m = true) :
    mapOkD d (m.filter p) = true := by
  simp only [mapOkD, Bool.and_eq_true, List.all_eq_true] at h ⊢
  exact ⟨mapOk_filter p m h.1, fun q hq => h.2 q (List.mem_filter.mp hq).1⟩

theorem mapOkD_mputD [DecidableEq α] (d : α) (m : Map α) (x : Nat) (v : α) (h : mapOkD d m = true) :
    mapOkD d (mputD d m x v) = true := by
  unfold mputD
  split
  · exact mapOkD_filter d _ m h
  · next hv =>
    simp only [mapOkD, Bool.and_eq_true] at h ⊢
    exact ⟨mapOk_mput m x v h.1, all_mput _ m x v (by simp [hv]) h.2⟩

end Sys2Proof.Machine
end

