-- ==== Sys2Proof/Laws/State.lean ====
section
/-! SUPPORT. One lemma for each field of the state and each update of the state: the fields that an update does not write keep
their values, and what it wrote is read back. -/

namespace Sys2Proof.Machine

variable (s : State)

/-! ### setTask -/

@[simp] theorem setTask_script (tid : Nat) (x : Task) : (setTask s tid x).script = s.script := rfl
@[simp] theorem setTask_cur (tid : Nat) (x : Task) : (setTask s tid x).cur = s.cur := rfl
@[simp] theorem setTask_cycle (tid : Nat) (x : Task) : (setTask s tid x).cycle = s.cycle := rfl
@[simp] theorem setTask_serial (tid : Nat) (x : Task) : (setTask s tid x).serial = s.serial := rfl
@[simp] theorem setTask_fresh (tid : Nat) (x : Task) : (setTask s tid x).fresh = s.fresh := rfl
@[simp] theorem setTask_last (tid : Nat) (x : Task) : (setTask s tid x).last = s.last := rfl
@[simp] theorem setTask_disabled (tid : Nat) (x : Task) : (setTask s tid x).disabled = s.disabled := rfl
@[simp] theorem setTask_tens (tid : Nat) (x : Task) : (setTask s tid x).tens = s.tens := rfl
@[simp] theorem setTask_rrTen (tid : Nat) (x : Task) : (setTask s tid x).rrTen = s.rrTen := rfl
@[simp] theorem setTask_cores (tid : Nat) (x : Task) : (setTask s tid x).cores = s.cores := rfl
@[simp] theorem setTask_dies (tid : Nat) (x : Task) : (setTask s tid x).dies = s.dies := rfl
@[simp] theorem setTask_mem (tid : Nat) (x : Task) : (setTask s tid x).mem = s.mem := rfl
@[simp] theorem setTask_ukey (tid : Nat) (x : Task) : (setTask s tid x).ukey = s.ukey := rfl
@[simp] theorem setTask_kepoch (tid : Nat) (x : Task) : (setTask s tid x).kepoch = s.kepoch := rfl
@[simp] theorem setTask_epochs (tid : Nat) (x : Task) : (setTask s tid x).epochs = s.epochs := rfl
@[simp] theorem setTask_lstamp (tid : Nat) (x : Task) : (setTask s tid x).lstamp = s.lstamp := rfl
@[simp] theorem setTask_bad (tid : Nat) (x : Task) : (setTask s tid x).bad = s.bad := rfl
@[simp] theorem setTask_wq (tid : Nat) (x : Task) : (setTask s tid x).wq = s.wq := rfl
@[simp] theorem setTask_reds (tid : Nat) (x : Task) : (setTask s tid x).reds = s.reds := rfl
@[simp] theorem setTask_modq (tid : Nat) (x : Task) : (setTask s tid x).modq = s.modq := rfl
@[simp] theorem setTask_copies (tid : Nat) (x : Task) : (setTask s tid x).copies = s.copies := rfl
@[simp] theorem setTask_colls (tid : Nat) (x : Task) : (setTask s tid x).colls = s.colls := rfl
@[simp] theorem setTask_queries (tid : Nat) (x : Task) : (setTask s tid x).queries = s.queries := rfl
@[simp] theorem setTask_levq (tid : Nat) (x : Task) : (setTask s tid x).levq = s.levq := rfl
@[simp] theorem setTask_cancels (tid : Nat) (x : Task) : (setTask s tid x).cancels = s.cancels := rfl
@[simp] theorem setTask_forks (tid : Nat) (x : Task) : (setTask s tid x).forks = s.forks := rfl
@[simp] theorem setTask_needs (tid : Nat) (x : Task) : (setTask s tid x).needs = s.needs := rfl
@[simp] theorem setTask_hostMem (tid : Nat) (x : Task) : (setTask s tid x).hostMem = s.hostMem := rfl
@[simp] theorem setTask_hostBad (tid : Nat) (x : Task) : (setTask s tid x).hostBad = s.hostBad := rfl
@[simp] theorem setTask_pri (tid : Nat) (x : Task) : (setTask s tid x).pri = s.pri := rfl
@[simp] theorem setTask_hostRead (tid : Nat) (x : Task) : (setTask s tid x).hostRead = s.hostRead := rfl
@[simp] theorem setTask_msi (tid : Nat) (x : Task) : (setTask s tid x).msi = s.msi := rfl
@[simp] theorem setTask_remapped (tid : Nat) (x : Task) : (setTask s tid x).remapped = s.remapped := rfl
@[simp] theorem setTask_loose (tid : Nat) (x : Task) : (setTask s tid x).loose = s.loose := rfl
@[simp] theorem setTask_images (tid : Nat) (x : Task) : (setTask s tid x).images = s.images := rfl
@[simp] theorem setTask_direct (tid : Nat) (x : Task) : (setTask s tid x).direct = s.direct := rfl
@[simp] theorem setTask_mgmt (tid : Nat) (x : Task) : (setTask s tid x).mgmt = s.mgmt := rfl

/-! ### modTask -/

@[simp] theorem modTask_script (tid : Nat) (f : Task → Task) : (modTask s tid f).script = s.script := rfl
@[simp] theorem modTask_cur (tid : Nat) (f : Task → Task) : (modTask s tid f).cur = s.cur := rfl
@[simp] theorem modTask_cycle (tid : Nat) (f : Task → Task) : (modTask s tid f).cycle = s.cycle := rfl
@[simp] theorem modTask_serial (tid : Nat) (f : Task → Task) : (modTask s tid f).serial = s.serial := rfl
@[simp] theorem modTask_fresh (tid : Nat) (f : Task → Task) : (modTask s tid f).fresh = s.fresh := rfl
@[simp] theorem modTask_last (tid : Nat) (f : Task → Task) : (modTask s tid f).last = s.last := rfl
@[simp] theorem modTask_disabled (tid : Nat) (f : Task → Task) : (modTask s tid f).disabled = s.disabled := rfl
@[simp] theorem modTask_tens (tid : Nat) (f : Task → Task) : (modTask s tid f).tens = s.tens := rfl
@[simp] theorem modTask_rrTen (tid : Nat) (f : Task → Task) : (modTask s tid f).rrTen = s.rrTen := rfl
@[simp] theorem modTask_cores (tid : Nat) (f : Task → Task) : (modTask s tid f).cores = s.cores := rfl
@[simp] theorem modTask_dies (tid : Nat) (f : Task → Task) : (modTask s tid f).dies = s.dies := rfl
@[simp] theorem modTask_mem (tid : Nat) (f : Task → Task) : (modTask s tid f).mem = s.mem := rfl
@[simp] theorem modTask_ukey (tid : Nat) (f : Task → Task) : (modTask s tid f).ukey = s.ukey := rfl
@[simp] theorem modTask_kepoch (tid : Nat) (f : Task → Task) : (modTask s tid f).kepoch = s.kepoch := rfl
@[simp] theorem modTask_epochs (tid : Nat) (f : Task → Task) : (modTask s tid f).epochs = s.epochs := rfl
@[simp] theorem modTask_lstamp (tid : Nat) (f : Task → Task) : (modTask s tid f).lstamp = s.lstamp := rfl
@[simp] theorem modTask_bad (tid : Nat) (f : Task → Task) : (modTask s tid f).bad = s.bad := rfl
@[simp] theorem modTask_wq (tid : Nat) (f : Task → Task) : (modTask s tid f).wq = s.wq := rfl
@[simp] theorem modTask_reds (tid : Nat) (f : Task → Task) : (modTask s tid f).reds = s.reds := rfl
@[simp] theorem modTask_modq (tid : Nat) (f : Task → Task) : (modTask s tid f).modq = s.modq := rfl
@[simp] theorem modTask_copies (tid : Nat) (f : Task → Task) : (modTask s tid f).copies = s.copies := rfl
@[simp] theorem modTask_colls (tid : Nat) (f : Task → Task) : (modTask s tid f).colls = s.colls := rfl
@[simp] theorem modTask_queries (tid : Nat) (f : Task → Task) : (modTask s tid f).queries = s.queries := rfl
@[simp] theorem modTask_levq (tid : Nat) (f : Task → Task) : (modTask s tid f).levq = s.levq := rfl
@[simp] theorem modTask_cancels (tid : Nat) (f : Task → Task) : (modTask s tid f).cancels = s.cancels := rfl
@[simp] theorem modTask_forks (tid : Nat) (f : Task → Task) : (modTask s tid f).forks = s.forks := rfl
@[simp] theorem modTask_needs (tid : Nat) (f : Task → Task) : (modTask s tid f).needs = s.needs := rfl
@[simp] theorem modTask_hostMem (tid : Nat) (f : Task → Task) : (modTask s tid f).hostMem = s.hostMem := rfl
@[simp] theorem modTask_hostBad (tid : Nat) (f : Task → Task) : (modTask s tid f).hostBad = s.hostBad := rfl
@[simp] theorem modTask_pri (tid : Nat) (f : Task → Task) : (modTask s tid f).pri = s.pri := rfl
@[simp] theorem modTask_hostRead (tid : Nat) (f : Task → Task) : (modTask s tid f).hostRead = s.hostRead := rfl
@[simp] theorem modTask_msi (tid : Nat) (f : Task → Task) : (modTask s tid f).msi = s.msi := rfl
@[simp] theorem modTask_remapped (tid : Nat) (f : Task → Task) : (modTask s tid f).remapped = s.remapped := rfl
@[simp] theorem modTask_loose (tid : Nat) (f : Task → Task) : (modTask s tid f).loose = s.loose := rfl
@[simp] theorem modTask_images (tid : Nat) (f : Task → Task) : (modTask s tid f).images = s.images := rfl
@[simp] theorem modTask_direct (tid : Nat) (f : Task → Task) : (modTask s tid f).direct = s.direct := rfl
@[simp] theorem modTask_mgmt (tid : Nat) (f : Task → Task) : (modTask s tid f).mgmt = s.mgmt := rfl

/-! ### modGroup -/

@[simp] theorem modGroup_script (tid g : Nat) (f : Group → Group) : (modGroup s tid g f).script = s.script := rfl
@[simp] theorem modGroup_cur (tid g : Nat) (f : Group → Group) : (modGroup s tid g f).cur = s.cur := rfl
@[simp] theorem modGroup_cycle (tid g : Nat) (f : Group → Group) : (modGroup s tid g f).cycle = s.cycle := rfl
@[simp] theorem modGroup_serial (tid g : Nat) (f : Group → Group) : (modGroup s tid g f).serial = s.serial := rfl
@[simp] theorem modGroup_fresh (tid g : Nat) (f : Group → Group) : (modGroup s tid g f).fresh = s.fresh := rfl
@[simp] theorem modGroup_last (tid g : Nat) (f : Group → Group) : (modGroup s tid g f).last = s.last := rfl
@[simp] theorem modGroup_disabled (tid g : Nat) (f : Group → Group) : (modGroup s tid g f).disabled = s.disabled := rfl
@[simp] theorem modGroup_tens (tid g : Nat) (f : Group → Group) : (modGroup s tid g f).tens = s.tens := rfl
@[simp] theorem modGroup_rrTen (tid g : Nat) (f : Group → Group) : (modGroup s tid g f).rrTen = s.rrTen := rfl
@[simp] theorem modGroup_cores (tid g : Nat) (f : Group → Group) : (modGroup s tid g f).cores = s.cores := rfl
@[simp] theorem modGroup_dies (tid g : Nat) (f : Group → Group) : (modGroup s tid g f).dies = s.dies := rfl
@[simp] theorem modGroup_mem (tid g : Nat) (f : Group → Group) : (modGroup s tid g f).mem = s.mem := rfl
@[simp] theorem modGroup_ukey (tid g : Nat) (f : Group → Group) : (modGroup s tid g f).ukey = s.ukey := rfl
@[simp] theorem modGroup_kepoch (tid g : Nat) (f : Group → Group) : (modGroup s tid g f).kepoch = s.kepoch := rfl
@[simp] theorem modGroup_epochs (tid g : Nat) (f : Group → Group) : (modGroup s tid g f).epochs = s.epochs := rfl
@[simp] theorem modGroup_lstamp (tid g : Nat) (f : Group → Group) : (modGroup s tid g f).lstamp = s.lstamp := rfl
@[simp] theorem modGroup_bad (tid g : Nat) (f : Group → Group) : (modGroup s tid g f).bad = s.bad := rfl
@[simp] theorem modGroup_wq (tid g : Nat) (f : Group → Group) : (modGroup s tid g f).wq = s.wq := rfl
@[simp] theorem modGroup_reds (tid g : Nat) (f : Group → Group) : (modGroup s tid g f).reds = s.reds := rfl
@[simp] theorem modGroup_modq (tid g : Nat) (f : Group → Group) : (modGroup s tid g f).modq = s.modq := rfl
@[simp] theorem modGroup_copies (tid g : Nat) (f : Group → Group) : (modGroup s tid g f).copies = s.copies := rfl
@[simp] theorem modGroup_colls (tid g : Nat) (f : Group → Group) : (modGroup s tid g f).colls = s.colls := rfl
@[simp] theorem modGroup_queries (tid g : Nat) (f : Group → Group) : (modGroup s tid g f).queries = s.queries := rfl
@[simp] theorem modGroup_levq (tid g : Nat) (f : Group → Group) : (modGroup s tid g f).levq = s.levq := rfl
@[simp] theorem modGroup_cancels (tid g : Nat) (f : Group → Group) : (modGroup s tid g f).cancels = s.cancels := rfl
@[simp] theorem modGroup_forks (tid g : Nat) (f : Group → Group) : (modGroup s tid g f).forks = s.forks := rfl
@[simp] theorem modGroup_needs (tid g : Nat) (f : Group → Group) : (modGroup s tid g f).needs = s.needs := rfl
@[simp] theorem modGroup_hostMem (tid g : Nat) (f : Group → Group) : (modGroup s tid g f).hostMem = s.hostMem := rfl
@[simp] theorem modGroup_hostBad (tid g : Nat) (f : Group → Group) : (modGroup s tid g f).hostBad = s.hostBad := rfl
@[simp] theorem modGroup_pri (tid g : Nat) (f : Group → Group) : (modGroup s tid g f).pri = s.pri := rfl
@[simp] theorem modGroup_hostRead (tid g : Nat) (f : Group → Group) : (modGroup s tid g f).hostRead = s.hostRead := rfl
@[simp] theorem modGroup_msi (tid g : Nat) (f : Group → Group) : (modGroup s tid g f).msi = s.msi := rfl
@[simp] theorem modGroup_remapped (tid g : Nat) (f : Group → Group) : (modGroup s tid g f).remapped = s.remapped := rfl
@[simp] theorem modGroup_loose (tid g : Nat) (f : Group → Group) : (modGroup s tid g f).loose = s.loose := rfl
@[simp] theorem modGroup_images (tid g : Nat) (f : Group → Group) : (modGroup s tid g f).images = s.images := rfl
@[simp] theorem modGroup_direct (tid g : Nat) (f : Group → Group) : (modGroup s tid g f).direct = s.direct := rfl
@[simp] theorem modGroup_mgmt (tid g : Nat) (f : Group → Group) : (modGroup s tid g f).mgmt = s.mgmt := rfl

/-! ### modTenant -/

@[simp] theorem modTenant_script (n : Nat) (f : Tenant → Tenant) : (modTenant s n f).script = s.script := rfl
@[simp] theorem modTenant_cur (n : Nat) (f : Tenant → Tenant) : (modTenant s n f).cur = s.cur := rfl
@[simp] theorem modTenant_cycle (n : Nat) (f : Tenant → Tenant) : (modTenant s n f).cycle = s.cycle := rfl
@[simp] theorem modTenant_serial (n : Nat) (f : Tenant → Tenant) : (modTenant s n f).serial = s.serial := rfl
@[simp] theorem modTenant_fresh (n : Nat) (f : Tenant → Tenant) : (modTenant s n f).fresh = s.fresh := rfl
@[simp] theorem modTenant_last (n : Nat) (f : Tenant → Tenant) : (modTenant s n f).last = s.last := rfl
@[simp] theorem modTenant_disabled (n : Nat) (f : Tenant → Tenant) : (modTenant s n f).disabled = s.disabled := rfl
@[simp] theorem modTenant_tasks (n : Nat) (f : Tenant → Tenant) : (modTenant s n f).tasks = s.tasks := rfl
@[simp] theorem modTenant_rrTen (n : Nat) (f : Tenant → Tenant) : (modTenant s n f).rrTen = s.rrTen := rfl
@[simp] theorem modTenant_cores (n : Nat) (f : Tenant → Tenant) : (modTenant s n f).cores = s.cores := rfl
@[simp] theorem modTenant_dies (n : Nat) (f : Tenant → Tenant) : (modTenant s n f).dies = s.dies := rfl
@[simp] theorem modTenant_mem (n : Nat) (f : Tenant → Tenant) : (modTenant s n f).mem = s.mem := rfl
@[simp] theorem modTenant_ukey (n : Nat) (f : Tenant → Tenant) : (modTenant s n f).ukey = s.ukey := rfl
@[simp] theorem modTenant_kepoch (n : Nat) (f : Tenant → Tenant) : (modTenant s n f).kepoch = s.kepoch := rfl
@[simp] theorem modTenant_epochs (n : Nat) (f : Tenant → Tenant) : (modTenant s n f).epochs = s.epochs := rfl
@[simp] theorem modTenant_lstamp (n : Nat) (f : Tenant → Tenant) : (modTenant s n f).lstamp = s.lstamp := rfl
@[simp] theorem modTenant_bad (n : Nat) (f : Tenant → Tenant) : (modTenant s n f).bad = s.bad := rfl
@[simp] theorem modTenant_wq (n : Nat) (f : Tenant → Tenant) : (modTenant s n f).wq = s.wq := rfl
@[simp] theorem modTenant_reds (n : Nat) (f : Tenant → Tenant) : (modTenant s n f).reds = s.reds := rfl
@[simp] theorem modTenant_modq (n : Nat) (f : Tenant → Tenant) : (modTenant s n f).modq = s.modq := rfl
@[simp] theorem modTenant_copies (n : Nat) (f : Tenant → Tenant) : (modTenant s n f).copies = s.copies := rfl
@[simp] theorem modTenant_colls (n : Nat) (f : Tenant → Tenant) : (modTenant s n f).colls = s.colls := rfl
@[simp] theorem modTenant_queries (n : Nat) (f : Tenant → Tenant) : (modTenant s n f).queries = s.queries := rfl
@[simp] theorem modTenant_levq (n : Nat) (f : Tenant → Tenant) : (modTenant s n f).levq = s.levq := rfl
@[simp] theorem modTenant_cancels (n : Nat) (f : Tenant → Tenant) : (modTenant s n f).cancels = s.cancels := rfl
@[simp] theorem modTenant_forks (n : Nat) (f : Tenant → Tenant) : (modTenant s n f).forks = s.forks := rfl
@[simp] theorem modTenant_needs (n : Nat) (f : Tenant → Tenant) : (modTenant s n f).needs = s.needs := rfl
@[simp] theorem modTenant_hostMem (n : Nat) (f : Tenant → Tenant) : (modTenant s n f).hostMem = s.hostMem := rfl
@[simp] theorem modTenant_hostBad (n : Nat) (f : Tenant → Tenant) : (modTenant s n f).hostBad = s.hostBad := rfl
@[simp] theorem modTenant_pri (n : Nat) (f : Tenant → Tenant) : (modTenant s n f).pri = s.pri := rfl
@[simp] theorem modTenant_hostRead (n : Nat) (f : Tenant → Tenant) : (modTenant s n f).hostRead = s.hostRead := rfl
@[simp] theorem modTenant_msi (n : Nat) (f : Tenant → Tenant) : (modTenant s n f).msi = s.msi := rfl
@[simp] theorem modTenant_remapped (n : Nat) (f : Tenant → Tenant) : (modTenant s n f).remapped = s.remapped := rfl
@[simp] theorem modTenant_loose (n : Nat) (f : Tenant → Tenant) : (modTenant s n f).loose = s.loose := rfl
@[simp] theorem modTenant_images (n : Nat) (f : Tenant → Tenant) : (modTenant s n f).images = s.images := rfl
@[simp] theorem modTenant_direct (n : Nat) (f : Tenant → Tenant) : (modTenant s n f).direct = s.direct := rfl
@[simp] theorem modTenant_mgmt (n : Nat) (f : Tenant → Tenant) : (modTenant s n f).mgmt = s.mgmt := rfl

/-! ### csrSet -/

@[simp] theorem csrSet_script (n c : Nat) (w : Word) : (csrSet s n c w).script = s.script := rfl
@[simp] theorem csrSet_cur (n c : Nat) (w : Word) : (csrSet s n c w).cur = s.cur := rfl
@[simp] theorem csrSet_cycle (n c : Nat) (w : Word) : (csrSet s n c w).cycle = s.cycle := rfl
@[simp] theorem csrSet_serial (n c : Nat) (w : Word) : (csrSet s n c w).serial = s.serial := rfl
@[simp] theorem csrSet_fresh (n c : Nat) (w : Word) : (csrSet s n c w).fresh = s.fresh := rfl
@[simp] theorem csrSet_last (n c : Nat) (w : Word) : (csrSet s n c w).last = s.last := rfl
@[simp] theorem csrSet_disabled (n c : Nat) (w : Word) : (csrSet s n c w).disabled = s.disabled := rfl
@[simp] theorem csrSet_tasks (n c : Nat) (w : Word) : (csrSet s n c w).tasks = s.tasks := rfl
@[simp] theorem csrSet_rrTen (n c : Nat) (w : Word) : (csrSet s n c w).rrTen = s.rrTen := rfl
@[simp] theorem csrSet_cores (n c : Nat) (w : Word) : (csrSet s n c w).cores = s.cores := rfl
@[simp] theorem csrSet_dies (n c : Nat) (w : Word) : (csrSet s n c w).dies = s.dies := rfl
@[simp] theorem csrSet_mem (n c : Nat) (w : Word) : (csrSet s n c w).mem = s.mem := rfl
@[simp] theorem csrSet_ukey (n c : Nat) (w : Word) : (csrSet s n c w).ukey = s.ukey := rfl
@[simp] theorem csrSet_kepoch (n c : Nat) (w : Word) : (csrSet s n c w).kepoch = s.kepoch := rfl
@[simp] theorem csrSet_epochs (n c : Nat) (w : Word) : (csrSet s n c w).epochs = s.epochs := rfl
@[simp] theorem csrSet_lstamp (n c : Nat) (w : Word) : (csrSet s n c w).lstamp = s.lstamp := rfl
@[simp] theorem csrSet_bad (n c : Nat) (w : Word) : (csrSet s n c w).bad = s.bad := rfl
@[simp] theorem csrSet_wq (n c : Nat) (w : Word) : (csrSet s n c w).wq = s.wq := rfl
@[simp] theorem csrSet_reds (n c : Nat) (w : Word) : (csrSet s n c w).reds = s.reds := rfl
@[simp] theorem csrSet_modq (n c : Nat) (w : Word) : (csrSet s n c w).modq = s.modq := rfl
@[simp] theorem csrSet_copies (n c : Nat) (w : Word) : (csrSet s n c w).copies = s.copies := rfl
@[simp] theorem csrSet_colls (n c : Nat) (w : Word) : (csrSet s n c w).colls = s.colls := rfl
@[simp] theorem csrSet_queries (n c : Nat) (w : Word) : (csrSet s n c w).queries = s.queries := rfl
@[simp] theorem csrSet_levq (n c : Nat) (w : Word) : (csrSet s n c w).levq = s.levq := rfl
@[simp] theorem csrSet_cancels (n c : Nat) (w : Word) : (csrSet s n c w).cancels = s.cancels := rfl
@[simp] theorem csrSet_forks (n c : Nat) (w : Word) : (csrSet s n c w).forks = s.forks := rfl
@[simp] theorem csrSet_needs (n c : Nat) (w : Word) : (csrSet s n c w).needs = s.needs := rfl
@[simp] theorem csrSet_hostMem (n c : Nat) (w : Word) : (csrSet s n c w).hostMem = s.hostMem := rfl
@[simp] theorem csrSet_hostBad (n c : Nat) (w : Word) : (csrSet s n c w).hostBad = s.hostBad := rfl
@[simp] theorem csrSet_pri (n c : Nat) (w : Word) : (csrSet s n c w).pri = s.pri := rfl
@[simp] theorem csrSet_hostRead (n c : Nat) (w : Word) : (csrSet s n c w).hostRead = s.hostRead := rfl
@[simp] theorem csrSet_msi (n c : Nat) (w : Word) : (csrSet s n c w).msi = s.msi := rfl
@[simp] theorem csrSet_remapped (n c : Nat) (w : Word) : (csrSet s n c w).remapped = s.remapped := rfl
@[simp] theorem csrSet_loose (n c : Nat) (w : Word) : (csrSet s n c w).loose = s.loose := rfl
@[simp] theorem csrSet_images (n c : Nat) (w : Word) : (csrSet s n c w).images = s.images := rfl
@[simp] theorem csrSet_direct (n c : Nat) (w : Word) : (csrSet s n c w).direct = s.direct := rfl
@[simp] theorem csrSet_mgmt (n c : Nat) (w : Word) : (csrSet s n c w).mgmt = s.mgmt := rfl

/-! ### fregSet -/

@[simp] theorem fregSet_script (n o : Nat) (w : Word) : (fregSet s n o w).script = s.script := rfl
@[simp] theorem fregSet_cur (n o : Nat) (w : Word) : (fregSet s n o w).cur = s.cur := rfl
@[simp] theorem fregSet_cycle (n o : Nat) (w : Word) : (fregSet s n o w).cycle = s.cycle := rfl
@[simp] theorem fregSet_serial (n o : Nat) (w : Word) : (fregSet s n o w).serial = s.serial := rfl
@[simp] theorem fregSet_fresh (n o : Nat) (w : Word) : (fregSet s n o w).fresh = s.fresh := rfl
@[simp] theorem fregSet_last (n o : Nat) (w : Word) : (fregSet s n o w).last = s.last := rfl
@[simp] theorem fregSet_disabled (n o : Nat) (w : Word) : (fregSet s n o w).disabled = s.disabled := rfl
@[simp] theorem fregSet_tasks (n o : Nat) (w : Word) : (fregSet s n o w).tasks = s.tasks := rfl
@[simp] theorem fregSet_rrTen (n o : Nat) (w : Word) : (fregSet s n o w).rrTen = s.rrTen := rfl
@[simp] theorem fregSet_cores (n o : Nat) (w : Word) : (fregSet s n o w).cores = s.cores := rfl
@[simp] theorem fregSet_dies (n o : Nat) (w : Word) : (fregSet s n o w).dies = s.dies := rfl
@[simp] theorem fregSet_mem (n o : Nat) (w : Word) : (fregSet s n o w).mem = s.mem := rfl
@[simp] theorem fregSet_ukey (n o : Nat) (w : Word) : (fregSet s n o w).ukey = s.ukey := rfl
@[simp] theorem fregSet_kepoch (n o : Nat) (w : Word) : (fregSet s n o w).kepoch = s.kepoch := rfl
@[simp] theorem fregSet_epochs (n o : Nat) (w : Word) : (fregSet s n o w).epochs = s.epochs := rfl
@[simp] theorem fregSet_lstamp (n o : Nat) (w : Word) : (fregSet s n o w).lstamp = s.lstamp := rfl
@[simp] theorem fregSet_bad (n o : Nat) (w : Word) : (fregSet s n o w).bad = s.bad := rfl
@[simp] theorem fregSet_wq (n o : Nat) (w : Word) : (fregSet s n o w).wq = s.wq := rfl
@[simp] theorem fregSet_reds (n o : Nat) (w : Word) : (fregSet s n o w).reds = s.reds := rfl
@[simp] theorem fregSet_modq (n o : Nat) (w : Word) : (fregSet s n o w).modq = s.modq := rfl
@[simp] theorem fregSet_copies (n o : Nat) (w : Word) : (fregSet s n o w).copies = s.copies := rfl
@[simp] theorem fregSet_colls (n o : Nat) (w : Word) : (fregSet s n o w).colls = s.colls := rfl
@[simp] theorem fregSet_queries (n o : Nat) (w : Word) : (fregSet s n o w).queries = s.queries := rfl
@[simp] theorem fregSet_levq (n o : Nat) (w : Word) : (fregSet s n o w).levq = s.levq := rfl
@[simp] theorem fregSet_cancels (n o : Nat) (w : Word) : (fregSet s n o w).cancels = s.cancels := rfl
@[simp] theorem fregSet_forks (n o : Nat) (w : Word) : (fregSet s n o w).forks = s.forks := rfl
@[simp] theorem fregSet_needs (n o : Nat) (w : Word) : (fregSet s n o w).needs = s.needs := rfl
@[simp] theorem fregSet_hostMem (n o : Nat) (w : Word) : (fregSet s n o w).hostMem = s.hostMem := rfl
@[simp] theorem fregSet_hostBad (n o : Nat) (w : Word) : (fregSet s n o w).hostBad = s.hostBad := rfl
@[simp] theorem fregSet_pri (n o : Nat) (w : Word) : (fregSet s n o w).pri = s.pri := rfl
@[simp] theorem fregSet_hostRead (n o : Nat) (w : Word) : (fregSet s n o w).hostRead = s.hostRead := rfl
@[simp] theorem fregSet_msi (n o : Nat) (w : Word) : (fregSet s n o w).msi = s.msi := rfl
@[simp] theorem fregSet_remapped (n o : Nat) (w : Word) : (fregSet s n o w).remapped = s.remapped := rfl
@[simp] theorem fregSet_loose (n o : Nat) (w : Word) : (fregSet s n o w).loose = s.loose := rfl
@[simp] theorem fregSet_images (n o : Nat) (w : Word) : (fregSet s n o w).images = s.images := rfl
@[simp] theorem fregSet_direct (n o : Nat) (w : Word) : (fregSet s n o w).direct = s.direct := rfl
@[simp] theorem fregSet_mgmt (n o : Nat) (w : Word) : (fregSet s n o w).mgmt = s.mgmt := rfl

/-! ### setCore -/

@[simp] theorem setCore_script (c : Nat) (x : Core) : (setCore s c x).script = s.script := rfl
@[simp] theorem setCore_cur (c : Nat) (x : Core) : (setCore s c x).cur = s.cur := rfl
@[simp] theorem setCore_cycle (c : Nat) (x : Core) : (setCore s c x).cycle = s.cycle := rfl
@[simp] theorem setCore_serial (c : Nat) (x : Core) : (setCore s c x).serial = s.serial := rfl
@[simp] theorem setCore_fresh (c : Nat) (x : Core) : (setCore s c x).fresh = s.fresh := rfl
@[simp] theorem setCore_last (c : Nat) (x : Core) : (setCore s c x).last = s.last := rfl
@[simp] theorem setCore_disabled (c : Nat) (x : Core) : (setCore s c x).disabled = s.disabled := rfl
@[simp] theorem setCore_tasks (c : Nat) (x : Core) : (setCore s c x).tasks = s.tasks := rfl
@[simp] theorem setCore_tens (c : Nat) (x : Core) : (setCore s c x).tens = s.tens := rfl
@[simp] theorem setCore_rrTen (c : Nat) (x : Core) : (setCore s c x).rrTen = s.rrTen := rfl
@[simp] theorem setCore_dies (c : Nat) (x : Core) : (setCore s c x).dies = s.dies := rfl
@[simp] theorem setCore_mem (c : Nat) (x : Core) : (setCore s c x).mem = s.mem := rfl
@[simp] theorem setCore_ukey (c : Nat) (x : Core) : (setCore s c x).ukey = s.ukey := rfl
@[simp] theorem setCore_kepoch (c : Nat) (x : Core) : (setCore s c x).kepoch = s.kepoch := rfl
@[simp] theorem setCore_epochs (c : Nat) (x : Core) : (setCore s c x).epochs = s.epochs := rfl
@[simp] theorem setCore_lstamp (c : Nat) (x : Core) : (setCore s c x).lstamp = s.lstamp := rfl
@[simp] theorem setCore_bad (c : Nat) (x : Core) : (setCore s c x).bad = s.bad := rfl
@[simp] theorem setCore_wq (c : Nat) (x : Core) : (setCore s c x).wq = s.wq := rfl
@[simp] theorem setCore_reds (c : Nat) (x : Core) : (setCore s c x).reds = s.reds := rfl
@[simp] theorem setCore_modq (c : Nat) (x : Core) : (setCore s c x).modq = s.modq := rfl
@[simp] theorem setCore_copies (c : Nat) (x : Core) : (setCore s c x).copies = s.copies := rfl
@[simp] theorem setCore_colls (c : Nat) (x : Core) : (setCore s c x).colls = s.colls := rfl
@[simp] theorem setCore_queries (c : Nat) (x : Core) : (setCore s c x).queries = s.queries := rfl
@[simp] theorem setCore_levq (c : Nat) (x : Core) : (setCore s c x).levq = s.levq := rfl
@[simp] theorem setCore_cancels (c : Nat) (x : Core) : (setCore s c x).cancels = s.cancels := rfl
@[simp] theorem setCore_forks (c : Nat) (x : Core) : (setCore s c x).forks = s.forks := rfl
@[simp] theorem setCore_needs (c : Nat) (x : Core) : (setCore s c x).needs = s.needs := rfl
@[simp] theorem setCore_hostMem (c : Nat) (x : Core) : (setCore s c x).hostMem = s.hostMem := rfl
@[simp] theorem setCore_hostBad (c : Nat) (x : Core) : (setCore s c x).hostBad = s.hostBad := rfl
@[simp] theorem setCore_pri (c : Nat) (x : Core) : (setCore s c x).pri = s.pri := rfl
@[simp] theorem setCore_hostRead (c : Nat) (x : Core) : (setCore s c x).hostRead = s.hostRead := rfl
@[simp] theorem setCore_msi (c : Nat) (x : Core) : (setCore s c x).msi = s.msi := rfl
@[simp] theorem setCore_remapped (c : Nat) (x : Core) : (setCore s c x).remapped = s.remapped := rfl
@[simp] theorem setCore_loose (c : Nat) (x : Core) : (setCore s c x).loose = s.loose := rfl
@[simp] theorem setCore_images (c : Nat) (x : Core) : (setCore s c x).images = s.images := rfl
@[simp] theorem setCore_direct (c : Nat) (x : Core) : (setCore s c x).direct = s.direct := rfl
@[simp] theorem setCore_mgmt (c : Nat) (x : Core) : (setCore s c x).mgmt = s.mgmt := rfl

/-! ### setDie -/

@[simp] theorem setDie_script (d : Nat) (x : Die) : (setDie s d x).script = s.script := rfl
@[simp] theorem setDie_cur (d : Nat) (x : Die) : (setDie s d x).cur = s.cur := rfl
@[simp] theorem setDie_cycle (d : Nat) (x : Die) : (setDie s d x).cycle = s.cycle := rfl
@[simp] theorem setDie_serial (d : Nat) (x : Die) : (setDie s d x).serial = s.serial := rfl
@[simp] theorem setDie_fresh (d : Nat) (x : Die) : (setDie s d x).fresh = s.fresh := rfl
@[simp] theorem setDie_last (d : Nat) (x : Die) : (setDie s d x).last = s.last := rfl
@[simp] theorem setDie_disabled (d : Nat) (x : Die) : (setDie s d x).disabled = s.disabled := rfl
@[simp] theorem setDie_tasks (d : Nat) (x : Die) : (setDie s d x).tasks = s.tasks := rfl
@[simp] theorem setDie_tens (d : Nat) (x : Die) : (setDie s d x).tens = s.tens := rfl
@[simp] theorem setDie_rrTen (d : Nat) (x : Die) : (setDie s d x).rrTen = s.rrTen := rfl
@[simp] theorem setDie_cores (d : Nat) (x : Die) : (setDie s d x).cores = s.cores := rfl
@[simp] theorem setDie_mem (d : Nat) (x : Die) : (setDie s d x).mem = s.mem := rfl
@[simp] theorem setDie_ukey (d : Nat) (x : Die) : (setDie s d x).ukey = s.ukey := rfl
@[simp] theorem setDie_kepoch (d : Nat) (x : Die) : (setDie s d x).kepoch = s.kepoch := rfl
@[simp] theorem setDie_epochs (d : Nat) (x : Die) : (setDie s d x).epochs = s.epochs := rfl
@[simp] theorem setDie_lstamp (d : Nat) (x : Die) : (setDie s d x).lstamp = s.lstamp := rfl
@[simp] theorem setDie_bad (d : Nat) (x : Die) : (setDie s d x).bad = s.bad := rfl
@[simp] theorem setDie_wq (d : Nat) (x : Die) : (setDie s d x).wq = s.wq := rfl
@[simp] theorem setDie_reds (d : Nat) (x : Die) : (setDie s d x).reds = s.reds := rfl
@[simp] theorem setDie_modq (d : Nat) (x : Die) : (setDie s d x).modq = s.modq := rfl
@[simp] theorem setDie_copies (d : Nat) (x : Die) : (setDie s d x).copies = s.copies := rfl
@[simp] theorem setDie_colls (d : Nat) (x : Die) : (setDie s d x).colls = s.colls := rfl
@[simp] theorem setDie_queries (d : Nat) (x : Die) : (setDie s d x).queries = s.queries := rfl
@[simp] theorem setDie_levq (d : Nat) (x : Die) : (setDie s d x).levq = s.levq := rfl
@[simp] theorem setDie_cancels (d : Nat) (x : Die) : (setDie s d x).cancels = s.cancels := rfl
@[simp] theorem setDie_forks (d : Nat) (x : Die) : (setDie s d x).forks = s.forks := rfl
@[simp] theorem setDie_needs (d : Nat) (x : Die) : (setDie s d x).needs = s.needs := rfl
@[simp] theorem setDie_hostMem (d : Nat) (x : Die) : (setDie s d x).hostMem = s.hostMem := rfl
@[simp] theorem setDie_hostBad (d : Nat) (x : Die) : (setDie s d x).hostBad = s.hostBad := rfl
@[simp] theorem setDie_pri (d : Nat) (x : Die) : (setDie s d x).pri = s.pri := rfl
@[simp] theorem setDie_hostRead (d : Nat) (x : Die) : (setDie s d x).hostRead = s.hostRead := rfl
@[simp] theorem setDie_msi (d : Nat) (x : Die) : (setDie s d x).msi = s.msi := rfl
@[simp] theorem setDie_remapped (d : Nat) (x : Die) : (setDie s d x).remapped = s.remapped := rfl
@[simp] theorem setDie_loose (d : Nat) (x : Die) : (setDie s d x).loose = s.loose := rfl
@[simp] theorem setDie_images (d : Nat) (x : Die) : (setDie s d x).images = s.images := rfl
@[simp] theorem setDie_direct (d : Nat) (x : Die) : (setDie s d x).direct = s.direct := rfl
@[simp] theorem setDie_mgmt (d : Nat) (x : Die) : (setDie s d x).mgmt = s.mgmt := rfl

/-! ### What was written is read back -/

@[simp] theorem task_setTask (tid u : Nat) (x : Task) : task (setTask s tid x) u = if u = tid then some x else task s u := by
  simp [task, setTask]

@[simp] theorem task_modTask (tid u : Nat) (f : Task → Task) :
    task (modTask s tid f) u = if u = tid then (task s tid).map f else task s u := by
  simp [task, modTask]

@[simp] theorem task_modGroup (tid g u : Nat) (f : Group → Group) :
    task (modGroup s tid g f) u =
      if u = tid then (task s tid).map (fun t => { t with groups := mmod t.groups g f }) else task s u := by
  simp [modGroup]

theorem group_modGroup (tid g u j : Nat) (f : Group → Group) :
    group (modGroup s tid g f) u j = if u = tid ∧ j = g then (group s tid g).map f else group s u j := by
  unfold group
  rw [task_modGroup]
  by_cases h : u = tid
  · subst h
    cases h1 : task s u with
    | none => simp
    | some t => by_cases h2 : j = g <;> simp [h2]
  · simp [h]

@[simp] theorem group_modGroup_same (tid g : Nat) (f : Group → Group) :
    group (modGroup s tid g f) tid g = (group s tid g).map f := by simp [group_modGroup]

@[simp] theorem modTask_modTask (tid : Nat) (f g : Task → Task) :
    modTask (modTask s tid f) tid g = modTask s tid (fun t => g (f t)) := by
  simp [modTask]

@[simp] theorem modGroup_modGroup (tid g : Nat) (f k : Group → Group) :
    modGroup (modGroup s tid g f) tid g k = modGroup s tid g (fun x => k (f x)) := by
  simp [modGroup]

theorem task_eq_of_tasks {s t : State} (h : t.tasks = s.tasks) (u : Nat) : task t u = task s u := by simp [task, h]

@[simp] theorem tenant_modTenant (n m : Nat) (f : Tenant → Tenant) :
    tenant (modTenant s n f) m = if m = n then f (tenant s n) else tenant s m := by
  simp [tenant, modTenant, setTenant]

@[simp] theorem csrGet_csrSet (n m c d : Nat) (w : Word) :
    csrGet (csrSet s n c w) m d = if m = n ∧ d = c then w else csrGet s m d := by
  unfold csrGet csrSet
  rw [tenant_modTenant]
  by_cases h : m = n
  · subst h
    by_cases h2 : d = c
    · subst h2; simp
    · simp only [if_true, h2, and_false, if_false]
      unfold mgetD mputD
      split <;> simp [h2]
  · simp [h]

@[simp] theorem fregGet_fregSet (n m o q : Nat) (w : Word) :
    fregGet (fregSet s n o w) m q = if m = n ∧ q = o then w else fregGet s m q := by
  unfold fregGet fregSet
  rw [tenant_modTenant]
  by_cases h : m = n
  · subst h; simp
  · simp [h]

@[simp] theorem core_setCore (c d : Nat) (x : Core) : core (setCore s c x) d = if d = c then x else core s d := by
  simp [core, setCore]
@[simp] theorem die_setDie (c d : Nat) (x : Die) : die (setDie s c x) d = if d = c then x else die s d := by
  simp [die, setDie]

@[simp] theorem tenant_modTask (tid n : Nat) (f : Task → Task) : tenant (modTask s tid f) n = tenant s n := rfl
@[simp] theorem tenant_modGroup (tid g n : Nat) (f : Group → Group) : tenant (modGroup s tid g f) n = tenant s n := rfl
@[simp] theorem csrGet_modTask (tid n c : Nat) (f : Task → Task) : csrGet (modTask s tid f) n c = csrGet s n c := rfl
@[simp] theorem csrGet_modGroup (tid g n c : Nat) (f : Group → Group) : csrGet (modGroup s tid g f) n c = csrGet s n c := rfl
@[simp] theorem readPa_modTask (tid k a : Nat) (f : Task → Task) : readPa (modTask s tid f) k a = readPa s k a := rfl
@[simp] theorem readPa_modGroup (tid g k a : Nat) (f : Group → Group) : readPa (modGroup s tid g f) k a = readPa s k a := rfl

end Sys2Proof.Machine
end

