-- ==== Sys2Proof/Laws/Group.lean ====
section
/-! SUPPORT. Laws of a group's registers and predicates, of writing results, and of advancing. -/

namespace Sys2Proof.Machine

open Host

/-! ### Lane sets -/

theorem has_ge (m : Lanes) (i : Nat) (h : 32 ≤ i) : has m i = false := by
  unfold has; exact BitVec.getLsbD_of_ge m i h

@[simp] theorem mem_lanesOf (m : Lanes) (i : Nat) : i ∈ lanesOf m ↔ has m i = true := by
  simp only [lanesOf, List.mem_filter, List.mem_range]
  constructor
  · exact fun h => h.2
  · intro h
    refine ⟨?_, h⟩
    by_contra hc
    rw [has_ge m i (by omega)] at h; simp at h

@[simp] theorem has_and (a b : Lanes) (i : Nat) : has (a &&& b) i = (has a i && has b i) := by simp [has]
@[simp] theorem has_or (a b : Lanes) (i : Nat) : has (a ||| b) i = (has a i || has b i) := by simp [has]
@[simp] theorem has_zero (i : Nat) : has 0#32 i = false := by simp [has]
theorem has_not (a : Lanes) (i : Nat) (h : i < 32) : has (~~~a) i = !has a i := by simp [has, h]
theorem has_oneLane (i j : Nat) (hi : i < 32) : has (oneLane i) j = decide (j = i) := by
  unfold has oneLane
  rw [BitVec.getLsbD_ofNat, Nat.testBit_two_pow]
  by_cases h : j = i
  · subst h; simp [hi]
  · have h' : ¬ i = j := fun e => h e.symm
    simp [h, h']

theorem has_maskFold (p : Nat → Bool) (l : List Nat) (hl : ∀ i ∈ l, i < 32) (m : Lanes) (j : Nat) :
    has (l.foldl (fun m i => if p i then m ||| oneLane i else m) m) j = (has m j || (decide (j ∈ l) && p j)) := by
  induction l generalizing m with
  | nil => simp
  | cons a l ih =>
    simp only [List.foldl_cons]
    rw [ih (fun i hi => hl i (List.mem_cons_of_mem a hi))]
    have ha : a < 32 := hl a (List.mem_cons_self)
    by_cases hp : p a = true
    · simp only [hp, if_true, has_or, has_oneLane a j ha]
      by_cases h : j = a
      · subst h; simp [hp]
      · simp [h]
    · simp only [hp, if_false, Bool.false_eq_true]
      by_cases h : j = a
      · subst h; simp [hp]
      · simp [h]

@[simp] theorem has_maskOf (p : Nat → Bool) (j : Nat) : has (maskOf p) j = (decide (j < 32) && p j) := by
  unfold maskOf
  rw [has_maskFold p (List.range 32) (by simp)]
  simp

theorem lanesOf_lt (m : Lanes) (i : Nat) (h : i ∈ lanesOf m) : i < 32 := by
  simp only [lanesOf, List.mem_filter, List.mem_range] at h; exact h.1

theorem lanes_ext (a b : Lanes) (h : ∀ i, i < 32 → has a i = has b i) : a = b := by
  apply BitVec.eq_of_getLsbD_eq; intro i hi; exact h i hi

theorem lowest_mem (m : Lanes) (h : m ≠ 0) : has m (lowest m) = true := by
  unfold lowest
  cases hl : lanesOf m with
  | nil =>
    exfalso; apply h; apply lanes_ext; intro i _
    have := mem_lanesOf m i; rw [hl] at this; simp at this; simpa using this
  | cons a l => have := mem_lanesOf m a; rw [hl] at this; simpa using this

theorem lowest_lt (m : Lanes) : lowest m < 32 := by
  unfold lowest
  cases hl : lanesOf m with
  | nil => simp
  | cons a l => exact lanesOf_lt m a (by simp [hl])

/-! ### Registers -/

theorem mgetD_fold (l : List Nat) (base : Nat) (m : Map Word) (w : Word) (k : Nat) :
    mgetD 0 (l.foldl (fun m i => mputD 0 m (base + i) w) m) k = if k ∈ l.map (base + ·) then w else mgetD 0 m k := by
  induction l generalizing m with
  | nil => simp
  | cons a l ih =>
    simp only [List.foldl_cons, ih, mgetD_mputD, List.map_cons, List.mem_cons]
    by_cases h1 : k ∈ l.map (base + ·)
    · simp [h1]
    · by_cases h2 : k = base + a <;> simp [h1, h2]

/-- What a register holds after a register is written (R171, R172). -/
theorem reg_setReg (x : Group) (r q : Rg) (lanes : List Nat) (w : Word) (lane : Nat) (hl : ∀ i ∈ lanes, i < 32)
    (h : lane < 32) :
    (x.setReg r lanes w).reg q lane =
      if q = r then (match r with
        | .v _ => if lane ∈ lanes then w else x.reg q lane
        | .s _ => w)
      else x.reg q lane := by
  cases r with
  | s n => cases q with
    | s m => by_cases e : m = n <;> simp [Group.setReg, Group.reg, e]
    | v m => simp [Group.setReg, Group.reg]
  | v n => cases q with
    | s m => simp [Group.setReg, Group.reg]
    | v m =>
      simp only [Group.setReg, Group.reg, mgetD_fold]
      have key : (32 * m + lane ∈ lanes.map (32 * n + ·)) ↔ (m = n ∧ lane ∈ lanes) := by
        simp only [List.mem_map]
        constructor
        · rintro ⟨a, ha, he⟩
          have := hl a ha
          have e1 : m = n := by omega
          subst e1
          have e2 : a = lane := by omega
          exact ⟨rfl, e2 ▸ ha⟩
        · rintro ⟨rfl, h2⟩; exact ⟨lane, h2, rfl⟩
      by_cases e : m = n
      · subst e; simp [key]
      · simp [key, e]

theorem pred_setReg (x : Group) (r : Rg) (lanes : List Nat) (w : Word) (p : Nat) :
    (x.setReg r lanes w).pred p = x.pred p := by cases r <;> rfl
theorem rest_setReg (x : Group) (r : Rg) (lanes : List Nat) (w : Word) : (x.setReg r lanes w).rest = x.rest := by
  cases r <;> rfl
theorem live_setReg (x : Group) (r : Rg) (lanes : List Nat) (w : Word) : (x.setReg r lanes w).live = x.live := by
  cases r <;> rfl

theorem reg_setPred (x : Group) (p : Nat) (lanes vals : Lanes) (r : Rg) (i : Nat) :
    (x.setPred p lanes vals).reg r i = x.reg r i := by unfold Group.setPred; split <;> cases r <;> rfl
theorem rest_setPred (x : Group) (p : Nat) (lanes vals : Lanes) : (x.setPred p lanes vals).rest = x.rest := by
  unfold Group.setPred; split <;> rfl
theorem live_setPred (x : Group) (p : Nat) (lanes vals : Lanes) : (x.setPred p lanes vals).live = x.live := by
  unfold Group.setPred; split <;> rfl

theorem errors_setPred (x : Group) (p : Nat) (lanes vals : Lanes) : NoNewErrors x (x.setPred p lanes vals) := by
  unfold Group.setPred; split <;> exact fun _ h => h

/-- What a predicate holds after a predicate is written (R174, R195). -/
theorem pred_setPred (x : Group) (p q : Nat) (lanes vals : Lanes) :
    (x.setPred p lanes vals).pred q =
      if q = p ∧ q ≠ 7 then (x.pred p &&& ~~~lanes) ||| (vals &&& lanes) else x.pred q := by
  unfold Group.setPred
  by_cases h7 : p = 7
  · subst h7; simp only [if_true]; split
    · next h => exact absurd h.1 h.2
    · rfl
  · simp only [h7, if_false]
    by_cases hq : q = 7
    · subst hq; simp [Group.pred]
    · by_cases e : q = p
      · subst e; simp [Group.pred, hq]
      · simp [Group.pred, hq, e]

/-! ### Results -/

theorem putWords_nil (u : Bool) (d : Reg) (l : List Nat) (x : Group) : x.putWords u d l [] = x := rfl

/-- A property that every write of a register keeps is kept by a write of results. -/
theorem putWords_keeps {β : Type} (f : Group → β) (hf : ∀ x r l w, f (Group.setReg x r l w) = f x) (u : Bool) (d : Reg)
    (l : List Nat) (ws : List Word) (x : Group) : f (x.putWords u d l ws) = f x := by
  unfold Group.putWords
  generalize ws.zipIdx = zs
  induction zs generalizing x with
  | nil => rfl
  | cons z zs ih => simp only [List.foldl_cons, ih, hf]

theorem putLanes_keeps {β : Type} (f : Group → β) (hf : ∀ x r l w, f (Group.setReg x r l w) = f x) (u : Bool) (d : Reg)
    (out : Nat → List Nat) (val : Nat → List Word) (ls : List Nat) (x : Group) :
    f (ls.foldl (fun x i => x.putWords u d (out i) (val i)) x) = f x := by
  induction ls generalizing x with
  | nil => rfl
  | cons a ls ih => simp only [List.foldl_cons, ih, putWords_keeps f hf]

/-- The same of what writes may only lessen: no error enters a register with a result (R31). -/
theorem errors_setReg (x : Group) (r : Rg) (l : List Nat) (w : Word) : NoNewErrors x (x.setReg r l w) := by
  cases r <;> exact fun n hn => (List.mem_filter.mp hn).1

theorem errors_putWords (u : Bool) (d : Reg) (l : List Nat) (ws : List Word) (x : Group) :
    NoNewErrors x (x.putWords u d l ws) := by
  unfold Group.putWords
  generalize ws.zipIdx = zs
  induction zs generalizing x with
  | nil => exact fun _ h => h
  | cons z zs ih => exact fun n hn => errors_setReg x _ l z.1 n (ih _ n hn)

theorem errors_putLanes (u : Bool) (d : Reg) (out : Nat → List Nat) (val : Nat → List Word) (ls : List Nat) (x : Group) :
    NoNewErrors x (ls.foldl (fun x i => x.putWords u d (out i) (val i)) x) := by
  induction ls generalizing x with
  | nil => exact fun _ h => h
  | cons a ls ih => exact fun n hn => errors_putWords u d _ _ x n (ih _ n hn)

theorem fieldRg_inj (u : Bool) (d : Reg) (j k : Nat) (h : fieldRg u d j = fieldRg u d k) : j = k := by
  unfold fieldRg at h
  split at h <;> simp at h <;> omega

/-- Registers after a list of words is written from a field. -/
theorem reg_putWords (u : Bool) (d : Reg) (l : List Nat) (hl : ∀ i ∈ l, i < 32) (r : Rg) (lane : Nat) (h : lane < 32) :
    ∀ (ws : List Word) (x : Group),
    (x.putWords u d l ws).reg r lane =
      match (List.range ws.length).find? (fun k => fieldRg u d k == r) with
      | some k =>
        match r with
        | .v _ => if lane ∈ l then ws.getD k 0 else x.reg r lane
        | .s _ => ws.getD k 0
      | none => x.reg r lane := by
  have gen : ∀ (ws : List Word) (b : Nat) (x : Group),
      ((ws.zipIdx b).foldl (fun x p => x.setReg (fieldRg u d p.2) l p.1) x).reg r lane =
        match (List.range ws.length).find? (fun k => fieldRg u d (b + k) == r) with
        | some k =>
          match r with
          | .v _ => if lane ∈ l then ws.getD k 0 else x.reg r lane
          | .s _ => ws.getD k 0
        | none => x.reg r lane := by
    intro ws
    induction ws with
    | nil => intro b x; rfl
    | cons w ws ih =>
      intro b x
      simp only [List.zipIdx_cons, List.foldl_cons, List.length_cons, List.range_succ_eq_map, List.find?_cons, Nat.add_zero,
        List.find?_map]
      rw [ih (b + 1), reg_setReg x _ r l w lane hl h]
      by_cases e : fieldRg u d b = r
      · have hn : (List.range ws.length).find? (fun k => fieldRg u d (b + 1 + k) == r) = none := by
          rw [List.find?_eq_none]; intro k _ hk
          have : b + 1 + k = b := fieldRg_inj u d _ _ (by rw [e]; simpa using hk)
          omega
        rw [hn]; simp only [e, beq_self_eq_true]
        cases r <;> simp
      · have e' : ¬ r = fieldRg u d b := fun h => e h.symm
        simp only [e', if_false, beq_eq_false_iff_ne.mpr e]
        have hc : ((fun k => fieldRg u d (b + k) == r) ∘ Nat.succ) = (fun k => fieldRg u d (b + 1 + k) == r) := by
          funext k; simp only [Function.comp, Nat.succ_eq_add_one]; congr 2; omega
        rw [hc]
        cases hf : (List.range ws.length).find? (fun k => fieldRg u d (b + 1 + k) == r) with
        | none => simp
        | some k => cases r <;> simp
  intro ws x
  have := gen ws 0 x
  simpa [Group.putWords] using this

end Sys2Proof.Machine
end

