-- ==== Sys2Proof/Laws/Mem.lean ====
section
/-! SUPPORT. Laws of memory: every write keeps the canonical form, a read under the key of the last write gives the byte
written, and a write under one key leaves every other byte of that key as it was. -/

namespace Sys2Proof.Machine

open Host

theorem putByte_wf (m : List Cell) (pa : Nat) (b : Byte) (h : Memory.wf m = true) : Memory.wf (putByte m pa b) = true :=
  mapOkD_mputD (0 : Byte) m pa b h

theorem filter_wf (p : Cell → Bool) (m : List Cell) (h : Memory.wf m = true) : Memory.wf (m.filter p) = true :=
  mapOkD_filter (0 : Byte) p m h

theorem putBytes_wf (f : Nat → Nat) (g : Nat → Byte) (l : List Nat) : ∀ m : List Cell, Memory.wf m = true →
    Memory.wf (l.foldl (fun m i => putByte m (f i) (g i)) m) = true := by
  induction l with
  | nil => exact fun _ h => h
  | cons i l ih => exact fun m h => ih _ (putByte_wf m _ _ h)

/-- Both memories of a state are in canonical form. -/
def MemoriesWf (s : State) : Prop := Memory.wf s.mem = true ∧ Memory.wf s.hostMem = true

theorem writeByte_wf (s : State) (k pa : Nat) (b : Byte) (h : MemoriesWf s) : MemoriesWf (writeByte s k pa b) := by
  unfold writeByte
  dsimp only
  split
  · exact ⟨putByte_wf _ _ _ h.1, h.2⟩
  · exact ⟨putByte_wf _ _ _ (putBytes_wf _ _ _ _ h.1), h.2⟩

theorem writeHost_wf (s : State) (a : Nat) (b : Byte) (h : MemoriesWf s) : MemoriesWf (writeHost s a b) :=
  ⟨h.1, putByte_wf _ _ _ h.2⟩

theorem writePa_wf (s : State) (k pa : Nat) (b : Byte) (h : MemoriesWf s) : MemoriesWf (writePa s k pa b) := by
  unfold writePa; split
  · exact writeHost_wf s _ b h
  · exact writeByte_wf s k pa b h

theorem writePas_wf (k : Nat) (bs : List Byte) : ∀ (s : State) (pa : Nat), MemoriesWf s → MemoriesWf (writePas s k pa bs) := by
  induction bs with
  | nil => exact fun _ _ h => h
  | cons b bs ih => exact fun s pa h => ih _ _ (writePa_wf s k pa b h)

theorem writeNum_wf (s : State) (k pa n w : Nat) (h : MemoriesWf s) : MemoriesWf (writeNum s k pa n w) :=
  writePas_wf k _ s pa h

/-- The bytes of a write that reach memory (R409 aside) keep the canonical form. -/
theorem applyBytes_wf (s : State) (k : Nat) (bytes : Map Byte) (h : MemoriesWf s) : MemoriesWf (applyBytes s k bytes) := by
  have key : ∀ (l : List (Nat × Byte)) (s : State), MemoriesWf s → MemoriesWf (l.foldl (fun s p =>
      if blockBad s p.1 && !coversUnit bytes p.1 then s else writePa s k p.1 p.2) s) := by
    intro l
    induction l with
    | nil => exact fun _ h => h
    | cons p l ih =>
      intro s h
      refine ih _ ?_
      dsimp only
      split
      · exact h
      · exact writePa_wf s k _ _ h
  exact key bytes s h

theorem reset_memoriesWf : MemoriesWf State.reset := ⟨by decide, by decide⟩

/-! ### What a read gives after a write -/

theorem mgetD_putByte (m : List Cell) (pa x : Nat) (b : Byte) :
    mgetD 0 (putByte m pa b) x = if x = pa then b else mgetD 0 m x := mgetD_mputD (0 : Byte) m pa x b

theorem mgetD_putBytes (base : Nat) (g : Nat → Byte) (x : Nat) (l : List Nat) : ∀ m : List Cell,
    mgetD 0 (l.foldl (fun m i => putByte m (base + i) (g i)) m) x =
      if base ≤ x ∧ (x - base) ∈ l then g (x - base) else mgetD 0 m x := by
  induction l with
  | nil => intro m; simp
  | cons i l ih =>
    intro m
    rw [List.foldl_cons, ih, mgetD_putByte]
    by_cases h : x = base + i
    · subst h; simp
    · have h' : ¬ (base ≤ x ∧ x - base = i) := fun e => h (by omega)
      by_cases hl : base ≤ x ∧ (x - base) ∈ l
      · simp [hl]
      · have : ¬ (base ≤ x ∧ x - base ∈ i :: l) := by
          rintro ⟨h1, h2⟩
          rcases List.mem_cons.mp h2 with h3 | h3
          · exact h' ⟨h1, h3⟩
          · exact hl ⟨h1, h3⟩
        rw [if_neg hl, if_neg h, if_neg this]

/-- A byte reads the same in two states that agree on its unit, on the key epochs and on where frames were dropped. -/
theorem readByte_congr (s t : State) (k x : Nat) (h1 : mget t.ukey (x / 16) = mget s.ukey (x / 16)) (h2 : t.kepoch = s.kepoch)
    (h3 : t.loose = s.loose) (h4 : t.remapped = s.remapped) (h5 : ∀ y, y / 16 = x / 16 → mgetD 0 t.mem y = mgetD 0 s.mem y) :
    readByte t k x = readByte s k x := by
  have hu : rawUnit t (x / 16) = rawUnit s (x / 16) := by
    refine List.map_congr_left (fun i hi => ?_)
    have hi' : i < 16 := List.mem_range.mp hi
    exact h5 _ (by omega)
  have hr : rawByte t x = rawByte s x := h5 x rfl
  simp only [readByte, h1, keyEpoch, h2, h3, h4, hu, hr]
  rfl

/-- A unit wholly under the key reads its plaintext. -/
theorem readByte_own (s : State) (k x : Nat) (h : mget s.ukey (x / 16) = some (keyEpoch s k)) :
    readByte s k x = mgetD 0 s.mem x := by
  simp [readByte, h, rawByte]

/-- R86: under the key of the write, the address written reads the byte written and every other address reads what it
read before. -/
theorem readByte_writeByte (s : State) (k pa x : Nat) (b : Byte) :
    readByte (writeByte s k pa b) k x = if x = pa then b else readByte s k x := by
  by_cases hk : mget s.ukey (pa / 16) = some (keyEpoch s k)
  · have e : writeByte s k pa b = { s with mem := putByte s.mem pa b } := by simp [writeByte, hk]
    rw [e]
    by_cases hu : x / 16 = pa / 16
    · rw [readByte_own _ k x (by rw [hu]; exact hk), readByte_own s k x (by rw [hu]; exact hk)]
      exact mgetD_putByte _ _ _ _
    · rw [if_neg (fun h => hu (by rw [h]))]
      refine readByte_congr s _ k x rfl rfl rfl rfl (fun y hy => ?_)
      show mgetD 0 (putByte s.mem pa b) y = _
      rw [mgetD_putByte, if_neg (fun h => hu (by rw [← hy, h]))]
  · have e : writeByte s k pa b = { s with
        mem := putByte ((List.range 16).foldl (fun m i => putByte m (16 * (pa / 16) + i) (readByte s k (16 * (pa / 16) + i)))
          s.mem) pa b, ukey := mput s.ukey (pa / 16) (keyEpoch s k) } := by simp [writeByte, hk]
    rw [e]
    by_cases hu : x / 16 = pa / 16
    · rw [readByte_own _ k x (by rw [hu, mget_mput]; simp [keyEpoch])]
      show mgetD 0 (putByte _ pa b) x = _
      rw [mgetD_putByte, mgetD_putBytes (16 * (pa / 16)) (fun i => readByte s k (16 * (pa / 16) + i))]
      have h1 : 16 * (pa / 16) + (x - 16 * (pa / 16)) = x := by omega
      have h2 : 16 * (pa / 16) ≤ x ∧ x - 16 * (pa / 16) ∈ List.range 16 := ⟨by omega, by rw [List.mem_range]; omega⟩
      rw [if_pos h2, h1]
    · rw [if_neg (fun h => hu (by rw [h]))]
      refine readByte_congr s _ k x ?_ rfl rfl rfl (fun y hy => ?_)
      · show mget (mput _ _ _) _ = _
        rw [mget_mput, if_neg hu]
      · show mgetD 0 (putByte _ pa b) y = _
        rw [mgetD_putByte, if_neg (fun h => hu (by rw [← hy, h])),
          mgetD_putBytes (16 * (pa / 16)) (fun i => readByte s k (16 * (pa / 16) + i)), if_neg]
        rintro ⟨h1, h2⟩
        rw [List.mem_range] at h2
        omega

theorem readHost_writeHost (s : State) (a x : Nat) (b : Byte) :
    readHost (writeHost s a b) x = if x = a then b else readHost s x := mgetD_putByte _ _ _ _

/-- A write of host memory changes no byte of the device's memory. -/
theorem readByte_writeHost (s : State) (a k x : Nat) (b : Byte) : readByte (writeHost s a b) k x = readByte s k x := rfl

theorem readHost_writeByte (s : State) (k pa x : Nat) (b : Byte) : readHost (writeByte s k pa b) x = readHost s x := by
  unfold writeByte
  dsimp only
  split <;> rfl

/-- R86 at any physical place: the place written reads the byte written, and every other place reads what it read. -/
theorem readPa_writePa (s : State) (k pa x : Nat) (b : Byte) :
    readPa (writePa s k pa b) k x = if x = pa then b else readPa s k x := by
  by_cases hp : hostBase ≤ pa <;> by_cases hx : hostBase ≤ x
  · simp only [readPa, writePa, hp, hx, if_true, readHost_writeHost]
    by_cases h : x = pa
    · subst h; simp
    · rw [if_neg (by omega), if_neg h]
  · simp only [readPa, writePa, hp, hx, if_true, if_false, readByte_writeHost]
    rw [if_neg (by omega)]
  · simp only [readPa, writePa, hp, hx, if_true, if_false, readHost_writeByte]
    rw [if_neg (by omega)]
  · simp only [readPa, writePa, hp, hx, if_false, readByte_writeByte]

end Sys2Proof.Machine
end

