-- ==== Sys2Proof/Laws/Ops.lean ====
section
/-! SUPPORT. What the shared operations of the instructions do: results written, a bundle advanced, and the wrapper `run` for
a bundle that may execute, for one without active lanes, and for one that must stall or trap. -/

namespace Sys2Proof.Machine

open Host

/-! ### Results of a bundle -/

theorem fieldRg_false (d : Reg) (k : Nat) : fieldRg false d k = .v (d.toNat + k) := by simp [fieldRg]

theorem reg_perLane (d : Reg) (f : Nat → List Word) (n : Nat) (hn : ∀ i, (f i).length = n) (r : Rg) (lane : Nat)
    (h : lane < 32) : ∀ (ls : List Nat) (_ : ∀ i ∈ ls, i < 32) (x : Group),
    (ls.foldl (fun x i => x.putWords false d [i] (f i)) x).reg r lane =
      match (List.range n).find? (fun k => fieldRg false d k == r) with
      | some k => match r with
        | .v _ => if lane ∈ ls then (f lane).getD k 0 else x.reg r lane
        | .s _ => x.reg r lane
      | none => x.reg r lane := by
  intro ls
  induction ls with
  | nil => intro _ x; cases (List.range n).find? (fun k => fieldRg false d k == r) <;> cases r <;> simp
  | cons a ls ih =>
    intro hl x
    rw [List.foldl_cons, ih (fun i hi => hl i (List.mem_cons_of_mem a hi))]
    have ha : ∀ i ∈ [a], i < 32 := by intro i hi; simp at hi; subst hi; exact hl i List.mem_cons_self
    rw [reg_putWords false d [a] ha r lane h (f a) x, hn a]
    cases hf : (List.range n).find? (fun k => fieldRg false d k == r) with
    | none => rfl
    | some k =>
      cases r with
      | s m =>
        exfalso
        have := List.find?_some hf
        simp [fieldRg_false] at this
      | v m =>
        simp only [List.mem_cons, List.not_mem_nil, or_false]
        by_cases h1 : lane ∈ ls
        · simp [h1]
        · by_cases h2 : lane = a
          · subst h2; simp [h1]
          · simp [h1, h2]

/-- The group after a computation has written its results. -/
def Ctx.written (c : Ctx) (d : Reg) (f : Nat → List Word) (x : Group) : Group :=
  c.lanes.foldl (fun x i => x.putWords c.h.u d (c.outLanes i) (f i)) x

theorem put_eq (c : Ctx) (s : State) (d : Reg) (f : Nat → List Word) :
    c.put s d f = modGroup s c.tid c.g (c.written d f) := rfl

theorem written_writes (c : Ctx) (d : Reg) (f : Nat → List Word) (n : Nat) (hn : ∀ i, (f i).length = n)
    (x : Group) (hx : ∀ r lane, lane < 32 → x.reg r lane = c.grp.reg r lane) :
    Writes c c.h.u d n (fun i k => (f i).getD k 0) (c.written d f x) := by
  intro r lane h
  unfold Ctx.written Ctx.lanes Ctx.outLanes Ctx.src
  by_cases hu : c.h.u = true
  · simp only [hu, if_true, List.foldl_cons, List.foldl_nil]
    rw [reg_putWords true d (lanesOf c.act) (lanesOf_lt c.act) r lane h, hn]
    cases (List.range n).find? (fun k => fieldRg true d k == r) with
    | none => exact hx r lane h
    | some k =>
      cases r with
      | s m => rfl
      | v m => simp only [mem_lanesOf, hx _ lane h]; rfl
  · have hu' : c.h.u = false := by simpa using hu
    simp only [hu', Bool.false_eq_true, if_false]
    rw [reg_perLane d f n hn r lane h (lanesOf c.act) (lanesOf_lt c.act)]
    cases hf : (List.range n).find? (fun k => fieldRg false d k == r) with
    | none => exact hx r lane h
    | some k =>
      cases r with
      | s m => exfalso; have := List.find?_some hf; simp [fieldRg_false] at this
      | v m => simp only [mem_lanesOf, hx _ lane h]

theorem written_pred (c : Ctx) (d : Reg) (f : Nat → List Word) (x : Group) (p : Nat) : (c.written d f x).pred p = x.pred p :=
  putLanes_keeps (fun x => x.pred p) (fun x r l w => pred_setReg x r l w p) _ d _ f _ x
theorem written_rest (c : Ctx) (d : Reg) (f : Nat → List Word) (x : Group) : (c.written d f x).rest = x.rest :=
  putLanes_keeps Group.rest rest_setReg _ d _ f _ x
theorem written_live (c : Ctx) (d : Reg) (f : Nat → List Word) (x : Group) : (c.written d f x).live = x.live :=
  putLanes_keeps Group.live live_setReg _ d _ f _ x
theorem written_errors (c : Ctx) (d : Reg) (f : Nat → List Word) (x : Group) : NoNewErrors x (c.written d f x) :=
  errors_putLanes _ d _ f _ x

/-- The group after a predicate result. -/
def Ctx.predSet (c : Ctx) (p : BitVec 3) (f : Nat → Bool) (x : Group) : Group :=
  x.setPred p.toNat c.act (if c.h.u then (if f c.lead then c.act else 0) else maskOf (fun i => has c.act i && f i))

theorem putPred_eq (c : Ctx) (s : State) (p : BitVec 3) (f : Nat → Bool) :
    c.putPred s p f = modGroup s c.tid c.g (c.predSet p f) := rfl

theorem predSet_writes (c : Ctx) (p : BitVec 3) (f : Nat → Bool) (x : Group) (hx : ∀ q, x.pred q = c.grp.pred q) :
    WritesPred c p.toNat f (c.predSet p f x) := by
  intro q lane h
  unfold Ctx.predSet Ctx.src
  rw [pred_setPred]
  by_cases h1 : q = p.toNat ∧ q ≠ 7
  · obtain ⟨h2, h3⟩ := h1
    subst h2
    simp only [ne_eq, h3, not_false_eq_true, and_self, if_true, true_and, has_or, has_and, has_not _ _ h, hx]
    by_cases ha : has c.act lane = true
    · simp only [ha, Bool.not_true, Bool.and_false, Bool.false_or, Bool.and_true, if_true]
      by_cases hu : c.h.u = true
      · simp only [hu, if_true, Ctx.lead]; by_cases hfl : f (lowest c.act) = true <;> simp [hfl, ha]
      · simp only [hu, if_false, has_maskOf, ha, h, decide_true, Bool.true_and, Bool.false_eq_true]
    · simp [ha]
  · rw [if_neg h1, if_neg (fun hh => h1 ⟨hh.1, hh.2.1⟩), hx]

/-! ### Advancing -/

theorem view_settleYield (es : List Entry) : (settleYield es).map Entry.view = es.map Entry.view := by
  unfold settleYield
  rw [List.map_map]; apply List.map_congr_left; intro e _; simp only [Function.comp]; split <;> rfl

theorem view_releasePend (ids : List Nat) (es : List Entry) : (releasePend ids es).map Entry.view = es.map Entry.view := by
  unfold releasePend
  rw [view_settleYield, List.map_map]; rfl

theorem view_noteIssue (fair : Bool) (id : Nat) (es : List Entry) : (noteIssue fair id es).map Entry.view = es.map Entry.view := by
  unfold noteIssue
  rw [view_releasePend, List.map_map]; apply List.map_congr_left; intro e _; simp only [Function.comp]
  split
  · rfl
  · split <;> rfl

/-- A change of entries that only their visible part decides acts on the visible parts. -/
theorem view_map_congr (f : Entry → Entry) (v : (Nat × VA × Lanes × Byte × Bool) → (Nat × VA × Lanes × Byte × Bool))
    (hf : ∀ e, (f e).view = v e.view) (as bs : List Entry) (h : as.map Entry.view = bs.map Entry.view) :
    (as.map f).map Entry.view = (bs.map f).map Entry.view := by
  have key : ∀ l : List Entry, (l.map f).map Entry.view = (l.map Entry.view).map v := by
    intro l; rw [List.map_map, List.map_map]; apply List.map_congr_left; intro e _; exact hf e
  rw [key, key, h]

theorem live_setLive (x : Group) (f : List Entry) : (x.setLive f).live = f := by
  unfold Group.live Group.setLive; cases x.trap <;> rfl
theorem rest_setLive (x : Group) (f : List Entry) : (x.setLive f).rest = x.rest := by
  unfold Group.setLive Group.rest; cases x.trap <;> simp
theorem reg_setLive (x : Group) (f : List Entry) (r : Rg) (i : Nat) : (x.setLive f).reg r i = x.reg r i := by
  unfold Group.setLive; cases x.trap <;> cases r <;> rfl
theorem pred_setLive (x : Group) (f : List Entry) (p : Nat) : (x.setLive f).pred p = x.pred p := by
  unfold Group.setLive; cases x.trap <;> rfl
theorem live_issued (x : Group) (pc : VA) : (x.issued pc).live = x.live := rfl
theorem rest_issued (x : Group) (pc : VA) : (x.issued pc).rest = x.rest := rfl
theorem reg_issued (x : Group) (pc : VA) (r : Rg) (i : Nat) : (x.issued pc).reg r i = x.reg r i := by cases r <;> rfl
theorem rbad_stepped (c : Ctx) (x : Group) (f : List Entry) : ((x.setLive f).issued c.pc).rbad = x.rbad := by
  unfold Group.setLive; cases x.trap <;> rfl
theorem pred_issued (x : Group) (pc : VA) (p : Nat) : (x.issued pc).pred p = x.pred p := rfl

/-- The group after its bundle has advanced. -/
def Ctx.stepped (c : Ctx) (fair : Bool) (x : Group) : Group :=
  (x.setLive ((noteIssue fair c.ent.id x.live).map (fun e => if e.id == c.ent.id then { e with pc := c.npc } else e))).issued c.pc

theorem advance_eq (c : Ctx) (s : State) : c.advance s = modGroup s c.tid c.g (c.stepped (fairOn s c.ten)) := rfl

theorem stepped_advanced (c : Ctx) (fair : Bool) (x : Group) (hl : x.live = c.grp.live) (hr : x.rest = c.grp.rest)
    (hn : NoNewErrors c.grp x) : Advanced c (c.stepped fair x) := by
  refine ⟨⟨?_, fun n h => hn n (by rwa [Ctx.stepped, rbad_stepped] at h)⟩, ?_⟩
  · unfold Ctx.stepped
    rw [live_issued, live_setLive]
    have hfun : (fun e : Entry => if e.id = c.ent.id then { e with pc := c.ent.pc + BitVec.ofNat 57 c.len } else e) =
        (fun e => if (e.id == c.ent.id) = true then { e with pc := c.npc } else e) := by
      funext e; simp only [beq_iff_eq]; rfl
    rw [hfun]
    apply view_map_congr _ (fun v => if v.1 == c.ent.id then (v.1, c.npc, v.2.2) else v)
    · intro e; by_cases h : e.id = c.ent.id <;> simp [Entry.view, h]
    · rw [view_noteIssue, hl]
  · unfold Ctx.stepped; rw [rest_issued, rest_setLive, hr]

theorem stepped_reg (c : Ctx) (fair : Bool) (x : Group) (r : Rg) (i : Nat) : (c.stepped fair x).reg r i = x.reg r i := by
  unfold Ctx.stepped; rw [reg_issued, reg_setLive]
theorem stepped_pred (c : Ctx) (fair : Bool) (x : Group) (p : Nat) : (c.stepped fair x).pred p = x.pred p := by
  unfold Ctx.stepped; rw [pred_issued, pred_setLive]

/-! ### Frames -/

theorem onlyGroup_modGroup (s : State) (tid g : Nat) (f : Group → Group) : OnlyGroup s (modGroup s tid g f) tid g := by
  refine ⟨fun _ _ => rfl, fun _ _ => rfl, ⟨?_, ?_⟩, ?_, rfl⟩
  · intro u h; simp [h]
  · intro j h; simp [group_modGroup, h]
  · rw [task_modGroup, if_pos rfl]; cases task s tid <;> rfl

theorem group_of_bundle {s : State} {tid g : Nat} {h : Hdr} {n : Nat} {c : Ctx} (hb : bundleOf s tid g h n = some c) :
    c.tid = tid ∧ c.g = g ∧ c.h = h ∧ c.len = n ∧ task s tid = some c.task ∧ group s tid g = some c.grp ∧
    c.act = c.ent.mask &&& c.grp.guard h := by
  unfold bundleOf at hb
  cases ht : task s tid with
  | none => simp [ht] at hb
  | some t =>
    simp only [ht] at hb
    cases hg : mget t.groups g with
    | none => simp [hg] at hb
    | some gr =>
      simp only [hg] at hb
      cases he : gr.select (fairOn s t.tenant) (fairLimit s t.tenant) with
      | none => simp [he] at hb
      | some e =>
        simp only [he, Option.some.injEq] at hb
        subst hb
        exact ⟨rfl, rfl, rfl, rfl, rfl, by simp [group, ht, hg], rfl⟩

/-! ### The wrapper -/

/-- Registers of which none holds an error raise nothing by themselves, nor does a destination that is no pending token. -/
theorem regTrap_none {c : Ctx} {reads : List Use} (ws : List Rg) (hn : NoError c reads) (hw : ws.any c.grp.pendTok = false) :
    c.regTrap false (reads.flatMap Use.regs) ws = none := by
  have h0 : c.badReads (reads.flatMap Use.regs) = 0 := by
    unfold Ctx.badReads
    split
    · rfl
    · apply lanes_ext
      intro i hi
      rw [has_maskOf, show has 0 i = false by simp [has], Bool.and_eq_false_iff]
      right
      rw [Bool.and_eq_false_iff, List.any_eq_false]
      by_cases hl : c.lanes.contains i = true
      · right
        intro r hr
        have := hn r hr i (by simpa using hl)
        cases r <;> simpa [Group.regBad] using this
      · left; simpa using hl
  simp [Ctx.regTrap, h0, hw]

theorem NoError.left {c : Ctx} {as bs : List Use} (h : NoError c (as ++ bs)) : NoError c as :=
  fun r hr => h r (by rw [List.flatMap_append]; exact List.mem_append_left _ hr)

/-- A bundle that may execute: the meaning's body decides. -/
theorem runGen_executes {s : State} {c : Ctx} {h : Hdr} {n : Nat} (always : Bool) (reads writes : List Use)
    (body : Ctx → State → Res) (he : Executes s c h n (reads ++ writes)) :
    runGen always h n reads writes body s = .next (match body c s with
      | .ok s1 => c.advance s1
      | .done s1 => s1
      | .trap s1 cause lanes addr => c.takeTrap s1 cause lanes addr
      | .wait s1 => c.stalled s1
      | .block s1 w => c.blockOn s1 w) := by
  obtain ⟨⟨hc, hb⟩, ⟨hf, hn⟩, ha⟩ := he
  rw [List.flatMap_append] at hf
  unfold runGen
  simp only [hc, hb]
  congr 1
  unfold runOn
  have h1 : ((reads.flatMap Use.regs ++ writes.flatMap Use.regs).all (Rg.fits c.task.granules)) = true := by
    rw [List.all_eq_true]; intro r hr; exact (hf r hr).1
  have h2 : (writes.flatMap Use.regs).any c.grp.pendTok = false := by
    rw [List.any_eq_false]; intro r hr; simpa using (hf r (List.mem_append_right _ hr)).2.2
  have h3 : ((reads.flatMap Use.regs ++ writes.flatMap Use.regs).any (fun r => c.grp.pendRegs.contains r)) = false := by
    rw [List.any_eq_false]; intro r hr; simpa using (hf r hr).2.1
  have h4 : (reads.flatMap Use.regs).any c.grp.pendTok = false := by
    rw [List.any_eq_false]; intro r hr; simpa using (hf r (List.mem_append_left _ hr)).2.2
  have h5 : (c.act == 0) = false := by simpa using ha
  simp only [h1, h3, h4, h5, Bool.not_true, Bool.false_eq_true, if_false, Bool.false_and, Bool.and_false, Bool.or_self,
    bne, regTrap_none _ hn.left h2]

/-- A bundle that may execute and changes only its group. -/
theorem leaves_ok {s : State} {c : Ctx} {h : Hdr} {n : Nat} {reads writes : List Use} {body : Ctx → State → Res}
    {F : Group → Group} {P : Group → Prop} (he : Executes s c h n (reads ++ writes))
    (hbody : body c s = .ok (modGroup s c.tid c.g F)) (hl : (F c.grp).live = c.grp.live) (hr : (F c.grp).rest = c.grp.rest)
    (hn : NoNewErrors c.grp (F c.grp)) (hP : P (c.stepped (fairOn s c.ten) (F c.grp))) : Leaves s c (run h n reads writes body s) P := by
  obtain ⟨-, -, hh, -, -, hg, -⟩ := group_of_bundle he.1.2
  refine ⟨modGroup s c.tid c.g (fun x => c.stepped (fairOn s c.ten) (F x)), c.stepped (fairOn s c.ten) (F c.grp),
    ?_, onlyGroup_modGroup _ _ _ _, ?_, hP, stepped_advanced c _ _ hl hr hn⟩
  · unfold run
    rw [runGen_executes false reads writes body he, hbody]
    show Outcome.next (c.advance _) = _
    rw [advance_eq, modGroup_modGroup]
    rfl
  · rw [group_modGroup_same, hg]; rfl

/-- A bundle that may execute and only computes. -/
theorem calc_completes {s : State} {c : Ctx} (q : Calc) (body : Ctx → State → Res) (f : Nat → List Word)
    (he : Executes s c q.h q.len (q.reads ++ [⟨q.h.u, q.d, q.n⟩]))
    (hbody : body c s = .ok (c.put s q.d f)) (hlen : ∀ i, (f i).length = q.n)
    (hval : ∀ i k, k < q.n → (f i).getD k 0 = q.val c s i k) :
    Leaves s c (run q.h q.len q.reads [⟨q.h.u, q.d, q.n⟩] body s)
      (fun x => Writes c q.h.u q.d q.n (q.val c s) x ∧ SamePreds c x) := by
  obtain ⟨-, -, hh, -, -, hg, -⟩ := group_of_bundle he.1.2
  refine leaves_ok he (by rw [hbody, put_eq]) (written_live _ _ _ _) (written_rest _ _ _ _) (written_errors _ _ _ _) ⟨?_, ?_⟩
  · have := written_writes c q.d f q.n hlen c.grp (fun _ _ _ => rfl)
    intro r lane hl
    rw [stepped_reg, this r lane hl, hh]
    cases hfind : (List.range q.n).find? (fun k => fieldRg q.h.u q.d k == r) with
    | none => rfl
    | some k =>
      have hk : k < q.n := by simpa using List.mem_of_find?_eq_some hfind
      cases r <;> simp only [hval _ k hk]
  · intro p; rw [stepped_pred, written_pred]

/-- A bundle that may execute and computes a predicate. -/
theorem pcalc_completes {s : State} {c : Ctx} (q : PCalc) (body : Ctx → State → Res) (f : Nat → Bool)
    (he : Executes s c q.h q.len (q.reads ++ [])) (hbody : body c s = .ok (c.putPred s q.p f))
    (hval : ∀ i, f i = q.val c i) :
    Leaves s c (run q.h q.len q.reads [] body s) (fun x => SameRegs c x ∧ WritesPred c q.p.toNat (q.val c) x) := by
  refine leaves_ok he (by rw [hbody, putPred_eq]) (live_setPred _ _ _ _) (rest_setPred _ _ _ _)
    (errors_setPred _ _ _ _) ⟨?_, ?_⟩
  · intro r lane _; rw [stepped_reg]; exact reg_setPred _ _ _ _ _ _
  · have := predSet_writes c q.p f c.grp (fun _ => rfl)
    intro p lane hl
    rw [stepped_pred, this p lane hl, hval]

end Sys2Proof.Machine
end

