-- ==== Sys2Proof/Laws/Trap.lean ====
section
/-! SUPPORT. Taking a trap outside trap mode (R60, R63): what it saves, where the handler starts, and what it leaves; and a trap
in trap mode (R62). -/

namespace Sys2Proof.Machine

open Host

/-- What of an entry a trap frame shows. -/
def Entry.place (e : Entry) : Nat × VA × Lanes × Byte := (e.id, e.pc, e.mask, e.prio)

theorem place_releasePend (ids : List Nat) (es : List Entry) : (releasePend ids es).map Entry.place = es.map Entry.place := by
  unfold releasePend settleYield
  rw [List.map_map, List.map_map]
  apply List.map_congr_left
  intro e _
  simp only [Function.comp]
  split <;> rfl

theorem place_noteIssue (fair : Bool) (id : Nat) (es : List Entry) : (noteIssue fair id es).map Entry.place = es.map Entry.place := by
  unfold noteIssue
  rw [place_releasePend, List.map_map]
  apply List.map_congr_left
  intro e _
  simp only [Function.comp]
  split
  · rfl
  · split <;> rfl

theorem place_dropLanes (m : Lanes) (es : List Entry) : (dropLanes m es).map Entry.place =
    ((es.map Entry.place).map (fun q => (q.1, q.2.1, q.2.2.1 &&& ~~~m, q.2.2.2))).filter (fun q => q.2.2.1 != 0) := by
  unfold dropLanes
  rw [place_releasePend]
  induction es with
  | nil => rfl
  | cons e es ih =>
    simp only [List.map_cons, List.filter_cons]
    by_cases h : (e.mask &&& ~~~m != 0) = true
    · simp only [h, if_true, List.map_cons, Entry.place, ih]
    · simp only [h, Entry.place, if_false, Bool.false_eq_true, ih]

theorem takeTrap_taken {s : State} {c : Ctx} {h : Hdr} {n : Nat} (hb : bundleOf s c.tid c.g h n = some c)
    (hm : c.grp.trap = none) (hv : hvec s c.task.tenant ≠ 0) (cause : Byte) (lanes : Lanes) (addr : Nat) :
    ∃ x, OnlyGroup s (c.takeTrap s cause lanes addr) c.tid c.g ∧ group (c.takeTrap s cause lanes addr) c.tid c.g = some x ∧
      TrapTaken s c x cause lanes (BitVec.ofNat 57 addr) := by
  obtain ⟨-, -, -, -, ht, hg, -⟩ := group_of_bundle hb
  let y : Group := (c.grp.setLive (noteIssue (fairOn s c.ten) c.ent.id c.grp.live)).issued c.pc
  have hy : y.trap = none := by simp [y, Group.setLive, Group.issued, hm]
  have hy2 : y.front.map Entry.place = c.grp.front.map Entry.place := by
    have : y.front = noteIssue (fairOn s c.ten) c.ent.id c.grp.front := by
      simp [y, Group.setLive, Group.issued, hm, Group.live]
    rw [this, place_noteIssue]
  have hmove : c.move s id = modGroup s c.tid c.g (fun x =>
      (x.setLive (noteIssue (fairOn s c.ten) c.ent.id x.live)).issued c.pc) := rfl
  have hgm : group (c.move s id) c.tid c.g = some y := by rw [hmove, group_modGroup_same, hg]; rfl
  have htm : ∃ t', task (c.move s id) c.tid = some t' ∧ t'.tenant = c.task.tenant := by
    rw [hmove, task_modGroup, if_pos rfl, ht]; exact ⟨_, rfl, rfl⟩
  obtain ⟨t', ht', hten⟩ := htm
  have hv' : ¬ hvec (c.move s id) t'.tenant = 0 := by rw [hten]; exact hv
  obtain ⟨sm, hsm⟩ : ∃ sm, sm = c.move s id := ⟨_, rfl⟩
  rw [← hsm] at hgm ht' hv'
  let z : Group := { y with ecause := cause, epc := c.pc, emask := lanes, ebmask := c.bundle, eaddr := BitVec.ofNat 57 addr,
                            front := dropLanes c.bundle y.front, stall := false, sel := none,
                            trap := some { hfront := [Entry.new sm.serial (BitVec.ofNat 57 (hvec sm t'.tenant)) c.bundle 0],
                                           bundle := c.bundle, prio := c.ent.prio, rti := 0, resume := [], logged := none } }
  have he : c.takeTrap s cause lanes addr = modGroup { sm with serial := sm.serial + 1 } c.tid c.g (fun _ => z) := by
    unfold Ctx.takeTrap enterTrap
    rw [← hsm]
    simp [ht', hgm, hy, hv', z]
  have hz : group (modGroup { sm with serial := sm.serial + 1 } c.tid c.g (fun _ => z)) c.tid c.g = some z := by
    rw [group_modGroup_same]
    have : group { sm with serial := sm.serial + 1 } c.tid c.g = group sm c.tid c.g := rfl
    rw [this, hgm]; rfl
  have hvs : hvec sm t'.tenant = hvec s c.task.tenant := by rw [hsm, hmove, hten]; rfl
  refine ⟨z, ?_, by rw [he]; exact hz, ?_⟩
  · rw [he, hsm, hmove]
    have := onlyGroup_modGroup s c.tid c.g (fun _ => z)
    rw [show (fun _ : Group => z) = fun x => (fun _ : Group => z) ((x.setLive (noteIssue (fairOn s c.ten) c.ent.id x.live)).issued
      c.pc) from rfl, ← modGroup_modGroup s c.tid c.g
        (fun x => (x.setLive (noteIssue (fairOn s c.ten) c.ent.id x.live)).issued c.pc) (fun _ => z)] at this
    exact this
  · refine ⟨rfl, rfl, rfl, rfl, rfl, ⟨_, _, rfl, rfl, ?_, rfl, rfl, rfl, rfl, rfl, rfl, rfl⟩, ?_, ?_, ?_, ?_, ?_, ?_, ?_, ?_, ?_⟩
    · show BitVec.ofNat 57 (hvec sm t'.tenant) = _
      rw [hvs]
    · show (dropLanes c.bundle y.front).map Entry.place = _
      rw [place_dropLanes, hy2, List.map_map]
      rfl
    · intro r i
      have : z.reg r i = y.reg r i := by cases r <;> rfl
      rw [this, reg_issued, reg_setLive]
    · intro p
      have : z.pred p = y.pred p := rfl
      rw [this, pred_issued, pred_setLive]
    all_goals simp [z, y, Group.issued, Group.setLive, hm]

/-- In trap mode a trap is delivered to the supervisor as a DOUBLE_TRAP (R62, R421). -/
theorem takeTrap_double {s : State} {c : Ctx} {h : Hdr} {n : Nat} (hb : bundleOf s c.tid c.g h n = some c)
    (hm : c.grp.trap ≠ none) (cause : Byte) (lanes : Lanes) (addr : Nat) :
    c.takeTrap s cause lanes addr = deliver (c.move s id) c.tid 1 0x0F c.g
      { epc := c.ent.pc.toNat, cause := cause, emask := lanes, ebmask := c.ent.mask, eaddr := addr,
        oepc := c.grp.epc.toNat, ocause := c.grp.ecause } := by
  obtain ⟨-, -, -, -, ht, hg, -⟩ := group_of_bundle hb
  let y : Group := (c.grp.setLive (noteIssue (fairOn s c.ten) c.ent.id c.grp.live)).issued c.pc
  have hgm : group (c.move s id) c.tid c.g = some y := by
    show group (modGroup s c.tid c.g _) c.tid c.g = _
    rw [group_modGroup_same, hg]; rfl
  have htm : ∃ t', task (c.move s id) c.tid = some t' := by
    show ∃ t', task (modGroup s c.tid c.g _) c.tid = some t'
    rw [task_modGroup, if_pos rfl, ht]; exact ⟨_, rfl⟩
  obtain ⟨t', ht'⟩ := htm
  have hy : y.trap.isSome = true ∧ y.epc = c.grp.epc ∧ y.ecause = c.grp.ecause := by
    obtain ⟨m, hm'⟩ := Option.ne_none_iff_exists'.mp hm
    simp [y, Group.issued, Group.setLive, hm']
  unfold Ctx.takeTrap enterTrap
  simp only [ht', hgm, hy, if_true]
  rfl

end Sys2Proof.Machine
end

