-- ==== Sys2Proof/Tests/Slice0.lean ====
section
/-! SUPPORT. The model's own tests: ill-formed terms that WellFormed refuses, words written out from the encodings of the spec,
a witness for the hypotheses of each statement, and a few steps worked out by hand. -/

namespace Sys2Proof.Tests
set_option Elab.async false
open Sys2Proof Sys2Proof.Machine Host

/-- Task 0 of tenant 0 on core 0: one block of one group, with 16 granules, 1 KiB of scratchpad and 512 accumulator rows. -/
def aTask : Task := Task.start 0 0 1 0 0x1000 0 [1, 2, 3, 4] Origin.blank 1 16 1024 512
/-- Its group 0, all 32 lanes at 0x1000. -/
def aGroup : Group := Group.start 0 0 1 0x1000 0
/-- A state whose tenant 0 has a handler at 0x8000 and whose group 0 of task 0 is issuing. -/
def aState (f : Task → Task) (g : Group → Group) : State :=
  let s := { State.reset with cur := some (0, 0), serial := 9, tasks := [(0, { f aTask with groups := [(0, g aGroup)] })] }
  csrSet s 0 0x024 0x8000
/-- The bundle that issues. -/
def ctx (s : State) (h : Hdr) (n : Nat) : Ctx :=
  match bundleOf s 0 0 h n with
  | some c => c
  | none => { tid := 0, g := 0, task := aTask, grp := aGroup, ent := Entry.new 0 0 0 0, len := n, h := h, act := 0 }
abbrev plain : Hdr := Hdr.plain
abbrev st0 : State := aState id id

/-! ### Well-formedness: a legal term, and for each check a term that it refuses -/

theorem test_wf_accepts : wf (.iadd plain 0 1 (.reg 2) false false) = true := by decide
theorem test_wf_guard : wf (.iadd ⟨false, true, 7, 0⟩ 0 1 (.reg 2) false false) = false := by decide
theorem test_wf_u : wf (.fold ⟨true, false, 7, 0⟩ 0 1 .iadd false) = false := by decide
theorem test_wf_rt_of_nothing : wf (.movi ⟨false, false, 7, 1⟩ 0 5) = false := by decide
theorem test_wf_rt_of_literal : wf (.iadd ⟨false, false, 7, 2⟩ 0 1 (.lit 3) false false) = false := by decide
theorem test_wf_rt_of_c : wf (.iadd ⟨false, false, 7, 3⟩ 0 1 (.reg 3) false false) = false := by decide
theorem test_wf_rt_of_c_accepts : wf (.imad ⟨false, false, 7, 3⟩ 0 1 (.reg 3) (.reg 4) false false) = true := by decide
theorem test_wf_scalar_field : wf (.fold plain 447 1 .iadd true) = false := by decide
theorem test_wf_scalar_field_accepts : wf (.fold plain 448 1 .iadd true) = true := by decide
theorem test_wf_poll_scalar : wf (.poll plain (.scal .mask 447) ⟨0, false⟩) = false := by decide
theorem test_wf_poll_pred : wf (.poll plain (.pred .some 7) ⟨0, false⟩) = false := by decide
theorem test_wf_pred_destination : wf (.icmp plain 7 0 (.reg 1) .eq false) = false := by decide
theorem test_wf_icmp_condition : wf (.icmp plain 0 0 (.reg 1) .num false) = false := by decide
theorem test_wf_fcmp_condition : wf (.fcmp plain 0 0 (.reg 1) .num) = true := by decide
theorem test_wf_offset : wf (.bra plain 0x1002 0 0) = false := by decide
theorem test_wf_spawn_offset : wf (.spawn plain 0 8 0x1001 0) = false := by decide
theorem test_wf_pair : wf (.arena plain 0 2 .mxfp4 .none false) = false := by decide
theorem test_wf_elem_pair : wf (.ldx plain 0 2 (.lit 0) (.lit 0) .raw .none) = false := by decide
theorem test_wf_elem_pair_graph : wf (.stx plain 2 (.lit 0) 4 (.reg 5) .fp32 .graph false) = false := by decide
theorem test_wf_cvt_sel : wf (.cvt plain 0 1 .f32 .f16 .rn false 2) = false := by decide
theorem test_wf_cvt_sel_accepts : wf (.cvt plain 0 1 .f32 .f16 .rn false 1) = true := by decide
theorem test_wf_cvtq_format : wf (.cvtq plain 0 1 .int8 0 false) = false := by decide
theorem test_wf_cvtq_type : wf (.cvtq plain 0 1 .mxfp4 1 false) = false := by decide
theorem test_wf_cvtq_b16 : wf (.cvtq plain 0 1 .mxfp8e4 0 true) = false := by decide
theorem test_wf_cvtd_format : wf (.cvtd plain 0 1 .fp16) = false := by decide
theorem test_wf_pack_pos : wf (.pack plain 0 1 (.reg 2) .w16 2) = false := by decide
theorem test_wf_unpack_pos : wf (.unpack plain 0 1 .w8 4 true) = false := by decide
theorem test_wf_lanex_k : wf (.lanex plain 0 1 (.reg 2) (.reg 3) .flip 6) = false := by decide
theorem test_wf_load_sx : wf (.ld plain 0 2 (.lit 0) .b32 true false) = false := by decide
theorem test_wf_lds_sx : wf (.lds plain 0 2 (.lit 0) .b64 true) = false := by decide
theorem test_wf_store_literal : wf (.st plain 2 (.lit 0) (.lit 5) .b128 false) = false := by decide
theorem test_wf_sts_literal : wf (.sts plain 2 (.lit 0) (.lit 5) .b128) = false := by decide
theorem test_wf_red_op : wf (.red plain 2 (.lit 0) (.reg 5) .exchB32 .group .relaxed) = false := by decide
theorem test_wf_reds_op : wf (.reds plain 2 (.lit 0) (.reg 5) .exchB64) = false := by decide
theorem test_wf_reddet_op : wf (.reddet plain 2 (.lit 0) (.reg 5) .andB32) = false := by decide
theorem test_wf_cpr_op : wf (.cpr plain 448 2 0 .addN64 0 1 .group) = false := by decide
theorem test_wf_cpr_token : wf (.cpr plain 4 2 0 .addN32 0 1 .group) = false := by decide
theorem test_wf_tdesc_geom : wf (.tdesc plain 0 4 1 0 8 0 0 0) = false := by decide
theorem test_wf_mma_token : wf (.mma plain (some 4) 2 (.lit 0) false false) = false := by decide
theorem test_wf_accst_epilogue : wf (.accst ⟨false, false, 7, 1⟩ 448 false 0 0 0 .rn false 0 none) = false := by decide
theorem test_wf_cancel_task : wf (.cancel plain 448 2 .task none) = false := by decide
theorem test_wf_cancel_level : wf (.cancel plain 448 2 .job (some (.reg 3))) = false := by decide
theorem test_wf_tropen_log : wf (.tropen plain 448 2 (.reg 4) 19) = false := by decide
theorem test_wf_tropen_log_accepts : wf (.tropen plain 448 2 (.reg 4) 20) = true := by decide

/-! ### Decoding: words that the manual's encodings and worked examples give -/

/-- The instruction that a list of words begins with. -/
def dec (ws : List Nat) : Option (Instr × Nat) := decode (ws.flatMap (leBytes 4))

-- chapter 08, worked words; chapter 09
theorem test_decode_ffma : dec [0x010199B9, 0x00000004] = some (.ffma plain 3 1 (.reg 2) (.reg 0) .rn, 8) := by decide +kernel
theorem test_decode_iadd :
    dec [0x05038851, 0x002803FA] = some (.iadd ⟨false, true, 2, 1⟩ 7 5 (.lit 0x1FD) false false, 8) := by decide +kernel
theorem test_decode_iadd_scalar :
    dec [0xC4E2083D, 0x00200003] = some (.iadd ⟨true, false, 7, 0⟩ 0x1C4 0x1C4 (.lit 1) false false, 8) := by decide +kernel
theorem test_decode_fmul_imm :
    dec [0x0101993A, 0, 0x3FC00000] = some (.fmul plain 3 1 (.imm 0x3FC00000) .rn, 12) := by decide +kernel
theorem test_decode_bra : dec [0x00000082, 0x64000050, 0xFFFFFFD0] = some (.bra ⟨false, false, 0, 0⟩ 0xFFFFFFD0 200 40, 12) := by
  decide +kernel
theorem test_decode_exit : dec [0x00000339, 0] = some (.exit plain, 8) := by decide +kernel
theorem test_decode_ret : dec [0x1E0002BA, 0x7F800000, 0] = some (.ret plain 30 0xFF 0, 12) := by decide +kernel
theorem test_decode_setprio : dec [0x00000439, 0x05000000] = some (.setprio plain 10, 8) := by decide +kernel
theorem test_decode_yield : dec [0x00000391, 0] = some (.yield ⟨false, false, 2, 0⟩, 8) := by decide +kernel
theorem test_decode_iaddc : dec [0x01020AB9, 0x08800004] = some (.iaddc plain 4 1 (.reg 2) 1 2, 8) := by decide +kernel
theorem test_decode_lanex :
    dec [0x05032D39, 0x0367FC02] = some (.lanex plain 6 5 (.lit 1) (.lit 0x1FF) .rotdec 1, 8) := by decide +kernel
theorem test_decode_nops : dec [0x39, 0] = some (.nop, 8) ∧ dec [0x3A, 0, 0] = some (.nop96, 12) ∧
    dec [0x3B, 0, 0, 0] = some (.nop128, 16) ∧ dec [0x4B58F11C] = some (.fillWord, 4) := by decide +kernel
-- chapter 10
theorem test_decode_ld : dec [0x02043839, 0x06200080] = some (.ld plain 8 2 (.lit 0x40) .b16 true false, 8) := by decide +kernel
theorem test_decode_atom :
    dec [0x0202C03A, 0xA6802400, 0x1000] = some (.atom plain 5 2 (.imm 0x1000) (.reg 9) .addF32 .package .rel, 12) := by
  decide +kernel
theorem test_decode_reddet : dec [0x000041B9, 0x0680180A] = some (.reddet plain 0 (.reg 5) (.reg 6) .addF32, 8) := by
  decide +kernel
-- chapter 11
theorem test_decode_tdesc : dec [0x040052BB, 0x01800000, 0x02000108, 0x00800008] =
    some (.tdesc plain 3 4 8 1 0 0x200 8 0x80, 16) := by decide +kernel
theorem test_decode_mma : dec [0x06E4D839, 0x01A00080] = some (.mma plain (some 0x1C9) 6 (.lit 0x40) true false, 8) := by decide +kernel
theorem test_decode_accst : dec [0x14E1DA3A, 0x86005458, 0x20] =
    some (.accst plain 0x1C3 false 6 32 0 .rn true 0 (some (5, 20, 21)), 12) := by decide +kernel
-- chapter 12
theorem test_decode_enq : dec [0x06E16839, 0x00601500] = some (.enq plain 0x1C2 6 (.lit 0x80) (.lit 5), 8) := by decide +kernel
theorem test_decode_spawn : dec [0x0400E8BA, 0x05000000, 0x50] = some (.spawn plain 1 4 0x50 10, 12) := by decide +kernel
theorem test_decode_cancel : dec [0x0CE3E9B9, 0x02000000] = some (.cancel plain 0x1C7 12 .job none, 8) := by decide +kernel
theorem test_decode_tropen : dec [0x00E0F039, 0x0A000800] = some (.tropen plain 0x1C1 0 (.reg 2) 20, 8) := by decide +kernel
-- chapters 14, 16 and 17
theorem test_decode_bra_guarded :
    dec [0x000000C2, 0x64000014, 0x1C] = some (.bra ⟨false, true, 0, 0⟩ 0x1C 200 10, 12) := by decide +kernel
theorem test_decode_geval : dec [0x150BE139, 0x0100002C] = some (.geval plain 23 2 21 (.reg 22), 8) := by decide +kernel
theorem test_decode_cpt :
    dec [0x00E2D0BA, 0x40C00008, 0] = some (.cpt plain 0x1C5 0 (.lit 0) 1 0 true .package, 12) := by decide +kernel
theorem test_decode_nnq : dec [0x02E2733A, 0, 0x100] = some (.nnq plain 0x1C4 0 2 (.imm 0x100), 12) := by decide +kernel
theorem test_decode_nnwait : dec [0x000073BA, 0, 2] = some (.nnwait plain 2, 12) := by decide +kernel
-- words assembled by hand from the field places of R167 to R178 and the opcodes and MOD fields of chapters 09 to 12
theorem test_decode_and : dec [0x01019039, 0x4] = some (.and plain 3 1 (.reg 2), 8) := by decide +kernel
theorem test_decode_popc : dec [0x09021539, 0] = some (.popc plain 4 9, 8) := by decide +kernel
theorem test_decode_hadd2 : dec [0x0200A039, 6] = some (.hadd2 plain 1 2 (.reg 3) .rn false, 8) := by decide +kernel
theorem test_decode_rcp : dec [0x0200A839, 0] = some (.rcp plain 1 2, 8) := by decide +kernel
theorem test_decode_icmp : dec [0x01013039, 0x05000004] = some (.icmp plain 2 1 (.reg 2) .lt true, 8) := by decide +kernel
theorem test_decode_movs : dec [0x0000B339, 0] = some (.movs plain 1 .laneid, 8) := by decide +kernel
theorem test_decode_lds : dec [0x01023A39, 0x00800004] = some (.lds plain 4 1 (.reg 2) .b64 false, 8) := by decide +kernel
theorem test_decode_fence : dec [0x00004839, 0x07800000] = some (.fence plain .ar .die, 8) := by decide +kernel
theorem test_decode_binit : dec [0x01004EB9, 0x01800004] = some (.binit plain 3 1 (.reg 2), 8) := by decide +kernel
theorem test_decode_qpush : dec [0x08004AB9, 0x02800000] = some (.qpush plain 5 8, 8) := by decide +kernel
theorem test_decode_gset : dec [0x04006039, 0x01200040] = some (.gset plain 2 4 (.lit 0x20), 8) := by decide +kernel
theorem test_decode_coll : dec [0x02E1E1B9, 0x02A00020] = some (.coll plain 0x1C3 2 (.lit 0x10) 5, 8) := by decide +kernel
theorem test_decode_cntrd : dec [0x0101EA39, 0x04000000] = some (.cntrd plain 3 1 .done true, 8) := by decide +kernel
theorem test_decode_prop : dec [0x06E17139, 0] = some (.prop plain 0x1C2 6, 8) := by decide +kernel
theorem test_decode_trmark : dec [0x020072B9, 6] = some (.trmark plain 2 (.reg 3), 8) := by decide +kernel
theorem test_decode_csrrd : dec [0x0002F93A, 0, 0x29] = some (.csrrd plain 5 0x29, 12) := by decide +kernel
theorem test_decode_trap : dec [0x00007839, 0x03800000] = some (.trap plain 7, 8) := by decide +kernel
-- R168 and R170: a reserved field and an opcode that the map leaves free are refused
theorem test_decode_reserved_field : dec [0x09021539, 0x2] = none := by decide +kernel
theorem test_decode_free_opcode : dec [0x00000539, 0] = none := by decide +kernel
/-! ### States for the witnesses -/

/-- A group whose lanes are those of a mask. -/
def lanesAt (m : Lanes) (x : Group) : Group := { x with front := [Entry.new 1 0x1000 m 0] }
/-- A group in trap mode whose whole bundle is in the handler. -/
def inTrap (x : Group) : Group :=
  let m : TrapMode := ⟨[Entry.new 2 0x8000 0xFFFFFFFF 0], 0xFFFFFFFF, 5, 0, [], none⟩
  { x with front := [], epc := 0x1000, trap := some m }
/-- Vector register r of lane 0. -/
def vreg (r : Nat) (w : Word) (x : Group) : Group := { x with v := mput x.v (32 * r) w }
abbrev stTrap : State := aState id inTrap
abbrev stTwo : State := aState id (lanesAt 3)
abbrev u1 : Hdr := ⟨true, false, 7, 0⟩
/-- The guard ?p0 where p0 is 0 in every lane: no active lane. -/
abbrev none0 : Hdr := ⟨false, false, 0, 0⟩

/-! ### A witness for each statement with hypotheses: encoding and the step -/

theorem witness_RoundTrip : wf (.iadd ⟨true, false, 2, 2⟩ 0x1FF 0x1C0 (.reg 0x1C5) true true) = true ∧
    encodable (.iadd ⟨true, false, 2, 2⟩ 0x1FF 0x1C0 (.reg 0x1C5) true true) = true := by decide +kernel
theorem witness_DecodedIsWellFormed : decode ([0x4B58F11C].flatMap (leBytes 4)) = some (.fillWord, 4) := by decide +kernel

/-- The bytes of a fetch. -/
def fetchedBytes : Fetched → Option (List Byte)
  | .bytes _ bs => some bs
  | _ => none
theorem fetched_bytes {f : Fetched} {bs : List Byte} (h : fetchedBytes f = some bs) : ∃ s1, f = .bytes s1 bs := by
  cases f <;> simp_all [fetchedBytes]
/-- The same, with a fact about the state that the fetch leaves. -/
def fetchedThat (p : State → Bool) : Fetched → Option Bool
  | .bytes s1 _ => some (p s1)
  | _ => none
theorem fetched_with {f : Fetched} {bs : List Byte} {b : Bool} (p : State → Bool)
    (h : fetchedBytes f = some bs ∧ fetchedThat p f = some b) : ∃ s1, f = .bytes s1 bs ∧ p s1 = b := by
  cases f <;> simp_all [fetchedBytes, fetchedThat]

/-- `exit` as the first instruction, by the script and by the default schedule. -/
abbrev stExit : State := State.reset.withFetchWord 64 0x339
abbrev stIdle : State := { stExit with script := [] }
abbrev taskExit : Task := (task stExit 0).getD aTask
abbrev groupExit : Group := (mget taskExit.groups 0).getD aGroup
abbrev entryExit : Entry := groupExit.front.headD (Entry.new 0 0 0 0)

theorem witness_StepRunsDecoded_script :
    let s0 := { tick stExit with script := [] }
    (tick stExit).script = [.issue 0 0] ∧ task s0 0 = some taskExit ∧ mget taskExit.groups 0 = some groupExit ∧
    groupReady s0 taskExit 0 0 groupExit = true ∧ inTurn s0 taskExit groupExit = true ∧
    headOf s0 0 0 = some (taskExit, groupExit, entryExit) ∧
    (∃ s1, fetchAt { noteRound (beforeIssue s0 0 0) 0 groupExit.sched groupExit.slot with cur := some (0, 0), last := (0, 0) } taskExit
      entryExit.pc.toNat
      groupExit.trap.isNone = .bytes s1 (leBytes 32 0x339)) ∧ readInstr (leBytes 32 0x339) = some (.exit plain) := by
  and_intros <;> first | exact fetched_bytes (by decide +kernel) | decide +kernel
/-- The same with a `fork` of the group that has not taken its snapshot: `exit` waits. -/
abbrev stForkExit : State := { stExit with forks := [(5, ⟨0, 0, 0, 0, true, 0, 0, false⟩)] }
theorem witness_StepRunsDecoded_fork :
    let s0 := { tick stForkExit with script := [] }
    (tick stForkExit).script = [.issue 0 0] ∧ task s0 0 = some taskExit ∧ groupReady s0 taskExit 0 0 groupExit = true ∧
    inTurn s0 taskExit groupExit = true ∧
    (∃ s1, fetchAt { noteRound (beforeIssue s0 0 0) 0 groupExit.sched groupExit.slot with cur := some (0, 0), last := (0, 0) } taskExit
      entryExit.pc.toNat groupExit.trap.isNone = .bytes s1 (leBytes 32 0x339) ∧ forksTaken s1 0 0 = false) ∧
    afterFork (.exit plain) = true := by
  and_intros <;> first | exact fetched_with (fun s => forksTaken s 0 0) (by decide +kernel) | decide +kernel
theorem witness_StepRunsDecoded_schedule :
    let s0 := tick stIdle
    s0.script = [] ∧ defaultTurn s0 = some (.issue 0 0) ∧ task s0 0 = some taskExit ∧ mget taskExit.groups 0 = some groupExit ∧
    groupReady s0 taskExit 0 0 groupExit = true ∧ inTurn s0 taskExit groupExit = true ∧
    headOf s0 0 0 = some (taskExit, groupExit, entryExit) ∧
    (∃ s1, fetchAt { noteRound (beforeIssue s0 0 0) 0 groupExit.sched groupExit.slot with cur := some (0, 0), last := (0, 0) } taskExit
      entryExit.pc.toNat
      groupExit.trap.isNone = .bytes s1 (leBytes 32 0x339)) ∧ readInstr (leBytes 32 0x339) = some (.exit plain) := by
  and_intros <;> first | exact fetched_bytes (by decide +kernel) | decide +kernel
/-- An instruction of zeros, which is none. -/
abbrev stZeros : State := State.reset.withFetchWord 64 0
theorem witness_StepRunsDecoded_none :
    let s0 := { tick stZeros with script := [] }
    let t := (task s0 0).getD aTask
    let x := (mget t.groups 0).getD aGroup
    let e := x.front.headD (Entry.new 0 0 0 0)
    (tick stZeros).script = [.issue 0 0] ∧ task s0 0 = some t ∧ mget t.groups 0 = some x ∧
    groupReady s0 t 0 0 x = true ∧ inTurn s0 t x = true ∧ headOf s0 0 0 = some (t, x, e) ∧
    (∃ s1, fetchAt { noteRound (beforeIssue s0 0 0) 0 x.sched x.slot with cur := some (0, 0), last := (0, 0) } t e.pc.toNat
      x.trap.isNone = .bytes s1 (leBytes 32 0)) ∧ readInstr (leBytes 32 0) = none := by
  and_intros <;> first | exact fetched_bytes (by decide +kernel) | decide +kernel
/-! ### Computing instructions, control and traps -/

theorem witness_IntegerResults : ∃ q, integerCalc (.iadd plain 0 1 (.reg 2) false true) = some q ∧
    Executes st0 (ctx st0 q.h q.len) q.h q.len (q.reads ++ [⟨q.h.u, q.d, q.n⟩]) := ⟨_, rfl, by decide +kernel⟩
theorem witness_LogicResults : ∃ q, logicCalc (.bool3 u1 0x1FF 0x1C0 (.reg 0) (.lit 5) 0x96) = some q ∧
    Executes st0 (ctx st0 q.h q.len) q.h q.len (q.reads ++ [⟨q.h.u, q.d, q.n⟩]) := ⟨_, rfl, by decide +kernel⟩
theorem witness_CarryAdd : Executes st0 (ctx st0 plain 12) plain 12
    ((⟨false, 1, 1⟩ :: useB false (.imm 5) 1) ++ [⟨false, 0, 1⟩]) := by decide +kernel
theorem witness_FloatResults : ∃ q, floatCalc (.ffma plain 0 1 (.reg 2) (.reg 3) .rz) = some q ∧
    Executes st0 (ctx st0 q.h q.len) q.h q.len (q.reads ++ [⟨q.h.u, q.d, q.n⟩]) := ⟨_, rfl, by decide +kernel⟩
theorem witness_HalfResults : ∃ q, halfCalc (.cvtq plain 0 1 .mxfp4 0 false) = some q ∧
    Executes st0 (ctx st0 q.h q.len) q.h q.len (q.reads ++ [⟨q.h.u, q.d, q.n⟩]) := ⟨_, rfl, by decide +kernel⟩
theorem witness_SpecialFunctions : ∃ q, sfuCalc (.sincos plain 0 2) = some q ∧
    Executes st0 (ctx st0 q.h q.len) q.h q.len (q.reads ++ [⟨q.h.u, q.d, q.n⟩]) := ⟨_, rfl, by decide +kernel⟩
theorem witness_SpecialFunctions_nan : f32 0x7F800001 = .nan ∧ f32 0xFFFFFFFF = .nan := by decide +kernel
theorem witness_SpecialFunctions_negative : ∃ m e, f32 0x80000001 = .fin true m e ∧ m ≠ 0 := ⟨1, -149, by decide +kernel⟩
theorem witness_LaneResults : ∃ q, laneCalc (.lanex plain 0 1 (.reg 2) (.reg 3) .flip 5) = some q ∧
    Executes st0 (ctx st0 q.h q.len) q.h q.len (q.reads ++ [⟨q.h.u, q.d, q.n⟩]) ∧ q.h.u = false := ⟨_, rfl, by decide +kernel⟩
theorem witness_LaneResults_fold :
    448 ≤ (448 : Reg).toNat ∧ Executes st0 (ctx st0 plain 8) plain 8 [⟨false, 0, 1⟩, ⟨true, 448, 1⟩] := by decide +kernel
theorem witness_LaneResults_poll :
    448 ≤ (511 : Reg).toNat ∧ Executes st0 (ctx st0 plain 8) plain 8 [⟨true, 511, 1⟩] := by decide +kernel
theorem witness_PredicateResults : ∃ q, predCalc (.icmp plain 6 1 (.reg 2) .lt true) = some q ∧
    Executes st0 (ctx st0 q.h q.len) q.h q.len q.reads := ⟨_, rfl, by decide +kernel⟩
theorem witness_MoveResults : ∃ q, moveCalc (.movs plain 0 .send) = some q ∧
    Executes st0 (ctx st0 q.h q.len) q.h q.len (q.reads ++ [⟨q.h.u, q.d, q.n⟩]) := ⟨_, rfl, by decide +kernel⟩
theorem witness_MoveResults_others : Executes st0 (ctx st0 plain 8) plain 8 [⟨false, 127, 1⟩] := by decide +kernel
theorem witness_Inactive : ∃ q, integerCalc (.iadd none0 0 1 (.reg 2) false false) = some q ∧
    wf (.iadd none0 0 1 (.reg 2) false false) = true ∧ Issues st0 (ctx st0 q.h q.len) q.h q.len ∧ (ctx st0 q.h q.len).act = 0 ∧
    (∀ r ∈ (q.reads ++ [(⟨q.h.u, q.d, q.n⟩ : Use)]).flatMap Use.regs, r.fits (ctx st0 q.h q.len).task.granules = true) :=
  ⟨_, rfl, by decide +kernel⟩
/-- Lane 0 of v1 holds an uncorrectable error: read, it traps; written only, it is overwritten. -/
abbrev stRegBad : State := aState id (fun x => { lanesAt 3 x with rbad := [32] })
theorem witness_RegisterChecks_error : ∃ q, moveCalc (.mov plain 0 1) = some q ∧ wf (.mov plain 0 1) = true ∧
    let c := ctx stRegBad q.h q.len
    Issues stRegBad c q.h q.len ∧ c.act ≠ 0 ∧
    (∀ r ∈ q.reads.flatMap Use.regs ++ (⟨q.h.u, q.d, q.n⟩ : Use).regs,
      r.fits c.task.granules = true ∧ r ∉ c.grp.pendRegs ∧ c.grp.pendTok r = false) ∧
    maskOf (fun j => c.lanes.contains j && (q.reads.flatMap Use.regs).any (fun r => c.grp.regBad r j)) = 1 ∧
    c.grp.trap = none ∧ hvec stRegBad c.task.tenant ≠ 0 := ⟨_, rfl, by decide +kernel⟩
theorem witness_RegisterChecks_overwrites : ∃ q, moveCalc (.mov plain 1 0) = some q ∧ wf (.mov plain 1 0) = true ∧
    let c := ctx stRegBad q.h q.len
    Issues stRegBad c q.h q.len ∧ c.act ≠ 0 ∧
    (∀ r ∈ q.reads.flatMap Use.regs ++ (⟨q.h.u, q.d, q.n⟩ : Use).regs,
      r.fits c.task.granules = true ∧ r ∉ c.grp.pendRegs ∧ c.grp.pendTok r = false) ∧
    maskOf (fun j => c.lanes.contains j && (q.reads.flatMap Use.regs).any (fun r => c.grp.regBad r j)) = 0 ∧
    c.grp.regBad (.v 1) 0 = true := ⟨_, rfl, by decide +kernel⟩
/-- With one granule v31 exists and v32 does not. -/
abbrev stSmall : State := aState (fun t => { t with granules := 1 }) id
theorem witness_RegisterChecks_absent : ∃ q, moveCalc (.mov plain 32 31) = some q ∧ wf (.mov plain 32 31) = true ∧
    let c := ctx stSmall q.h q.len
    Issues stSmall c q.h q.len ∧ c.act ≠ 0 ∧
    (∃ r ∈ q.reads.flatMap Use.regs ++ (⟨q.h.u, q.d, q.n⟩ : Use).regs, r.fits c.task.granules = false) ∧
    (∀ r ∈ q.reads.flatMap Use.regs, r.fits c.task.granules = true) ∧ c.grp.trap = none ∧ hvec stSmall c.task.tenant ≠ 0 :=
  ⟨_, rfl, by decide +kernel⟩
/-- s4 is a pending token. -/
abbrev stTok : State := aState id (fun x => { x with toks := [4] })
theorem witness_RegisterChecks_token : ∃ q, moveCalc (.mov u1 0x1C4 0x1C0) = some q ∧ wf (.mov u1 0x1C4 0x1C0) = true ∧
    let c := ctx stTok q.h q.len
    Issues stTok c q.h q.len ∧ c.act ≠ 0 ∧
    (∀ r ∈ q.reads.flatMap Use.regs ++ (⟨q.h.u, q.d, q.n⟩ : Use).regs, r.fits c.task.granules = true) ∧
    (∃ r ∈ (⟨q.h.u, q.d, q.n⟩ : Use).regs, c.grp.pendTok r = true) ∧
    maskOf (fun j => c.lanes.contains j && (q.reads.flatMap Use.regs).any (fun r => c.grp.regBad r j)) = 0 ∧ c.grp.trap = none ∧
    hvec stTok c.task.tenant ≠ 0 :=
  ⟨_, rfl, by decide +kernel⟩
theorem witness_RegisterChecks_waits : ∃ q, moveCalc (.mov u1 0x1C0 0x1C4) = some q ∧ wf (.mov u1 0x1C0 0x1C4) = true ∧
    let c := ctx stTok q.h q.len
    Issues stTok c q.h q.len ∧ c.act ≠ 0 ∧
    (∀ r ∈ q.reads.flatMap Use.regs ++ (⟨q.h.u, q.d, q.n⟩ : Use).regs, r.fits c.task.granules = true) ∧
    (∀ r ∈ (⟨q.h.u, q.d, q.n⟩ : Use).regs, c.grp.pendTok r = false) ∧
    (∃ r ∈ q.reads.flatMap Use.regs ++ (⟨q.h.u, q.d, q.n⟩ : Use).regs,
      r ∈ c.grp.pendRegs ∨ (r ∈ q.reads.flatMap Use.regs ∧ c.grp.pendTok r = true)) :=
  ⟨_, rfl, by decide +kernel⟩
theorem witness_NopsAdvance : ∀ n ∈ [4, 8, 12, 16], Executes st0 (ctx st0 Hdr.plain n) Hdr.plain n [] := by decide +kernel
theorem witness_NopsAdvance_words : readInstr (leBytes 4 0x4B58F11C) = some .fillWord ∧ readInstr (leBytes 4 0x4B58F118) = none ∧
    readInstr (leBytes 8 0x39) = some .nop ∧ readInstr (leBytes 8 0x31) = none ∧ readInstr (leBytes 12 0x3A) = some .nop96 ∧
    readInstr (leBytes 12 (2 ^ 95 + 0x3A)) = none ∧ readInstr (leBytes 16 0x3B) = some .nop128 ∧
    0x31 % 4 = 1 ∧ 0x31 / 2 ^ 7 % 2 ^ 8 = 0 ∧ (2 ^ 95 + 0x3A) % 4 = 2 := by decide +kernel
theorem witness_Branches : ∃ q, jumpOf (.loopc plain 3 0xFFFFFFF0 200 40) = some q ∧
    Executes st0 (ctx st0 q.h 12) q.h 12 (q.reads ++ (if q.n = 0 then [] else [⟨q.h.u, q.d, q.n⟩])) ∧
    evOn st0 (ctx st0 q.h 12).task.tenant 1 (ctx st0 q.h 12).user = false := ⟨_, rfl, by decide +kernel⟩
/-- An indirect branch whose targets are all 0, a multiple of 4, and one whose lane 0 has an odd target. -/
theorem witness_Branches_indirect : ∃ q, jumpOf (.brx plain 2 0 0 0) = some q ∧
    Executes st0 (ctx st0 q.h 12) q.h 12 (q.reads ++ (if q.n = 0 then [] else [⟨q.h.u, q.d, q.n⟩])) ∧
    evOn st0 (ctx st0 q.h 12).task.tenant 1 (ctx st0 q.h 12).user = false ∧
    ∀ j, j < 32 → has (ctx st0 q.h 12).act j → (pairTarget (ctx st0 q.h 12) 2 0 j).toNat % 4 = 0 := ⟨_, rfl, by decide +kernel⟩
abbrev stOdd : State := aState id (vreg 2 0x4001)
theorem witness_Branches_misaligned :
    let c := ctx stOdd plain 12
    Executes stOdd c plain 12 [⟨false, 2, 2⟩] ∧ Executes stOdd c plain 12 [⟨false, 2, 2⟩, ⟨false, 4, 2⟩] ∧ c.grp.trap = none ∧
    hvec stOdd c.task.tenant ≠ 0 ∧
    maskOf (fun j => (if plain.u then j == lowest c.act else has c.act j) && (pairTarget c 2 0 j).toNat % 4 != 0) = 1 := by
  decide +kernel
theorem witness_PriorityAndYield :
    Executes st0 (ctx st0 plain 8) plain 8 [] ∧ evOn st0 (ctx st0 plain 8).task.tenant 1 (ctx st0 plain 8).user = false := by
  decide +kernel
/-- A bundle of lanes 0 to 15 beside one of lanes 16 to 31, and a bundle alone. -/
abbrev stSplit : State := aState id (fun x => { x with front := [Entry.new 1 0x1000 0xFFFF 9, Entry.new 2 0x2000 0xFFFF0000 0] })
theorem witness_Yield_another : let c := ctx stSplit plain 8
    Executes stSplit c plain 8 [] ∧ (∃ f ∈ c.grp.live, f.id ≠ c.ent.id ∧ f.eligible = true) ∧
    (∀ f ∈ c.grp.live, f.id ≠ c.ent.id → f.mask &&& c.act = 0) := by decide +kernel
theorem witness_Yield_alone : let c := ctx st0 plain 8
    Executes st0 c plain 8 [] ∧ c.grp.live = [c.ent] ∧ c.act = c.ent.mask := by decide +kernel
theorem witness_Exit_last : let c := ctx st0 plain 8
    Executes st0 c plain 8 [] ∧ (∀ o ∈ c.grp.oplog, o.act &&& c.act = 0) ∧ (tenant st0 0).samplers = [] ∧ c.grp.trap = none ∧
    (∀ e ∈ c.grp.front, e.mask &&& ~~~c.act = 0) ∧ ∀ o ∈ c.grp.oplog, o.resume = [] := by decide +kernel
theorem witness_Exit_some : let c := ctx stSplit plain 8
    Executes stSplit c plain 8 [] ∧ (∀ o ∈ c.grp.oplog, o.act &&& c.act = 0) ∧ (tenant stSplit 0).samplers = [] ∧
    c.grp.trap = none ∧ ¬ ∀ e ∈ c.grp.front, e.mask &&& ~~~c.act = 0 := by decide +kernel
/-- ?p0, set in lane 3 only. -/
abbrev stTrapP : State := aState id (fun x => { inTrap x with pr := [(0, 8)] })
theorem witness_Exit_handler : let c := ctx stTrapP none0 8
    Executes stTrapP c none0 8 [] ∧ (∀ o ∈ c.grp.oplog, o.act &&& c.act = 0) ∧
    ∃ m, c.grp.trap = some m ∧ ∃ e ∈ m.hfront, e.mask &&& ~~~c.act ≠ 0 :=
  ⟨by decide +kernel, by decide +kernel, _, rfl, by decide +kernel⟩
theorem witness_Return : let c := ctx stTrap plain 8
    Executes stTrap c plain 8 [] ∧ ∃ m, c.grp.trap = some m ∧ m.logged = none ∧ m.hfront = [c.ent] ∧ c.act = c.ent.mask :=
  ⟨by decide +kernel, _, rfl, by decide +kernel⟩
theorem witness_Traps : let c := ctx st0 plain 8
    Executes st0 c plain 8 [] ∧ Issues st0 (ctx st0 Hdr.plain 4) Hdr.plain 4 ∧ c.grp.trap = none ∧ hvec st0 c.task.tenant ≠ 0 := by
  decide +kernel
/-- A block in trap mode whose tenant holds blocks that trap (TRAPCTL.HOLD). -/
abbrev stTrapHold : State := csrSet stTrap 0 0x05A 1
theorem witness_Traps_double : let c := ctx stTrapHold plain 8
    Executes stTrapHold c plain 8 [] ∧ c.grp.trap ≠ none ∧ (csrGet stTrapHold c.task.tenant 0x05A).getLsbD 0 = true ∧
    Issues st0 (ctx st0 none0 8) none0 8 ∧ (ctx st0 none0 8).act = 0 := by decide +kernel
theorem test_double_trap : (match exec (.brk plain 7) stTrapHold with
    | .next t => (task t 0).map (·.run)
    | _ => none) = some (.held (some (0, 0x8000, 0xFFFFFFFF))) := by decide +kernel
theorem witness_Privilege : let c := ctx st0 plain 12
    Executes st0 c plain 12 [] ∧ Executes st0 c plain 12 (⟨false, 2, 2⟩ :: useB false (.imm 0) 1) ∧
    Executes st0 c plain 12 [⟨false, 1, 1⟩] ∧ c.grp.trap = none ∧ hvec st0 c.task.tenant ≠ 0 ∧
    (0x028 : BitVec 12).toNat = 0x028 ∧ csrOfGroup (0x020 : BitVec 12).toNat = false ∧
    ∃ k, csrMask (0x020 : BitVec 12).toNat = some k ∧ k ≠ 0 := by
  refine ⟨?_, ?_, ?_, ?_, ?_, ?_, ?_, _, rfl, ?_⟩ <;> decide +kernel
theorem witness_CsrRead : Executes st0 (ctx st0 plain 12) plain 12 [⟨false, 0, 1⟩] ∧
    csrOfGroup (0x026 : BitVec 12).toNat = true ∧ csrOfGroup (0x02C : BitVec 12).toNat = true ∧
    (csrOfGroup (0x020 : BitVec 12).toNat = false ∧ (csrMask (0x020 : BitVec 12).toNat).isSome ∧ csrTail (0x020 : BitVec 12).toNat = false) ∧
    (csrOfGroup (0xFFF : BitVec 12).toNat = false ∧ csrMask (0xFFF : BitVec 12).toNat = none ∧
      (ctx st0 plain 12).grp.trap = none ∧ hvec st0 (ctx st0 plain 12).task.tenant ≠ 0) := by decide +kernel
abbrev stTrapV : State := aState id (fun x => vreg 0 0xFFFF (inTrap x))
theorem witness_CsrWrite : let c := ctx stTrapV plain 12
    Executes stTrapV c plain 12 [⟨false, 0, 1⟩] ∧ c.grp.trap ≠ none ∧
    (∃ m, csrOfGroup (0x021 : BitVec 12).toNat = false ∧ csrMask (0x021 : BitVec 12).toNat = some m ∧ (m ≠ 0 ∨ csrClears 0x021 ≠ 0) ∧
      csrLocked stTrapV c.task.tenant 0x021 = false ∧ csrInRange 0x021 (c.ra 0 0 (lowest c.act)).toNat = true) := by
  refine ⟨?_, ?_, _, ?_, rfl, ?_⟩ <;> decide +kernel
theorem witness_CsrWrite_readOnly : ∃ n : BitVec 12, csrOfGroup n.toNat = false ∧ csrMask n.toNat = some 0 ∧ csrClears n.toNat = 0 :=
  ⟨0x046, by decide +kernel⟩
/-! ### Scratchpad -/

/-- Lanes 0 and 1, at scratchpad offsets 0 and 1016: the last double of 1 KiB. -/
abbrev stPad : State := aState id (fun x => { lanesAt 3 x with v := [(32 * 2 + 1, 1016)] })
theorem witness_ScratchLoad : let c := ctx stPad plain 8
    Executes stPad c plain (SrcB.lit 0).len ((⟨false, 2, 1⟩ :: useB false (.lit 0) 1) ++ [⟨false, 4, sizeRegs .b64⟩]) ∧
    (∀ i ∈ c.lanes, spAllowed c.task (spOffset c 2 (.lit 0) i) (sizeBytes .b64) false true) := by
  unfold spAllowed; decide +kernel
theorem witness_ScratchStore : let c := ctx stPad plain 8
    Executes stPad c plain (SrcB.lit 0).len (⟨false, 2, 1⟩ :: (useB false (.lit 0) 1 ++ useC false (.reg 6) (sizeRegs .b64))) ∧
    (∀ i ∈ c.lanes, spAllowed c.task (spOffset c 2 (.lit 0) i) (sizeBytes .b64) true false) := by
  unfold spAllowed; decide +kernel
theorem witness_ScratchAtomics : ∃ q, satomOf (.atoms plain 4 2 (.lit 0) (.reg 6) .addN64) = some q ∧
    let c := ctx stPad q.h q.len
    Executes stPad c q.h q.len (q.reads ++ (match q.d with
      | some d => [⟨q.h.u, d, q.n / 4⟩]
      | none => [])) ∧ (∀ j ∈ c.lanes, spAllowed c.task (q.at_ c j) q.n true true) := by
  refine ⟨_, rfl, ?_⟩; unfold spAllowed; decide +kernel
theorem witness_ScratchCas : ∃ q, satomOf (.atomscas plain 4 2 (.lit 0) 6 true) = some q ∧
    let c := ctx stPad q.h q.len
    Executes stPad c q.h q.len (q.reads ++ (match q.d with
      | some d => [⟨q.h.u, d, q.n / 4⟩]
      | none => [])) ∧ (∀ j ∈ c.lanes, spAllowed c.task (q.at_ c j) q.n true true) := by
  refine ⟨_, rfl, ?_⟩; unfold spAllowed; decide +kernel
/-- Lane 1 at 1020: misaligned for a double. -/
theorem witness_ScratchChecks_misaligned :
    let s := aState id (fun x => { lanesAt 3 x with v := [(32 * 2 + 1, 1020)] })
    let c := ctx s plain 8
    Executes s c plain (SrcB.lit 0).len ((⟨false, 2, 1⟩ :: useB false (.lit 0) 1) ++ [⟨false, 4, sizeRegs .b64⟩]) ∧
    c.grp.trap = none ∧ hvec s c.task.tenant ≠ 0 ∧
    maskOf (fun j => c.lanes.contains j && spOffset c 2 (.lit 0) j % (sizeBytes .b64 : Int) != 0) = 2 := by decide +kernel
theorem witness_ScratchChecks_bounds :
    let s := aState id (fun x => { lanesAt 3 x with v := [(32 * 2 + 1, 1024)] })
    let c := ctx s plain 8
    Executes s c plain (SrcB.lit 0).len (⟨false, 2, 1⟩ :: (useB false (.lit 0) 1 ++ useC false (.reg 6) (sizeRegs .b32))) ∧
    c.grp.trap = none ∧ hvec s c.task.tenant ≠ 0 ∧
    maskOf (fun j => c.lanes.contains j && spOffset c 2 (.lit 0) j % (sizeBytes .b32 : Int) != 0) = 0 ∧
    maskOf (fun j => c.lanes.contains j && (decide (spOffset c 2 (.lit 0) j < 0) ||
      decide ((c.task.scratchSize : Int) < spOffset c 2 (.lit 0) j + (sizeBytes .b32 : Int)))) = 2 := by decide +kernel
/-- Word 254 holds an uncorrectable error: lane 1 reads it, and a store of a double clears it. -/
theorem witness_ScratchChecks_error :
    let s := aState (fun t => { t with sbad := [254] }) (fun x => { lanesAt 3 x with v := [(32 * 2 + 1, 1016)] })
    let c := ctx s plain 8
    Executes s c plain (SrcB.lit 0).len ((⟨false, 2, 1⟩ :: useB false (.lit 0) 1) ++ [⟨false, 4, sizeRegs .b64⟩]) ∧
    c.grp.trap = none ∧ hvec s c.task.tenant ≠ 0 ∧ c.task.tds = [] ∧
    maskOf (fun j => c.lanes.contains j && spOffset c 2 (.lit 0) j % (sizeBytes .b64 : Int) != 0) = 0 ∧
    maskOf (fun j => c.lanes.contains j && (decide (spOffset c 2 (.lit 0) j < 0) ||
      decide ((c.task.scratchSize : Int) < spOffset c 2 (.lit 0) j + (sizeBytes .b64 : Int)))) = 0 ∧
    maskOf (fun j => c.lanes.contains j && c.task.sbad.any (fun w =>
      decide (spOffset c 2 (.lit 0) j < 4 * (w : Int) + 4) && decide (4 * (w : Int) < spOffset c 2 (.lit 0) j + 8))) = 2 ∧
    Executes s c plain (SrcB.lit 0).len (⟨false, 2, 1⟩ :: (useB false (.lit 0) 1 ++ useC false (.reg 6) (sizeRegs .b64))) ∧
    (∀ i ∈ c.lanes, spAllowed c.task (spOffset c 2 (.lit 0) i) (sizeBytes .b64) true false) := by
  unfold spAllowed; decide +kernel

/-! ### Global memory -/

/-- A table of tenant 0 at 0x100000 that maps the first GiB to itself with key 1, readable, writable and executable, A and D set. -/
def paged (s : State) : State :=
  let s1 := csrSet (csrSet (fregSet s 0 0x40004 0xC0) 0 0x040 0x100000) 0 0x041 0x01000000
  { s1 with mem := [(0x100000, 0x01), (0x100001, 0x20), (0x100002, 0x10), (0x102000, 0x01), (0x102001, 0x40), (0x102002, 0x10),
                    (0x104000, 0x7F), (0x104001, 0x03), (0x10400B, 0x10)],
            ukey := [(0x10000, 0), (0x10200, 0), (0x10400, 0)] }
/-- Lanes 0 and 1 at virtual addresses 0x20000 and 0x2007C: the first and the last word of a line. -/
abbrev gl (x : Group) : Group := { lanesAt 3 x with v := [(64, 0x20000), (65, 0x2007C)] }
abbrev stMem : State := paged (aState id gl)
/-- The accesses that go on, of a check of lanes. -/
def went (r : State × List (LaneAcc × LaneOut)) : List LaneAcc :=
  r.2.filterMap (fun p => match p.2 with
    | .go la => some la
    | _ => none)
theorem paged_wf : Memory.wf stMem.mem = true := by decide +kernel
theorem witness_LoadsIssue : ∃ q, loadOf (.ld plain 4 2 (.lit 0) .b32 false false) = some q ∧
    let c := ctx stMem q.h q.len
    let r := lanesCheck stMem c.task c.user q.op (q.accs c)
    Executes stMem c q.h q.len (q.reads ++ q.writes) ∧ Quiet c.grp ∧ Granted stMem c q.op (q.accs c) r.1 (went r) ∧
    ∀ la ∈ went r, mapHolds stMem la.pa = false ∧ la.ordsh = false := by
  refine ⟨_, rfl, ?_⟩; unfold Quiet Granted; decide +kernel
theorem witness_LoadsIssue_elements : ∃ q, loadOf (.ldx plain 4 2 (.lit 0) (.lit 31) .ts4 .b64) = some q ∧
    let c := ctx stMem q.h q.len
    Executes stMem c q.h q.len (q.reads ++ q.writes) ∧ Quiet c.grp := by
  refine ⟨_, rfl, ?_⟩; unfold Quiet; decide +kernel
theorem witness_StoresIssue : ∃ q, storeOf (.st plain 2 (.lit 0) (.reg 4) .b32 true) = some q ∧ opAtPort q.op = false ∧
    let c := ctx stMem q.h q.len
    let r := lanesCheck stMem c.task c.user q.op (q.accs c)
    Executes stMem c q.h q.len q.reads ∧ Quiet c.grp ∧ Granted stMem c q.op (q.accs c) r.1 (went r) ∧
    (∀ la ∈ went r, la.ordsh = false ∧ la.port = true ∧ mapHolds stMem la.pa = false) ∧ (Machine.core r.1 c.task.core).l1 = [] ∧
    (went r).length ≤ l1Lines ∧ (∀ la ∈ went r, la.pa % lineBytes + opBytes q.op ≤ lineBytes) := by
  refine ⟨_, rfl, ?_⟩; unfold Quiet Granted; decide +kernel
theorem witness_AtomicsAtThePort : ∃ q, atomicOf (.atom plain 4 2 (.lit 0) (.reg 6) .addN32 .package .ar) = some q ∧
    let c := ctx stMem q.h q.len
    let r := lanesCheck stMem c.task c.user q.op (q.accs c)
    Executes stMem c q.h q.len (q.reads ++ q.writes) ∧ Quiet c.grp ∧ Granted stMem c q.op (q.accs c) r.1 (went r) ∧
    (∀ la ∈ went r, la.key = 1 ∧ mapHolds stMem la.pa = false ∧ ∀ j, j < opBytes q.op → blockBad r.1 (la.pa + j) = false) ∧
    (∀ la ∈ went r, la.ordsh = false) ∧
    relReady (relAct stMem c.task.core (opOrder q.op).1) c (opOrder q.op).1 = true ∧
    portReady (atPorts r.1 c q.op (went r)) c.task.core (went r) = true := by
  refine ⟨_, rfl, ?_⟩; unfold Quiet Granted; decide +kernel
theorem witness_AtomicsAtThePort_reddet : ∃ q, atomicOf (.reddet plain 2 (.lit 0) (.reg 6) .addF32) = some q ∧
    detLaunch stMem (ctx stMem q.h q.len).task = none := ⟨_, rfl, by decide +kernel⟩
/-- The first GiB holds sheets of MXFP4 with 32-element blocks. -/
def sheets (s : State) (w1 : List Cell) : State := { s with mem := s.mem.filter (fun c => c.1 < 0x104008) ++ w1 }
theorem witness_FormattedStores : ∃ q, storeOf (.stx plain 2 (.lit 0) 4 (.reg 5) .mxfp4 .b32 false) = some q ∧
    let s := sheets (paged (aState id (fun x => { lanesAt 3 x with v := [(64, 0x20000), (65, 0x20000), (129, 31)] })))
      [(0x10400A, 0x2B), (0x10400B, 0x10)]
    let c := ctx s q.h q.len
    let r := lanesCheck s c.task c.user q.op (q.accs c)
    (blockFmt .mxfp4 = true ∨ elemBits .mxfp4 = 4) ∧ Executes s c q.h q.len q.reads ∧ Quiet c.grp ∧
    Granted s c q.op (q.accs c) r.1 (went r) ∧
    (∀ la ∈ went r, la.key = 1 ∧ ∀ j, j < elemBytes .mxfp4 → blockBad r.1 (la.pa + j) = false) ∧ r.1.bad = [] ∧
    (∀ la ∈ went r, la.ordsh = false ∧ mapHolds s la.pa = false) ∧
    opReady (flushLanes r.1 c.task.core q.op (went r)) c.task.core q.op (went r) = true := by
  refine ⟨_, rfl, ?_⟩; unfold Quiet Granted; decide +kernel
theorem witness_Misaligned : ∃ q, loadOf (.ld plain 4 2 (.lit 0) .b64 false false) = some q ∧
    let c := ctx stMem q.h q.len
    Executes stMem c q.h q.len (q.reads ++ q.writes) ∧ Quiet c.grp ∧ c.grp.trap = none ∧ hvec stMem c.task.tenant ≠ 0 ∧
    ((q.accs c).filter (fun la => la.base % opAlign q.op != 0)).map (·.lane) = [1] := by
  refine ⟨_, rfl, ?_⟩; unfold Quiet; decide +kernel
theorem witness_Prefetch :
    Executes stMem (ctx stMem plain 8) plain (SrcB.lit 0).len (⟨false, 2, 2⟩ :: useB false (.lit 0) 1) ∧
    (Machine.core stMem 0).l1 = [] ∧ (ctx stMem plain 8).lanes.length ≤ l1Lines := by decide +kernel
/-- The place and the leaf of an access that is allowed. -/
def okAt : Acc → Option (Nat × Xl)
  | .ok pa x => some (pa, x)
  | _ => none
theorem ok_of {a : Acc} {pa : Nat} {x : Xl} (h : okAt a = some (pa, x)) : a = .ok pa x := by
  cases a <;> simp_all [okAt]
abbrev leafAll : Xl := ⟨0x37F, 0x10000000, 0x104000, 2 ^ 30, false, false⟩
theorem witness_AccessPermissions :
    (Machine.access stMem (.core 0) 0 0x100000 0x20000 ⟨true, true, true, true⟩).2 = .ok 0x20000 leafAll ∧ leafAll.host = false :=
  ⟨ok_of (by decide +kernel), rfl⟩
/-- A lane's translated access at a place under key 1. -/
def laneAt (lane pa : Nat) (data : List Word) : LaneAcc := ⟨lane, pa, pa, 0, data, pa, 1, false, false, false, false⟩
/-- An outstanding load of two lanes whose data may return, and an atomic with its old values. -/
abbrev ldRec : LoadRec := ⟨.load 4 false .b32 false false false, 3, [laneAt 0 0x20000 [], laneAt 1 0x2007C []], []⟩
abbrev atRec : LoadRec := ⟨.atom 4 false .addN32 .group .relaxed, 1, [laneAt 0 0x20000 [1]], [(0, [7])]⟩
abbrev lxRec : LoadRec := ⟨.loadx 4 false .mxfp4 .b32, 1, [laneAt 0 0x20000 []], []⟩
abbrev stLd (l : LoadRec) : State := paged (aState id (fun x => { x with loads := [(5, l)] }))
theorem witness_LoadDataReturns : ∀ l ∈ [ldRec, atRec, lxRec], ∃ t x0, task (stLd l) 0 = some t ∧ mget t.groups 0 = some x0 ∧
    mget x0.loads 5 = some l ∧ loadReady (stLd l) t x0 5 l = true ∧
    (∀ p ∈ x0.passed, p.2 ≤ 5) ∧ (∀ la ∈ l.lanes, ∀ ln ∈ loadLines l.op la, Uncached (stLd l) t l.op la ln) ∧
    (∀ la ∈ l.lanes, la.lane < 32 ∧ la.pa % 128 + opBytes l.op ≤ 128) := by
  intro l hl
  simp only [List.mem_cons, List.not_mem_nil, or_false] at hl
  unfold Uncached
  rcases hl with rfl | rfl | rfl <;> exact ⟨_, _, rfl, rfl, by decide +kernel⟩
theorem witness_LoadDataReturns_atomic : ∀ la ∈ atRec.lanes, ∃ ws,
    (atRec.vals.find? (fun p => p.1 == la.lane)) = some (la.lane, ws) ∧ ws.length = aopRegs .addN32 := by
  intro la h; simp at h; subst h; exact ⟨[7], by decide +kernel⟩

/-! ### The memory system's events -/

/-- A write on its way: one byte of the line of 0x20000. -/
abbrev aWr (id seqno : Nat) (stamp : List Nat) : Wr := ⟨id, 0, seqno, stamp, 0x400, [(0x20000, 0xAB)], 1, none, 0, [], []⟩
theorem witness_WriteApplied : let s := { st0 with wq := [aWr 3 1 [0, 0, 0, 0]] }
    s.wq.find? (fun v => v.id == 3) = some (aWr 3 1 [0, 0, 0, 0]) ∧ mapOk (aWr 3 1 [0, 0, 0, 0]).bytes = true ∧
    (applicable s (aWr 3 1 [0, 0, 0, 0]) && !retraining s (lineBytes * 0x400)) = true := by decide +kernel
theorem witness_WriteHeld : let s := { st0 with wq := [aWr 3 2 [1, 0, 0, 0], aWr 4 1 [0, 0, 0, 0]] }
    s.wq.find? (fun v => v.id == 3) = some (aWr 3 2 [1, 0, 0, 0]) ∧ mapOk (aWr 3 2 [1, 0, 0, 0]).bytes = true ∧
    applicable s (aWr 3 2 [1, 0, 0, 0]) = false := by decide +kernel
theorem witness_FarlineUpdate : let s := setDie st0 1 { Die.reset with farq := [⟨0x400, [(0x20000, 1)], 1, [0, 0, 0, 0], 0⟩] }
    (die s 1).farq = ⟨0x400, [(0x20000, 1)], 1, [0, 0, 0, 0], 0⟩ :: [] := by decide +kernel
/-- Core 0 holds a written line and an unwritten one, and a line in its constant cache. -/
abbrev stL1 : State := setCore st0 0 { Machine.Core.reset with
  l1 := [(256 * 0x400 + 1, ⟨[], [(0x20000, 1)], 0, 0, 1, 0, [], [0, 0, 0, 0], []⟩),
         (256 * 0x401 + 1, ⟨List.replicate 128 0, [], 0, 0, 1, 0, [], [0, 0, 0, 0], []⟩)],
  cc := [(256 * 0x402 + 1, ⟨List.replicate 128 0, [0, 0, 0, 0], 0⟩)] }
theorem witness_L1AndConstant : mapOk (Machine.core stL1 0).l1 = true ∧
    (Machine.core stL1 0).l1.filter (fun p => p.1 / 256 == 0x400 && !p.2.dirty.isEmpty) ≠ [] ∧
    (∃ p ∈ (Machine.core stL1 0).l1, p.1 / 256 = 0x401 ∧ p.2.dirty = []) ∧ (∃ p ∈ (Machine.core stL1 0).cc, p.1 / 256 = 0x402) := by
  decide +kernel

/-- A DET launch of three blocks, of which block 0 is running as task 0. -/
abbrev detRec : TaskRec := { TaskRec.blank with det := true, blocks := 3 }
abbrev detL : Launch := ⟨detRec, 0, 0, 3, none, [], [], 0, 0, [], [], false⟩
abbrev withL (l : Launch) (s : State) : State := modTenant s 0 (fun x => { x with launches := [(1, l)] })
abbrev stDet : State := withL detL stMem
theorem witness_ReddetIssues :
    let c := ctx stDet plain 8
    let op := MemOp.reddet .addF32 c.grp.seq.toNat
    let accs := plainAccs 2 (.lit 0) (fun c i => c.aopData .addF32 (.reg 6) i) c
    let r := lanesCheck stDet c.task c.user op accs
    Executes stDet c plain (SrcB.lit 0).len (⟨false, 2, 2⟩ :: (useB false (.lit 0) 1 ++ useC false (.reg 6) (aopRegs .addF32))) ∧
    Quiet c.grp ∧ (detLaunch stDet c.task).isSome = true ∧ Granted stDet c op accs r.1 (went r) ∧
    (∀ la ∈ went r, mapHolds stDet la.pa = false) ∧
    opReady (flushLanes r.1 c.task.core op (went r)) c.task.core op (went r) = true := by
  unfold Quiet Granted; decide +kernel
theorem witness_Redmark : Executes st0 (ctx st0 plain 8) plain 8 [] := by decide +kernel
/-- Accepted and unaccepted reductions of block 0. -/
abbrev aRed (order : Nat) (acc : Bool) : RedOp :=
  ⟨0, 1, 0, 0, 0, 0, order, 0x20000, 0x20000, 1, .addF32, 0x3F800000, acc, 0, none, []⟩
theorem witness_ReddetAccept : let s := { stDet with reds := [aRed 7 false] }
    s.reds.find? (fun q => q.order == (aRed 7 false).order && !q.accepted) = some (aRed 7 false) ∧
    (∀ q ∈ s.reds, q.owner = (aRed 7 false).owner → q.accepted = false → q.pa = (aRed 7 false).pa → (aRed 7 false).order ≤ q.order) ∧
    spillHolds s ((aRed 7 false).pa / lineBytes) = false ∧ (aRed 7 false).owner = none ∧
    s.reds.countP (fun q => decide (q.pa / lineBytes = (aRed 7 false).pa / lineBytes)) ≤ 16 := by decide +kernel
/-- Its three blocks are over, and blocks 0 and 2 have retired already, or none has. -/
theorem witness_BlockRetire : ∀ r ∈ [[], [0], [0, 2]], ∃ b, let l := { detL with retired := r, horizon := r.length.min 1, token := r.length.min 1 }
    let s := { withL l stMem with tasks := [] }
    mget (tenant s 0).launches 1 = some l ∧ l.trec.det = true ∧ l.aborted = false ∧ b < l.trec.blocks ∧
    blockOver s 0 1 l b = true ∧ (∀ k, k < b → blockOver s 0 1 l k = false) := by
  intro r hr
  simp only [List.mem_cons, List.not_mem_nil, or_false] at hr
  rcases hr with rfl | rfl | rfl
  · exact ⟨0, by decide +kernel⟩
  · exact ⟨1, by decide +kernel⟩
  · exact ⟨1, by decide +kernel⟩
theorem witness_HorizonApply : let l := { detL with horizon := 1, retired := [0] }
    let s := { withL l stMem with reds := [aRed 7 true] }
    mget (tenant s 0).launches 1 = some l ∧ l.aborted = false ∧ l.ends = [] ∧ redsReady s 0 1 l = [aRed 7 true] ∧
    (∀ r ∈ redsReady s 0 1 l, r.keyid = 1 ∧ ∀ j, j < 4 → blockBad s (r.pa + j) = false) := by decide +kernel
/-! ### Synchronisation -/

theorem witness_Fence : let c := ctx st0 plain 8
    Executes st0 c plain 8 [] ∧ Quiet c.grp ∧ Drained st0 c.task.core := by unfold Quiet Drained; decide +kernel
/-- One outstanding load: `wait` on 1 load goes on and on 0 loads stalls. -/
abbrev stOne : State := aState id (fun x => { x with loads := [(5, ldRec)] })
theorem witness_Wait : let c := ctx stOne plain 12
    Executes stOne c plain 12 [] ∧
    (c.grp.loads.map (·.1) ++ (c.grp.oplog.filter (fun o => opCountsLd o.op)).map (·.id)).dedup.length = 1 ∧
    (c.grp.stores.map (·.1) ++ (c.grp.oplog.filter (fun o => !opCountsLd o.op)).map (·.id)).dedup.length = 0 := by
  decide +kernel
theorem witness_Token_free : let c := ctx st0 plain 8
    Executes st0 c plain 8 [] ∧ Quiet c.grp ∧ detLaunch st0 c.task = none := by unfold Quiet; decide +kernel
/-- Block 0 holds the token; its token has passed; and, as block 1, it waits for it. -/
theorem witness_Token_holds : let s := withL detL st0
    let c := ctx s plain 8
    Executes s c plain 8 [] ∧ Quiet c.grp ∧ detLaunch s c.task = some detL ∧ detL.token = c.task.blk ∧ Drained s c.task.core ∧
    blockTasks s c.task.tenant c.task.launch c.task.blk = [c.task] ∧ ∀ q ∈ c.task.groups, Quiet q.2 := by
  unfold Quiet Drained; decide +kernel
theorem witness_Token_passed : let s := withL { detL with token := 1 } st0
    let c := ctx s plain 8
    Executes s c plain 8 [] ∧ Quiet c.grp ∧ detLaunch s c.task = some { detL with token := 1 } ∧ c.task.blk < 1 ∧
    c.grp.trap = none ∧ hvec s c.task.tenant ≠ 0 := by unfold Quiet; decide +kernel
theorem witness_Token_before : let s := withL detL (aState (fun t => { t with blk := 1 }) id)
    let c := ctx s plain 8
    Executes s c plain 8 [] ∧ Quiet c.grp ∧ detLaunch s c.task = some detL ∧ detL.token < c.task.blk ∧
    c.grp.trap = none ∧ hvec s c.task.tenant ≠ 0 := by unfold Quiet; decide +kernel
theorem witness_ReadTail : Executes st0 (ctx st0 plain 12) plain 12 [⟨false, 4, 1⟩] ∧ Quiet (ctx st0 plain 12).grp ∧
    (0x059 : BitVec 12).toNat ∈ [0x059, 0x07C, 0x084, 0x08C] := by unfold Quiet; decide +kernel
theorem witness_Tlbinv : let c := ctx stTrap plain 12
    Executes stTrap c plain 12 [] ∧ Executes stTrap c plain 12 (⟨false, 2, 2⟩ :: useB false (.imm 0x1000) 1) ∧ Quiet c.grp ∧
    address c 2 (.imm 0x1000) (lowest c.act) < 2 ^ 57 ∧ c.grp.trap ≠ none ∧ stTrap.wq = [] ∧ stTrap.reds = [] ∧ stTrap.cores = [] ∧
    (∀ p ∈ stTrap.tasks, ∀ q ∈ p.2.groups, q.2.loads = []) := by unfold Quiet; decide +kernel
/-- Lane 0's pair names an address from 2^57 on. -/
theorem witness_Tlbinv_high : let s := aState id (fun x => vreg 3 0x02000000 (inTrap x))
    let c := ctx s plain 12
    Executes s c plain 12 (⟨false, 2, 2⟩ :: useB false (.imm 0) 1) ∧ c.grp.trap ≠ none ∧
    2 ^ 57 ≤ address c 2 (.imm 0) (lowest c.act) := by decide +kernel
theorem witness_Stop : let c := ctx st0 plain 8
    Executes st0 c plain 8 [] ∧ (csrGet st0 c.task.tenant 0x060).getLsbD 0 = false := by decide +kernel
theorem witness_Stop_debug : let s := csrSet st0 0 0x060 1
    let c := ctx s plain 8
    Executes s c plain 8 [] ∧ (csrGet s c.task.tenant 0x060).getLsbD 0 = true ∧ c.task.stopReq = none := by decide +kernel
theorem witness_Smark : let c := ctx st0 plain 8
    Executes st0 c plain 8 [⟨false, 1, 1⟩] ∧ evOn st0 c.task.tenant 5 c.user = false := by decide +kernel

/-- The last 16 bytes of the scratchpad for barrier 3. -/
theorem witness_Binit : let c := ctx st0 plain 12
    let o := spOffset c 2 (.imm 1008) (lowest c.act)
    Executes st0 c plain (SrcB.imm 1008).len (⟨false, 2, 1⟩ :: useB false (.imm 1008) 1) ∧ 0 ≤ o ∧ o % 16 = 0 ∧
    o + 16 ≤ c.task.scratchSize ∧ c.task.tds = [] ∧ c.task.tags = [] ∧ mget c.task.bars 3 = none := by decide +kernel
/-- Barrier 3 bound at 1008, fresh, or with one arrival of 64 counted. -/
abbrev barAt (m : List (Nat × Byte)) (t : Task) : Task :=
  { t with bars := [(3, 1008)], scratch := m, tags := [(252, .bar 3), (253, .bar 3), (254, .bar 3), (255, .bar 3)] }
abbrev half64 : List (Nat × Byte) := [(1008, 64), (1012, 32), (1014, 2)]
theorem witness_Arrive : let s := aState (barAt []) id
    let c := ctx s plain 8
    mget c.task.bars 3 = some 1008 ∧ Quiet c.grp ∧ NoBarrierEvents s c ∧
    mayArrive c.task 1008 (c.b (.lit 32) (lowest c.act)).toNat (lanesOf c.act).length ∧ spSound c.task 1008 16 ∧
    Executes s c plain 8 (useB false (.lit 32) 1 ++ [⟨false, 4, 1⟩]) ∧ Executes s c plain 8 (useB false (.lit 32) 1) := by
  unfold Quiet NoBarrierEvents mayArrive; decide +kernel
theorem witness_Arrive_last : let s := aState (barAt half64) id
    let c := ctx s plain 8
    mget c.task.bars 3 = some 1008 ∧ Quiet c.grp ∧ NoBarrierEvents s c ∧
    mayArrive c.task 1008 (c.b (.lit 64) (lowest c.act)).toNat (lanesOf c.act).length ∧ spSound c.task 1008 16 ∧
    fieldAt c.task 1008 16 32 16 + (lanesOf c.act).length = (c.b (.lit 64) (lowest c.act)).toNat := by
  unfold Quiet NoBarrierEvents mayArrive; decide +kernel
theorem witness_Arrive_wrong : let s := aState (barAt half64) id
    let c := ctx s plain 8
    mget c.task.bars 3 = some 1008 ∧ c.grp.trap = none ∧ hvec s c.task.tenant ≠ 0 ∧ Quiet c.grp ∧
    ¬ mayArrive c.task 1008 (c.b (.lit 32) (lowest c.act)).toNat (lanesOf c.act).length ∧ spSound c.task 1008 16 ∧
    Executes s c plain 8 (useB false (.lit 32) 1 ++ [⟨false, 4, 1⟩]) ∧ Executes s c plain 8 (useB false (.lit 32) 1) := by
  unfold Quiet mayArrive; decide +kernel
/-- Barrier 4 is not bound, and a word of barrier 3 holds an uncorrectable error. -/
theorem witness_Arrive_unbound_and_error : let s := aState (fun t => barAt half64 { t with sbad := [253] }) id
    let c := ctx s plain 8
    c.grp.trap = none ∧ hvec s c.task.tenant ≠ 0 ∧ Quiet c.grp ∧ mget c.task.bars 4 = none ∧ mget c.task.bars 3 = some 1008 ∧
    ¬ spSound c.task 1008 16 ∧ Executes s c plain 8 (useB false (.lit 32) 1 ++ [⟨false, 4, 1⟩]) ∧
    Executes s c plain 8 (useB false (.lit 32) 1) ∧ Executes s c plain 8 [⟨false, 1, 1⟩] := by
  unfold Quiet; decide +kernel
/-- The barrier's phase is 0: a wait for phase 0 blocks, one for phase 7 goes on. -/
theorem witness_Barwait : let s := aState (barAt half64) (vreg 2 7)
    let c := ctx s plain 8
    Executes s c plain 8 [⟨false, 1, 1⟩] ∧ mget c.task.bars 3 = some 1008 ∧ spSound c.task 1008 16 ∧ Quiet c.grp ∧
    fieldAt c.task 1008 16 16 16 = (c.ra 1 0 (lowest c.act)).toNat % 2 ^ 16 ∧
    fieldAt c.task 1008 16 16 16 ≠ (c.ra 2 0 (lowest c.act)).toNat % 2 ^ 16 := by unfold Quiet; decide +kernel

theorem witness_Qinit : let c := ctx st0 plain 16
    let o := spOffset c 2 (.imm 0) (lowest c.act)
    Executes st0 c plain 16 [⟨false, 2, 1⟩] ∧ 0 ≤ o ∧ o % 32 = 0 ∧
    o + (32 + (62 : BitVec 13).toNat * (4 * 2 ^ (2 : BitVec 2).toNat)) = c.task.scratchSize ∧ 1 ≤ (62 : BitVec 13).toNat ∧
    (62 : BitVec 13).toNat ≤ 4096 ∧ c.task.tds = [] ∧ c.task.tags = [] ∧ mget c.task.queues 5 = none := by decide +kernel
/-- A queue that is not bound. -/
theorem witness_Queue_unbound : let c := ctx st0 plain 8
    mget c.task.queues 5 = none ∧ Executes st0 c plain 8 [⟨false, 8, 1⟩] ∧ c.grp.trap = none ∧ hvec st0 c.task.tenant ≠ 0 := by
  decide +kernel
/-- Queue 5 at 0 with 48 entries of 8 bytes, and n of them used. -/
abbrev queueAt (n : Byte) (t : Task) : Task := { t with queues := [(5, 0)], scratch := [(4, n), (8, 48), (10, 0x40)] }
abbrev stQueue (n : Byte) : State := aState (queueAt n) id
theorem noQueueWaits_of {t : Task} (q : Nat) (h : taskWaits t = []) : NoQueueWaits t q := by
  intro x hx; rw [h] at hx; exact absurd hx List.not_mem_nil
/-- 16 used of 48: a push of 32 fits; 17 used: it does not; a pop of 32 finds 32 and does not find them among 17. -/
theorem witness_PushAndPop : ∀ n ∈ [(1 : Byte), 16, 17, 32], let c := ctx (stQueue n) plain 8
    QueueAt c.task 5 0 c.lanes.length ∧ QueueAt c.task 5 0 0 ∧ Executes (stQueue n) c plain 8 [⟨false, 8, qBytesOf c.task 0 / 4⟩] ∧
    Quiet c.grp ∧ NoQueueWaits c.task 5 ∧ c.lanes.length = 32 ∧ qEntriesOf c.task 0 = 48 ∧ qAllowOf c.task 0 = 0 ∧
    qTailOf c.task 0 - qHeadOf c.task 0 = n.toNat := by
  intro n hn
  simp only [List.mem_cons, List.not_mem_nil, or_false] at hn
  unfold QueueAt Quiet
  rcases hn with rfl | rfl | rfl | rfl <;>
    and_intros <;> first | exact noQueueWaits_of 5 (by decide +kernel) | decide +kernel
/-- Four entries: a push of 32 can never be made. -/
theorem witness_Push_never : let s := aState (fun t => { t with queues := [(5, 0)], scratch := [(8, 4), (10, 0x40)] }) id
    let c := ctx s plain 8
    QueueAt c.task 5 0 c.lanes.length ∧ Executes s c plain 8 [⟨false, 8, qBytesOf c.task 0 / 4⟩] ∧ Quiet c.grp ∧
    NoQueueWaits c.task 5 ∧ qEntriesOf c.task 0 < c.lanes.length ∧ c.grp.trap = none ∧ hvec s c.task.tenant ≠ 0 := by
  unfold QueueAt Quiet
  and_intros <;> first | exact noQueueWaits_of 5 (by decide +kernel) | decide +kernel

/-- The access of the one lane of a chain, checked. -/
def chained (op : MemOp) : LaneAcc :=
  (went (lanesCheck stMem (ctx stMem plain 8).task true op [laneAcc 0 0x20000 0x20000 0 []])).headD (laneAt 0 0 [])
theorem witness_ChainPass : let c := ctx stMem plain 8
    let va := address c 2 (.lit 0) (lowest c.act)
    let r := laneCheck stMem c.task c.user (.store .b32 true) (laneAcc (lowest c.act) va va 0 [])
    Executes stMem c plain (SrcB.lit 0).len (⟨false, 2, 2⟩ :: (useB false (.lit 0) 1 ++ useC false (.reg 6) 1)) ∧ Quiet c.grp ∧
    Drained stMem c.task.core ∧ (∃ la, (r = (r.1, .go la) ∧ la.ordsh = false) ∧ mapHolds r.1 la.pa = false) ∧
    (Machine.core r.1 c.task.core).l1 = [] ∧ detLaunch stMem c.task = none := by
  unfold Quiet Drained
  and_intros <;> first | exact ⟨chained (.store .b32 true), by decide +kernel⟩ | decide +kernel
/-- The same in a DET launch whose block has one task. -/
theorem witness_ChainPass_det : let c := ctx stDet plain 8
    let va := address c 2 (.lit 0) (lowest c.act)
    let r := laneCheck stDet c.task c.user (.store .b32 true) (laneAcc (lowest c.act) va va 0 [])
    Executes stDet c plain (SrcB.lit 0).len (⟨false, 2, 2⟩ :: (useB false (.lit 0) 1 ++ useC false (.reg 6) 1)) ∧ Quiet c.grp ∧
    Drained stDet c.task.core ∧ r.2 = (laneCheck stMem (ctx stMem plain 8).task c.user (.store .b32 true) (laneAcc 0 va va 0 [])).2 ∧
    detLaunch stDet c.task = some detL ∧ blockTasks stDet c.task.tenant c.task.launch c.task.blk = [c.task] ∧
    ∀ q ∈ c.task.groups, Quiet q.2 := by
  unfold Quiet Drained; decide +kernel
theorem witness_ChainWait : let c := ctx stMem plain 8
    let va := address c 2 (.lit 0) (lowest c.act)
    let r := laneCheck stMem c.task c.user (.load 0 false .b32 false true false) (laneAcc (lowest c.act) va va 0 [])
    Executes stMem c plain (SrcB.lit 0).len (⟨false, 2, 2⟩ :: (useB false (.lit 0) 1 ++ useC false (.reg 6) 1)) ∧ Quiet c.grp ∧
    Drained stMem c.task.core ∧ (∃ la, (r = (r.1, .go la) ∧ la.ordsh = false) ∧ (la.pa % 128 + 4 ≤ 128 ∧ mapHolds r.1 la.pa = false)) ∧
    redsDue r.1 (0x20000 / lineBytes) = false ∧ (Machine.core r.1 c.task.core).l1 = [] ∧ c.c (.reg 6) (lowest c.act) = BitVec.ofNat 32 (numAt r.1 1 0x20000 4) ∧
    c.c (.lit 5) (lowest c.act) ≠ BitVec.ofNat 32 (numAt r.1 1 0x20000 4) := by
  unfold Quiet Drained
  and_intros <;> first | exact ⟨chained (.load 0 false .b32 false true false), by decide +kernel⟩ | decide +kernel
/-! ### Engines -/

/-- The state and the granules of a plan that goes on. -/
def gone (p : EngPlan) : State × List LaneAcc :=
  match p with
  | .go s las => (s, las)
  | _ => (st0, [])

/-- A tile of 128 chunks is the largest; 1 KiB of scratchpad takes two, in rows of 64 FP16 elements. -/
theorem witness_Tdesc : let c := ctx st0 plain 16
    Executes st0 c plain 16 [⟨false, 0, 1⟩] ∧ tdescBad c.task 5 (c.ra 0 0 (lowest c.act)).toNat 2 2 0 128 8 64 = false := by
  decide +kernel
theorem witness_Tdesc_bad : let c := ctx st0 plain 16
    Executes st0 c plain 16 [⟨false, 0, 1⟩] ∧ tdescBad c.task 5 (c.ra 0 0 (lowest c.act)).toNat 3 2 0 128 8 64 = true ∧ c.grp.trap = none ∧
    hvec st0 c.task.tenant ≠ 0 := by decide +kernel
/-- Tile 5: two chunks at 0, 8 rows of 64 FP16 elements, owned by the threads; or with chunk 1 read by an engine. -/
abbrev aTile : Tile := ⟨0, 1024, .fp16, .none, 128, 8, 64, 3, []⟩
abbrev busyTile : Tile := { aTile with rcnt := [(1, 1)] }
abbrev stTile (x : Tile) (f : Task → Task) (g : Group → Group) : State := aState (fun t => f { t with tds := [(5, x)] }) g
theorem witness_Tfree : let s := stTile aTile id id
    let c := ctx s plain 8
    mget c.task.tds 5 = some aTile ∧ Executes s c plain 8 [] ∧ IdleTile aTile (List.range (aTile.len / 512)) := by
  unfold IdleTile; decide +kernel
theorem witness_Chkwait : let s := stTile busyTile id id
    let c := ctx s plain 12
    mget c.task.tds 5 = some busyTile ∧ Executes s c plain 12 [] ∧ IdleTile busyTile (namedChunks busyTile 1 0) ∧
    ¬ IdleTile busyTile (namedChunks busyTile 3 0) ∧ ¬ IdleTile busyTile (namedChunks busyTile 1 1) := by
  unfold IdleTile; decide +kernel
/-- A tensor record at 0x20000: base 0x30000, 4 rows and 32 columns, row stride 32; its page holds FP16. -/
abbrev stTrec : State :=
  let s := sheets (paged (aState id gl)) [(0x10400A, 0x02), (0x10400B, 0x10)]
  { s with mem := ((List.range 64).foldl (fun m i =>
      putByte m (0x20000 + i) (BitVec.ofNat 8 ((2 ^ 455 * 0x30000 + 2 ^ 416 * 4 + 2 ^ 384 * 32 + 2 ^ 352 * 32) / 256 ^ i))) s.mem),
           ukey := [(0x2000, 0), (0x2001, 0), (0x2002, 0), (0x2003, 0)] ++ s.ukey }
theorem witness_Trec : let c := ctx stTrec plain 8
    let va := address c 2 (.lit 0) (lowest c.act)
    let p := gone (engPlan stTrec c.task c.user true false none [va, va + 32])
    let n := granNum p.1 p.2 va 64
    let base := n / 2 ^ 455 % 2 ^ 57
    let r := (okAt (Machine.access (engLoad p.1 c.task p.2).1 (.tile c.task.core) c.task.tenant (rootOf stTrec c.task) base ⟨true, false, false, c.user⟩).2).getD (0, leafAll)
    Executes stTrec c plain (SrcB.lit 0).len (⟨false, 2, 2⟩ :: useB false (.lit 0) 1) ∧ Quiet c.grp ∧ Drained stTrec c.task.core ∧
    va % 64 = 0 ∧ va < 2 ^ 57 ∧ engPlan stTrec c.task c.user true false none [va, va + 32] = .go p.1 p.2 ∧
    FreshGranules p.1 c.task p.2 ∧
    (Machine.access (engLoad p.1 c.task p.2).1 (.tile c.task.core) c.task.tenant (rootOf stTrec c.task) base ⟨true, false, false, c.user⟩).2 = .ok r.1 r.2 ∧
    Fmt.ofCode r.2.fmt = some .fp16 ∧ Geom.ofCode r.2.geom = some .none ∧ pairOk .fp16 .none = true ∧
    trecBad n (trecOf n .fp16 .none) = false := by
  unfold Quiet Drained FreshGranules; decide +kernel
/-- The conditions of a start, decided. -/
def takes (s : State) (c : Ctx) (ws rs : List Nat) : Bool :=
  ws.all (fun k => (chunkNo c.task k).any (fun p => p.1.own.getLsbD p.2 && mgetD 0 p.1.rcnt p.2 == 0)) &&
  rs.all (fun k => (chunkNo c.task k).any (fun p => p.1.own.getLsbD p.2 && decide (mgetD 0 p.1.rcnt p.2 < 7))) &&
  decide (cpCount s c.tid c.g < 63) && decide (tlCount s c.task c.tid c.g < 63)
theorem mayTake_of {s : State} {c : Ctx} {ws rs : List Nat} (h : takes s c ws rs = true) : MayTake s c ws rs := by
  simp only [takes, Bool.and_eq_true, List.all_eq_true, decide_eq_true_eq] at h
  obtain ⟨⟨⟨h1, h2⟩, h3⟩, h4⟩ := h
  refine ⟨fun k hk => ?_, fun k hk => ?_, h3, h4⟩
  · have := h1 k hk
    cases hc : chunkNo c.task k with
    | none => simp [hc] at this
    | some p =>
      simp only [hc, Option.any_some, Bool.and_eq_true, beq_iff_eq] at this
      exact ⟨p, rfl, by intro j hj; simp only [List.mem_singleton] at hj; subst hj; exact this⟩
  · have := h2 k hk
    cases hc : chunkNo c.task k with
    | none => simp [hc] at this
    | some p =>
      simp only [hc, Option.any_some, Bool.and_eq_true, decide_eq_true_eq] at this
      exact ⟨p, rfl, this⟩

/-- Lane 0 of a bundle copies 16 bytes between 0x20000 and the start of tile 5. -/
abbrev cplG (x : Group) : Group := { lanesAt 1 x with v := [(64, 0x20000)] }
abbrev stCpl : State := stTile aTile id cplG
theorem witness_Cpl : ∀ s2g ∈ [false, true],
    let c := ctx stCpl plain 12
    let ls := c.lanes.map (fun i => (i, address c 2 (.imm 0) i, (c.ra 6 0 i).toNat))
    let k := CopyKind.cpl (cszBytes .b128) s2g ls
    Executes stCpl c plain 12 [⟨false, 2, 2⟩, ⟨false, 6, 1⟩] ∧ (0x1C3 : Reg).toNat - 448 ∉ c.grp.toks ∧
    (∀ l ∈ ls, l.2.1 % cszBytes .b128 = 0 ∧ l.2.2 % cszBytes .b128 = 0 ∧ l.2.1 < 2 ^ 57 ∧
      l.2.2 + cszBytes .b128 ≤ c.task.scratchSize ∧ ∃ p ∈ c.task.tds, p.2.base ≤ l.2.2 ∧ l.2.2 + cszBytes .b128 ≤ p.2.base + p.2.len) ∧
    MayTake stCpl c (copyWrites k (copyUnits k)) (copyReads k (copyUnits k)) := by
  intro s2g hs
  simp only [List.mem_cons, List.not_mem_nil, or_false] at hs
  rcases hs with rfl | rfl <;> repeat' first | exact mayTake_of (by decide +kernel) | decide +kernel | refine ⟨?_, ?_⟩
abbrev aRec : TRec := ⟨0x30000, 64, 64, 64, .fp16, .none⟩
/-- A small tile, that the kernel walks quickly: one chunk of 2 rows of 8 elements. -/
abbrev tinyTile : Tile := ⟨0, 512, .fp16, .none, 16, 2, 8, 1, []⟩
abbrev stCpt : State := stTile tinyTile (fun t => { t with txs := [(3, aRec)] }) id
theorem witness_Cpt :
    let c := ctx stCpt plain 12
    let k := CopyKind.cpt false 5 tinyTile aRec (c.ra 0 0 (lowest c.act)).toNat (c.c (.lit 0) (lowest c.act)).toNat
    Executes stCpt c plain 12 (⟨false, 0, 1⟩ :: useC false (.lit 0) 1) ∧ (0x1C3 : Reg).toNat - 448 ∉ c.grp.toks ∧
    mget c.task.tds 5 = some tinyTile ∧ mget c.task.txs 3 = some aRec ∧ tinyTile.rows ≠ 0 ∧ tinyTile.fmt ≠ .raw ∧
    tinyTile.fmt = aRec.fmt ∧ tinyTile.geom = aRec.geom ∧ blockFmt tinyTile.fmt = false ∧
    MayTake stCpt c (copyWrites k (copyUnits k)) (copyReads k (copyUnits k)) := by
  repeat' first | exact mayTake_of (by decide +kernel) | decide +kernel | refine ⟨?_, ?_⟩
/-- Both chunks of tile 5 added to global memory at 0x20000. -/
theorem witness_Cpr :
    let c := ctx stCpl plain 12
    let va := (c.ra 2 1 (lowest c.act) ++ c.ra 2 0 (lowest c.act) : BitVec 64).toNat
    let k := CopyKind.cpr .addF32 5 aTile va 0 2
    Executes stCpl c plain 12 [⟨false, 2, 2⟩] ∧ (0x1C3 : Reg).toNat - 448 ∉ c.grp.toks ∧ mget c.task.tds 5 = some aTile ∧
    va % 512 = 0 ∧ va < 2 ^ 57 ∧ 0 + 2 ≤ aTile.len / 512 ∧ MayTake stCpl c (copyWrites k (copyUnits k)) (copyReads k (copyUnits k)) := by
  repeat' first | exact mayTake_of (by decide +kernel) | decide +kernel | refine ⟨?_, ?_⟩
/-- Token s3 with its copy, and s4 that is not pending. -/
abbrev cpIn : CopyOp := ⟨0, 0, 3, true, .group, .cpl 16 false [(0, 0x20000, 0)], [0], [], none⟩
abbrev stCopy (op : CopyOp) : State :=
  { paged (stTile { aTile with own := 2 } id (fun x => { x with toks := [3] })) with copies := [(6, op)] }
theorem witness_Cpcancel : let c := ctx (stCopy cpIn) plain 8
    Executes (stCopy cpIn) c plain 8 [] ∧ (0x1C4 : Reg).toNat - 448 ∉ c.grp.toks ∧ (0x1C3 : Reg).toNat - 448 ∈ c.grp.toks ∧
    (stCopy cpIn).copies.find? (fun p => p.2.tid == c.tid && p.2.g == c.g && p.2.tok == (0x1C3 : Reg).toNat - 448) = some (6, cpIn) ∧
    cpIn.ending = none := by decide +kernel

theorem witness_ChunkLands : let s := stCopy cpIn
    let tk := (task s 0).getD aTask
    let p := gone (engPlan s tk cpIn.user true false none (inReads cpIn.kind 0))
    mget s.copies 6 = some cpIn ∧ task s cpIn.tid = some tk ∧ copyGoes s 6 cpIn tk = true ∧ 0 ∈ cpIn.todo ∧
    16 ∈ [4, 8, 16] ∧ (∀ q ∈ [((0 : Nat), 0x20000, 0)], q.2.2 % 16 = 0) ∧
    ([((0 : Nat), 0x20000, 0)].filter (fun q => q.2.2 / 512 == 0)).map (fun q => q.2.2) = [0] ∧
    engPlan s tk cpIn.user true false none (inReads cpIn.kind 0) = .go p.1 p.2 ∧ FreshGranules p.1 tk p.2 := by
  unfold FreshGranules; decide +kernel
abbrev cpOut : CopyOp := ⟨0, 0, 3, true, .group, .cpl 16 true [(0, 0x20000, 0)], [0x100], [], none⟩
theorem witness_ChunkLeaves : let s := stCopy cpOut
    let tk := (task s 0).getD aTask
    let p := gone (engPlan s tk cpOut.user false true none ((outBytes tk cpOut.kind 0x100).1.map (·.1)))
    mget s.copies 6 = some cpOut ∧ task s cpOut.tid = some tk ∧ copyGoes s 6 cpOut tk = true ∧ 0x100 ∈ cpOut.todo ∧
    (∀ q ∈ [((0 : Nat), 0x20000, 0)], q.2.1 % 16 = 0) ∧ outBad tk cpOut.kind 0x100 = false ∧
    ([((0 : Nat), 0x20000, 0)].filter (fun q => q.2.1 / 512 == 0x100)).map (fun q => q.2.1) = [0x20000] ∧
    engPlan s tk cpOut.user false true none ((outBytes tk cpOut.kind 0x100).1.map (·.1)) = .go p.1 p.2 := by decide +kernel
abbrev cprOp : CopyOp := ⟨0, 0, 3, true, .group, .cpr .addF32 5 aTile 0x20000 0 2, [0, 1], [], none⟩
theorem witness_CprChunk : let s := stCopy cprOp
    let tk := (task s 0).getD aTask
    let va := 0x20000 + 512 * (1 - (aTile.base / 512 + 0))
    let p := gone (engPlan s tk cprOp.user true true none ((List.range 16).map (fun i => va + 32 * i)))
    mget s.copies 6 = some cprOp ∧ task s cprOp.tid = some tk ∧ copyGoes s 6 cprOp tk = true ∧ 1 ∈ cprOp.todo ∧
    engPlan s tk cprOp.user true true none ((List.range 16).map (fun i => va + 32 * i)) = .go p.1 p.2 ∧
    (∀ la ∈ p.2, la.key = 1 ∧ la.pa = 0x20200 + (la.addr - va)) ∧ p.1.bad = [] ∧ portReady p.1 tk.core p.2 = true ∧
    outBad tk cprOp.kind 1 = false := by
  decide +kernel
theorem witness_CopyComplete : let op := { cpIn with todo := [], done := [0] }
    let s := stCopy op
    let tk := (task s 0).getD aTask
    mget s.copies 6 = some op ∧ task s op.tid = some tk ∧ (mget tk.groups op.g).isSome = true ∧ op.todo = [] ∧ tk.saved = false ∧
    (∀ w ∈ s.wq, w.owner ≠ some (op.tid, op.g, 6)) := by decide +kernel
/-! ### Matrix engines, generators and collectives -/

/-- A block of parameters at 0 of the scratchpad: one k-block of 32 by 32, A at 0x20000 and B at 0x30000 in FP16 rows 64 bytes apart. -/
abbrev mmaPad : List (Nat × Byte) := [(30, 1), (32, 1), (34, 2), (36, 64), (42, 3), (48, 1), (50, 2), (52, 64), (58, 2)]
abbrev stMma : State := aState (fun t => { t with scratch := mmaPad }) id
theorem witness_Mma : let c := ctx stMma plain 8
    let o := spOffset c 0 (.lit 0) (lowest c.act)
    let p := spNum c.task o.toNat 64
    let da := p / 2 ^ 384 % 2 ^ 128
    let db := p / 2 ^ 256 % 2 ^ 128
    let ctl : MatCtl := ⟨1, 32, 32, 0, 0, false⟩
    let oa := (matOperand c.task da 32 32).1
    let ob := (matOperand c.task db 32 32).1
    let k := MatKind.mul oa ob ctl.m ctl.n ctl.kb ctl.arow ctl.acol ctl.zero
    Executes stMma c plain (SrcB.lit 0).len (⟨false, 0, 1⟩ :: useB false (.lit 0) 1) ∧ (0x1C3 : Reg).toNat - 448 ∉ c.grp.toks ∧
    o % 64 = 0 ∧ 0 ≤ o ∧ o + 64 ≤ c.task.scratchSize ∧ spSound c.task o 64 ∧ matCtl p false = some ctl ∧ matOperand c.task da 32 32 = (oa, false) ∧
    matOperand c.task db 32 32 = (ob, false) ∧ matGenBad oa = false ∧ matGenBad ob = false ∧ ctl.arow + ctl.m ≤ c.task.accRows ∧
    ctl.acol + ctl.n ≤ 128 ∧ matGenWaits c.task da = false ∧ matGenWaits c.task db = false ∧
    engFull stMma c.task.core false = false ∧ MayTake stMma c (matWrites k) (matReads k) := by
  repeat' first | exact mayTake_of (by decide +kernel) | decide +kernel | refine ⟨?_, ?_⟩
theorem witness_Mprog : Executes st0 (ctx st0 plain 8) plain 8 [⟨false, 4, 2⟩] := by decide +kernel
abbrev accTile : Tile := ⟨0, 1024, .fp32, .none, 128, 8, 32, 3, []⟩
abbrev stAcc : State := stTile accTile (fun t => { t with gens := [(5, 6)] }) id
theorem witness_AccldAccst : let c := ctx stAcc plain 12
    (0x1C3 : Reg).toNat - 448 ∉ c.grp.toks ∧ mget c.task.tds 5 = some accTile ∧ accTile.rows ≠ 0 ∧ accTile.fmt ≠ .raw ∧
    (accTile.fmt = .e2m1 → accTile.geom = .none) ∧ (504 : BitVec 9).toNat + accTile.rows ≤ c.task.accRows ∧
    (96 : BitVec 7).toNat + accTile.cols ≤ 128 ∧ engFull stAcc c.task.core true = false ∧ Executes stAcc c plain 12 [] ∧
    MayTake stAcc c [] (matReads (.accld 5 accTile 504 96)) ∧
    MayTake stAcc c (matWrites (.accst 5 accTile 504 96 .rn false 0 none)) [] ∧ blockFmt accTile.fmt = false := by
  repeat' first | exact mayTake_of (by decide +kernel) | decide +kernel | refine ⟨?_, ?_⟩
/-- The epilogue form, with generator 5 (MASK). -/
theorem witness_AccstEpilogue : let c := ctx stAcc plain 12
    let k := MatKind.accst 5 accTile 0 0 .rn false 0 (epilogue c (some (5, 20, 21)))
    Executes stAcc c plain 12 (epilogueUses false (some (5, 20, 21))) ∧ MayTake stAcc c (matWrites k) [] ∧
    (∃ q, epilogue c (some (5, 20, 21)) = some q ∧ genIsEpilogue q.1 = true ∧ fmtInt accTile.fmt = false) := by
  exact ⟨by decide +kernel, mayTake_of (by decide +kernel), _, rfl, by decide +kernel⟩
theorem witness_Acczero : let c := ctx st0 plain 8
    Executes st0 c plain (SrcB.lit 0).len (useB false (.lit 0) 1 ++ useC false (.lit 255) 1) ∧
    1 ≤ (c.c (.lit 255) (lowest c.act)).toNat ∧
    (c.b (.lit 255) (lowest c.act)).toNat + (c.c (.lit 255) (lowest c.act)).toNat ≤ c.task.accRows ∧
    engFull st0 c.task.core false = false ∧ (c.c (.lit 0) (lowest c.act)).toNat = 0 ∧ c.grp.trap = none ∧
    hvec st0 c.task.tenant ≠ 0 := by decide +kernel
/-- An engine with one multiplication of one element from global FP16 rows, n of its k-blocks applied. -/
abbrev gOp (addr : Nat) : MOperand := ⟨1, 0, 0, addr, 64, .fp16, .none, 0, none, none, 0, none⟩
abbrev aMul (n : Nat) (ending : Option Nat) : MatOp :=
  ⟨4, 0, 0, some 3, true, .mul (gOp 0x20000) (gOp 0x30000) 1 1 1 511 127 true, [0, 0, 0, 0, 0], n, false, ending⟩
abbrev stEng (o : MatOp) (w1 : List Cell) : State :=
  setCore (sheets (paged (aState id (fun x => { x with toks := [3] }))) w1) 0 { Machine.Core.reset with ma0 := [o] }
theorem witness_Mabort : let s := stEng (aMul 0 none) []
    let c := ctx s plain 8
    Executes s c plain 8 [] ∧ ((engQueue s c.task.core false).map (·.id)).Nodup ∧
    (∀ o ∈ engQueue s c.task.core false, o.ending = none) := by decide +kernel
abbrev halfPages : List Cell := [(0x10400A, 0x02), (0x10400B, 0x10)]
/-- What a fetch of a k-block gives. -/
def fetched (f : FetchOut) : State × Map Byte × Map Byte :=
  match f with
  | .go s a b => (s, a, b)
  | _ => (st0, [], [])
theorem witness_Kblock : let s := stEng (aMul 0 none) halfPages
    let tk := (task s 0).getD aTask
    let r := fetched (fetchAll s tk false (aMul 0 none))
    matRuns s 0 false = some (aMul 0 none, tk) ∧ (0 : Nat) < 1 ∧ 127 + 1 ≤ 128 ∧
    fetchAll s tk false (aMul 0 none) = .go r.1 r.2.1 r.2.2 := by decide +kernel
theorem witness_MatrixComplete : let s := stEng (aMul 1 none) halfPages
    (group s 0 0).isSome = true ∧ (∃ a b m nn kb arow acol zero, (aMul 1 none).kind = .mul a b m nn kb arow acol zero ∧ kb ≤ (aMul 1 none).kdone) ∧
    matStopped s 0 false true = none ∧ matHead s 0 false = some (aMul 1 none) :=
  ⟨by decide +kernel, ⟨_, _, _, _, _, _, _, _, rfl, by decide⟩, by decide +kernel, by decide +kernel⟩
/-- The page holds no FP16: cause 0x0B; and it is not there: a request. -/
theorem witness_MatrixFetchFault_bad : let s := stEng (aMul 0 none) [(0x10400A, 0x01), (0x10400B, 0x10)]
    let tk := (task s 0).getD aTask
    matRuns s 0 false = some (aMul 0 none, tk) ∧
    (match fetchAll s tk false (aMul 0 none) with
      | .bad _ cause _ => decide (cause = 0x0B)
      | _ => false) = true := by decide +kernel
abbrev stNoPage : State := { (stEng (aMul 0 none) []) with
  mem := [(0x100000, 0x01), (0x100001, 0x20), (0x100002, 0x10), (0x102000, 0x01), (0x102001, 0x40), (0x102002, 0x10), (0x104000, 0x02), (0x10400B, 0x10)] }
theorem witness_MatrixFetchFault_serve : let tk := (task stNoPage 0).getD aTask
    matRuns stNoPage 0 false = some (aMul 0 none, tk) ∧
    (match fetchAll stNoPage tk false (aMul 0 none) with
      | .serve _ ps => !ps.isEmpty
      | _ => false) = true := by decide +kernel
theorem witness_AccOps : ∀ k ∈ [MatKind.acczero 504 8, MatKind.accld 5 accTile 504 96], let o : MatOp := { (aMul 0 none) with kind := k }
    let s := stEng o []
    matStopped s 0 false false = none ∧ matHead s 0 false = some o ∧ (task s o.tid).isSome = true ∧ 96 + accTile.cols ≤ 128 ∧
    accDataBad ((task s o.tid).getD aTask) false o.kind = false := by
  intro k hk
  simp only [List.mem_cons, List.not_mem_nil, or_false] at hk
  rcases hk with rfl | rfl <;> decide +kernel

/-- A CONST generator image is 0x20000 onwards: kind 1, scale 1.0; and one of kind 0, which is bad. -/
abbrev stGset (bs : List (Nat × Byte)) : State := let s := paged (aState id gl)
  { s with mem := bs ++ s.mem, ukey := [(0x2000, 0), (0x2001, 0)] ++ s.ukey }
theorem witness_Gset : let s := stGset [(0x20000, 0x01), (0x20016, 0x80), (0x20017, 0x3F)]
    let c := ctx s plain 8
    let va := address c 2 (.lit 0) (lowest c.act)
    let p := gone (engPlan s c.task c.user true false none [va])
    Executes s c plain (SrcB.lit 0).len (⟨false, 2, 2⟩ :: useB false (.lit 0) 1) ∧ Quiet c.grp ∧ Drained s c.task.core ∧
    va % 32 = 0 ∧ va < 2 ^ 57 ∧ engPlan s c.task c.user true false none [va] = .go p.1 p.2 ∧ FreshGranules p.1 c.task p.2 ∧
    genBad (BitVec.ofNat 256 (granNum p.1 p.2 va 32)) = false := by unfold Quiet Drained FreshGranules; decide +kernel
theorem witness_Gset_bad : let s := stGset [(0x20016, 0x80), (0x20017, 0x3F)]
    let c := ctx s plain 8
    let va := address c 2 (.lit 0) (lowest c.act)
    let p := gone (engPlan s c.task c.user true false none [va])
    engPlan s c.task c.user true false none [va] = .go p.1 p.2 ∧ FreshGranules p.1 c.task p.2 ∧
    genBad (BitVec.ofNat 256 (granNum p.1 p.2 va 32)) = true ∧ c.grp.trap = none ∧ hvec p.1 c.task.tenant ≠ 0 := by
  unfold FreshGranules; decide +kernel
theorem witness_GseedGeval : let c := ctx stAcc plain 8
    Executes stAcc c plain 8 [⟨false, 2, 2⟩] ∧ (mgetD 0 c.task.gens 5).extractLsb' 0 4 ≠ 0#4 ∧
    Executes stAcc c plain 8 ((⟨false, 2, 1⟩ :: useB false (.lit 3) 1) ++ [⟨false, 4, 1⟩]) ∧ 5 ∉ c.task.building ∧
    scopeFor (scopeWords stAcc c.task) (mgetD 0 c.task.gens 5) < 2 ^ 64 := by decide +kernel
theorem witness_RotaryTable : let s := aState (fun t => { t with building := [2, 5] }) id
    ∃ tk, task s 0 = some tk ∧ 5 ∈ tk.building ∧ tk.saved = false := ⟨_, rfl, by decide +kernel⟩

theorem witness_Coll : let c := ctx stMem plain 8
    let va := address c 2 (.lit 0) (lowest c.act)
    Executes stMem c plain (SrcB.lit 0).len (⟨false, 2, 2⟩ :: useB false (.lit 0) 1) ∧ (0x1C3 : Reg).toNat - 448 ∉ c.grp.toks ∧
    va % 64 = 0 ∧ va < 2 ^ 57 ∧ stMem.colls = [] ∧ cpCount stMem c.tid c.g < 63 := by decide +kernel
/-- A collective of two ranks in slot 7 that has sent 2 words; the other rank's words have arrived, or not. -/
abbrev aColl (peers : List (Nat × List Nat × List Word)) : CollOp :=
  ⟨0, 0, 0, 3, true, 7, 0, 0x20000, 2, 0, 0, 0x20000, 0x20200, 0, 2, 2, 0, 0, 0, .fp32, .none, 0, 1, 0, none, [1, 2], peers⟩
abbrev stColl (op : CollOp) : State :=
  { (paged (aState id (fun x => { x with toks := [3] }))) with colls := [(6, op)], cycle := 850000 }
theorem witness_Collwait : let s := stColl (aColl [])
    Executes s (ctx s plain 8) plain 8 [] ∧ (∃ p ∈ s.colls, p.2.tid = 0 ∧ p.2.g = 0 ∧ p.2.slot < 8 ∧ (0x80 : Byte).getLsbD p.2.slot = true) ∧
    ¬ (∃ p ∈ s.colls, p.2.tid = 0 ∧ p.2.g = 0 ∧ p.2.slot < 8 ∧ (0x7F : Byte).getLsbD p.2.slot = true) := by decide +kernel
theorem witness_CollectiveComplete : let op := aColl [(1, [0, 2, 2, 0, 1, 0, 0], [3, 4])]
    let s := stColl op
    let tk := (task s 0).getD aTask
    let ps := collParts s 6 op
    let p := gone (engPlan s tk op.user false true none (wordGrans op.dst op.count))
    mget s.colls 6 = some op ∧ task s op.tid = some tk ∧ (mget tk.groups op.g).isSome = true ∧ tk.saved = false ∧ op.bad = none ∧
    op.stage = 2 ∧ op.kind = 0 ∧ hasNeed s (.coll 6) = false ∧ earlierDone s op.tid op.g 6 = true ∧
    (ps.map (·.1)).Perm (List.range op.nrank) ∧ (∀ q ∈ ps, q.2.1 = collAgree op) ∧ 1 ≤ op.nrank ∧ op.dst % 512 = 0 ∧
    engPlan s tk op.user false true none (wordGrans op.dst op.count) = .go p.1 p.2 ∧ (p.2.map (·.pa)).Nodup ∧
    (∀ la ∈ p.2, la.pa % 32 = 0 ∧ la.key = 1 ∧ ∀ j, j < 32 → blockBad p.1 (la.pa + j) = false) ∧ portReady p.1 tk.core p.2 = true := by
  decide +kernel
theorem witness_CollTimeout : let op := aColl []
    let s := stColl op
    let tk := (task s 0).getD aTask
    mget s.colls 6 = some op ∧ task s op.tid = some tk ∧ (mget tk.groups op.g).isSome = true ∧ tk.saved = false ∧ op.stage = 2 ∧
    op.bad = none ∧ op.timeout ≠ 0 ∧ op.started + 850000 * op.timeout ≤ s.cycle ∧
    (∃ r, r < op.nrank ∧ ∀ p ∈ collParts s 6 op, p.1 ≠ r) := by decide +kernel
/-! ### Tasks -/

/-- Counters: 1 is an OPEN launch of job 2, 3 a finished launch of it. -/
abbrev job2 : Counter := ⟨0, 0, 0, .open, 4, 2, 0, 0, false, false⟩
abbrev aLaunch1 : Counter := ⟨0, 0, 2, .open, 1, 2, 1, 0, false, false⟩
abbrev ended3 : Counter := ⟨0, 0, 2, .done, 1, 1, 1, 0, false, true⟩
abbrev someCtr : List (Nat × Counter) := [(1, aLaunch1), (2, job2), (3, ended3)]
abbrev stCtr (f : Task → Task) (g : Group → Group) (k : Tenant → Tenant) : State :=
  modTenant (aState f g) 0 (fun x => k { x with ctr := someCtr })
/-- A record of 64 bytes at 0 of the scratchpad. -/
def padOf (n : Nat) : List (Nat × Byte) := (((leBytes 64 n).zipIdx).map (fun p => (p.2, p.1))).filter (fun p => p.2 != 0)
/-- A launch of 1 block of 1 group with 1 granule a lane, or of nothing (level 0); queue 63 takes one. -/
abbrev launchRec : Nat := 0x4000 <<< 455 + 2 ^ 232 + 2 ^ 61 + 2 ^ 45
abbrev stRec (n : Nat) : State := fregSet (stCtr (fun t => { t with scratch := padOf n }) id id) 0 0x20FC 0x10000
theorem witness_Enq : ∀ n ∈ [launchRec, 0],
    let s := stRec n
    let c := ctx s plain 8
    let o := spOffset c 2 (.lit 0) (lowest c.act)
    let num := spNum c.task o.toNat 64
    448 ≤ (0x1C3 : Reg).toNat ∧
    Executes s c plain (SrcB.lit 0).len ((⟨false, 2, 1⟩ :: (useB false (.lit 0) 1 ++ useC false (.lit 63) 1)) ++ [⟨true, 0x1C3, 1⟩]) ∧
    Quiet c.grp ∧ Drained s c.task.core ∧ o % 64 = 0 ∧ 0 ≤ o ∧ o + 64 ≤ c.task.scratchSize ∧ spSound c.task o 64 ∧
    (chunkAt c.task o.toNat).any (fun p => !chunkAllows p.1 p.2 false) = false ∧ num = n ∧
    recordRefusal s 0 num (c.c (.lit 63) (lowest c.act)).toNat = (if n = 0 then some 5 else none) ∧
    DepsOpen s 0 (trecOfNum num) ∧ (∀ p ∈ (tenant s 0).launches, DepsOpen s 0 p.2.trec) := by
  intro n hn
  simp only [List.mem_cons, List.not_mem_nil, or_false] at hn
  rcases hn with rfl | rfl <;> unfold Quiet Drained DepsOpen <;> decide +kernel
theorem witness_Enq_free : LowestFree (stRec launchRec) 0 4 := by
  refine ⟨by decide, by decide, by decide +kernel, fun j h1 h2 => ?_⟩
  have : j = 1 ∨ j = 2 ∨ j = 3 := by omega
  rcases this with rfl | rfl | rfl <;> decide +kernel
/-- A task of launch 1, which is OPEN; of launch 3, which has ended. -/
theorem witness_Spawn : let s := stCtr id id id
    let c := ctx s plain 12
    Executes s c plain 12 [⟨false, 4, 4⟩] ∧ c.task.traced = none ∧ c.task.launch = 1 ∧ counter s 0 1 = some aLaunch1 ∧
    s.cancels = [] ∧ (tenant s 0).spawns.length < 65536 ∧ Quiet c.grp ∧ Drained s c.task.core := by unfold Quiet Drained; decide +kernel
theorem witness_Spawn_dies : let s := stCtr (fun t => { t with launch := 3 }) id id
    let c := ctx s plain 12
    Executes s c plain 12 [⟨false, 4, 4⟩] ∧ c.task.traced = none ∧ c.task.prop = false ∧ counter s 0 c.task.launch = some ended3 := by
  decide +kernel
/-- A launch that is OPEN, one of whose tasks a cancellation has met. -/
theorem witness_Spawn_cancelled : let s := { (stCtr id id id) with cancels := [(6, ⟨0, none, [], [0], 1, 0⟩)] }
    let c := ctx s plain 12
    Executes s c plain 12 [⟨false, 4, 4⟩] ∧ c.task.traced = none ∧ (∃ p ∈ s.cancels, p.2.tenant = 0 ∧ c.tid ∈ p.2.tasks) ∧
    counter s 0 c.task.launch = some aLaunch1 := by decide +kernel
abbrev aSpawn : Spawned := ⟨1, 0, 0x4000, 0, [], Origin.blank, none, false, false⟩
abbrev stFull : State := stCtr id id (fun x => { x with spawns := List.replicate 65536 aSpawn })
theorem witness_Spawn_full : let c := ctx stFull plain 12
    Executes stFull c plain 12 [⟨false, 4, 4⟩] ∧ c.task.traced = none ∧ c.task.launch = 1 ∧ counter stFull 0 1 = some aLaunch1 ∧
    stFull.cancels = [] ∧ 65536 ≤ (tenant stFull 0).spawns.length := by
  refine ⟨by decide +kernel, by decide +kernel, by decide +kernel, by decide +kernel, rfl, ?_⟩
  have : (tenant stFull 0).spawns = List.replicate 65536 aSpawn := rfl
  rw [this, List.length_replicate]

/-- Lane 0's vector register 4 names counter i. -/
abbrev stIdx (i : Word) : State := stCtr id (fun x => vreg 4 i (lanesAt 1 x)) id
theorem witness_Cntrd : ∀ i ∈ [(1 : Word), 3, 4096], let s := stIdx i
    let c := ctx s plain 8
    Executes s c plain 8 [⟨false, 4, 1⟩, ⟨false, 6, 1⟩] ∧ Quiet c.grp ∧ (c.ra 4 0 (lowest c.act)) = i ∧
    namedCounter s 0 i.toNat = (if i = 1 then some aLaunch1 else if i = 3 then some ended3 else none) ∧
    (∀ p ∈ (tenant s 0).traces, p.2.job ∉ subtree s 0 i.toNat) ∧ s.cancels = [] ∧
    (∀ j ∈ subtree s 0 3, ∀ m ∈ counter s 0 j, m.level ≠ 4) := by
  intro i hi
  simp only [List.mem_cons, List.not_mem_nil, or_false] at hi
  rcases hi with rfl | rfl | rfl <;> (unfold Quiet; decide +kernel)
/-- Threshold 1: launch 1 has DONE 1; threshold 2: launch 1 is OPEN, launch 3 never reaches it. -/
theorem witness_Cntwait : ∀ i ∈ [(1 : Word), 3], ∀ b ∈ [(1 : BitVec 9), 2], let s := stIdx i
    let c := ctx s plain 8
    Executes s c plain (SrcB.lit b).len (⟨false, 4, 1⟩ :: useB false (.lit b) 1) ∧ Quiet c.grp ∧ (c.ra 4 0 (lowest c.act)) = i ∧
    (c.b (.lit b) (lowest c.act)).toNat = b.toNat ∧ namedCounter s 0 i.toNat = (if i = 1 then some aLaunch1 else some ended3) := by
  intro i hi b hb
  simp only [List.mem_cons, List.not_mem_nil, or_false] at hi hb
  rcases hi with rfl | rfl <;> rcases hb with rfl | rfl <;> (unfold Quiet; decide +kernel)
/-- A cancel of a launch that is OPEN, of one that is not, and of an entry of another level. -/
theorem witness_Cancel : ∀ i ∈ [(1 : Word), 2, 3], let s := stIdx i
    let c := ctx s plain 8
    Executes s c plain (((none : Option SrcB).map SrcB.len).getD 8)
      (⟨false, 4, 1⟩ :: (((none : Option SrcB).map (fun x => useB false x 1)).getD [])) ∧ (0x1C3 : Reg).toNat - 448 ∉ c.grp.toks ∧
    c.ra 4 0 (lowest c.act) = i ∧ (namedCounter s 0 i.toNat).map (fun k => (k.level, k.status)) =
      some (if i = 1 then (cancelLevel .launch, .open) else if i = 2 then (cancelLevel .job, .open) else (cancelLevel .launch, .done)) := by
  intro i hi
  simp only [List.mem_cons, List.not_mem_nil, or_false] at hi
  rcases hi with rfl | rfl | rfl <;> decide +kernel
theorem witness_Fork : let c := ctx stMem plain 8
    let va := address c 2 (.lit 0) (lowest c.act)
    Executes stMem c plain (SrcB.lit 0).len (⟨false, 2, 2⟩ :: useB false (.lit 0) 1) ∧ Quiet c.grp ∧ Drained stMem c.task.core ∧
    (0x1C3 : Reg).toNat - 448 ∉ c.grp.toks ∧ va % 64 = 0 ∧ va < 2 ^ 57 := by unfold Quiet Drained; decide +kernel
/-- An arena window of 4 granules at 0x40000000, whose tables of levels 1 and 0 stand at 0x106000 and 0x108000. -/
abbrev stArena : State :=
  let s := paged (aState id (fun x => vreg 4 65537 (lanesAt 1 x)))
  let s1 := csrSet (csrSet s 0 0x048 0x40000000) 0 0x04A 4
  modTenant { s1 with mem := s1.mem ++ [(0x104010, 1), (0x104011, 0x60), (0x104012, 0x10), (0x106000, 1), (0x106001, 0x80), (0x106002, 0x10)],
                      ukey := s1.ukey ++ [(0x10401, 0), (0x10600, 0)] } 0 (fun x => { x with ctr := someCtr })
theorem witness_Arena : let c := ctx stArena plain 8
    Executes stArena c plain 8 [⟨false, 4, 1⟩, ⟨false, 6, 2⟩] ∧ pairOk .fp16 .none = true ∧
    (arenaAlloc stArena 0 (rootOf stArena c.task) (jobOf stArena 0 c.task.launch) (c.ra 4 0 (lowest c.act)).toNat .fp16 .none true).isSome = true := by
  decide +kernel
theorem witness_Arena_none : let c := ctx st0 plain 8
    Executes st0 c plain 8 [⟨false, 4, 1⟩, ⟨false, 6, 2⟩] ∧ pairOk .fp16 .none = true ∧ pairOk .fp16 .b32 = false ∧ c.grp.trap = none ∧
    hvec st0 0 ≠ 0 ∧ ((c.ra 4 0 (lowest c.act)).toNat + 65535) / 65536 = 0 := by decide +kernel
/-! ### The distributor -/

/-- Three entries: two at 0x1000 of different priority, one at 0x1008. -/
abbrev gSplit (x : Group) : Group := { x with front := [Entry.new 1 0x1000 1 0, Entry.new 2 0x1008 2 0, Entry.new 3 0x1000 4 9] }
theorem witness_RegroupMerge : let s := aState id gSplit
    let tk := (task s 0).getD aTask
    let x := (mget tk.groups 0).getD aGroup
    task s 0 = some tk ∧ mget tk.groups 0 = some x ∧ taskRuns s tk = true ∧ tk.run = .running ∧ regroupPoint s tk.core = true ∧
    evOn s tk.tenant 2 x.trap.isNone = false ∧ ¬ ((x.live.filter (fun e => e.blk.isNone)).map (·.pc)).Nodup := by decide +kernel
/-- The island of core 0 is ON, no task is there. -/
abbrev islandOn (s : State) : State := { s with mgmt := { s.mgmt with mreg := [(0xD40, 0x202)] } }
abbrev theRec : TaskRec := { TaskRec.blank with regs := 1, blocks := 2 }
abbrev aLaunch : Launch := ⟨theRec, 0, 5, 0, none, [], [], 0, 0, [], [], false⟩
abbrev stDevQ (f : Tenant → Tenant) : State :=
  modTenant (islandOn { st0 with tasks := [], cycle := 1700000 }) 0 (fun x => f { x with ctr := someCtr, launches := [(1, aLaunch)] })
abbrev inQueue (x : Tenant) : Tenant := { x with queues := [(5, ⟨[1], 0, false, 1⟩)] }
theorem witness_DispatchQueue : let s := stDevQ inQueue
    turnOf s = some 0 ∧ decision s 0 = some (.queue 5 1 aLaunch) ∧ fitsOn s 0 0 none theRec = true ∧ theRec.stream = false ∧
    nextBlock aLaunch = some 0 := by decide +kernel
theorem witness_DispatchStream : let r : TaskRec := { theRec with stream := true, nt := 2, it := 3 }
    let l : Launch := { aLaunch with trec := r, next := 1, strB := some 2 }
    let s := stDevQ (fun x => inQueue { x with launches := [(1, l)] })
    turnOf s = some 0 ∧ decision s 0 = some (.queue 5 1 l) ∧ fitsOn s 0 0 none r = true ∧ (r.det = true ∨ l.strB ≠ none) ∧
    nextBlock l = some 1 := by decide +kernel
abbrev waiting : Spawned := { aSpawn with org := { Origin.blank with trec := theRec } }
theorem witness_DispatchSpawn : let s := stDevQ (fun x => { x with spawns := [waiting] })
    turnOf s = some 0 ∧ decision s 0 = some (.spawn waiting) ∧ fitsOn s 0 0 none waiting.org.trec = true := by decide +kernel
theorem witness_DispatchBack : let s := stDevQ (fun x => { x with ctxs := [(0, ⟨0, 0, .saved, []⟩)] })
    turnOf s = some 0 ∧ decision s 0 = some .back ∧ canReturn s 0 0 = true := by decide +kernel
theorem witness_QueueAging : let s := stDevQ inQueue
    (queueOf s 0 5).recs ≠ [] ∧ (queueOf s 0 5).since + 850000 * ((queueOf s 0 5).bump + 1) ≤ s.cycle := by decide +kernel
/-- The second of two blocks ends; launch 1 waits for nothing. -/
abbrev stEnds : State := modTenant { st0 with tasks := [(0, aTask)] } 0 (fun x => { x with ctr := someCtr, launches := [(1, aLaunch)] })
theorem witness_TaskEnd : let s := stEnds
    task s 0 = some aTask ∧ unitRuns s aTask = true ∧ aTask.groups = [] ∧ s.copies = [] ∧ s.colls = [] ∧ s.queries = [] ∧
    (Machine.core s 0).ma0 ++ (Machine.core s 0).ma1 = [] ∧ Written s aTask.core ∧ counter s 0 aTask.launch = some aLaunch1 ∧
    aTask.prop = false ∧ NoneWaits s 0 ∧ (∀ l ∈ mget (tenant s 0).launches 1, l.trec.det = false) ∧ 1 ∉ chainOf s 0 2 ∧
    (∀ p ∈ (tenant s 0).ctr, p.2.budget = 0) := by
  unfold Written NoneWaits; decide +kernel
/-- Every entry of the context is blocked in a `tokacq`, for 4 cycles where HANGT says 4. -/
abbrev gBlocked (x : Group) : Group := { x with front := [{ Entry.new 1 0x1000 1 0 with blk := some (.tok, 8) }] }
abbrev stHang : State := csrSet (modTenant (aState id gBlocked) 0 (fun x => { x with ctxs := [(0, ⟨0, 4, .resident, []⟩)] })) 0 0x022 2
theorem witness_HangDetect : let s := stHang
    ctxOf s 0 0 = some ⟨0, 4, .resident, []⟩ ∧ (csrGet s 0 0x020).getLsbD 1 = true ∧ 2 ^ ((csrGet s 0 0x022).toNat % 64) ≤ 4 ∧
    ctxHangs s 0 0 = true := by decide +kernel

/-! ### Charges, replays, reclamations, forks -/

/-- Job 2 has a budget of 100 cycles, of which 90 are used; 50 are charged now. -/
abbrev stBudget : State := modTenant { st0 with cycle := 50 } 0 (fun x => { x with ctr := [(1, aLaunch1), (2, { job2 with used := 90, budget := 100 }), (3, ended3)] })
theorem witness_BudgetCharge : let s := stBudget
    let tk := (task s 0).getD aTask
    s.tasks.filter (fun p => p.2.core == 0 && !p.2.saved) = [(0, tk)] ∧ task s 0 = some tk ∧ tk.prop = false ∧
    (chainOf s 0 (jobOf s 0 tk.launch)).Nodup ∧ (counter s 0 2).any (fun e => e.level == 4 && e.status == .open && e.budget != 0 &&
      decide (e.budget < e.used + (s.cycle - tk.chargedAt))) = true ∧ 2 ∈ chainOf s 0 (jobOf s 0 tk.launch) ∧
    (∀ p ∈ (tenant s 0).ctr, p.2.budget ≠ 0 → p.1 = 2) := by decide +kernel
/-- The same with no budget. -/
theorem witness_BudgetCharge_none : let s := stCtr id id id
    let tk := (task s 0).getD aTask
    s.tasks.filter (fun p => p.2.core == 0 && !p.2.saved) = [(0, tk)] ∧ (∀ p ∈ (tenant s 0).ctr, p.2.budget = 0) := by decide +kernel
/-- A logged load of lanes 0 and 1, failed or served. -/
abbrev anAcc (i a : Nat) : LaneAcc := ⟨i, a, a, 0, [], 0, 0, false, false, false, false⟩
abbrev logged (failed : Option (Byte × Lanes)) (resume : List (Nat × VA × Byte)) : OpEntry :=
  ⟨7, 0x1000, 8, 0, true, 3, 3, .load 4 false .b32 false false false, [anAcc 0 0x20000, anAcc 1 0x2007C], true, failed, resume⟩
abbrev stLog (failed : Option (Byte × Lanes)) (resume : List (Nat × VA × Byte)) : State :=
  paged (aState id (fun x => { x with front := [Entry.new 1 0x1008 0xFFFFFFFC 0], oplog := [logged failed resume] }))
/-- Lane 1's page could not be served. -/
theorem witness_OplogReplay_failed : let s := stLog (some (0x05, 2)) []
    let tk := (task s 0).getD aTask
    let x := (mget tk.groups 0).getD aGroup
    task s 0 = some tk ∧ mget tk.groups 0 = some x ∧ x.oplog = [logged (some (0x05, 2)) []] ∧ unitRuns s tk = true ∧ tk.run = .running ∧
    tk.stopReq = none ∧ x.trap = none ∧ hvec s 0 ≠ 0 := by decide +kernel
/-- A first access, whose lanes run on; and one that a return from its trap left unchanged, whose lanes go on from 0x1008. -/
theorem witness_OplogReplay_served : ∀ re ∈ [[], [(0, 0x1008, 0), (1, 0x1008, 0)]], let s := stLog none re
    let tk := (task s 0).getD aTask
    let x := (mget tk.groups 0).getD aGroup
    let o := logged none re
    let r := lanesCheck s tk o.user o.op o.lanes
    task s 0 = some tk ∧ mget tk.groups 0 = some x ∧ x.oplog = [o] ∧ unitRuns s tk = true ∧ tk.run = .running ∧ tk.stopReq = none ∧
    o.failed = none ∧ hasNeed s (.log 0 0 o.id) = false ∧ went r ≠ [] ∧ mget x.loads o.id = none ∧
    r.2 = o.lanes.zip ((went r).map LaneOut.go) ∧ (went r).length = o.lanes.length ∧ (∀ la ∈ went r, la.ordsh = false) ∧
    (∀ r ∈ o.resume, r.1 < 32) := by
  intro re hr
  simp only [List.mem_cons, List.not_mem_nil, or_false] at hr
  rcases hr with rfl | rfl <;> decide +kernel
/-- A cancel of launch 1 with its task, whose token is s3; and one that found nothing. -/
abbrev stCancel (op : CancelOp) : State := { (stCtr id (fun x => { x with toks := [3] }) id) with cancels := [(6, op)] }
theorem witness_CancelReclaim : let s := stCancel ⟨0, some (0, 0, 3), [1], [], 1, 0⟩
    (mget s.cancels 6).map (·.status) = some 0 ∧ (∀ p ∈ s.tasks, Written s p.2.core) ∧ (tenant s 0).traces = [] := by unfold Written; decide +kernel
theorem witness_CancelReclaim_none : (mget (stCancel ⟨0, some (0, 0, 3), [], [], 0, 6⟩).cancels 6).map (·.status) = some 6 := by
  decide +kernel
abbrev aFork (job : Nat) (cancelled : Bool) : ForkOp := ⟨0, 0, 0, 3, true, job, 0x20000, cancelled⟩
theorem witness_ForkEnds : ∀ op ∈ [aFork 2 true, aFork 0 false], let s := { (stCtr id id id) with forks := [(6, op)] }
    mget s.forks 6 = some op ∧ (task s op.tid).isSome = true ∧ hasNeed s (.fork 6) = false ∧
    dying s op.tid ((task s op.tid).getD aTask) = false := by decide +kernel
/-! ### Traces -/

/-- A 1 MiB region at 0x300000, which lane 0's v4 and v5 name, and an Eventide that is ON. -/
abbrev eventideUp (s : State) : State := { s with mgmt := { s.mgmt with mreg := [(0xD44, 0x202)] } }
abbrev gRegion (x : Group) : Group := { lanesAt 1 x with v := [(128, 0x300000)] }
abbrev openLaunch : Launch := { aLaunch with trec := { theRec with trw := true } }
abbrev stOpen (f : Tenant → Tenant) : State :=
  modTenant (eventideUp (paged (aState id gRegion))) 0 (fun x => f { x with ctr := someCtr, launches := [(1, openLaunch)] })
theorem witness_Tropen : let s := stOpen id
    let c := ctx s plain 8
    448 ≤ (0x1C3 : Reg).toNat ∧ Executes s c plain 8 ((⟨false, 4, 2⟩ :: useC false (.lit 1) 1) ++ [⟨true, 0x1C3, 1⟩]) ∧
    (c.c (.lit 1) (lowest c.act)).toNat = 1 ∧ namedCounter s 0 1 = some aLaunch1 ∧ aLaunch1.began = false ∧
    regionBad s 0 (rootOf s c.task) 0x300000 20 = false ∧ (c.ra 4 0 (lowest c.act)).toNat = 0x300000 ∧
    trOf s 0 0 = none ∧ eventideOn s (clusterOf c.task.core) = true ∧ c.grp.trap = none ∧ hvec s 0 ≠ 0 := by decide +kernel
theorem witness_Tropen_free : LowestHandle (stOpen id) 0 0 := ⟨by decide, by decide +kernel, by omega⟩
/-- The refusals: entry 3 is not OPEN; a block of launch 1 has been dispatched; 1 MiB at 0x300000 is no 2 MiB region; no handle. -/
abbrev aTrace (f : Trace → Trace) : Trace :=
  f ⟨0x400000, 0x100000, 20, 0, 1, 2, 0, none, 2, 5, 0, 3, 4, 5, 6, [], [], 0, none, false, false, 0⟩
theorem witness_Tropen_refused :
    namedCounter (stOpen id) 0 3 = some ended3 ∧
    (namedCounter (stOpen (fun x => { x with ctr := [(1, { aLaunch1 with began := true })] })) 0 1).map (fun e => (e.status, e.began)) =
      some (.open, true) ∧
    regionBad (stOpen id) 0 0x100000 0x300000 21 = true ∧
    (∀ j ∈ List.range 16, trOf (stOpen (fun x => { x with traces := (List.range 16).map (fun j => (j, aTrace id)) })) 0 j ≠ none) := by
  decide +kernel
/-- Trace 0 with two tasks, of labels 5 and 10. -/
abbrev tt (label state : Nat) (f : TTask → TTask) : TTask :=
  f (TTask.new Origin.blank label (label + 5) 0 0x4000 [] 0 0 1 state true false 0)
abbrev stTrace (f : Trace → Trace) (k : Tenant → Tenant) : State :=
  modTenant (eventideUp (paged (aState id (fun x => { gRegion { x with toks := [3] } with v := [] }))))
    0 (fun x => k { x with ctr := someCtr, traces := [(0, aTrace (fun tr => f { tr with tasks := [(1, tt 5 2 id), (2, tt 10 1 id)] }))] })
theorem witness_Trclose : let s := stTrace id id
    let c := ctx s plain 8
    448 ≤ (0x1C4 : Reg).toNat ∧ Executes s c plain 8 [⟨false, 4, 1⟩, ⟨true, 0x1C4, 1⟩] ∧ (c.ra 4 0 (lowest c.act)).toNat = 0 ∧
    (trOf s 0 0).isSome = true ∧ recording s 0 0 = false ∧ c.task.traced = none ∧ (trOf s 0 0).any (fun tr => tr.prop.isNone) = true ∧
    (match writeTraceOr (setTr s 0 0 (closeTrace ((trOf s 0 0).getD (aTrace id)))) 0 0 with
      | .ok _ => true
      | _ => false) = true := by decide +kernel
abbrev aRun (started : Bool) : PropRun := ⟨0, 0, 3, 2, 0x100000, started, [], false⟩
theorem witness_Trclose_waits : let s := stTrace (fun tr => { tr with prop := some (aRun false) }) id
    Executes s (ctx s plain 8) plain 8 [⟨false, 4, 1⟩, ⟨true, 0x1C4, 1⟩] ∧ ((trOf s 0 0).bind (·.prop)).isSome = true := by decide +kernel
theorem witness_Trclose_none : Executes st0 (ctx st0 plain 8) plain 8 [⟨false, 4, 1⟩, ⟨true, 0x1C4, 1⟩] ∧ trOf st0 0 0 = none := by
  decide +kernel
theorem witness_Trstat : let s := stTrace id id
    Executes s (ctx s plain 8) plain 8 [⟨false, 4, 1⟩, ⟨false, 6, 1⟩] ∧ (trOf s 0 0).isSome = true ∧ trOf st0 0 0 = none ∧
    Executes st0 (ctx st0 plain 8) plain 8 [⟨false, 4, 1⟩, ⟨false, 6, 1⟩] := by decide +kernel
/-- A granule of a TRK page, and of a page that is not tracked. -/
theorem witness_Trmark : ∀ w1 ∈ [[(0x104009, (0x02 : Byte)), (0x10400B, 0x10)], [(0x10400B, 0x10)]],
    let s := sheets stMem w1
    let c := ctx s plain 8
    let va := address c 2 (.lit 0) (lowest c.act)
    let r := Machine.access s (.core c.task.core) c.task.tenant (rootOf s c.task) va ⟨false, true, false, c.user⟩
    let p := (okAt r.2).getD (0, leafAll)
    Executes s c plain (SrcB.lit 0).len (⟨false, 2, 2⟩ :: useB false (.lit 0) 1) ∧ Quiet c.grp ∧ va < 2 ^ 57 ∧ r.2 = .ok p.1 p.2 ∧
    (Machine.core r.1 c.task.core).l1 = [] ∧ (p.2.trk = true ↔ w1.length = 2) := by
  intro w1 hw
  simp only [List.mem_cons, List.not_mem_nil, or_false] at hw
  rcases hw with rfl | rfl <;> (unfold Quiet; decide +kernel)
theorem witness_Prop : ∀ p ∈ [none, some (aRun false)], let s := stTrace (fun tr => { tr with prop := p }) id
    let c := ctx s plain 8
    Executes s c plain 8 [⟨false, 4, 1⟩] ∧ Quiet c.grp ∧ Drained s c.task.core ∧ (0x1C4 : Reg).toNat - 448 ∉ c.grp.toks ∧
    (trOf s 0 (c.ra 4 0 (lowest c.act)).toNat).isSome = true ∧ trOf st0 0 0 = none := by
  intro p hp
  simp only [List.mem_cons, List.not_mem_nil, or_false] at hp
  rcases hp with rfl | rfl <;> (unfold Quiet Drained; decide +kernel)
/-- Job 2 has a root of its own, whose tables map the same pages as the tenant's. -/
abbrev stShare : State := let s := stTrace id (fun x => { x with roots := [(2, 0x110000)] })
  { s with mem := s.mem ++ [(0x110000, 0x01), (0x110001, 0x20), (0x110002, 0x11), (0x112000, 0x01), (0x112001, 0x40), (0x112002, 0x11),
                    (0x114000, 0x7F), (0x114001, 0x03), (0x11400B, 0x10)],
           ukey := s.ukey ++ [(0x11000, 0), (0x11200, 0), (0x11400, 0)] }
theorem witness_Trfork : let s := stShare
    let c := ctx s plain 8
    let tr := (trOf s 0 0).getD (aTrace id)
    448 ≤ (0x1C4 : Reg).toNat ∧ Executes s c plain (SrcB.lit 2).len ((⟨false, 4, 1⟩ :: useB false (.lit 2) 1) ++ [⟨true, 0x1C4, 1⟩]) ∧
    (c.ra 4 0 (lowest c.act)).toNat = 0 ∧ (c.b (.lit 2) (lowest c.act)).toNat = 2 ∧ namedCounter s 0 2 = some job2 ∧
    trOf s 0 0 = some tr ∧ tr.prop = none ∧ recording s 0 0 = false ∧ eventideOn s (clusterOf c.task.core) = true ∧
    (∀ sp ∈ traceSpans tr, spanState s 0 tr.root sp ≠ .window) ∧ (s.cores.map (·.1)).foldl (fun s c => writeBackAll s c) s = s ∧
    s.wq = [] ∧ rootOfEntry s 0 2 = 0x110000 ∧ (shareTrace s 0 tr.root (rootOfEntry s 0 2) (traceSpans tr)).isSome = true := by
  decide +kernel
theorem witness_Trfork_free : LowestHandle stShare 0 1 := by
  refine ⟨by decide, by decide +kernel, fun j hj => ?_⟩
  have : j = 0 := by omega
  subst this; decide +kernel
/-- Entry 1 is no job; and trace 0 of a tenant that has none. -/
theorem witness_Trfork_refused : namedCounter stShare 0 1 = some aLaunch1 ∧ aLaunch1.level ≠ 4 ∧ trOf st0 0 0 = none ∧
    Executes st0 (ctx st0 plain 8) plain (SrcB.lit 2).len ((⟨false, 4, 1⟩ :: useB false (.lit 2) 1) ++ [⟨true, 0x1C4, 1⟩]) := by decide +kernel

/-- Records of task 1 on their way: a read, a write. -/
abbrev stRecords (e : TrEvent) : State :=
  stTrace (fun tr => { tr with tasks := [(1, tt 5 0 (fun k => { k with rd := [8] })), (2, tt 10 1 id)] }) (fun x => { x with trq := [e] })
theorem witness_TraceRecord : let tr := aTrace (fun tr => { tr with tasks := [(1, tt 5 0 (fun k => { k with rd := [8] })), (2, tt 10 1 id)] })
    let k := tt 5 0 (fun k => { k with rd := [8] })
    ∀ e ∈ [TrEvent.read 0 1 9, .write 0 1 9 [1, 2]],
    let s := stRecords e
    trOf s 0 0 = some tr ∧ mget tr.tasks 1 = some k ∧ recOn tr k = true ∧ k.live = false ∧ k.norec = false ∧ (∀ p ∈ tr.tasks, ∀ w ∈ p.2.wr, w.gran ≠ 9) ∧
    (∀ w ∈ k.wr, w.gran ≠ 9) ∧ (tenant s 0).trq = [e] ∧ 9 ∉ k.rd ∧ k.rd.length % 6 ≠ 0 ∧ mapOk tr.tasks = true ∧
    (∀ p ∈ tr.tasks, 9 ∉ p.2.rd) ∧ nusedRaw tr < nrecOf tr ∧
    (match reachFor (modTenant s 0 (fun x => { x with trq := [] })) 0 0 (trRoot tr) (tr.base + 64 * nusedRaw tr) with
      | .ok _ => true
      | _ => false) = true := by decide +kernel
abbrev stMod : State := { (stTrace (fun tr => { tr with tasks := [(1, tt 5 1 (fun k => { k with rd := [0x1000] })), (2, tt 10 1 id)] }) id) with
  modq := [⟨0, ⟨0x1000, 0x100000, none⟩⟩] }
theorem witness_ModificationRecord : let s := stMod
    let tr := (trOf s 0 0).getD (aTrace id)
    s.modq = [⟨0, ⟨0x1000, 0x100000, none⟩⟩] ∧ (tenant s 0).trq = [] ∧ (tenant s 0).traces = [(0, tr)] ∧
    modReaches s 0 0 tr ⟨0x1000, 0x100000, none⟩ = true ∧ (∀ p ∈ tr.tasks, p.2.live = false ∧ (∀ w ∈ p.2.wr ++ p.2.prior, w.gran ≠ 0x1000)) := by
  decide +kernel
theorem witness_WindowForm_starts : let s := stTrace (fun tr => { tr with prop := some (aRun false) }) id
    EventideQuiet s 0 0 ∧ (tenant s 0).resetting = false ∧ recording s 0 0 = false ∧ ((trOf s 0 0).bind (·.prop)) = some (aRun false) ∧
    ((trOf s 0 0).bind (·.part)) = none := by unfold EventideQuiet; decide +kernel
/-- The STALE task 1 is the next member. -/
theorem witness_WindowForm_members : let s := stTrace (fun tr => { tr with prop := some (aRun true), tstate := 1 }) id
    EventideQuiet s 0 0 ∧ (tenant s 0).resetting = false ∧ ((trOf s 0 0).map nextMembers) = some [1] := by
  unfold EventideQuiet; decide +kernel
/-- No task is left: the fixed point of an OPEN trace. -/
theorem witness_WindowForm_fixed :
    let s := stTrace (fun tr => { tr with prop := some (aRun true), tasks := [(1, tt 5 1 id)] }) id
    EventideQuiet s 0 0 ∧ (tenant s 0).resetting = false ∧ (trOf s 0 0).any (fun tr => tr.tstate != 1 && tr.tasks.all (fun x => !x.2.busy)) = true := by
  unfold EventideQuiet; decide +kernel
/-- The job of the propagation was cancelled: nothing stands to be undone. -/
theorem witness_WindowForm_cancelled :
    let s := stTrace (fun tr => { tr with prop := some { (aRun true) with cancelled := true } }) id
    let tr := (trOf s 0 0).getD (aTrace id)
    EventideQuiet s 0 0 ∧ (tenant s 0).resetting = false ∧
    (match applyAct s 0 0 (endedEarly ((tenant s 0).trq.filter (evOf 0)) tr) with
      | .ok _ => true
      | _ => false) = true := by unfold EventideQuiet; decide +kernel
/-- Task 1 has ended its re-execution; its child 3 has run too. -/
theorem witness_TaskCommit :
    let k := tt 5 5 (fun k => { k with nrd := [8], nkids := [3] })
    let s := stTrace (fun tr => { tr with prop := some (aRun true), tasks := [(1, k), (2, tt 10 1 id), (3, tt 7 6 id)] }) id
    let tr := (trOf s 0 0).getD (aTrace id)
    propagating tr = true ∧ EventideQuiet s 0 0 ∧ (tenant s 0).resetting = false ∧ (byLabel tr).find? (fun p => p.2.busy) = some (1, k) ∧ mget tr.tasks 1 = some k ∧
    k.prior = [] ∧ k.wr = [] ∧ (∀ c ∈ k.kids, (mget tr.tasks c).any (·.old) = false) ∧ 1 ∉ k.nkids ∧
    (∀ p ∈ tr.tasks, ∀ w ∈ p.2.wr, w.gran ∉ k.nrd) := by unfold EventideQuiet; decide +kernel
/-! ### Neighbour search -/

/-- n bytes of a number at an address below everything that memory lists, under the epoch of their key. -/
def withNum (s : State) (a n v : Nat) : State :=
  let cs := ((leBytes n v).zipIdx.map (fun p => (a + p.2, p.1))).filter (fun p => p.2 != 0)
  { s with mem := cs ++ s.mem, ukey := (List.range (n / 16)).map (fun i => (a / 16 + i, 0)) ++ s.ukey }
/-- A graph of 4 nodes of one FP16 dimension in records of 384 bytes at 0x40000, its version at 0x50000. -/
abbrev aGraph : Nat := 1 + 0x50000 <<< 199 + 3 <<< 176 + 1 <<< 163 + 2 <<< 156 + (0x40000 <<< 71 + 4 <<< 32) <<< 256
/-- The pages hold graphs of FP16. -/
abbrev graphPages : List Cell := [(0x10400A, 0x42), (0x10400B, 0x10)]
theorem witness_Nngraph : ∀ g ∈ [aGraph, 0], let s := withNum stMem 0x20000 160 g
    let c := ctx s plain 8
    let va := address c 2 (.lit 0) (lowest c.act)
    let p := gone (engPlan s c.task c.user true false none ((upTo 5).map (fun i => va + 32 * i) ++ [va + 159]))
    448 ≤ (0x1C3 : Reg).toNat ∧ Executes s c plain (SrcB.lit 0).len ((⟨false, 2, 2⟩ :: useB false (.lit 0) 1) ++ [⟨true, 0x1C3, 1⟩]) ∧
    Quiet c.grp ∧ Drained s c.task.core ∧
    engPlan s c.task c.user true false none ((upTo 5).map (fun i => va + 32 * i) ++ [va + 159]) = .go p.1 p.2 ∧
    FreshGranules p.1 c.task p.2 ∧ granNum p.1 p.2 va 160 = g ∧ graphBad g = decide (g = 0) := by
  intro g hg
  simp only [List.mem_cons, List.not_mem_nil, or_false] at hg
  rcases hg with rfl | rfl <;> (unfold Quiet Drained FreshGranules; decide +kernel)
abbrev stGraph (f : Tenant → Tenant) : State := modTenant stMem 0 (fun x => f { x with graphs := [(5, BitVec.ofNat 1280 aGraph)] })
/-- The access of one lane that goes on. -/
def wentOn (o : LaneOut) : LaneAcc :=
  match o with
  | .go la => la
  | _ => anAcc 0 0
theorem witness_NngraphBump : let s := stGraph id
    let c := ctx s plain 8
    let r := laneCheck s c.task c.user (.atom 0x1C3 true .addN64 .package .rel) (laneAcc (lowest c.act) (gVer aGraph) (gVer aGraph) 0 [1, 0])
    let la := wentOn r.2
    Executes s c plain 8 [⟨true, 0x1C3, 1⟩] ∧ Quiet c.grp ∧ (mget (tenant s 0).graphs 5).map (fun k => gVer k.toNat) = some (gVer aGraph) ∧
    r.2 = .go la ∧ la.ordsh = false ∧ Drained r.1 c.task.core ∧ (Machine.core r.1 c.task.core).l1 = [] ∧
    portReady r.1 c.task.core [la] = true ∧ (∀ j, j < 8 → blockBad r.1 (la.pa + j) = false) := by
  unfold Quiet Drained; decide +kernel
theorem witness_Nngraph_none : Executes st0 (ctx st0 plain 12) plain 12 [⟨true, 0x1C3, 1⟩] ∧ mget (tenant st0 0).graphs 63 = none := by
  decide +kernel
theorem witness_Nnq : let c := ctx stMem plain 8
    Executes stMem c plain (SrcB.lit 0).len (⟨false, 2, 2⟩ :: useB false (.lit 0) 1) ∧ (0x1C3 : Reg).toNat - 448 ∉ c.grp.toks ∧
    c.task.traced = none ∧ slotQuery stMem c.tid c.g 15 = none ∧ 
    stMem.queries.countP (fun p => p.2.engine == clusterOf c.task.core && !p.2.written) < 64 ∧ levLine stMem (clusterOf c.task.core) = [] := by
  decide +kernel
/-- The group stands first in the line for its engine. -/
theorem witness_Nnq_line : let s := { stMem with levq := [⟨0, 0, 0, 0x1000⟩] }
    let c := ctx s plain 8
    (levLine s (clusterOf c.task.core)).head? = some ⟨clusterOf c.task.core, c.tid, c.g, c.ent.pc⟩ := by decide +kernel
/-- A query in slot 15 that waits for its start, of the descriptor at 0x20000; one that runs. -/
abbrev aQuery (f : Query → Query) : Query :=
  f ⟨0, 0, 0, 3, true, 15, 0, 0x20000, 0, none, false, false, [], [], [], 0, 0, [], [], [], none, [], 0, none, false, [], false, [], false⟩
abbrev qHead : Nat := 0x60000 <<< 455 + 1 <<< 192 + 5 <<< 186 + 1 <<< 183 + 4 <<< 174 + 2 <<< 167 + 1 <<< 150
abbrev running (f : Query → Query) : Query :=
  aQuery (fun q => f { q with started := true, read := true, hdr := BitVec.ofNat 512 qHead, graph := some (BitVec.ofNat 1280 aGraph),
                              qv := [0x40000000], vis := [1], beam := [(0x3F800000, 1, true)], hops := 1, rounds := 1 })
/-- Node 1 has one neighbour, 3; both vectors are 1.0. -/
abbrev stQuery (q : Query) : State :=
  let s := sheets (paged (aState id (fun x => { x with toks := [3] }))) graphPages
  let s1 := withNum (withNum (withNum (withNum s 0x40590 16 0x3C00) 0x40290 16 0x3C00) 0x40180 32 (1 <<< 32 + 3 <<< 128))
    0x20000 80 (qHead + 0x40000000 <<< 512)
  modTenant { s1 with queries := [(6, q)] } 0 (fun x => { x with graphs := [(5, BitVec.ofNat 1280 aGraph)] })
theorem witness_Nnwait : let s := stQuery (aQuery id)
    let c := ctx s plain 12
    Executes s c plain 12 [] ∧ Quiet c.grp ∧ (∃ p ∈ s.queries, p.2.tid = c.tid ∧ p.2.g = c.g ∧ (0x8000 : Half).getLsbD p.2.slot = true) ∧
    ¬ (∃ p ∈ s.queries, p.2.tid = c.tid ∧ p.2.g = c.g ∧ (0x7FFF : Half).getLsbD p.2.slot = true) := by
  unfold Quiet; decide +kernel
theorem witness_Nncancel : let s := stQuery (aQuery id)
    Executes s (ctx s plain 8) plain 8 [] ∧ slotQuery s 0 0 15 = some (6, aQuery id) ∧ slotQuery s 0 0 14 = none := by decide +kernel
/-- What a read of an engine gives. -/
def levGot (o : LevOut) : State × Map Byte :=
  match o with
  | .ok s m => (s, m)
  | _ => (st0, [])
def nodeGot (o : NodeOut) : State × Word × Bool × List Word :=
  match o with
  | .ok s d p ids => (s, d, p, ids)
  | _ => (st0, 0, false, [])
theorem witness_QueryStart : let q := aQuery id
    let s := stQuery q
    let tk := (task s 0).getD aTask
    let a := levGot (levRead s tk 6 q 0 none (byteRange q.addr 64) [])
    let q1 := headed a.1 q (bytesNum a.2 q.addr 64)
    let b := levGot (levRead a.1 tk 6 q 0 none (byteRange (q.addr + 64) (4 * qDims q1)) [])
    let q2 := { q1 with spill := [], verSeen := true, qv := (upTo (qDims q1)).map (fun j => BitVec.ofNat 32 (bytesNum b.2 (q.addr + 64 + 4 * j) 4)) }
    let d := nodeGot (nodeStep b.1 tk 6 q2 0 1 false)
    mget s.queries 6 = some q ∧ task s q.tid = some tk ∧ nextToStart s 6 q = true ∧ hasNeed s (.query 6) = false ∧
    earlierDone s q.tid q.g 6 = true ∧ q.addr % 64 = 0 ∧ q.vis = [] ∧ q.beam = [] ∧ q.res = [] ∧ q.hops = 0 ∧ q.rounds = 0 ∧
    levRead s tk 6 q 0 none (byteRange q.addr 64) [] = .ok a.1 a.2 ∧
    queryBad q1 = false ∧ spillPages a.1 tk q1 = (a.1, [], false, []) ∧
    levRead a.1 tk 6 q 0 none (byteRange (q.addr + 64) (4 * qDims q1)) [] = .ok b.1 b.2 ∧ qEntryN q1 = 1 ∧ qEntry q1 0 = 1 ∧
    tk.traced = none ∧ nodeStep b.1 tk 6 q2 0 1 false = .ok d.1 d.2.1 d.2.2.1 [] ∧ d.2.1 = 0x3F800000 ∧ q.status = none := by
  decide +kernel
theorem witness_ExpansionRequest : let q := running (fun q => { q with cand := [1], asked := [1] })
    let s := stQuery q
    let tk := (task s 0).getD aTask
    let r := expand (outstanding s q.asked).1 tk 6 q 1
    let d := nodeGot r.2
    mget s.queries 6 = some q ∧ task s q.tid = some tk ∧ (outstanding s q.asked).2 = some 1 ∧ q.status = none ∧
    hasNeed s (.query 6) = false ∧ r = ([(3, 0x3F800000, true)], .ok d.1 d.2.1 d.2.2.1 d.2.2.2) := by decide +kernel
/-- The reply of node 1 is on its way; it has arrived. -/
theorem witness_ExpansionReply : let q := running (fun q => { q with cand := [1], reps := [(1, [(3, 0x3F800000, true)], none)] })
    mget (stQuery q).queries 6 = some q ∧ q.status = none ∧ 
    (outstanding (stQuery q) (q.cand.filter (fun c => q.reps.any (fun r => r.1 == c)))).2 = some 1 := by
  decide +kernel
theorem witness_RoundMerge : let q := running (fun q => { q with reps := [(1, [(3, 0x3F800000, true)], none)] })
    let s := stQuery q
    mget s.queries 6 = some q ∧ (task s q.tid).isSome = true ∧ q.status = none ∧ q.started = true ∧ q.cand = [] ∧ q.asked = [] ∧
    q.reps ≠ [] ∧ hasNeed s (.query 6) = false ∧ (∀ r ∈ q.reps, r.2.2 = none ∧ ∃ x ∈ q.beam, x.2.1 = r.1) ∧
    (q.reps.map (·.1)).Nodup ∧ qHops q = 0 ∧
    q.vis.length + (triplesOf q).length ≤ 8192 := by decide +kernel
theorem witness_QueryComplete : let q := running (fun q => { q with status := some 0, res := [(0x3F800000, 1)] })
    let s := stQuery q
    let tk := (task s 0).getD aTask
    let p := gone (engPlan (setQuery s 6 { q with spill := [] }) tk q.user false true none ((resultBytes q 0).map (·.1)))
    mget s.queries 6 = some q ∧ task s q.tid = some tk ∧ q.written = false ∧ q.read = true ∧ hasNeed s (.query 6) = false ∧
    tk.saved = false ∧ qRes q % 16 = 0 ∧ pendingBelow s (die s (dieOf tk.core)).clock = false ∧
    engPlan (setQuery s 6 { q with spill := [] }) tk q.user false true none ((resultBytes q 0).map (·.1)) = .go p.1 p.2 ∧ (p.2.map (·.pa)).Nodup ∧
    (∀ la ∈ p.2, la.pa % 32 = 0 ∧ la.key = 1 ∧ ∀ j, j < 32 → blockBad p.1 (la.pa + j) = false) := by decide +kernel
/-- A cancel of a query that runs, and of one that has not started. -/
theorem witness_QueryCancelArrival : ∀ q ∈ [running (fun q => { q with cancelled := true, asked := [1], cand := [1] }),
      aQuery (fun q => { q with cancelled := true })],
    mget (stQuery q).queries 6 = some q ∧ q.cancelled = true ∧ q.written = false ∧ q.status ≠ some 3 := by
  intro q hq
  simp only [List.mem_cons, List.not_mem_nil, or_false] at hq
  rcases hq with rfl | rfl <;> decide +kernel
/-! ### Pages and migration -/

/-- Tables of levels 1 and 0 for 0x40000000 onwards; the first entry of level 0 is w0, w1. Free 4 KiB pieces and a 64 KiB frame. -/
abbrev aNeed (who : Needer) (svc : Service) (write : Bool) (pages : List Nat) (out : List (Nat × List Nat)) : Need :=
  ⟨0, who, svc, write, pages, out, 0, 0x40000000, pages ++ out.flatMap (·.2), 0⟩
abbrev stPage (w0 w1 : Nat) (n : Need) (f : Tenant → Tenant) : State :=
  let s := paged (aState id (fun x => { x with oplog := [{ logged none [] with served := false }] }))
  let cs := ((leBytes 8 w0 ++ leBytes 8 w1).zipIdx.map (fun p => (0x108000 + p.2, p.1))).filter (fun p => p.2 != 0)
  modTenant { s with mem := s.mem ++ [(0x104010, 1), (0x104011, 0x60), (0x104012, 0x10), (0x106000, 1), (0x106001, 0x80), (0x106002, 0x10)] ++ cs,
                     ukey := s.ukey ++ [(0x10401, 0), (0x10600, 0), (0x10800, 0)], needs := [(8, n)] } 0
    (fun x => f { x with ctr := someCtr, pieces := [0x220], frames := [0x23] })
/-- What a walk found: a leaf, or the words of an entry that is absent. -/
def leafAt (w : Walk) : Xl :=
  match w with
  | .leaf x => x
  | _ => leafAll
/-- A page under COW, at 0x200000, that nobody else shares; and one that one other shares. -/
abbrev cowNeed : Need := aNeed (.log 0 0 7) .share true [0x40000] []
theorem witness_SharingBreak : ∀ sh ∈ [[], [((0x200 : Nat), 2)]], let s := stPage 0x200373 0x10004000 cowNeed (fun x => { x with shares := sh })
    let x := leafAt (walk s 0 0x100000 (2 ^ 12 * 0x40000))
    let r := (takePage s 0 0 x.w1).getD (st0, 0)
    Awaits s 8 cowNeed .share 0x100000 0x40000 ∧ walk s 0 0x100000 (2 ^ 12 * 0x40000) = .leaf x ∧
    judgeLeaf s .fresh 0 (2 ^ 12 * 0x40000) (needWant cowNeed) x = .serve .share ∧
    breakWaits s 8 cowNeed 0x100000 (2 ^ 12 * 0x40000) = false ∧ x.shr = false ∧ nb x.w0 2 2 = 0 ∧ x.leaf % 16 = 0 ∧
    shareOf s 0 (pointed x.w0 x.w1) (2 ^ 12) = (if sh = [] then 1 else 2) ∧ PoolEmpty s 0 ∧
    (∀ c ∈ s.cores, c.2.l1 = []) ∧ frameBusy s (pointed x.w0 x.w1) (2 ^ 12) = false ∧ takePage s 0 0 x.w1 = some (r.1, r.2) ∧
    r.2 < 2 ^ 39 ∧ Apart x.leaf r.2 (2 ^ 12) := by
  intro sh hs
  simp only [List.mem_cons, List.not_mem_nil, or_false] at hs
  rcases hs with rfl | rfl <;> (unfold Awaits PoolEmpty Apart; decide +kernel)
/-- The first touch of an arena page of job 2: NPK 1. -/
abbrev arenaNeed : Need := aNeed (.log 0 0 7) .arena true [0x40000] []
theorem witness_ArenaPageBack : let w1 := 0x10000000 + 2 <<< 36
    let s := stPage 2 w1 arenaNeed id
    let r := (takeFrame s 0 (fun s pa => frameFits s w1 pa)).getD (st0, 0)
    Awaits s 8 arenaNeed .arena 0x100000 0x40000 ∧ PoolEmpty s 0 ∧
    walk s 0 0x100000 (2 ^ 12 * 0x40000) = .absent 1 2 w1 0x108000 false ∧
    judge s .fresh 0 (2 ^ 12 * 0x40000) (needWant arenaNeed) (.absent 1 2 w1 0x108000 false) = .serve .arena ∧
    takeFrame s 0 (fun s pa => frameFits s w1 pa) = some (r.1, r.2) ∧ r.2 < 2 ^ 39 := by unfold Awaits PoolEmpty; decide +kernel
/-- A MIGRATED page: NPK 2, its image in page 3 of the tier. -/
abbrev backNeed : Need := aNeed (.log 0 0 7) .migrated true [0x40000] []
theorem witness_MigratedPageRestore : let s := { (stPage 0x3374 0x10000000 backNeed id) with images := [(3, 2 ^ 12)] }
    let r := (takePage s 0 0 0x10000000).getD (st0, 0)
    Awaits s 8 backNeed .migrated 0x100000 0x40000 ∧ PoolEmpty s 0 ∧
    walk s 0 0x100000 (2 ^ 12 * 0x40000) = .absent 2 0x3374 0x10000000 0x108000 false ∧
    judge s .fresh 0 (2 ^ 12 * 0x40000) (needWant backNeed) (.absent 2 0x3374 0x10000000 0x108000 false) = .serve .migrated ∧
    mget s.images (0x3374 / 2 ^ 12) = some (2 ^ 12) ∧ takePage s 0 0 0x10000000 = some (r.1, r.2) ∧ r.2 < 2 ^ 39 ∧
    Apart 0x108000 r.2 (2 ^ 12) := by unfold Awaits PoolEmpty Apart; decide +kernel
/-- A pool ring of 2^4 entries at 0x20000 whose first is a frame, or no frame. -/
theorem witness_FramePoolRefill : ∀ e ∈ [0x240000, 0x240001],
    let s := csrSet (csrSet (csrSet (withNum stMem 0x20000 16 e) 0 0x042 0x20000) 0 0x044 4) 0 0x045 1
    let a := csrAddr s 0 0x042 12 + 8 * ((csrGet s 0 0x046).toNat % 2 ^ nb (csrGet s 0 0x044).toNat 0 5)
    let r := poolEntry s 0 a
    nb (csrGet s 0 0x044).toNat 0 5 = 4 ∧ csrGet s 0 0x045 = csrGet s 0 0x046 + 1 ∧ (tenant s 0).frames.length < 64 ∧
    r.2 = some e := by decide +kernel
/-- 33 pages of one need; the host allows 33. -/
abbrev wide : Need := aNeed (.log 0 0 7) .pri false (List.range 33) []
theorem witness_PriGroupSend : let s := stPage 0 0 wide (fun x => { x with priA := 33 })
    s.needs = [(8, wide)] ∧ wide.pages ≠ [] ∧ wide.pages.Pairwise (· < ·) ∧ grpFree s 0 = some 0 ∧ min (tenant s 0).priA 32 = 32 ∧
    priStopped s 0 = false ∧ priOut s 0 + (wide.pages.take 32).length ≤ (tenant s 0).priA := by decide +kernel
/-- A region of 64 records that has room for one. -/
abbrev asked : Need := aNeed (.log 0 0 7) .request false [0x40000] []
theorem witness_RequestSend : let s := fregSet (fregSet (stPage 0 0 asked id) 0 0x208 6) 0 0x210 63
    s.needs = [(8, asked)] ∧ asked.pages ≠ [] ∧ asked.pages.Pairwise (· < ·) ∧ grpFree s 0 = some 0 ∧ regionOn s 0 = true ∧ frFree s 0 = 1 := by
  decide +kernel
/-- A module whose start is over: its functions answer. -/
abbrev up (s : State) : State := { s with mgmt := { s.mgmt with boot := 6 } }
/-- Group 511 awaits its answer: FRRESP of Success (0), of Invalid (1) and of Response Failure (0xF). -/
theorem witness_Answers : ∀ svc ∈ [Service.pri, .request], let n := aNeed (.log 0 0 7) svc false [] [(511, [0x40000])]
    let s := up (stPage 0 0 n id)
    mget s.needs 8 = some n ∧ (mget n.out 511).isSome = true ∧ (tenant s 0).resetting = false ∧ funcUp s 0 = true ∧ (tenant s 0).posted = [] ∧
    (∀ p ∈ s.needs, p.2.tenant = 0 → p.2.svc = n.svc → (mget p.2.out 511).isSome → p = (8, n)) ∧ regionOn s 0 = false ∧
    (0x11FF : Word).toNat % 2 ^ 9 = 511 ∧ (0x11FF : Word).toNat / 2 ^ 12 % 2 ^ 4 = 1 ∧ (0x1FF : Word).toNat / 2 ^ 12 % 2 ^ 4 = 0 ∧
    (0xF1FF : Word).toNat / 2 ^ 12 % 2 ^ 4 = 15 := by decide +kernel

/-- The ring of migration commands at 0x20000 holds one that is valid, or not. -/
abbrev ring (s : State) : State := csrSet (csrSet s 0 0x04B 0x20000) 0 0x04D 4
theorem witness_MigrationPoll : ∀ cmd ∈ [0x40000000 <<< 192 + 0x101, 0x40000000 <<< 192 + 0x100], let s := ring (withNum stMem 0x20000 32 cmd)
    let r := mgRead s 0
    (tenant s 0).mig = none ∧ mgOn s 0 = true ∧ r.2 = some cmd := by decide +kernel
/-- A command on the page at 0x40000000, and one of no operation. -/
abbrev aCmd (op : Nat) : BitVec 256 := BitVec.ofNat 256 (0x40000000 <<< 192 + op <<< 8 + 1)
abbrev stMig (w0 w1 op step : Nat) (f : Tenant → Tenant) : State := ring (stPage w0 w1 asked (fun x => f { x with mig := some ⟨aCmd op, step⟩ }))
theorem witness_MigBadop : let s := stMig 0x200373 0x10000000 5 0 id
    (tenant s 0).mig = some ⟨aCmd 5, 0⟩ ∧ cmdBad (aCmd 5).toNat = true := by decide +kernel
/-- The first steps, and the MOVE to a frame of the store; the page shared; and a page of 1 GiB. -/
theorem witness_Migrate : ∀ op ∈ [1, 3, 4], ∀ step ∈ [0, 1], let s := stMig 0x200373 0x10000000 op step id
    let cmd := (aCmd op).toNat
    let x := leafAt (walk s 0 0x100000 (cmdVa cmd))
    (tenant s 0).mig = some ⟨aCmd op, step⟩ ∧ cmdBad cmd = false ∧ cmdOp cmd = op ∧ cmdRoot s 0 cmd = some 0x100000 ∧
    walk s 0 0x100000 (cmdVa cmd) = .leaf x ∧ nb x.w0 2 2 = 0 ∧ stalePage s 0 x.w1 = false ∧ migShared s 0 cmd x.w0 x.w1 x.shr false = false ∧
    redsIn s (pointed x.w0 x.w1) (2 ^ 12) = false ∧ pageQuiet s (pointed x.w0 x.w1) (2 ^ 12) = true ∧
    frameBad s (pointed x.w0 x.w1) (2 ^ 12) = false ∧ PoolEmpty s 0 := by
  intro op ho step hs
  simp only [List.mem_cons, List.not_mem_nil, or_false] at ho hs
  rcases ho with rfl | rfl | rfl <;> rcases hs with rfl | rfl <;> (unfold PoolEmpty; decide +kernel)
theorem witness_Migrate_dest : let s := stMig 0x200373 0x10000000 3 1 id
    let r := (migDest s 0 (aCmd 3).toNat 0 0x10000000).getD (st0, 0)
    migDest s 0 (aCmd 3).toNat 0 0x10000000 = some (r.1, r.2) ∧ Apart 0x108000 r.2 (2 ^ 12) ∧ r.2 < 2 ^ 39 := by unfold Apart; decide +kernel
theorem witness_Migrate_shared : let s := stMig 0x200373 0x10000000 4 0 (fun x => { x with shares := [(0x200, 2)] })
    1 < shareOf s 0 (pointed 0x200373 0x10000000) (2 ^ 12) := by decide +kernel
/-- A break of sharing of the page is under way. -/
theorem witness_Migrate_break : let s := stMig 0x200373 0x10000000 4 0 (fun x => { x with shares := [(0x200, 2)] })
    underBreak { s with needs := [(8, cowNeed)] } 0 (aCmd 4).toNat = true := by decide +kernel
theorem witness_Migrate_badpage : let s := modTenant (ring stMem) 0 (fun x => { x with mig := some ⟨BitVec.ofNat 256 0x301, 0⟩ })
    cmdBad 0x301 = false ∧ cmdRoot s 0 0x301 = some 0x100000 ∧
    nb (leafAt (walk s 0 0x100000 (cmdVa 0x301))).w0 2 2 = 3 := by decide +kernel
/-- A page of an earlier generation of job 2's arena: of one that is there, and of a MIGRATED one. -/
theorem witness_Mig_stale : let w1 := 0x10000000 + 2 <<< 36 + 1 <<< 48
    stalePage (stMig 0x200373 w1 1 0 id) 0 (leafAt (walk (stMig 0x200373 w1 1 0 id) 0 0x100000 (cmdVa (aCmd 1).toNat))).w1 = true ∧
    walk (stMig 0x3374 w1 2 0 id) 0 0x100000 (cmdVa (aCmd 2).toNat) = .absent 2 0x3374 w1 0x108000 false ∧
    stalePage (stMig 0x3374 w1 2 0 id) 0 w1 = true := by decide +kernel
/-- IN of a MIGRATED page, with a frame and without; and of a page that is there. -/
theorem witness_MigIn : ∀ ps ∈ [[(0x220 : Nat)], []],
    let s := { (stMig 0x3374 0x10000000 2 0 (fun x => { x with pieces := ps, frames := [] })) with images := [(3, 2 ^ 12)] }
    let cmd := (aCmd 2).toNat
    let r := takePage s 0 0 0x10000000
    (tenant s 0).mig = some ⟨aCmd 2, 0⟩ ∧ cmdBad cmd = false ∧ cmdOp cmd = 2 ∧ cmdRoot s 0 cmd = some 0x100000 ∧
    walk s 0 0x100000 (cmdVa cmd) = .absent 2 0x3374 0x10000000 0x108000 false ∧ stalePage s 0 0x10000000 = false ∧
    migShared s 0 cmd 0x3374 0x10000000 false true = false ∧ mget s.images (0x3374 / 2 ^ 12) = some (2 ^ 12) ∧
    frameBad s (tierBase + 0x3374 / 2 ^ 12 * 2 ^ 12) (2 ^ 12) = false ∧ PoolEmpty s 0 ∧
    r.map (·.2) = (if ps = [] then none else some 0x220000) ∧ Apart 0x108000 0x220000 (2 ^ 12) := by
  intro ps hp
  simp only [List.mem_cons, List.not_mem_nil, or_false] at hp
  rcases hp with rfl | rfl <;> (unfold PoolEmpty Apart; decide +kernel)
theorem witness_MigIn_badpage : let s := stMig 0x200373 0x10000000 2 0 id
    ∀ root w0 w1 a sh, cmdRoot s 0 (aCmd 2).toNat = some root → walk s 0 root (cmdVa (aCmd 2).toNat) ≠ .absent 2 w0 w1 a sh := by
  intro s root w0 w1 a sh hr
  have h1 : cmdRoot s 0 (aCmd 2).toNat = some 0x100000 := by decide +kernel
  have h2 : walk s 0 0x100000 (cmdVa (aCmd 2).toNat) = .leaf (leafAt (walk s 0 0x100000 (cmdVa (aCmd 2).toNat))) := by decide +kernel
  have : root = 0x100000 := Option.some.inj (hr.symm.trans h1)
  subst this
  rw [h2]; simp
/-! ### Pre-emption, sampling, debug -/

/-- Tenant 1 has a launch at the head of queue 5 and no core but core 0 is ON (core 1 to 71 are disabled); tenant 0 holds core 0. -/
abbrev other : Tenant := inQueue { Tenant.reset true with ctr := [(1, aLaunch1)], launches := [(1, aLaunch)] }
abbrev stQuantum (ph : CtxPhase) (mode : Word) (f : Tenant → Tenant) : State :=
  let s := islandOn { st0 with cycle := 1024 * 0x33F, disabled := (List.range 71).map (· + 1) }
  let s1 := modTenant (csrSet s 0 0x050 mode) 0 (fun x => { x with ctr := someCtr, ctxs := [(0, ⟨0, 0, ph, []⟩)] })
  { s1 with tens := s1.tens ++ [(1, f other)] }
theorem witness_QuantumExpiry : ∀ mode ∈ [(0 : Nat), 1], let s := stQuantum .resident (BitVec.ofNat 32 mode) id
    ctxOf s 0 0 = some ⟨0, 0, .resident, []⟩ ∧ (csrGet s 0 0x051).toNat % 2 ^ 24 ≠ 0 ∧
    1024 * ((csrGet s 0 0x051).toNat % 2 ^ 24) ≤ s.cycle - 0 ∧ wanted s 0 0 = true ∧ longest s 0 0 = true ∧
    shadowTenant s 0 = decide (mode = 1) ∧ saveWaits s 0 0 = false := by decide +kernel
theorem witness_ShadowSwitch : let s := stQuantum .shadow 1 (fun x => { x with queues := [] })
    ctxOf s 0 0 = some ⟨0, 0, .shadow, []⟩ ∧ wanted s 0 0 = false := by decide +kernel
/-- A context in the restoring whose slot at 0x40000 reads as its check value, or not. -/
theorem witness_ContextRestore : ∀ b ∈ [(0x13 : Nat), 0x12],
    let s := modTenant (csrSet (withNum stMem 0x200000 16 0x13) 0 0x053 0x200000) 0 (fun x =>
      { x with ctxs := [(0, ⟨0, 0, .restoring, [(0, BitVec.ofNat 8 b)]⟩)] })
    let chunks := chunksOf (slotVa s 0 0) 1
    let s1 := match slotReach 0 ⟨true, false, false, false⟩ chunks s with
      | .ok s1 => s1
      | _ => st0
    let r := devRead s1 0 (tenantRoot s1 0) (slotVa s 0 0) 1 false
    (ctxOf s 0 0).map (·.phase) = some .restoring ∧
    (match slotReach 0 ⟨true, false, false, false⟩ chunks s with
      | .ok _ => true
      | _ => false) = true ∧ r.2 = some [0x13] := by decide +kernel

/-- A sampler of scheduler 0 of core 0: not started, due, and one whose load has come back. -/
abbrev stSample (z : List (Nat × Sampler)) (size : Word) : State :=
  csrSet (csrSet (csrSet (modTenant stMem 0 (fun x => { x with samplers := z })) 0 0x060 8) 0 0x080 0x50000) 0 0x082 size
abbrev sampling (x : SampTag) : Sampler := ⟨0, 7, some x⟩
theorem witness_SamplePoint_starts : let s := stSample [] 0
    samplerOn s 0 = true ∧ (∃ y, s.tens = [(0, y)] ∧ mget y.samplers 0 = none) ∧ (csrGet s 0 0x085).toNat % 2 ^ 24 ≠ 0 ∧
    schedGroups s 0 0 0 ≠ [] := ⟨by decide +kernel, ⟨_, rfl, by decide +kernel⟩, by decide +kernel, by decide +kernel⟩
theorem witness_SamplePoint : let s := stSample [(0, ⟨0, 7, none⟩)] 0
    let x := (group s 0 0).getD aGroup
    (∃ y, s.tens = [(0, y)] ∧ mget y.samplers 0 = some ⟨0, 7, none⟩) ∧ schedGroups s 0 0 0 = [(0, 0, 0)] ∧
    (task s 0).isSome = true ∧ group s 0 0 = some x ∧ (x.select (fairOn s 0) (fairLimit s 0)).isSome = true :=
  ⟨⟨_, rfl, by decide +kernel⟩, by decide +kernel, by decide +kernel, by decide +kernel, by decide +kernel⟩
theorem witness_SampleRecord : let x : SampTag := ⟨0, 0, 0, false, some 0x101, some 12⟩
    let s := stSample [(0, sampling x)] 6
    let r := Machine.access s .fresh 0 (tenantRoot s 0) (csrAddr s 0 0x080 12 + 64 * ((csrGet s 0 0x084).toNat % 2 ^ 6)) ⟨false, true, false, false⟩
    let p := (okAt r.2).getD (0, leafAll)
    (∃ y, s.tens = [(0, y)] ∧ mget y.samplers 0 = some (sampling x)) ∧ awaited s x = true ∧
    ((group s 0 0).any (fun q => q.trap.isNone)) = true ∧ (csrGet s 0 0x082).toNat % 2 ^ 5 = 6 ∧
    (csrGet s 0 0x084 - csrGet s 0 0x083).toNat < 2 ^ 6 ∧ r.2 = .ok p.1 p.2 ∧
    (p.2.legal = true ∧ spillHolds r.1 (p.1 / lineBytes) = false ∧ ∀ j, j < 64 → blockBad r.1 (p.1 + j) = false) :=
  ⟨⟨_, rfl, by decide +kernel⟩, by decide +kernel, by decide +kernel, by decide +kernel, by decide +kernel, by decide +kernel, by decide +kernel⟩
/-- A ring of 2^5 records is disabled. -/
theorem witness_SampleRecord_lost : (csrGet (stSample [] 5) 0 0x082).toNat % 2 ^ 5 < 6 := by decide +kernel

/-- Breakpoint 0 at 0x1000 for every block. -/
abbrev stBreak : State := csrSet (csrSet (csrSet st0 0 0x068 0x1001) 0 0x06A 0x80000000) 0 0x060 2
theorem witness_BreakpointMatch : let s := stBreak
    let tk := (task s 0).getD aTask
    let x := (mget tk.groups 0).getD aGroup
    task s 0 = some tk ∧ mget tk.groups 0 = some x ∧ bpNow s tk x ≠ 0 := by decide +kernel
/-- A stop of block 0 of launch 1, which no command or one command awaits. -/
theorem witness_PreciseStop : ∀ w ∈ [none, some ((1 : Nat), (0 : Nat))],
    let s := modTenant (aState (fun t => { t with stopReq := some (2, 1) }) id) 0 (fun x => { x with dbgWait := w })
    let tk := (task s 0).getD aTask
    task s 0 = some tk ∧ unitRuns s tk = true ∧ tk.stopReq = some (2, 1) ∧ tk.run = .running ∧
    (∀ q ∈ tk.groups, q.2.loads = [] ∧ q.2.stores = []) ∧ nb (csrGet s tk.tenant 0x08A).toNat 0 5 < 6 ∧
    (tenant s tk.tenant).dbgWait = w ∧ (tk.launch, tk.blk) = (1, 0) := by decide +kernel
/-- A command on block 0 of launch 1: its operation and index in DBGCMD, the group and lane in DBGLN. -/
abbrev stDbg (cmd ln : Word) (f : Task → Task) (g : Group → Group) : State :=
  let s := csrSet (csrSet (csrSet (aState f g) 0 0x061 0x80000000) 0 0x062 cmd) 0 0x063 (ln ||| 1)
  modTenant s 0 (fun x => { x with ctr := someCtr })
abbrev held (t : Task) : Task := { t with run := .stopped }
theorem witness_DbgRunning : ∀ op ∈ List.range 7, 1 ≤ op → let s := stDbg (BitVec.ofNat 32 op) 0 id id
    let x := (task s 0).getD aTask
    dbgPending s 0 op = true ∧ DbgBlock s 0 0 x ∧ x.run = .running ∧ x.stopReq = none := by unfold DbgBlock; decide +kernel
theorem witness_DbgHeld : ∀ op ∈ List.range 7, 1 ≤ op → let s := stDbg (BitVec.ofNat 32 op) 0 held id
    let x := (task s 0).getD aTask
    dbgPending s 0 op = true ∧ DbgBlock s 0 0 x ∧ x.run = .stopped := by unfold DbgBlock; decide +kernel
theorem witness_DbgNone : ∀ op ∈ List.range 7, 1 ≤ op → let s := stDbg (BitVec.ofNat 32 op) 2 id id
    dbgPending s 0 op = true ∧ blockNamed s 0 (dbgName s 0) = none ∧ blockQueued s 0 (dbgName s 0) = false := by decide +kernel
/-- The registers that READ and WRITE reach: v511 of 16 granules, v480 which 15 do not hold, s63 and a pending s3, lane 31's predicates; and
the last arguments: s64, class 3, group 15. -/
theorem witness_DbgRegisters : let s := stDbg 0x8F05 0x1F0000 held (fun x => { x with toks := [3] })
    let x := (task s 0).getD aTask
    let gr := (mget x.groups 0).getD aGroup
    DbgBlock s 0 0 x ∧ x.run ≠ .running ∧ (csrGet s 0 0x063).toNat / 2 ^ 16 % 2 ^ 5 = 31 ∧ mget x.groups 0 = some gr ∧
    mget x.groups 15 = none ∧ (Rg.v 127).fits x.granules = true ∧ (Rg.v 480).fits 15 = false ∧
    (Rg.v 511).fits 16 = true ∧ gr.pendTok (.s 3) = true ∧ gr.pendTok (.s 63) = false ∧ Rg.s 63 ∉ gr.pendRegs := by
  unfold DbgBlock; decide +kernel
theorem witness_DbgBadarg : ∀ op ∈ [(0 : Nat), 7, 15], let s := stDbg (BitVec.ofNat 32 op) 0 id id
    (csrGet s 0 0x061).getLsbD 31 = true ∧ ((csrGet s 0 0x062).toNat % 2 ^ 4 = 0 ∨ 7 ≤ (csrGet s 0 0x062).toNat % 2 ^ 4) := by decide +kernel
/-! ### The host -/

/-- Registers and CSRs of function 0, of a device that answers. -/
def regs (fs : List (Nat × Word)) (cs : List (Nat × Word)) (s : State) : State :=
  cs.foldl (fun s p => csrSet s 0 p.1 p.2) (fs.foldl (fun s p => fregSet s 0 p.1 p.2) s)
abbrev stHost (fs cs : List (Nat × Word)) (f : Tenant → Tenant) : State :=
  modTenant (up (regs fs cs stMem)) 0 (fun x => f { x with ctr := someCtr })
theorem witness_FunctionDown : funcUp st0 0 = false ∧ funcUp (stHost [] [] id) 1 = false ∧
    funcUp (stHost [] [] (fun x => { x with resetting := true })) 0 = false := by decide +kernel
/-- A function that resets answers reads; one with a write that waits. -/
theorem witness_FunctionWaits : let s := stHost [] [] (fun x => { x with resetting := true })
    let w := stHost [] [] (fun x => { x with posted := [.mem 0x2007C [1]] })
    hostUp s = true ∧ (tenant s 0).enabled = true ∧ (tenant s 0).resetting = true ∧ funcUp w 0 = true ∧ (tenant w 0).posted ≠ [] := by
  decide +kernel
/-- Ring 63 has 16 slots and head 2: a tail of 18 is the last in range; 19 is not, and neither is one behind the tail, 3. -/
theorem witness_HqDoorbell : let s := stHost [(0x13F8, 4)] [] (fun x => { x with hqHead := [(63, 2)], hqTail := [(63, 3)] })
    funcUp s 0 = true ∧ (18 - hqHeadOf s 0 63).toNat ≤ hqSlots s 0 63 ∧ (hqTailOf s 0 63 - hqHeadOf s 0 63).toNat ≤ (18 - hqHeadOf s 0 63).toNat ∧
    ¬ (19 - hqHeadOf s 0 63).toNat ≤ hqSlots s 0 63 ∧ ¬ (hqTailOf s 0 63 - hqHeadOf s 0 63).toNat ≤ (2 - hqHeadOf s 0 63).toNat := by
  decide +kernel
/-- The slot at the head holds zeros: a record of level 0, status 5. -/
theorem witness_HostRingTake : let s := stHost [(0x13F8, 4), (0x108, 4)] [] (fun x => { x with hqTail := [(63, 1)] })
    funcUp s 0 = true ∧ hqSlots s 0 63 ≠ 0 ∧ hqTailOf s 0 63 ≠ hqHeadOf s 0 63 ∧ queueAtCap s 0 63 = false ∧ cqOn s 0 = true ∧
    cqFull s 0 = false ∧ (tenant s 0).cqPend = [] ∧ recordRefusal s 0 (hqRecord s 0 63) 63 = some 5 := by decide +kernel
/-- CAPs of 4095 and 1 are the most; 2 is too much; and queue 5 has a record. -/
theorem witness_DqcfgWrite : let s := stHost [(0x2000, 0x0FFF0000), (0x2014, 0x10000)] [] (fun x => { x with queues := [(5, ⟨[1], 0, false, 0⟩)] })
    ((List.range 64).map (fun p => if p = 63 then 0 else queueCap s 0 p)).sum + 0 ≤ 4096 ∧
    ¬ ((List.range 64).map (fun p => if p = 63 then 0 else queueCap s 0 p)).sum + 1 ≤ 4096 ∧ (queueOf s 0 63).recs = [] ∧
    ¬ ((0 : Nat) = queueCap s 0 5 ∨ (queueOf s 0 5).recs = []) := by decide +kernel
/-- A watch of entry 1, which is OPEN, and of entry 3, which is DONE, with a completion queue that is on. -/
theorem witness_WatchArm : let s := stHost [(0x108, 16)] [] id
    counter s 0 ((0x80000001 : Word).toNat % 2 ^ 12) = some aLaunch1 ∧ counter s 0 ((0x80000003 : Word).toNat % 2 ^ 12) = some ended3 ∧
    (0x80000003 : Word).getLsbD 31 = true ∧ (3 : Word).getLsbD 31 = false ∧ cqOn s 0 = true ∧ cqFull s 0 = false ∧
    (tenant s 0).cqPend = [] := by decide +kernel
/-- A group CSR, a number of no CSR, PQSET from function 1; a CSR that is written; HANGT at the edges of its range. -/
theorem witness_CsrWindowWrite : let s := stHost [] [] id
    csrOfGroup 0x026 = true ∧ csrOfGroup 0x02C = true ∧ csrOfGroup 0x025 = false ∧ csrMask 0xFFF = none ∧
    csrMask 0x022 = some 0x3F ∧ csrLocked s 0 0x022 = false ∧ csrInRange 0x022 16 = true ∧ csrInRange 0x022 47 = true ∧
    csrInRange 0x022 15 = false ∧ csrMask 0x030 ≠ none ∧ detRuns s 0 = false := by decide +kernel
/-- BAR2 reaches a word of the mapped page at 0x20000, whose accesses change nothing. -/
theorem witness_Bar2Access : let s := stHost [] [] id
    let va := apBase s 0 + 0x2007C
    (∀ wr ∈ [true, false], let r := Machine.access s .fresh 0 (tenantRoot s 0) va ⟨!wr, wr, false, false⟩
      let p := (okAt r.2).getD (0, leafAll)
      va < 2 ^ 57 ∧ va % lineBytes + 4 ≤ lineBytes ∧ r.2 = .ok p.1 p.2 ∧ p.2.legal = true ∧ spillHolds r.1 (p.1 / lineBytes) = false ∧
      (∀ j, j < 4 → blockBad r.1 (p.1 + j) = false) ∧ Machine.access r.1 .fresh 0 (tenantRoot r.1 0) va ⟨!wr, wr, false, false⟩ = (r.1, r.2) ∧
      (∀ j, j < 4 → (okAt (Machine.access r.1 .fresh 0 (tenantRoot r.1 0) (va + j) ⟨true, false, false, false⟩).2).map (·.1) = some (p.1 + j))) := by
  decide +kernel
/-- A communicator of two ranks, whose map of two words lies at 0x20000; and one of one rank. -/
theorem witness_CommWrite : ∀ n ∈ [(2 : Nat), 1],
    let s := up (regs [(0x33F4, BitVec.ofNat 32 n), (0x33F8, 0x20000)] [] (withNum stMem 0x20000 16 (0x80000007 + 0x80000008 <<< 32)))
    funcUp s 0 = true ∧ (commMap (fregSet s 0 0x33F0 1) 0 63).2.isSome = decide (n = 2) := by decide +kernel
theorem witness_RegisterWrite : (0x304, fregMask 1 0x304) = (0x304, 0xFFFFFFF0) ∧ fregMask 0 0x100 = 0xFFFFF000 ∧
    funcUp (stHost [(4, 6)] [] id) 0 = true := by decide +kernel
/-- Key 255 changes its owner, or keeps it. -/
theorem witness_KeyownWrite : let s := stHost [(0x403FC, 0xC1)] [] id
    funcUp s 0 = true ∧ (fregGet s 0 (0x40000 + 4 * 255)).toNat % 16 ≠ (0xC2 : Word).toNat % 16 ∧
    (fregGet s 0 (0x40000 + 4 * 255)).toNat % 16 = (0x41 : Word).toNat % 16 := by decide +kernel
theorem witness_SpillPoolApply : let s := stHost [] [] (fun x => { x with heldCsr := [(0x030, 0x200000)] })
    (tenant s 0).heldCsr = [(0x030, 0x200000)] ∧ detRuns s 0 = false := by decide +kernel
theorem witness_TenantResets : let s := stHost [] [] id
    (tenant s 0).resetting = false ∧ funcUp s 0 = true ∧ hostUp s = true ∧ (tenant s 0).enabled = true ∧ mapOk s.tens = true := by
  decide +kernel
/-- A reset whose tasks and cancels are over, asked for by the host or by an FLR. -/
theorem witness_TenantResetComplete : ∀ flr ∈ [true, false],
    let s := { (stHost [] [] (fun x => { x with resetting := true, resetFlr := flr })) with tasks := [] }
    (tenant s 0).resetting = true ∧ s.tasks = [] ∧ s.cancels = [] ∧ (tenant s 0).resetFlr = flr := by decide +kernel
theorem witness_SriovVfEnable : hostUp (stHost [] [] id) = true ∧ hostUp State.reset = false := by decide +kernel

/-! ### The management complex -/

abbrev stMg (f : Mgmt → Mgmt) : State := { st0 with mgmt := f st0.mgmt, cycle := 0x700 }
theorem witness_ColdReset : bootBank State.reset = none := by decide +kernel
/-- Islands 1 and 16 are to start, and nothing ramps; after 1,700 cycles the next may. -/
theorem witness_IslandRampStart : ∀ at_ ∈ [0, 0x700 - 0x6A4], let s := stMg (fun m => { m with toStart := [1, 16], rampAt := at_ })
    s.mgmt.toStart = [1, 16] ∧ (s.mgmt.rampAt = 0 ∨ s.mgmt.rampAt + (mregGet s 0xD00).toNat % 2 ^ 16 ≤ s.cycle) := by decide +kernel
/-- Island 15 ramps, none or one of its engines enabled; and a base die's. -/
theorem witness_MatrixEngineEnable : ∀ e ∈ [0, 1], ∀ i ∈ [15, 16], let r : Ramp := ⟨i, 0x700 - (e + 1) * 64, 64, e⟩
    let s := stMg (fun m => { m with ramping := [r] })
    s.mgmt.ramping.find? (fun r => r.island == i) = some r ∧ r.at_ + (r.engines + 1) * r.mspace ≤ s.cycle := by decide +kernel
/-- ISLCTL of island i asks for a level, in a state. -/
abbrev stIsl (i want st : Nat) (f : Tenant → Tenant) : State :=
  modTenant (stMg (fun m => { m with mreg := [(0xD40 + 4 * i, BitVec.ofNat 32 (2 ^ 31 + 2 ^ 8 * st + want))] })) 0 f
theorem witness_IslandSetOff : (∀ i ∈ [0, 14, 16, 23], islandGo (stIsl i 0 2 id) i = true ∧ islandWants (stIsl i 0 2 id) i = 0) ∧
    (let s := stIsl 15 0 2 (fun x => { x with ctxs := [(1151, ⟨0, 0, .resident, []⟩)] })
     islandGo s 15 = true ∧ islandWants s 15 = 0 ∧ eventideBusy s 7 = false ∧ islandState s 15 = 2 ∧ coreIsland 1151 = 15 ∧ s.mgmt.retrain = [] ∧
     mapOk s.tens = true ∧ mapOk (tenant s 0).ctxs = true) ∧
    eventideBusy (stIsl 15 0 2 (fun x => { x with traces := [(0, aTrace (fun tr => { tr with eventide := 7 }))] })) 7 = true := by
  decide +kernel
theorem witness_IslandSet : ∀ l ∈ [1, 2], ∀ st ∈ [0, 2], let s := stIsl 23 l st id
    islandGo s 23 = true ∧ islandWants s 23 = l ∧ islandState s 23 = st ∧ 23 ∉ s.mgmt.lowered ∧ 23 ∉ s.mgmt.toStart := by decide +kernel
theorem witness_IslandDrainComplete : let s := stIsl 15 0 3 (fun x => { x with ctxs := [(1151, ⟨0, 0, .saved, []⟩)] })
    islandState s 15 = 3 ∧ (∀ q ∈ islandCtxs s 15, q.2.2.phase = .saved) ∧ islandCtxs s 15 ≠ [] := by decide +kernel
/-- Two islands are FULL at 3,301 W; one has been lowered at 3,099 W. -/
theorem witness_PowerMeasure : let s := stMg (fun m => { m with mreg := [(0xD40, 0x202), (0xD48, 0x202)], lowered := [2] })
    fullIslands s = [0, 2] ∧ s.mgmt.lowered = [2] := by decide +kernel
/-- Rate change of stack 7: asked for, waiting for a save, under way. -/
theorem witness_RateChange : (mregGet (stMg (fun m => { m with mreg := [(0xB3C, 0x80000003)] })) 0xB3C).toNat / 2 ^ 31 = 1 ∧
    savesTo st0 7 = false ∧ nb (mregGet (stMg (fun m => { m with mreg := [(0xB3C, 0x80000303)] })) 0xB3C).toNat 8 3 = 3 ∧
    mget (stMg (fun m => { m with retrain := [(7, 3)], boot := 6 })).mgmt.retrain 7 = some 3 ∧
    savesTo (modTenant stMem 0 (fun x => { x with ctxs := [(0, ⟨0, 0, .saving, []⟩)] })) (homeStack stMem 0) = true := by decide +kernel
/-- The highest line of HBM. -/
theorem witness_PatrolScrub : (mregGet st0 0xC40).toNat % 2 ^ 16 ≠ 0 ∧ blockBad st0 ((2 ^ 32 - 1) * 128) = false := by decide +kernel
/-- The first line of the capacity tier, where an expander is fitted. -/
theorem witness_PatrolScrub_tier (h : 1 ≤ cxlCap 0) : tierBase ≤ 2 ^ 33 * 128 ∧ 2 ^ 33 * 128 < tierBase + cxlCap 0 + cxlCap 1 := by
  unfold tierBase; omega
theorem witness_MapLoad : let s := stMg (fun m => { m with mreg := [(0, 0x800000F0)] })
    (mregGet s 0).getLsbD 31 = true ∧ (mregGet s 4).getLsbD 31 = false := by decide +kernel
/-- A check of region 15: kind 3; rows that are all 0; rows that are singular; the recommended rows. -/
abbrev staged (cmd : Word) (row : Nat → Nat) : State :=
  stMg (fun m => { m with mreg := [(0, cmd), (4, 0x80000000)] ++ (List.range 32).map (fun i => (0x80 + 4 * i, BitVec.ofNat 32 (row i))) })
def stagedRows (s : State) : List Nat := (List.range 32).map (fun i => (mregGet s (0x80 + 4 * i)).toNat)
theorem witness_MapCheckComplete :
    (mregGet (staged 0x800000F3 matrixRow) 4).getLsbD 31 = true ∧ (mregGet (staged 0x800000F3 matrixRow) 0).toNat % 2 ^ 2 = 3 ∧
    mapStructure (stagedRows (staged 0x800000F0 (fun _ => 0))) 0 = false ∧
    (let s := staged 0x800000F0 (fun i => if i = 1 then matrixRow 0 else matrixRow i)
     mapStructure (stagedRows s) 0 = true ∧ gfRank 32 (stagedRows s) = false) ∧
    (let s := staged 0x800000F0 matrixRow
     mapStructure (stagedRows s) 0 = true ∧ gfRank 32 (stagedRows s) = true ∧ s.wq = [] ∧ s.reds = []) := by decide +kernel
/-- A mailbox command, in RECOVERY (STATE 0) or READY (2). -/
abbrev stMail (op st o : Nat) : State :=
  stMg (fun m => { m with boot := 6, mbox := [(0, BitVec.ofNat 32 op), (4, BitVec.ofNat 32 (2 ^ 31 + 2 ^ 4 * st)), (8, BitVec.ofNat 32 o)] })
theorem witness_Mailbox : (∀ op ∈ List.range 7, 1 ≤ op → ∀ st ∈ [0, 2], mailRuns (stMail op st 0) op = true ∧ recovery (stMail op st 0) = decide (st = 0)) ∧
    (∀ o ∈ [0xC40, 0xD9C, 0x80], mregNamed o = true) ∧ (∀ o ∈ [0x8, 0xDA0, 0x941], mregNamed o = false) ∧ mapBusy (stMail 2 2 0x80) = false ∧
    (tenant (stMail 3 2 1) 1).enabled = false ∧ (tenant (stMail 3 2 0) 0).enabled = true ∧ imgOk (stMail 6 2 0) [] = false ∧
    (mboxGet (stMail 7 2 0) 4).getLsbD 31 = true ∧ (mboxGet (stMail 7 2 0) 0).toNat % 2 ^ 8 = 7 ∧
    mailUp (stMg (fun m => { m with boot := 2 })) = true := by decide +kernel
/-- The host's memory fails at the mailbox's address, or does not; a function is asked for while no command runs. -/
theorem witness_Mailbox_host : hostFailed { (stMail 4 2 0) with hostBad := [(0, 64)] } (mailAddr (stMail 4 2 0)) 7888 = true ∧
    hostFailed (stMail 4 2 0) (mailAddr (stMail 4 2 0)) 7888 = false ∧ (0x80000003 : Word).getLsbD 31 = true ∧
    mailUp (stMg (fun m => { m with boot := 6 })) = true ∧ (mboxGet (stMg (fun m => { m with boot := 6 })) 4).getLsbD 31 = false := by
  decide +kernel
/-- An image without payload that the key signed. -/
theorem witness_Mailbox_image : let bs := leBytes 4 0x4B58494D ++ List.replicate (60 + 7856) 0
    Config.signatureOk bs = true → imgOk (stMail 6 2 0) bs = true ∧ (stMail 6 2 0).mgmt.banks.length = 2 := by
  intro bs h
  rw [imgOk, h]; decide +kernel
/-- A tenant that has no block, and one whose block runs. -/
theorem witness_MbSetroot : (∀ p ∈ ({ (stMail 3 2 0) with tasks := [] } : State).tasks, p.2.tenant = 0 → p.2.saved = true) ∧
    (∃ p ∈ (stMail 3 2 0).tasks, p.2.tenant = 0 ∧ p.2.saved = false) := by decide +kernel

/-! ### The whole machine -/

theorem witness_MemoryStaysCanonical : Memory.wf stExit.mem = true ∧ Memory.wf stExit.hostMem = true ∧
    (match step stExit with
      | .next _ => true
      | _ => false) = true := by decide +kernel
/-! ### A fork and a save that complete -/

/-- Job 2 forks one child: no spans, its index goes to 0x20100. The pieces 0x220 and 0x221 take the child's root; their units
have been written, with zeros. -/
abbrev forkHead : Nat := 0x20100 <<< 455 + 1 <<< 297 + 1 <<< 260
abbrev forkAt : ForkOp := { (aFork 2 false) with addr := 0x40000 }
/-- What the walk to the descriptor leaves in the core's tile walker and in the die's walkers. -/
abbrev forkTlb : Machine.Core :=
  { Machine.Core.reset with wtlb := [⟨0, 0x100000, 0, 2 ^ 30, 0x37F, 0x10000000, false, 0x104000, false⟩] }
abbrev forkWalks : Die :=
  { Die.reset with walks := [⟨0, 0x100000, 0x102001, 0, 0, 2 ^ 48⟩, ⟨0, 0x102000, 0x104001, 0, 0, 2 ^ 39⟩] }
/-- Before and after the descriptor has been read: reads of the die's own stack are counted (R405). -/
def stForksAt (after : Bool) (ps : List Nat) (m : List Cell) : State :=
  let s0 := withNum (paged (aState id (fun x => { x with toks := [3] }))) 0x40000 64 forkHead
  let s := if after then { s0 with mgmt := { s0.mgmt with mreg := [(0xA00, 2)] }, cores := [(0, forkTlb)], dies := [(0, forkWalks)] } else s0
  modTenant { s with ukey := s.ukey ++ (List.range 512).map (fun i => (0x22000 + i, 0)), mem := s.mem ++ m, forks := [(6, forkAt)] } 0
    (fun x => { x with ctr := someCtr, pieces := ps })
abbrev stForks (ps : List Nat) (m : List Cell) : State := stForksAt true ps m
theorem foldl_stays {α β : Type} (g : α → β → α) (a : α) (l : List β) (h : ∀ b ∈ l, g a b = a) : l.foldl g a = a := by
  induction l with
  | nil => rfl
  | cons b l ih => rw [List.foldl_cons, h b (by simp), ih (fun c hc => h c (by simp [hc]))]
theorem mdel_none {α : Type} (x : Nat) : ∀ m : Map α, mget m x = none → mdel m x = m := by
  intro m
  induction m with
  | nil => intro _; rfl
  | cons p m ih =>
    intro h
    simp only [mget] at h
    split at h
    · simp at h
    · rename_i hn
      have := ih h
      simp only [mdel] at this ⊢
      rw [List.filter_cons, this]; simp [Ne.symm hn]
/-- A zero written where the unit is under the key, and nothing is listed. -/
theorem zero_byte (s : State) (k pa : Nat) (h1 : mget s.ukey (pa / 16) = some (keyEpoch s k)) (h2 : mget s.mem pa = none) (h3 : pa < hostBase) :
    writePa s k pa 0 = s := by
  have : ¬ hostBase ≤ pa := by omega
  simp [writePa, this, writeByte, h1, putByte, mputD, mdel_none _ _ h2]
theorem zero_bytes (s : State) (k : Nat) : ∀ n pa, (∀ j, j < n → mget s.ukey ((pa + j) / 16) = some (keyEpoch s k) ∧ mget s.mem (pa + j) = none) →
    pa + n ≤ hostBase → writePas s k pa (List.replicate n 0) = s := by
  intro n
  induction n with
  | zero => intros; rfl
  | succ n ih =>
    intro pa h hb
    have h0 := h 0 (by omega)
    rw [List.replicate_succ, writePas, zero_byte s k pa h0.1 h0.2 (by omega)]
    exact ih (pa + 1) (fun j hj => by have := h (j + 1) (by omega); rwa [show pa + (j + 1) = pa + 1 + j by omega] at this) (by omega)
theorem zero_put (s : State) (a : Nat) (hd : ∀ d, (die s d).far = [] ∧ setDie s d (die s d) = s) (hb : a + 16 ≤ hostBase)
    (h : ∀ j, j < 16 → mget s.ukey ((a + j) / 16) = some (keyEpoch s (tableKey s 0)) ∧ mget s.mem (a + j) = none) :
    tablePut s 0 a 0 0 = s := by
  have hz : ∀ b, writePas s (tableKey s 0) b (List.replicate 8 0) = s →
      tableWord s 0 b 0 = s := by
    intro b e
    have : leBytes 8 0 = List.replicate 8 (0 : Byte) := by decide
    simp only [tableWord, writeNum, this, e]
    apply foldl_stays
    intro d _
    have hf : { die s d with far := (die s d).far.filter (fun p => p.1 / 256 != b / lineBytes) } = die s d := by
      rw [(hd d).1, List.filter_nil, ← (hd d).1]
    simp only [hf]; exact (hd d).2
  have e1 := hz a (zero_bytes s _ 8 a (fun j hj => h j (by omega)) (by omega))
  have e2 := hz (a + 8) (zero_bytes s _ 8 (a + 8) (fun j hj => by
    have := h (8 + j) (by omega); rwa [show a + (8 + j) = a + 8 + j by omega] at this) (by omega))
  rw [tablePut, e1, e2]
theorem mget_apart {α : Type} (x : Nat) : ∀ m : Map α, (∀ p ∈ m, p.1 ≠ x) → mget m x = none := by
  intro m
  induction m with
  | nil => intro _; rfl
  | cons p m ih =>
    intro h
    have h0 := h p (by simp)
    obtain ⟨a, v⟩ := p
    simp only at h0
    rw [mget, if_neg (Ne.symm h0)]
    exact ih (fun q hq => h q (by simp [hq]))
theorem mget_beyond {α : Type} (x : Nat) (l : Map α) : ∀ m : Map α, (∀ p ∈ m, p.1 ≠ x) → mget (m ++ l) x = mget l x := by
  intro m
  induction m with
  | nil => intro _; rfl
  | cons p m ih =>
    intro h
    have h0 := h p (by simp)
    obtain ⟨a, v⟩ := p
    simp only at h0
    rw [List.cons_append, mget, if_neg (Ne.symm h0)]
    exact ih (fun q hq => h q (by simp [hq]))
theorem mget_run (b : Nat) : ∀ n i, i < n → mget ((List.range n).map (fun i => (b + i, 0))) (b + i) = some 0 := by
  intro n
  induction n with
  | zero => omega
  | succ n ih =>
    intro i hi
    rw [List.range_succ, List.map_append]
    by_cases h : i < n
    · have := ih i h
      generalize hl : (List.range n).map (fun i => (b + i, 0)) = l at this
      clear hl
      induction l with
      | nil => simp [mget] at this
      | cons p l il =>
        simp only [List.cons_append, mget] at this ⊢
        split at this
        · simp_all
        · rename_i hn; rw [if_neg hn]; exact il this
    · have : i = n := by omega
      subst this
      rw [mget_beyond]
      · simp [mget]
      · intro p hp; simp only [List.mem_map, List.mem_range] at hp; obtain ⟨k, hk, rfl⟩ := hp; simp only; omega
theorem forks_split : (stForks [] []).ukey = (withNum (paged (aState id (fun x => { x with toks := [3] }))) 0x40000 64 forkHead).ukey ++
    (List.range 512).map (fun i => (0x22000 + i, 0)) := rfl
theorem forks_other : ∀ p ∈ (withNum (paged (aState id (fun x => { x with toks := [3] }))) 0x40000 64 forkHead).ukey,
    p.1 < 0x22000 ∧ (p.1 ≤ 0x10000 ∨ 0x10200 ≤ p.1) := by decide +kernel
theorem forks_ukey (i : Nat) (h : i < 512) : mget (stForks [] []).ukey (0x22000 + i) = some 0 := by
  rw [forks_split, mget_beyond _ _ _ (fun p hp => by have := forks_other p hp; omega)]
  exact mget_run _ _ _ h
theorem forks_none (i : Nat) (h : i < 511) : mget (stForks [] []).ukey (0x10000 + (i + 1)) = none := by
  rw [forks_split, mget_beyond _ _ _ (fun p hp => by have := forks_other p hp; omega)]
  apply mget_apart
  intro p hp
  simp only [List.mem_map, List.mem_range] at hp
  obtain ⟨k, hk, rfl⟩ := hp
  simp only; omega
theorem forks_dies (ps : List Nat) (m : List Cell) (d : Nat) :
    (die (stForks ps m) d).far = [] ∧ setDie (stForks ps m) d (die (stForks ps m) d) = stForks ps m := by
  have hs : (stForks ps m).dies = [(0, forkWalks)] := rfl
  by_cases h : d = 0
  · subst h; exact ⟨rfl, rfl⟩
  · have h0 : ¬ 0 = d := fun e => h e.symm
    have hd : die (stForks ps m) d = Die.reset := by simp [die, hs, mgetD, mget, h]
    have he : mputD Die.reset (stForks ps m).dies d Die.reset = (stForks ps m).dies := by simp [hs, mputD, mdel, h0]
    rw [hd]
    exact ⟨rfl, by rw [setDie, he]⟩
theorem zeroes (ps : List Nat) (hps : ps = [] ∨ ps = [0x220, 0x221]) : ∀ i ∈ upTo 512,
    tablePut (stForks ps []) 0 (0x220000 + 16 * i) 0 0 = stForks ps [] := by
  intro i hi
  have hk : keyEpoch (stForks ps []) (tableKey (stForks ps []) 0) = 0 := by rcases hps with rfl | rfl <;> decide +kernel
  have hm : ∀ p ∈ (stForks ps []).mem, p.1 < 0x220000 := by
    have : (stForks ps []).mem = (stForks [] []).mem := rfl
    rw [this]; decide +kernel
  have hlt : i < 512 := by simpa [upTo] using hi
  apply zero_put _ _ (forks_dies _ _) (by simp only [hostBase]; omega)
  intro j hj
  rw [hk, show (0x220000 + 16 * i + j) / 16 = 0x22000 + i by omega]
  exact ⟨forks_ukey i hlt, mget_apart _ _ (fun p hp => by have := hm p hp; omega)⟩
theorem child_root : takeTable (stForks [0x220, 0x221] []) 0 = some (stForks [] [], 0x220000) := by
  have h1 : takeWhere (stForks [0x220, 0x221] []) 0 (fun _ _ => true) (fun l k => k % 2 == 0 && l.contains (k + 1)) =
    some (stForks [0x220, 0x221] [], 0x220) := rfl
  have h2 : modTenant (stForks [0x220, 0x221] []) 0 (fun x => { x with pieces := x.pieces.filter (fun k => k != 0x220 && k != 0x220 + 1) }) =
    stForks [] [] := rfl
  rw [takeTable, h1, Option.map_some]
  simp only [h2]
  rw [foldl_stays _ _ _ (zeroes [] (.inl rfl))]
  rfl
abbrev rootCells : List Cell := [(0x220000, 0x01), (0x220001, 0x20), (0x220002, 0x10)]
theorem child_first : rawEntry (stForks [] []) 0 0x100000 0x220000 0 = stForks [] rootCells := by decide +kernel

theorem zero_read (s : State) (k a : Nat) (h : ∀ j, j < 8 → mget s.ukey ((a + j) / 16) = none) (hl : s.loose = []) (hr : s.remapped = [])
    (hb : a + 8 ≤ hostBase) : readNum s k a 8 = 0 := by
  have : readPas s k a 8 = List.replicate 8 0 := by
    apply List.ext_getElem (by simp [readPas])
    intro j h1 h2
    have hj : j < 8 := by simpa [readPas] using h1
    have hn : ¬ hostBase ≤ a + j := by omega
    rw [List.getElem_replicate]
    simp [readPas, readPa, hn, readByte, h j hj, hl, hr]
  rw [readNum, this]; decide
theorem child_rest : ∀ i ∈ (upTo 512).tail, rawEntry (stForks [] rootCells) 0 (0x100000 + 16 * i) (0x220000 + 16 * i) i = stForks [] rootCells := by
  intro i hi
  have hr : 1 ≤ i ∧ i < 512 := by
    have : (upTo 512).tail = (List.range 511).map (· + 1) := by decide +kernel
    rw [this] at hi; simp only [List.mem_map, List.mem_range] at hi; omega
  have hk : keyEpoch (stForks [] rootCells) (tableKey (stForks [] rootCells) 0) = 0 := by decide +kernel
  have hm : ∀ p ∈ (stForks [] rootCells).mem, p.1 < 0x220003 := by decide +kernel
  have hread : ∀ b, b = 0 ∨ b = 8 → readNum (stForks [] rootCells) (tableKey (stForks [] rootCells) 0) (0x100000 + 16 * i + b) 8 = 0 := by
    intro b hb
    apply zero_read _ _ _ _ rfl rfl (by simp only [hostBase]; omega)
    intro j hj
    have : mget (stForks [] rootCells).ukey _ = none := forks_none (i - 1) (by omega)
    rwa [show 0x10000 + (i - 1 + 1) = (0x100000 + 16 * i + b + j) / 16 by omega] at this
  have e0 : entry0 (stForks [] rootCells) 0 (0x100000 + 16 * i) = 0 := hread 0 (.inl rfl)
  have e1 : entry1 (stForks [] rootCells) 0 (0x100000 + 16 * i) = 0 := hread 8 (.inr rfl)
  have hz : tablePut (stForks [] rootCells) 0 (0x220000 + 16 * i) 0 0 = stForks [] rootCells := by
    apply zero_put _ _ (forks_dies _ _) (by simp only [hostBase]; omega)
    intro j hj
    rw [hk, show (0x220000 + 16 * i + j) / 16 = 0x22000 + i by omega]
    exact ⟨forks_ukey i hr.2, mget_apart _ _ (fun p hp => by have := hm p hp; omega)⟩
  simp only [rawEntry, e0, e1, hz]
  rfl
theorem child_table : rawTable (stForks [0x220, 0x221] []) 0 0x100000 = some (stForks [] rootCells, 0x220000) := by
  have hc : upTo 512 = 0 :: (upTo 512).tail := by decide +kernel
  rw [rawTable, child_root, Option.map_some]
  simp only
  rw [hc, List.foldl_cons]
  rw [show (0x100000 + 16 * 0 = 0x100000) from rfl, show (0x220000 + 16 * 0 = 0x220000) from rfl, child_first]
  rw [foldl_stays _ _ _ child_rest]
abbrev forkTask : Task := (task (stForks [0x220, 0x221] []) 0).getD aTask
abbrev stChild : State :=
  modTenant (setCounter (stForks [] rootCells) 0 4 (Counter.new 4 2 1 0 0)) 0 (fun x => { x with roots := [(4, 0x220000)] })
/-- The child's root holds the tenant's first entry, and counter entry 4 is the child. -/
theorem child_forked : forkChildren (stForks [0x220, 0x221] []) forkTask forkAt forkHead [] 0x100000 1 = some (stChild, [4]) := by
  have h1 : upTo 1 = [0] := rfl
  have ht : forkTask.tenant = 0 := by decide +kernel
  have hr : forkRoot (stForks [0x220, 0x221] []) 0 0x100000 [] = some (stForks [] rootCells, 0x220000) := by
    rw [forkRoot, child_table, Option.bind_some]; decide +kernel
  rw [forkChildren, h1, List.foldl_cons, List.foldl_nil, Option.bind_some]
  simp only [ht, hr, Option.bind_some]
  decide +kernel
/-- The state in which the parent owns the page of its result. -/
def owned (o : ForkOwn) : State :=
  match o with
  | .ok s => s
  | _ => st0
theorem witness_ForkCreates :
    let s := stForksAt false [0x220, 0x221] []
    let s2 := stForks [0x220, 0x221] []
    let v0 := (upTo 64).map (0x40000 + ·)
    let v1 := (upTo 0).map (0x40040 + ·)
    let v4 := (upTo (4 * 1)).map (0x20100 + ·)
    let v7 := (granules ((List.range (4 * 1)).map (0x20100 + ·))).map (32 * ·)
    let s6 := setCounter stChild 0 2 { job2 with target := job2.target + 1 }
    let p0 := gone (engPlan s forkTask true true false none v0)
    let p1 := gone (engPlan s2 forkTask true true false none v1)
    let p4 := gone (engPlan s2 forkTask true false true none v4)
    let s7 := owned (forkOwn s6 forkTask v7)
    let p7 := gone (engPlan s7 forkTask true false true none v7)
    mget s.forks 6 = some forkAt ∧ task s 0 = some forkTask ∧ hasNeed s (.fork 6) = false ∧ dying s 0 forkTask = false ∧
    engPlan s forkTask true true false none v0 = .go p0.1 p0.2 ∧ (engLoad p0.1 forkTask p0.2).1 = s2 ∧
    bytesNum (engLoad p0.1 forkTask p0.2).2 0x40000 64 = forkHead ∧ forkBad forkHead = false ∧
    engPlan s2 forkTask true true false none v1 = .go p1.1 p1.2 ∧ (engLoad p1.1 forkTask p1.2).1 = s2 ∧
    nb forkHead 296 1 = 0 ∧ nb forkHead 304 16 = 0 ∧ nb forkHead 297 7 = 1 ∧ nb forkHead 455 57 = 0x20100 ∧
    (tenant s2 0).ctr.length + 1 ≤ 4095 ∧ (s2.cores.map (·.1)).foldl (fun s c => writeBackAll s c) s2 = s2 ∧ s2.wq = [] ∧
    engPlan s2 forkTask true false true none v4 = .go s2 p4.2 ∧ rootOf s2 forkTask = 0x100000 ∧ counter stChild 0 2 = some job2 ∧
    forkOwn s6 forkTask v7 = .ok s7 ∧ engPlan s7 forkTask true false true none v7 = .go p7.1 p7.2 := by
  and_intros <;> decide +kernel
/-- A context in the saving, whose slot is at 0x200000. -/
abbrev stSave : State :=
  modTenant (csrSet stMem 0 0x053 0x200000) 0 (fun x => { x with ctr := someCtr, ctxs := [(0, ⟨0, 0, .saving, []⟩)] })
abbrev stSave1 : State := { stSave with fresh := stSave.fresh + 1 }
/-- The state in which the image is put, and the one GiB page through which it is reached. -/
abbrev stSave2 : State := { stSave1 with serial := stSave.serial + 1 }
abbrev gibLeaf : Xl := leafAt (walk stSave2 0 0x100000 0)
theorem nb_small (va lo n : Nat) (h : va < 2 ^ lo) : nb va lo n = 0 := by simp [nb, Nat.div_eq_of_lt h]
/-- One level of a walk, where the entry is at the start of the table: a table, or a leaf. -/
theorem walk_table (look : Nat → Nat × Nat) (va n table : Nat) (w : Nat) (h : nb va (12 + 9 * n) 9 = 0) (h0 : (look table).1 = w)
    (h1 : (nb w 0 1 == 0) = false) (h2 : (nb w 1 1 == 1) = false) (h3 : (n == 4 && nb w 11 1 == 1) = false)
    (h4 : tableOk n w (look table).2 = true) (h5 : (nb w 10 1 == 1) = false) :
    walkFrom look va (n + 1) table false = walkFrom look va n (w / 2 ^ 12 * 2 ^ 12) false := by
  rw [walkFrom]; simp [h, h0, h1, h2, h3, h4, h5]
theorem walk_gib (va : Nat) (h : va < 2 ^ 30) : walk stSave2 0 0x100000 va = .leaf gibLeaf := by
  rw [walk, if_pos (by decide +kernel), walk_table _ _ 4 0x100000 0x102001 (nb_small va 48 9 (by omega)) (by decide +kernel) (by decide +kernel) (by decide +kernel)
    (by decide +kernel) (by decide +kernel) (by decide +kernel)]
  rw [walk_table _ _ 3 _ 0x104001 (nb_small va 39 9 (by omega)) (by decide +kernel) (by decide +kernel) (by decide +kernel)
    (by decide +kernel) (by decide +kernel) (by decide +kernel)]
  have e : nb va (12 + 9 * 2) 9 = 0 := nb_small va 30 9 (by omega)
  rw [walkFrom]
  simp only [e]
  rw [if_neg (by decide +kernel), if_pos (by decide +kernel), if_pos (by decide +kernel)]
  decide +kernel
abbrev toWrite : Want := ⟨false, true, false, false⟩
theorem reach_gib (va : Nat) (h : va < 2 ^ 30) : reach 4 stSave2 0 0x100000 va toWrite = .ok stSave2 va gibLeaf := by
  have hj : judgeLeaf stSave2 .fresh 0 va toWrite gibLeaf = .ok (0 + va % gibLeaf.bytes) gibLeaf := by
    have : judgeLeaf stSave2 .fresh 0 va toWrite gibLeaf =
      .ok (gibLeaf.w0 / 2 ^ 12 * 2 ^ 12 + va % gibLeaf.bytes) gibLeaf := by
      rw [judgeLeaf]
      dsimp only
      repeat rw [if_neg (by decide +kernel)]
    have h0 : gibLeaf.w0 / 2 ^ 12 * 2 ^ 12 = 0 := by decide +kernel
    rw [this, h0]
  have hb : gibLeaf.bytes = 2 ^ 30 := by decide +kernel
  have hm : markLeaf stSave2 0 gibLeaf true = (stSave2, gibLeaf) := by decide +kernel
  have hl : gibLeaf.legal = true := by decide +kernel
  have hw : walked stSave2 .fresh 0 0x100000 va toWrite (entryWords stSave2 (tableKey stSave2 0)) (.leaf gibLeaf) =
      some (stSave2, .ok va gibLeaf) := by
    rw [walked, judge, hj, hb, Nat.mod_eq_of_lt h, Nat.zero_add]
    simp only [hm, fillTlb, setTlb, Via.at]
  have ha : access stSave2 .fresh 0 0x100000 va toWrite = (stSave2, .ok va gibLeaf) := by
    have ht : tlbOne stSave2 .fresh 0 0x100000 va = stSave2 := rfl
    have hk : lookTlb stSave2 .fresh 0 0x100000 va toWrite = none := rfl
    have hs : walkStale stSave2 .fresh 0 0x100000 va toWrite = none := rfl
    rw [access, hk]
    simp only [ht, hs]
    rw [walk_gib va h, hw]; rfl
  have hq : spillHolds stSave2 (va / lineBytes) = false := rfl
  rw [reach, ha]
  simp only [hl, hq, Bool.not_true, Bool.and_false, Bool.false_eq_true, if_false]
theorem slot_gib : ∀ ps : List (Nat × Nat), (∀ p ∈ ps, p.1 < 2 ^ 30) → slotReach 0 toWrite ps stSave2 = .ok stSave2 := by
  intro ps
  induction ps with
  | nil => intro _; rfl
  | cons p ps ih =>
    intro h
    have hr : tenantRoot stSave2 0 = 0x100000 := by decide +kernel
    rw [slotReach, hr, reach_gib p.1 (h p (by simp))]
    exact ih (fun q hq => h q (by simp [hq]))
theorem chunks_within : ∀ k va n, ∀ p ∈ lineChunks k va n, p.1 < va + n := by
  intro k
  induction k with
  | zero => intro va n p hp; simp [lineChunks] at hp
  | succ k ih =>
    intro va n p hp
    rw [lineChunks] at hp
    split at hp
    · simp at hp
    · simp only [List.mem_cons] at hp
      rcases hp with rfl | hp
      · simp only; omega
      · have := ih _ _ p hp; omega
theorem leBytes_length : ∀ n w, (leBytes n w).length = n := by
  intro n; induction n with
  | zero => intro w; rfl
  | succ n ih => intro w; simp [leBytes, ih]
abbrev savedSize : Nat := 4097 + (Config.freeWord stSave.fresh).toNat % (2 ^ 21 - 4096)
theorem witness_ContextSave : (ctxOf stSave 0 0).map (·.phase) = some .saving ∧ ctxQuiet stSave 0 0 = true ∧ Written stSave 0 ∧
    ∃ s2, slotPut { stSave1 with serial := stSave.serial + 1 } 0 0 0
      (slotImage stSave1 0 0 savedSize (mgetD 0 (tenant stSave 0).saves 0 + 1) 0) = .ok s2 := by
  refine ⟨by decide +kernel, by decide +kernel, by unfold Written; decide +kernel, ?_⟩
  have hv : slotVa stSave2 0 0 + 0 = 0x200000 := by decide +kernel
  have hl : ((ctxTasks stSave1 0 0).flatMap (fun p => leBytes 32 (blockEntry stSave1 p.2))).length = 32 := by
    have : (ctxTasks stSave1 0 0).length = 1 := by decide +kernel
    obtain ⟨p, hp⟩ := List.length_eq_one_iff.1 this
    rw [hp]; simp [leBytes_length]
  have hlen : (slotImage stSave1 0 0 savedSize (mgetD 0 (tenant stSave 0).saves 0 + 1) 0).length < 2 ^ 22 := by
    have : savedSize < 2 ^ 21 + 4097 := by
      have := Nat.mod_lt (Config.freeWord stSave.fresh).toNat (show 2 ^ 21 - 4096 > 0 by decide)
      unfold savedSize; omega
    simp only [slotImage, List.length_append, leBytes_length, hl, List.length_map, upTo, List.length_range]; omega
  generalize slotImage stSave1 0 0 savedSize (mgetD 0 (tenant stSave 0).saves 0 + 1) 0 = bs at hlen
  have hs : slotReach 0 toWrite (chunksOf 0x200000 bs.length) stSave2 = .ok stSave2 :=
    slot_gib _ (fun p hp => by have := chunks_within _ _ _ p hp; omega)
  refine ⟨(devWrite stSave2 (dieOf 0) 0 (tenantRoot stSave2 0) 0x200000 bs false none).1, ?_⟩
  show slotPut stSave2 0 0 0 bs = _
  rw [slotPut, hv, hs]
/-! ### One step each, with the values worked out by hand from the rules -/

/-- The group of task 0 after an instruction. -/
def grpAfter : Outcome State Fault Refusal → Option Group
  | .next t => (task t 0).bind (fun tk => mget tk.groups 0)
  | _ => none
/-- A vector register of a lane after an instruction. -/
def laneAfter (i : Instr) (s : State) (r lane : Nat) : Option Word := (grpAfter (exec i s)).map (fun x => x.reg (.v r) lane)
/-- v1 and v2 of lane 0, every other register 0. -/
abbrev st12 (a b : Word) : State := aState id (fun x => vreg 2 b (vreg 1 a x))

-- R201: the sum wraps; with .sat it saturates.
theorem test_iadd_wraps : laneAfter (.iadd plain 0 1 (.reg 2) false false) (st12 0x7FFFFFFF 1) 0 0 = some 0x80000000 := by
  decide +kernel
theorem test_iadd_saturates : laneAfter (.iadd plain 0 1 (.reg 2) false true) (st12 0x7FFFFFFF 1) 0 0 = some 0x7FFFFFFF := by
  decide +kernel
theorem test_isub_unsigned_saturates : laneAfter (.isub plain 0 1 (.reg 2) true true) (st12 1 2) 0 0 = some 0 := by decide +kernel
-- (-1) * (-1) = 1 has the high word 0; unsigned, (2^32 - 1)^2 has the high word 2^32 - 2.
theorem test_imulhi : laneAfter (.imulhi plain 0 1 (.reg 2) false) (st12 0xFFFFFFFF 0xFFFFFFFF) 0 0 = some 0 ∧
    laneAfter (.imulhi plain 0 1 (.reg 2) true) (st12 0xFFFFFFFF 0xFFFFFFFF) 0 0 = some 0xFFFFFFFE := by decide +kernel
-- R203: an amount of 32 and more.
theorem test_shl_by_32 : laneAfter (.shl plain 0 1 (.reg 2)) (st12 0xFFFFFFFF 32) 0 0 = some 0 := by decide +kernel
theorem test_sar_by_32 : laneAfter (.sar plain 0 1 (.reg 2)) (st12 0x80000000 32) 0 0 = some 0xFFFFFFFF := by decide +kernel
-- A source that is also the destination.
theorem test_xor_itself : laneAfter (.xor plain 1 1 (.reg 1)) (st12 0x1234 0) 1 0 = some 0 := by decide +kernel
-- R205: (+inf) + (-inf) is the canonical NaN; 1.5 + 2.25 = 3.75.
theorem test_fadd_inf : laneAfter (.fadd plain 0 1 (.reg 2) .rn) (st12 0x7F800000 0xFF800000) 0 0 = some 0x7FC00000 := by
  decide +kernel
theorem test_fadd : laneAfter (.fadd plain 0 1 (.reg 2) .rn) (st12 0x3FC00000 0x40100000) 0 0 = some 0x40700000 := by decide +kernel
-- 3 * 5 + v3, where v3 is 0.
theorem test_ffma : laneAfter (.ffma plain 0 1 (.reg 2) (.reg 3) .rn) (st12 0x40400000 0x40A00000) 0 0 = some 0x41700000 := by
  decide +kernel
-- v0 of every lane is 0; lane 0 of v1 holds 5: the sum over 32 lanes is 5, in every lane.
theorem test_fold_sum : laneAfter (.fold plain 0 1 .iadd false) (st12 5 0) 0 31 = some 5 := by decide +kernel
-- R219: 0xFFFFFFFF is below 0 as a signed word and not as an unsigned one (lane 0; the other lanes compare 0 with 0).
theorem test_icmp_signs : (grpAfter (exec (.icmp plain 3 1 (.reg 2) .lt false) (st12 0xFFFFFFFF 0))).map (·.pred 3) = some 1 ∧
    (grpAfter (exec (.icmp plain 3 1 (.reg 2) .lt true) (st12 0xFFFFFFFF 0))).map (·.pred 3) = some 0 := by decide +kernel
-- R60 and R63: `trap 7` saves the pc and enters the handler at HVEC.
theorem test_trap : (grpAfter (exec (.trap plain 7) st0)).map (fun x =>
    (x.epc, x.trap.map (fun m => m.hfront.map (·.pc)))) = some (0x1000, some [0x8000]) := by decide +kernel
-- R197: the target is counted from the branch's own first word.
theorem test_bra : (grpAfter (exec (.bra plain 0xFFFFFFF0 0 0) st0)).map (fun x => x.front.map (·.pc)) = some [0xFF0] := by
  decide +kernel
-- A word stored to the scratchpad is read back from its lowest byte (R3): 0x80, with sign extension.
theorem test_lds_bytes :
    let s := aState id (fun x => vreg 1 0x12345680 (lanesAt 1 x))
    (match exec (.sts plain 3 (.lit 0) (.reg 1) .b32) s with
      | .next t => laneAfter (.lds plain 0 3 (.lit 0) .b8 true) { t with cur := some (0, 0) } 0 0
      | _ => none) = some 0xFFFFFF80 := by decide +kernel

end Sys2Proof.Tests
end

section
/-! SUPPORT. More of what the shared operations do: how a bundle that may execute ends when its instruction completes, one result
written in every active lane, and changes of the state that a program in a group cannot tell but for what the instruction says. -/

namespace Sys2Proof.Machine

open Host

/-! ### Completion -/

/-- Past the instruction, the bundle's group is that which the body left, advanced. -/
theorem run_ok {s s1 : State} {c : Ctx} {h : Hdr} {n : Nat} {reads writes : List Use} {body : Ctx → State → Res}
    (he : Executes s c h n (reads ++ writes)) (hbody : body c s = .ok s1) :
    run h n reads writes body s = .next (modGroup s1 c.tid c.g (c.stepped (fairOn s1 c.ten))) := by
  rw [run, runGen_executes false reads writes body he, hbody]; rfl

theorem moved_of_view {c : Ctx} {x y z : Group} (hv : y.live.map Entry.view = x.live.map Entry.view) (hn : NoNewErrors x y)
    (hz : Moved { c with grp := y } z) : Moved { c with grp := x } z := by
  obtain ⟨hl, hr⟩ := hz
  refine ⟨?_, fun n hn' => hn n (hr n hn')⟩
  rw [hl]
  refine view_map_congr _ (fun v => if v.1 = c.ent.id then (v.1, c.ent.pc + BitVec.ofNat 57 c.len, v.2.2) else v) ?_ _ _ hv
  intro e
  by_cases h : e.id = c.ent.id <;> simp [Entry.view, h]

/-- A bundle advances in whatever group shows the same entries as its own. -/
theorem moved_stepped (c : Ctx) (fair : Bool) {y : Group} (hv : y.live.map Entry.view = c.grp.live.map Entry.view)
    (hn : NoNewErrors c.grp y) : Moved c (c.stepped fair y) :=
  moved_of_view hv hn (stepped_advanced { c with grp := y } fair y rfl rfl (fun _ h => h)).1

theorem rest_stepped (c : Ctx) (fair : Bool) (x : Group) : (c.stepped fair x).rest = x.rest := by
  unfold Ctx.stepped; rw [rest_issued, rest_setLive]

/-! ### One result for every active lane -/

theorem putAll_eq (c : Ctx) (s : State) (d : Reg) (ws : List Word) :
    c.putAll s d ws = modGroup s c.tid c.g (fun x => x.putWords c.h.u d (lanesOf c.act) ws) := rfl

theorem putWords_writes (c : Ctx) (d : Reg) (ws : List Word) :
    Writes c c.h.u d ws.length (fun _ k => ws.getD k 0) (c.grp.putWords c.h.u d (lanesOf c.act) ws) := by
  intro r lane hl
  rw [reg_putWords c.h.u d (lanesOf c.act) (lanesOf_lt c.act) r lane hl]
  cases (List.range ws.length).find? (fun k => fieldRg c.h.u d k == r) with
  | none => rfl
  | some k =>
    cases r with
    | s m => rfl
    | v m => simp only [mem_lanesOf]

theorem Writes.congr {c : Ctx} {u : Bool} {d : Reg} {n : Nat} {val val' : Nat → Nat → Word} {x y : Group}
    (h : Writes c u d n val x) (hv : ∀ i k, k < n → val i k = val' i k) (hr : ∀ r i, y.reg r i = x.reg r i) :
    Writes c u d n val' y := by
  intro r lane hl
  rw [hr, h r lane hl]
  cases hfind : (List.range n).find? (fun k => fieldRg u d k == r) with
  | none => rfl
  | some k =>
    have hk : k < n := by simpa using List.mem_of_find?_eq_some hfind
    cases r <;> simp only [hv _ k hk]

/-- A bundle that may execute and whose instruction gives one word to every active lane, or to a scalar register. -/
theorem putAll_completes {s : State} {c : Ctx} {h : Hdr} {n : Nat} {reads : List Use} {d : Reg} {body : Ctx → State → Res}
    (w : Word) (he : Executes s c h n (reads ++ [⟨h.u, d, 1⟩])) (hbody : body c s = .ok (c.putAll s d [w])) :
    Leaves s c (run h n reads [⟨h.u, d, 1⟩] body s) (fun x => Writes c h.u d 1 (fun _ _ => w) x ∧ SamePreds c x) := by
  obtain ⟨-, -, rfl, -⟩ := group_of_bundle he.1.2
  refine leaves_ok he (by rw [hbody, putAll_eq])
    (putWords_keeps Group.live live_setReg _ d _ [w] _) (putWords_keeps Group.rest rest_setReg _ d _ [w] _)
    (errors_putWords _ d _ [w] _) ⟨?_, ?_⟩
  · refine (putWords_writes c d [w]).congr (fun _ k hk => ?_) (stepped_reg c _ _)
    obtain rfl : k = 0 := Nat.lt_one_iff.mp hk
    rfl
  · intro p
    rw [stepped_pred]
    exact putWords_keeps (fun x => x.pred p) (fun x r l w => pred_setReg x r l w p) _ d _ [w] _

/-- A bundle that may execute and traps outside trap mode, the state being as it was. -/
theorem traps_of_body {s : State} {c : Ctx} {h : Hdr} {n : Nat} {reads writes : List Use} {body : Ctx → State → Res}
    {cause : Byte} {lanes : Lanes} {addr : Nat} (he : Executes s c h n (reads ++ writes)) (hm : c.grp.trap = none)
    (hv : hvec s c.task.tenant ≠ 0) (hbody : body c s = .trap s cause lanes addr) :
    Traps s c (run h n reads writes body s) cause lanes (BitVec.ofNat 57 addr) := by
  obtain ⟨x, honly, hx, htaken⟩ := takeTrap_taken he.1.2 hm hv cause lanes addr
  exact ⟨_, x, by rw [run, runGen_executes false reads writes body he, hbody], honly, hx, htaken⟩

/-! ### What a program can tell of a group -/

/-- Two groups that show the same entries, registers and predicates, and hold the same errors. -/
structure Group.Alike (x y : Group) : Prop where
  view : y.live.map Entry.view = x.live.map Entry.view
  reg : ∀ r i, y.reg r i = x.reg r i
  pred : ∀ p, y.pred p = x.pred p
  rbad : y.rbad = x.rbad

theorem Group.Alike.refl (x : Group) : x.Alike x := ⟨rfl, fun _ _ => rfl, fun _ => rfl, rfl⟩

theorem Group.Alike.trans {x y z : Group} (h : x.Alike y) (k : y.Alike z) : x.Alike z :=
  ⟨k.view.trans h.view, fun r i => (k.reg r i).trans (h.reg r i), fun p => (k.pred p).trans (h.pred p), k.rbad.trans h.rbad⟩

/-- A bundle that advances in a group like its own leaves every register and predicate as it was. -/
theorem stepped_of_alike (c : Ctx) (fair : Bool) {y : Group} (h : c.grp.Alike y) :
    Moved c (c.stepped fair y) ∧ SameRegs c (c.stepped fair y) ∧ SamePreds c (c.stepped fair y) :=
  ⟨moved_stepped c fair h.view (by rw [NoNewErrors, h.rbad]; exact fun _ hn => hn),
    fun r i _ => (stepped_reg c fair y r i).trans (h.reg r i), fun p => (stepped_pred c fair y p).trans (h.pred p)⟩

/-- A bundle that may execute an instruction that only passes. -/
theorem leaves_unchanged {s : State} {c : Ctx} {h : Hdr} {n : Nat} {reads writes : List Use} {body : Ctx → State → Res}
    (he : Executes s c h n (reads ++ writes)) (hbody : body c s = .ok s) :
    Leaves s c (run h n reads writes body s) (fun x => SameRegs c x ∧ SamePreds c x) := by
  obtain ⟨-, -, -, -, -, hg, -⟩ := group_of_bundle he.1.2
  obtain ⟨-, hsame⟩ := stepped_of_alike c (fairOn s c.ten) (Group.Alike.refl c.grp)
  exact ⟨_, c.stepped (fairOn s c.ten) c.grp, run_ok he hbody, onlyGroup_modGroup _ _ _ _,
    by rw [group_modGroup_same, hg]; rfl, hsame, stepped_advanced c _ _ rfl rfl (fun _ hn => hn)⟩

/-- Every byte of memory reads as it did, and every group is one that shows what it showed. -/
structure State.Alike (s t : State) : Prop where
  mem : SameMemory s t
  group : ∀ {tid g x}, group s tid g = some x → ∃ y, group t tid g = some y ∧ x.Alike y

theorem State.Alike.trans {s t u : State} (h : s.Alike t) (k : t.Alike u) : s.Alike u where
  mem := fun key a => (k.mem key a).trans (h.mem key a)
  group := fun hx => by
    obtain ⟨y, hy, hxy⟩ := h.group hx
    obtain ⟨z, hz, hyz⟩ := k.group hy
    exact ⟨z, hz, hxy.trans hyz⟩

theorem State.alike_of_tasks {s t : State} (hm : SameMemory s t) (ht : t.tasks = s.tasks) : s.Alike t where
  mem := hm
  group := fun {tid g x} hx => ⟨x, by rw [Machine.group, task_eq_of_tasks ht]; exact hx, Group.Alike.refl x⟩

theorem State.Alike.refl (s : State) : s.Alike s := State.alike_of_tasks (fun _ _ => rfl) rfl

theorem alike_modTenant (s : State) (n : Nat) (f : Tenant → Tenant) : s.Alike (modTenant s n f) :=
  State.alike_of_tasks (fun _ _ => rfl) rfl

theorem alike_csrSet (s : State) (n c : Nat) (w : Word) : s.Alike (csrSet s n c w) := alike_modTenant _ _ _

theorem alike_retagRoot (s : State) (n old new : Nat) : s.Alike (retagRoot s n old new) :=
  State.alike_of_tasks (fun _ _ => rfl) rfl

theorem mget_map_values {α β : Type} (f : α → β) (m : Map α) (k : Nat) :
    mget (m.map (fun p => (p.1, f p.2))) k = (mget m k).map f := by
  induction m with
  | nil => rfl
  | cons p m ih =>
    simp only [List.map_cons, mget, ih]
    split <;> rfl

/-- A change of every group of every task that no program can tell. -/
theorem State.alike_of_groups {s : State} (f : Task → Task) (k : Task → Group → Group)
    (hf : ∀ t, (f t).groups = t.groups.map (fun q => (q.1, k t q.2))) (hk : ∀ t x, Group.Alike x (k t x)) :
    s.Alike { s with tasks := s.tasks.map (fun p => (p.1, f p.2)) } where
  mem := fun _ _ => rfl
  group := fun {tid g x} hx => by
    obtain ⟨t, ht, hg⟩ := Option.bind_eq_some_iff.mp hx
    have htask : mget s.tasks tid = some t := ht
    refine ⟨k t x, ?_, hk t x⟩
    show (mget (s.tasks.map (fun p => (p.1, f p.2))) tid).bind (fun t => mget t.groups g) = _
    rw [mget_map_values, htask]
    show mget (f t).groups g = _
    rw [hf, mget_map_values, hg]
    rfl

theorem alike_wakeAll (s : State) : s.Alike (wakeAll s) :=
  State.alike_of_groups (fun t => { t with groups := t.groups.map (fun q => (q.1, { q.2 with stall := false })) })
    (fun _ x => { x with stall := false }) (fun _ => rfl)
    (fun _ x => ⟨rfl, fun r _ => by cases r <;> rfl, fun _ => rfl, rfl⟩)

end Sys2Proof.Machine
end
section
/-! SUPPORT. The CSRs (R63, R329): what a group's trap CSR reads, what a write of EPC leaves, and what a write of a tenant's CSR
changes. -/

namespace Sys2Proof.Machine

open Host

/-! ### The CSRs of a group -/

theorem lo32_toNat {w : Nat} (x : BitVec w) : lo32 x.toNat = x.setWidth 32 := by
  apply BitVec.eq_of_toNat_eq; simp [lo32]

theorem hi32_toNat {w : Nat} (x : BitVec w) : hi32 x.toNat = (x >>> 32).setWidth 32 := by
  apply BitVec.eq_of_toNat_eq; simp [hi32, Nat.shiftRight_eq_div_pow]

theorem groupCsr_eq_groupWord (x : Group) (n : Nat) : groupCsr x n = groupWord x n := by
  unfold groupCsr
  split <;> simp_all [groupWord, lo32_toNat, hi32_toNat]

/-- A low word put into an address, its bits 1:0 dropped. -/
theorem epc_low_word (e : VA) (w : Word) : BitVec.ofNat 57 (e.toNat / 2 ^ 32 * 2 ^ 32 + w.toNat / 4 * 4) =
    (e &&& 0x1FFFFFF00000000) ||| (w.setWidth 57 &&& 0xFFFFFFFC) := by
  have hw : w.toNat / 4 * 4 < 2 ^ 32 := by have := w.isLt; omega
  have hhigh : ∀ i, i < 57 → (0x1FFFFFF00000000 : VA).getLsbD i = decide (32 ≤ i) := by decide
  have hlow : ∀ i, i < 57 → (0xFFFFFFFC : VA).getLsbD i = (decide (2 ≤ i) && decide (i < 32)) := by decide
  apply BitVec.eq_of_getLsbD_eq
  intro i hi
  rw [BitVec.getLsbD_or, BitVec.getLsbD_and, BitVec.getLsbD_and, hhigh i hi, hlow i hi, BitVec.getLsbD_setWidth,
    BitVec.getLsbD_ofNat, Nat.mul_comm, Nat.testBit_two_pow_mul_add _ hw, Nat.testBit_div_two_pow]
  by_cases h32 : i < 32
  · have h4 : (w.toNat / 4 * 4).testBit i = (decide (2 ≤ i) && w.toNat.testBit i) := by
      rw [show w.toNat / 4 * 4 = 2 ^ 2 * (w.toNat / 2 ^ 2) by omega, Nat.testBit_two_pow_mul, Nat.testBit_div_two_pow]
      by_cases h2 : 2 ≤ i
      · simp [h2, Nat.sub_add_cancel h2]
      · simp [h2]
    simp [h32, hi, h4, BitVec.getLsbD, Bool.and_comm]
  · have hle : 32 ≤ i := by omega
    simp [h32, hi, hle, BitVec.getLsbD]

/-- A high word put into an address. -/
theorem epc_high_word (e : VA) (w : Word) : BitVec.ofNat 57 (e.toNat % 2 ^ 32 + 2 ^ 32 * (w.toNat % 2 ^ 25)) =
    (e &&& 0xFFFFFFFF) ||| (w.setWidth 57 <<< 32) := by
  have he : e.toNat % 2 ^ 32 < 2 ^ 32 := Nat.mod_lt _ (by decide)
  have hmask : ∀ i, i < 57 → ((0xFFFFFFFF : Nat) : VA).getLsbD i = decide (i < 32) := by decide
  apply BitVec.eq_of_getLsbD_eq
  intro i hi
  rw [BitVec.getLsbD_or, BitVec.getLsbD_and, hmask i hi, BitVec.getLsbD_shiftLeft, BitVec.getLsbD_setWidth,
    BitVec.getLsbD_ofNat, Nat.add_comm, Nat.testBit_two_pow_mul_add _ he, Nat.testBit_mod_two_pow,
    Nat.testBit_mod_two_pow]
  by_cases h32 : i < 32
  · simp [h32, hi, BitVec.getLsbD]
  · have h25 : i - 32 < 25 := by omega
    have h57 : i - 32 < 57 := by omega
    simp [h32, hi, h25, h57, BitVec.getLsbD]

theorem epc_setEpc (x : Group) (n : Nat) (w : Word) : (setEpc x n w).epc =
    if n = 0x027 then (x.epc &&& 0x1FFFFFF00000000) ||| (w.setWidth 57 &&& 0xFFFFFFFC)
    else (x.epc &&& 0xFFFFFFFF) ||| (w.setWidth 57 <<< 32) := by
  unfold setEpc
  split
  · exact epc_low_word x.epc w
  · exact epc_high_word x.epc w

theorem alike_setEpc (x : Group) (n : Nat) (w : Word) : x.Alike (setEpc x n w) :=
  ⟨rfl, fun r _ => by cases r <;> rfl, fun _ => rfl, rfl⟩

theorem rest_setEpc (x : Group) (n : Nat) (w : Word) : { (setEpc x n w).rest with epc := x.epc } = x.rest := rfl

theorem epc_rest (x : Group) : x.rest.epc = x.epc := rfl

/-! ### The CSRs of a tenant -/

@[simp] theorem csrGet_wakeAll (s : State) (k r : Nat) : csrGet (wakeAll s) k r = csrGet s k r := rfl
@[simp] theorem csrGet_clearStarve (s : State) (t k r : Nat) : csrGet (clearStarve s t) k r = csrGet s k r := rfl

theorem csrGet_modTenant_of_csr {s : State} {n : Nat} {f : Tenant → Tenant} (hf : ∀ x, (f x).csr = x.csr) (k r : Nat) :
    csrGet (modTenant s n f) k r = csrGet s k r := by
  unfold csrGet
  rw [tenant_modTenant]
  split
  · next h => rw [hf, h]
  · rfl

@[simp] theorem csrGet_retagRoot (s : State) (t old new k r : Nat) : csrGet (retagRoot s t old new) k r = csrGet s k r := by
  unfold retagRoot
  exact (csrGet_modTenant_of_csr (by intro; rfl) k r).trans rfl

theorem csrGet_csrStore {s : State} {t c m : Nat} (w : Word) (hm : csrMask c = some m) (k r : Nat) :
    csrGet (csrStore s t c w) k r =
      if k = t ∧ r = c then csrAfter (csrGet s k r) w m (csrClears c) else csrGet s k r := by
  have hset : csrGet (csrStore s t c w) k r = csrGet (csrSet s t c (csrMerge (csrGet s t c) w m (csrClears c))) k r := by
    unfold csrStore
    rw [hm]
    dsimp only [Option.getD_some]
    split
    · exact csrGet_retagRoot _ _ _ _ _ _
    · rfl
  rw [hset, csrGet_csrSet]
  split
  · next h => obtain ⟨rfl, rfl⟩ := h; rfl
  · rfl

theorem alike_csrStore (s : State) (t c : Nat) (w : Word) : s.Alike (csrStore s t c w) := by
  unfold csrStore
  dsimp only
  split
  · exact (alike_csrSet _ _ _ _).trans (alike_retagRoot _ _ _ _)
  · exact alike_csrSet _ _ _ _

/-- A group whose entries have STARVE 0. -/
def Group.unstarved (x : Group) : Group :=
  { x with front := x.front.map (fun e => { e with starve := 0 }),
           trap := x.trap.map (fun m => { m with hfront := m.hfront.map (fun e => { e with starve := 0 }) }) }

theorem alike_unstarved (x : Group) : x.Alike x.unstarved := by
  refine ⟨?_, fun r _ => by cases r <;> rfl, fun _ => rfl, rfl⟩
  have hview : ∀ es : List Entry, (es.map (fun e => { e with starve := 0 })).map Entry.view = es.map Entry.view := by
    intro es; rw [List.map_map]; rfl
  obtain hn | ⟨m, hm⟩ := Option.eq_none_or_eq_some x.trap
  · simpa [Group.live, Group.unstarved, hn] using hview x.front
  · simpa [Group.live, Group.unstarved, hm] using hview m.hfront

theorem alike_clearStarve (s : State) (n : Nat) : s.Alike (clearStarve s n) := by
  unfold clearStarve
  refine State.alike_of_groups
    (fun t => if t.tenant != n then t else { t with groups := t.groups.map (fun q => (q.1, q.2.unstarved)) })
    (fun t x => if t.tenant != n then x else x.unstarved) (fun t => ?_) (fun t x => ?_)
  · split <;> simp
  · split
    · exact Group.Alike.refl x
    · exact alike_unstarved x

/-- The state from which a CSR is written: a write of the spill pool's CSR that was held before is dropped (R260). -/
def dropHeld (s : State) (t c : Nat) : State :=
  if 0x030 ≤ c ∧ c ≤ 0x032 then modTenant s t (fun x => { x with heldCsr := x.heldCsr.filter (fun p => p.1 != c) }) else s

theorem alike_dropHeld (s : State) (t c : Nat) : s.Alike (dropHeld s t c) := by
  unfold dropHeld
  split
  · exact alike_modTenant _ _ _
  · exact State.Alike.refl s

@[simp] theorem csrGet_dropHeld (s : State) (t c k r : Nat) : csrGet (dropHeld s t c) k r = csrGet s k r := by
  unfold dropHeld
  split
  · exact csrGet_modTenant_of_csr (by intro; rfl) k r
  · rfl

section Put
variable {s : State} {t c m : Nat} {w : Word}

/-- A write that its CSR takes now (R385, R410, R425): of none whose write is a command (PQSET, DBGCMD), and with no DET launch
that holds it back (R260). -/
theorem csrPut_eq (hl : csrLocked s t c = false) (hr : csrInRange c w.toNat = true) (hq : c ≠ 0x052) (hd : c ≠ 0x062)
    (hh : 0x030 ≤ c ∧ c ≤ 0x032 → detRuns s t = false) : csrPut s t c w =
      if c = 0x020 ∧ nb w.toNat 0 1 = 0 then clearStarve (csrStore (dropHeld s t c) t c w) t
      else csrStore (dropHeld s t c) t c w := by
  have hnot : ¬ (0x030 ≤ c ∧ c ≤ 0x032 ∧ detRuns s t = true) := fun ⟨h1, h2, h3⟩ => by simp [hh ⟨h1, h2⟩] at h3
  unfold csrPut
  simp only [hl, hr, hq, hd, hnot, Bool.not_true, Bool.or_self, Bool.false_eq_true, false_and, if_false]
  rfl

/-- Of such a write memory and groups show nothing, and the CSR alone changes, by the bits written. -/
theorem csrPut_takes (hm : csrMask c = some m) (hl : csrLocked s t c = false) (hr : csrInRange c w.toNat = true)
    (hq : c ≠ 0x052) (hd : c ≠ 0x062) (hh : 0x030 ≤ c ∧ c ≤ 0x032 → detRuns s t = false) :
    s.Alike (csrPut s t c w) ∧ ∀ k r, csrGet (csrPut s t c w) k r =
      if k = t ∧ r = c then csrAfter (csrGet s k r) w m (csrClears c) else csrGet s k r := by
  have hstore := (alike_dropHeld s t c).trans (alike_csrStore (dropHeld s t c) t c w)
  have hget : ∀ k r, csrGet (csrStore (dropHeld s t c) t c w) k r =
      if k = t ∧ r = c then csrAfter (csrGet s k r) w m (csrClears c) else csrGet s k r := by
    intro k r; rw [csrGet_csrStore w hm, csrGet_dropHeld]
  rw [csrPut_eq hl hr hq hd hh]
  split
  · exact ⟨hstore.trans (alike_clearStarve _ _), hget⟩
  · exact ⟨hstore, hget⟩

theorem csrWrite_takes (hm : csrMask c = some m) (hw : m ≠ 0 ∨ csrClears c ≠ 0) (hq : c ≠ 0x052) :
    csrWrite s t c w true = .ok (wakeAll (csrPut s t c w)) := by
  have hfield : ¬ (m = 0 ∧ csrClears c = 0) := fun ⟨h1, h2⟩ => hw.elim (· h1) (· h2)
  simp [csrWrite, hm, hfield, hq]

theorem csrWrite_readOnly {super : Bool} (hm : csrMask c = some 0) (hc : csrClears c = 0) :
    csrWrite s t c w super = .ok s := by simp [csrWrite, hm, hc]

end Put

end Sys2Proof.Machine
end
section
/-! PROOFS. `csrrd` and `csrwr` (R63, R329), case by case, and the statement about them. -/

namespace Sys2Proof.Machine

open Host

theorem exec_csrrd (h : Hdr) (d : Reg) (n : BitVec 12) (s : State) : exec (.csrrd h d n) s = execCsrrd h d n s := rfl
theorem exec_csrwr (h : Hdr) (n : BitVec 12) (a : Reg) (s : State) : exec (.csrwr h n a) s = execCsrwr h n a s := rfl

theorem user_eq_false {c : Ctx} (htrap : c.grp.trap ≠ none) : c.user = false := by
  simpa [Ctx.user, Option.isSome_iff_ne_none] using htrap

section Read
variable {h : Hdr} {d : Reg} {n : BitVec 12} {s : State} {c : Ctx}

theorem csrrd_group (he : Executes s c h 12 [⟨h.u, d, 1⟩]) (hg : csrOfGroup n.toNat = true) :
    Leaves s c (exec (.csrrd h d n) s) (fun x => Writes c h.u d 1 (fun _ _ => groupWord c.grp n.toNat) x ∧ SamePreds c x) := by
  rw [exec_csrrd]
  refine putAll_completes (reads := []) _ he ?_
  simp only [hg, if_true, groupCsr_eq_groupWord]

theorem csrrd_tenant (he : Executes s c h 12 [⟨h.u, d, 1⟩]) (hg : csrOfGroup n.toNat = false)
    (hm : (csrMask n.toNat).isSome) (ht : csrTail n.toNat = false) :
    Leaves s c (exec (.csrrd h d n) s) (fun x =>
      Writes c h.u d 1 (fun _ _ => csrValue s c.task.tenant n.toNat) x ∧ SamePreds c x) := by
  rw [exec_csrrd]
  refine putAll_completes (reads := []) _ he ?_
  have hs : (csrMask n.toNat).isNone = false := by rw [← Option.not_isSome, hm]; rfl
  simp only [hg, hs, ht, Bool.false_eq_true, if_false]
  rfl

theorem csrrd_undefined (he : Executes s c h 12 [⟨h.u, d, 1⟩]) (hg : csrOfGroup n.toNat = false)
    (hm : csrMask n.toNat = none) (htrap : c.grp.trap = none) (hv : hvec s c.task.tenant ≠ 0) :
    Traps s c (exec (.csrrd h d n) s) 0x01 c.ent.mask 0 := by
  rw [exec_csrrd]
  refine traps_of_body (reads := []) (addr := 0) he htrap hv ?_
  simp only [hg, hm, Option.isNone_none, Bool.false_eq_true, if_false, if_true]
  rfl

end Read

section Write
variable {h : Hdr} {a : Reg} {n : BitVec 12} {s : State} {c : Ctx}

theorem csrwr_epc (he : Executes s c h 12 [⟨h.u, a, 1⟩]) (htrap : c.grp.trap ≠ none) (hn : n.toNat = 0x027 ∨ n.toNat = 0x028) :
    ∃ t x, exec (.csrwr h n a) s = .next t ∧ OnlyGroup s t c.tid c.g ∧ group t c.tid c.g = some x ∧ Moved c x ∧
      SameRegs c x ∧ SamePreds c x ∧ x.rest = (setEpc c.grp n.toNat (c.ra a 0 (lowest c.act))).rest := by
  obtain ⟨-, -, -, -, -, hgrp, -⟩ := group_of_bundle he.1.2
  obtain ⟨hmoved, hregs, hpreds⟩ := stepped_of_alike c (fairOn s c.ten)
    (alike_setEpc c.grp n.toNat (c.ra a 0 (lowest c.act)))
  have hof : csrOfGroup n.toNat = true := by rcases hn with hn | hn <;> rw [hn] <;> rfl
  rw [exec_csrwr]
  refine ⟨_, _, run_ok (writes := []) (s1 := modGroup s c.tid c.g (fun x => setEpc x n.toNat (c.ra a 0 (lowest c.act)))) he ?_,
    ?_, ?_, hmoved, hregs, hpreds, rest_stepped c _ _⟩
  · simp only [hof, hn, user_eq_false htrap, if_true, Bool.false_eq_true, if_false]
    rfl
  · rw [modGroup_modGroup]
    exact onlyGroup_modGroup _ _ _ _
  · rw [modGroup_modGroup, group_modGroup_same, hgrp]
    rfl

theorem csrwr_tenant {m : Nat} (he : Executes s c h 12 [⟨h.u, a, 1⟩]) (htrap : c.grp.trap ≠ none)
    (hg : csrOfGroup n.toNat = false) (hm : csrMask n.toNat = some m) (hw : m ≠ 0 ∨ csrClears n.toNat ≠ 0)
    (hl : csrLocked s c.task.tenant n.toNat = false) (hr : csrInRange n.toNat (c.ra a 0 (lowest c.act)).toNat = true)
    (hq : n.toNat ≠ 0x052) (hd : n.toNat ≠ 0x062)
    (hh : 0x030 ≤ n.toNat ∧ n.toNat ≤ 0x032 → detRuns s c.task.tenant = false) :
    ∃ t x, exec (.csrwr h n a) s = .next t ∧ SameMemory s t ∧ group t c.tid c.g = some x ∧ Moved c x ∧
      SameRegs c x ∧ SamePreds c x ∧
      ∀ k r, csrGet t k r = if k = c.task.tenant ∧ r = n.toNat then
        csrAfter (csrGet s k r) (c.ra a 0 (lowest c.act)) m (csrClears n.toNat) else csrGet s k r := by
  obtain ⟨-, -, -, -, -, hgrp, -⟩ := group_of_bundle he.1.2
  obtain ⟨hput, hget⟩ := csrPut_takes hm hl hr hq hd hh
  obtain ⟨hmem, hgroup⟩ := hput.trans (alike_wakeAll _)
  obtain ⟨y, hy, hlike⟩ := hgroup hgrp
  obtain ⟨hmoved, hregs, hpreds⟩ := stepped_of_alike c
    (fairOn (wakeAll (csrPut s c.ten n.toNat (c.ra a 0 (lowest c.act)))) c.ten) hlike
  rw [exec_csrwr]
  refine ⟨_, _, run_ok (writes := []) (s1 := wakeAll (csrPut s c.ten n.toNat (c.ra a 0 (lowest c.act)))) he ?_, hmem, ?_,
    hmoved, hregs, hpreds, hget⟩
  · simp only [hg, user_eq_false htrap, Bool.not_false, csrWrite_takes hm hw hq, Bool.false_eq_true, if_false]
    rfl
  · rw [group_modGroup_same]
    exact congrArg (Option.map _) hy

theorem csrwr_readOnly (he : Executes s c h 12 [⟨h.u, a, 1⟩]) (hg : csrOfGroup n.toNat = false)
    (hm : csrMask n.toNat = some 0) (hc : csrClears n.toNat = 0) :
    Leaves s c (exec (.csrwr h n a) s) (fun x => SameRegs c x ∧ SamePreds c x) := by
  rw [exec_csrwr]
  refine leaves_unchanged (writes := []) he ?_
  simp only [hg, csrWrite_readOnly hm hc, Bool.false_eq_true, if_false]

end Write

/-- Settles O19: a read gives the word of the group or of the tenant; a write of EPC, of a tenant's CSR that takes it, and of one
without a field that software writes, each by its own lemma. -/
theorem csrAccess : Obligations.CsrAccess := by
  unfold Obligations.CsrAccess
  refine ⟨fun h d n s c he => ⟨csrrd_group he, csrrd_tenant he, csrrd_undefined he⟩, fun h n a s c he htrap => ⟨fun hn => ?_,
    fun m hg hm hw hl hr hq hd hh => csrwr_tenant he htrap hg hm hw hl hr hq hd hh, csrwr_readOnly he⟩⟩
  obtain ⟨t, x, hexec, honly, hx, hmoved, hregs, hpreds, hrest⟩ := csrwr_epc he htrap hn
  refine ⟨t, x, hexec, honly, hx, hmoved, hregs, hpreds, ?_, ?_⟩
  · rw [hrest]; exact rest_setEpc _ _ _
  · rw [← epc_rest x, hrest, epc_rest, epc_setEpc]

end Sys2Proof.Machine
end
section
/-! SUPPORT and PROOFS. Bundles that move their lanes themselves: what the group shows afterwards, entries that are replaced, and
the statement about `setprio` and `yield` (R40, R199). -/

namespace Sys2Proof.Machine

open Host

/-! ### The bundle's entry -/

theorem bestBy_mem (better : Entry → Entry → Bool) (es : List Entry) (e : Entry) (h : bestBy better es = some e) : e ∈ es := by
  have key : ∀ (l : List Entry) (b : Option Entry), l.foldl (fun b e =>
      match b with
      | none => some e
      | some f => if better e f then some e else b) b = some e → b = some e ∨ e ∈ l := by
    intro l
    induction l with
    | nil => exact fun b hb => Or.inl hb
    | cons a l ih =>
      intro b hb
      rcases ih _ hb with h1 | h1
      · cases b with
        | none => right; simp only [Option.some.injEq] at h1; exact h1 ▸ List.mem_cons_self
        | some f =>
          dsimp only at h1
          split at h1
          · right; simp only [Option.some.injEq] at h1; exact h1 ▸ List.mem_cons_self
          · exact Or.inl h1
      · exact Or.inr (List.mem_cons_of_mem a h1)
  rcases key es none h with h1 | h1
  · simp at h1
  · exact h1

theorem selectEntry_mem {fair : Bool} {limit : Nat} {es : List Entry} {e : Entry} (h : selectEntry fair limit es = some e) :
    e ∈ es := by
  unfold selectEntry at h
  dsimp only at h
  split at h
  · next f hf =>
    cases h
    cases fair with
    | false => simp at hf
    | true => exact List.mem_of_mem_filter (List.mem_of_mem_filter (bestBy_mem _ _ _ hf))
  · exact List.mem_of_mem_filter (bestBy_mem _ _ _ h)

theorem select_mem_live {fair : Bool} {limit : Nat} {x : Group} {e : Entry} (h : x.select fair limit = some e) : e ∈ x.live := by
  unfold Group.select at h
  split at h
  · next f hf => cases h; exact List.mem_of_find?_eq_some hf
  · exact selectEntry_mem h

theorem ent_mem_live {s : State} {tid g : Nat} {h : Hdr} {n : Nat} {c : Ctx} (hb : bundleOf s tid g h n = some c) :
    c.ent ∈ c.grp.live := by
  unfold bundleOf at hb
  split at hb
  · cases hb
  · split at hb
    · cases hb
    · split at hb
      · cases hb
      · next he => cases hb; exact select_mem_live he

/-! ### A bundle that moves its lanes itself -/

/-- The group after its bundle has issued and changed the issuing frontier. -/
def Ctx.moved (c : Ctx) (fair : Bool) (f : List Entry → List Entry) (x : Group) : Group :=
  (x.setLive (f (noteIssue fair c.ent.id x.live))).issued c.pc

theorem move_eq (c : Ctx) (s : State) (f : List Entry → List Entry) :
    c.move s f = modGroup s c.tid c.g (c.moved (fairOn s c.ten) f) := rfl

section Moved
variable (c : Ctx) (fair : Bool) (f : List Entry → List Entry) (x : Group)

theorem live_moved : (c.moved fair f x).live = f (noteIssue fair c.ent.id x.live) := live_setLive _ _
theorem rest_moved : (c.moved fair f x).rest = x.rest := rest_setLive _ _
theorem reg_moved (r : Rg) (i : Nat) : (c.moved fair f x).reg r i = x.reg r i := (reg_issued _ _ _ _).trans (reg_setLive _ _ _ _)
theorem pred_moved (p : Nat) : (c.moved fair f x).pred p = x.pred p := pred_setLive _ _ _
theorem rbad_moved : (c.moved fair f x).rbad = x.rbad := rbad_stepped c x _
theorem trap_moved : (c.moved fair f x).trap =
    x.trap.map (fun m => { m with hfront := f (noteIssue fair c.ent.id m.hfront) }) := by
  cases h : x.trap <;> simp [Ctx.moved, Group.issued, Group.setLive, Group.live, h]
theorem front_moved : (c.moved fair f x).front = if x.trap.isSome then x.front else f (noteIssue fair c.ent.id x.front) := by
  cases h : x.trap <;> simp [Ctx.moved, Group.issued, Group.setLive, Group.live, h]
theorem oplog_moved : (c.moved fair f x).oplog = x.oplog := by
  unfold Ctx.moved Group.issued Group.setLive; cases x.trap <;> rfl

end Moved

theorem run_done {s s1 : State} {c : Ctx} {h : Hdr} {n : Nat} {reads writes : List Use} {body : Ctx → State → Res}
    (he : Executes s c h n (reads ++ writes)) (hbody : body c s = .done s1) : run h n reads writes body s = .next s1 := by
  rw [run, runGen_executes false reads writes body he, hbody]

theorem onlyGroup_serial {s t : State} {tid g : Nat} (n : Nat) (h : OnlyGroup { s with serial := n } t tid g) :
    OnlyGroup s t tid g := by
  obtain ⟨hmem, hcsr, hgroups, htask, hrest⟩ := h
  refine ⟨hmem, hcsr, hgroups, htask, ?_⟩
  have : { t with tasks := s.tasks, serial := s.serial } =
    { ({ t with tasks := s.tasks, serial := n } : State) with serial := s.serial } := rfl
  rw [this]
  exact congrArg (fun u : State => { u with serial := s.serial }) hrest

/-- An instruction that only replaces its bundle's entry: what it does to the frontier is all that it does. -/
theorem moved_completes {s : State} {c : Ctx} {h : Hdr} {n : Nat} {body : Ctx → State → Res} {P : Group → Prop}
    (he : Executes s c h n []) (k : Nat) (f : List Entry → List Entry)
    (hbody : body c s = .done (c.move { s with serial := k } f))
    (hP : P (c.moved (fairOn s c.ten) f c.grp)) :
    ∃ t x, run h n [] [] body s = .next t ∧ OnlyGroup s t c.tid c.g ∧ group t c.tid c.g = some x ∧ P x ∧
      SameRegs c x ∧ SamePreds c x ∧ x.rest = c.grp.rest := by
  obtain ⟨-, -, -, -, -, hg, -⟩ := group_of_bundle he.1.2
  have hg' : group { s with serial := k } c.tid c.g = some c.grp := hg
  refine ⟨_, c.moved (fairOn s c.ten) f c.grp, run_done (writes := []) he hbody,
    onlyGroup_serial k (onlyGroup_modGroup _ _ _ _), ?_, hP, fun r i _ => reg_moved _ _ _ _ _ _, fun p => pred_moved _ _ _ _ _,
    rest_moved _ _ _ _⟩
  rw [move_eq, group_modGroup_same, hg']
  rfl

/-! ### Replaced entries -/

/-- A frontier in which the bundle's entry is moved as a whole. -/
theorem splits_of_map {s : State} {c : Ctx} {h : Hdr} {n : Nat} (hb : bundleOf s c.tid c.g h n = some c) (k : Entry → Entry)
    (tgt : Nat → VA) (prio : Lanes → Byte) {x : Group} (hx : x.rbad = c.grp.rbad)
    (hl : x.live.map Entry.view = (c.grp.live.map k).map Entry.view)
    (hother : ∀ e, e.id ≠ c.ent.id → k e = e) (hmask : ∀ e, (k e).mask = e.mask)
    (hpc : ∀ i, i < 32 → has c.ent.mask i → (k c.ent).pc = tgt i) (hprio : (k c.ent).prio = prio c.ent.mask) :
    Splits c x tgt prio := by
  have hto : ∀ e ∈ x.live, ∃ f ∈ c.grp.live, e.view = (k f).view := by
    intro e he
    have : e.view ∈ (c.grp.live.map k).map Entry.view := hl ▸ List.mem_map_of_mem he
    simp only [List.mem_map, exists_exists_and_eq_and] at this
    obtain ⟨f, hf, hv⟩ := this
    exact ⟨f, hf, hv.symm⟩
  have hof : ∀ f ∈ c.grp.live, ∃ e ∈ x.live, e.view = (k f).view := by
    intro f hf
    have : (k f).view ∈ x.live.map Entry.view := hl ▸ List.mem_map_of_mem (List.mem_map_of_mem hf)
    simpa only [List.mem_map] using this
  have hview : ∀ e f : Entry, e.view = f.view → e.mask = f.mask ∧ e.pc = f.pc ∧ e.prio = f.prio := by
    intro e f hv
    simp only [Entry.view, Prod.mk.injEq] at hv
    exact ⟨hv.2.2.1, hv.2.1, hv.2.2.2.1⟩
  refine ⟨fun i hi hm => ?_, fun e he => ?_, fun f hf hne => ?_, fun n hn => hx ▸ hn⟩
  · obtain ⟨e, he, hv⟩ := hof c.ent (ent_mem_live hb)
    obtain ⟨h1, h2, -⟩ := hview _ _ hv
    exact ⟨e, he, by rw [h1, hmask]; exact hm, h2.trans (hpc i hi hm)⟩
  · obtain ⟨f, hf, hv⟩ := hto e he
    obtain ⟨h1, h2, h3⟩ := hview _ _ hv
    rw [hmask] at h1
    by_cases hid : f.id = c.ent.id
    · by_cases heq : f = c.ent
      · subst heq
        refine Or.inr (Or.inl ⟨by rw [h3, h1, hprio], fun i hi hm => ?_⟩)
        rw [h1] at hm
        exact ⟨hm, h2.trans (hpc i hi hm)⟩
      · exact Or.inr (Or.inr ⟨f, hf, heq, hid, h1⟩)
    · exact Or.inl ⟨f, hf, hid, by rw [hv, hother f hid]⟩
  · obtain ⟨e, he, hv⟩ := hof f hf
    exact ⟨e, he, by rw [hv, hother f hne]⟩

theorem mem_replaceEntry {id : Nat} {new es : List Entry} {e : Entry} :
    e ∈ replaceEntry id new es ↔ (∃ f ∈ es, f.id = id ∧ e ∈ new) ∨ (e ∈ es ∧ e.id ≠ id) := by
  simp only [replaceEntry, List.mem_flatMap]
  constructor
  · rintro ⟨f, hf, he⟩
    by_cases h : f.id = id
    · simp only [h, beq_self_eq_true, if_true] at he; exact Or.inl ⟨f, hf, h, he⟩
    · simp only [beq_iff_eq, h, if_false, List.mem_singleton] at he; subst he; exact Or.inr ⟨hf, h⟩
  · rintro (⟨f, hf, hid, he⟩ | ⟨he, hid⟩)
    · exact ⟨f, hf, by simp [hid, he]⟩
    · exact ⟨e, he, by simp [hid]⟩

theorem exists_view_of_map {as bs : List Entry} (h : as.map Entry.view = bs.map Entry.view) {e : Entry} (he : e ∈ as) :
    ∃ f ∈ bs, f.view = e.view := by
  have hmem : e.view ∈ bs.map Entry.view := h ▸ List.mem_map_of_mem he
  exact List.mem_map.mp hmem

theorem fields_of_view {e f : Entry} (h : e.view = f.view) : e.id = f.id ∧ e.pc = f.pc ∧ e.mask = f.mask ∧ e.prio = f.prio := by
  simp only [Entry.view, Prod.mk.injEq] at h
  exact ⟨h.1, h.2.1, h.2.2.1, h.2.2.2.1⟩

/-- A frontier in which the bundle's entry is replaced by others that hold its lanes. -/
theorem splits_of_replace {s : State} {c : Ctx} {h : Hdr} {n : Nat} (hb : bundleOf s c.tid c.g h n = some c) {ps l : List Entry}
    {tgt : Nat → VA} {prio : Lanes → Byte} {x : Group} (hx : x.rbad = c.grp.rbad) (hl : l.map Entry.view = c.grp.live.map Entry.view)
    (hlive : x.live.map Entry.view = (replaceEntry c.ent.id ps l).map Entry.view)
    (hps : ∀ p ∈ ps, p.prio = prio p.mask ∧ ∀ i, i < 32 → has p.mask i → has c.ent.mask i ∧ p.pc = tgt i)
    (hcover : ∀ i, i < 32 → has c.ent.mask i → ∃ p ∈ ps, has p.mask i ∧ p.pc = tgt i) : Splits c x tgt prio := by
  refine ⟨fun i hi hm => ?_, fun e he => ?_, fun f hf hne => ?_, fun n hn => hx ▸ hn⟩
  · obtain ⟨p, hp, hpm, hppc⟩ := hcover i hi hm
    obtain ⟨d, hd, hdv⟩ := exists_view_of_map hl.symm (ent_mem_live hb)
    obtain ⟨e, he, hv⟩ := exists_view_of_map hlive.symm
      (mem_replaceEntry.mpr (Or.inl ⟨d, hd, (fields_of_view hdv).1, hp⟩))
    obtain ⟨-, h2, h3, -⟩ := fields_of_view hv
    exact ⟨e, he, h3 ▸ hpm, h2.trans hppc⟩
  · obtain ⟨f, hf, hv⟩ := exists_view_of_map hlive he
    obtain ⟨-, h2, h3, h4⟩ := fields_of_view hv
    rcases mem_replaceEntry.mp hf with ⟨-, -, -, hp⟩ | ⟨hfl, hid⟩
    · obtain ⟨hprio, hlanes⟩ := hps f hp
      refine Or.inr (Or.inl ⟨by rw [← h4, ← h3, hprio], fun i hi hm => ?_⟩)
      rw [← h2]
      exact hlanes i hi (h3.symm ▸ hm)
    · obtain ⟨g, hg, hgv⟩ := exists_view_of_map hl hfl
      exact Or.inl ⟨g, hg, by rw [(fields_of_view hgv).1]; exact hid, (hgv.trans hv).symm⟩
  · obtain ⟨d, hd, hdv⟩ := exists_view_of_map hl.symm hf
    obtain ⟨e, he, hv⟩ := exists_view_of_map hlive.symm
      (mem_replaceEntry.mpr (Or.inr ⟨hd, by rw [(fields_of_view hdv).1]; exact hne⟩))
    exact ⟨e, he, hv.trans hdv⟩

/-! ### `setprio` and `yield` (R40, R199) -/

theorem mem_parts {c : Ctx} {s : State} {prio : Byte} {starve : Half} {p : Entry} (h : p ∈ c.parts s prio starve) :
    p.pc = c.npc ∧ ((p.id = s.serial ∧ p.mask = c.act ∧ p.prio = prio) ∨
      (p.id = s.serial + 1 ∧ p.mask = c.bundle &&& ~~~c.act ∧ p.prio = c.ent.prio ∧ p.eligible = true)) := by
  simp only [Ctx.parts, List.mem_cons, List.not_mem_nil, or_false] at h
  rcases h with rfl | rfl
  · exact ⟨rfl, Or.inl ⟨rfl, rfl, rfl⟩⟩
  · exact ⟨rfl, Or.inr ⟨rfl, rfl, rfl, rfl⟩⟩

theorem not_and_and (a b : Lanes) : a &&& ~~~b &&& b = 0 := by
  apply lanes_ext
  intro i hi
  rw [has_and, has_and, has_not _ _ hi]
  cases has a i <;> cases has b i <;> simp [has]

/-- The parts of an entry hold its lanes: those that are active with one priority, the others with their own. -/
theorem splits_of_parts {s : State} {c : Ctx} {h : Hdr} {ps l : List Entry} {x : Group} {k : State} {n : Byte} {starve : Half}
    (he : Executes s c h 8 []) (hps : ∀ p, p ∈ ps ↔ p ∈ c.parts k n starve)
    (hx : x.rbad = c.grp.rbad) (hl : l.map Entry.view = c.grp.live.map Entry.view)
    (hlive : x.live.map Entry.view = (replaceEntry c.ent.id ps l).map Entry.view) :
    Splits c x (fun _ => c.ent.pc + 8) (fun m => if m &&& c.act ≠ 0 then n else c.ent.prio) := by
  obtain ⟨⟨-, hb⟩, -, hact⟩ := he
  obtain ⟨-, -, -, hlen, -, -, hmask⟩ := group_of_bundle hb
  have hnpc : c.npc = c.ent.pc + 8 := by rw [Ctx.npc, hlen]; rfl
  refine splits_of_replace hb hx hl hlive (fun p hp => ?_) (fun i hi hm => ?_)
  · obtain ⟨hpc, ⟨-, hm, hprio⟩ | ⟨-, hm, hprio, -⟩⟩ := mem_parts ((hps p).mp hp)
    · refine ⟨by rw [hprio, hm, BitVec.and_self, if_pos hact], fun i hi hi' => ⟨?_, hpc.trans hnpc⟩⟩
      rw [hm, hmask, has_and, Bool.and_eq_true] at hi'
      exact hi'.1
    · refine ⟨by rw [hprio, hm, not_and_and, if_neg (fun hne => hne rfl)], fun i hi hi' => ⟨?_, hpc.trans hnpc⟩⟩
      rw [hm, has_and, Bool.and_eq_true] at hi'
      exact hi'.1
  · by_cases ha : has c.act i = true
    · exact ⟨_, (hps _).mpr List.mem_cons_self, ha, hnpc⟩
    · refine ⟨_, (hps _).mpr (List.mem_cons_of_mem _ List.mem_cons_self), ?_, hnpc⟩
      show has (c.bundle &&& ~~~c.act) i = true
      rw [has_and, has_not _ _ hi]
      simp [Ctx.bundle, hm, ha]

theorem divergeRecords_off {c : Ctx} {s : State} (es : List Entry) (h : evOn s c.ten 1 c.user = false)
    (ht : ∀ t, task s c.tid = some t → t.tenant = c.ten) : divergeRecords c s es = s := by
  unfold divergeRecords
  split
  · next hu =>
    have huser : c.user = true := by simp only [Bool.and_eq_true] at hu; exact hu.1
    have hoff : evOn s c.ten 1 true = false := huser ▸ h
    refine List.foldl_fixed' (fun e => ?_) es
    unfold evPut
    split
    · rfl
    · next t htask => rw [ht t htask, hoff]; rfl
  · rfl

/-- A split that no event is recorded of. -/
theorem splitTo_done {c : Ctx} {s : State} {h : Hdr} {n : Nat} (hb : bundleOf s c.tid c.g h n = some c) (es : List Entry)
    (hev : evOn s c.ten 1 c.user = false) :
    c.splitTo s s es = .done (c.move { s with serial := s.serial + es.length } (replaceEntry c.ent.id es)) := by
  obtain ⟨-, -, -, -, htask, -, -⟩ := group_of_bundle hb
  have hwait : divergeWaits c s es = false := by simp [divergeWaits, hev]
  rw [Ctx.splitTo, hwait]
  refine congrArg Res.done (divergeRecords_off _ hev (fun t ht => ?_))
  have htask' : task { s with serial := s.serial + es.length } c.tid = some c.task := htask
  rw [move_eq, task_modGroup, if_pos rfl, htask'] at ht
  cases ht
  rfl

theorem exec_setprio (h : Hdr) (n : Byte) (s : State) : exec (.setprio h n) s = execSetprio h n s := rfl
theorem exec_yield (h : Hdr) (s : State) : exec (.yield h) s = execYield h s := rfl

/-- The bundle's entry past its instruction, its priority changed; every other entry as it was. -/
def Entry.past (c : Ctx) (p : Byte → Byte) (e : Entry) : Entry :=
  if e.id == c.ent.id then { e with pc := c.npc, prio := p e.prio } else e

theorem view_map_past (c : Ctx) (p : Byte → Byte) {as bs : List Entry} (h : as.map Entry.view = bs.map Entry.view) :
    (as.map (Entry.past c p)).map Entry.view = (bs.map (Entry.past c p)).map Entry.view := by
  refine view_map_congr _ (fun v => if v.1 == c.ent.id then (v.1, c.npc, v.2.2.1, p v.2.2.2.1, v.2.2.2.2) else v)
    (fun e => ?_) _ _ h
  by_cases h : e.id = c.ent.id <;> simp [Entry.past, Entry.view, h]

/-- The bundle's whole entry advances and takes a priority. -/
theorem splits_of_past {s : State} {c : Ctx} {h : Hdr} (he : Executes s c h 8 []) (hall : c.act = c.ent.mask) (p : Byte → Byte)
    {x : Group} (hx : x.rbad = c.grp.rbad) (hlive : x.live.map Entry.view = (c.grp.live.map (Entry.past c p)).map Entry.view) :
    Splits c x (fun _ => c.ent.pc + 8) (fun m => if m &&& c.act ≠ 0 then p c.ent.prio else c.ent.prio) := by
  obtain ⟨⟨-, hb⟩, -, hact⟩ := he
  obtain ⟨-, -, -, hlen, -, -, -⟩ := group_of_bundle hb
  refine splits_of_map hb (Entry.past c p) _ _ hx hlive (fun e hne => ?_) (fun e => ?_) (fun i _ _ => ?_) ?_
  · simp [Entry.past, hne]
  · unfold Entry.past; split <;> rfl
  · simp [Entry.past, Ctx.npc, Ctx.pc, hlen]
  · rw [← hall, BitVec.and_self, if_pos hact]
    simp [Entry.past]

theorem setprio_completes {h : Hdr} {n : Byte} {s : State} {c : Ctx} (he : Executes s c h 8 [])
    (hev : evOn s c.task.tenant 1 c.user = false) :
    ∃ t x, exec (.setprio h n) s = .next t ∧ OnlyGroup s t c.tid c.g ∧ group t c.tid c.g = some x ∧
      Splits c x (fun _ => c.ent.pc + 8) (fun m => if m &&& c.act ≠ 0 then n else c.ent.prio) ∧
      SameRegs c x ∧ SamePreds c x ∧ x.rest = c.grp.rest := by
  rw [exec_setprio]
  by_cases hall : c.act = c.ent.mask
  · refine moved_completes he s.serial (List.map (Entry.past c (fun _ => n))) ?_
      (splits_of_past he hall (fun _ => n) (rbad_moved _ _ _ _) ?_)
    · simp only [Ctx.bundle, hall, beq_self_eq_true, if_true]
      rfl
    · rw [live_moved]
      exact view_map_past _ _ (view_noteIssue _ _ _)
  · let ps := if has c.act (lowest c.bundle) then c.parts s n 0 else (c.parts s n 0).reverse
    have hps : ∀ p, p ∈ ps ↔ p ∈ c.parts s n 0 := by
      intro p
      show p ∈ (if _ then _ else _) ↔ _
      split
      · rfl
      · exact List.mem_reverse
    refine moved_completes he (s.serial + ps.length) (replaceEntry c.ent.id ps) ?_
      (splits_of_parts he hps (rbad_moved _ _ _ _) (view_noteIssue _ _ _) (by rw [live_moved]))
    have hne : (c.act == c.bundle) = false := by simpa [Ctx.bundle] using hall
    simp only [hne, Bool.false_eq_true, if_false]
    exact splitTo_done he.1.2 ps hev

/-! ### Yielding -/

theorem view_setYield (id : Nat) (es : List Entry) : (setYield id es).map Entry.view = es.map Entry.view := by
  unfold setYield
  rw [view_settleYield, List.map_map]
  apply List.map_congr_left
  intro e _
  simp only [Function.comp]
  split <;> rfl

/-- The entry that yields stays yielded while another entry may issue (R40). -/
theorem yld_setYield {id : Nat} {es : List Entry} (hother : ∃ f ∈ es, f.id ≠ id ∧ f.eligible = true) {e : Entry}
    (he : e ∈ setYield id es) (hid : e.id = id) : e.yld = true := by
  obtain ⟨f, hf, hne, hel⟩ := hother
  simp only [setYield, settleYield, List.mem_map] at he
  obtain ⟨a, ⟨b, hb, rfl⟩, rfl⟩ := he
  have hbid : b.id = id := by
    by_contra hc
    simp only [beq_iff_eq, hc, if_false] at hid
    split at hid <;> exact hc hid
  have hmem : f ∈ es.filter (fun e => e.id != id && e.eligible) := by simp [hf, hne, hel]
  have hpend : ((es.filter (fun e => e.id != id && e.eligible)).map (·.id)).isEmpty = false := by
    rw [List.isEmpty_eq_false_iff]
    exact List.ne_nil_of_mem (List.mem_map_of_mem hmem)
  simp [hbid, hpend]

theorem not_yld_setYield {id : Nat} {es : List Entry} (halone : ∀ f ∈ es, f.id = id) {e : Entry} (he : e ∈ setYield id es) :
    e.yld = false := by
  have hnone : (es.filter (fun e => e.id != id && e.eligible)).map (·.id) = [] := by
    simp only [List.map_eq_nil_iff, List.filter_eq_nil_iff]
    intro f hf
    simp [halone f hf]
  simp only [setYield, settleYield, List.mem_map, hnone] at he
  obtain ⟨a, ⟨b, hb, rfl⟩, rfl⟩ := he
  simp [halone b hb]

theorem eligible_releasePend {ids : List Nat} {es : List Entry} {f : Entry} (hf : f ∈ es) (hel : f.eligible = true) :
    ∃ e ∈ releasePend ids es, e.id = f.id ∧ e.eligible = true := by
  refine ⟨{ f with pend := f.pend.filter (fun i => !ids.contains i) }, ?_, rfl, hel⟩
  have hy : f.yld = false := by simp only [Entry.eligible, Bool.and_eq_true, Bool.not_eq_true'] at hel; exact hel.2
  simp only [releasePend, settleYield, List.mem_map]
  exact ⟨_, ⟨f, hf, rfl⟩, by simp [hy]⟩

/-- An entry that may issue still may when another has. -/
theorem eligible_noteIssue {fair : Bool} {id : Nat} {es : List Entry} {f : Entry} (hf : f ∈ es) (hel : f.eligible = true) :
    ∃ e ∈ noteIssue fair id es, e.id = f.id ∧ e.eligible = true := by
  obtain ⟨e, he, hid, h⟩ := eligible_releasePend (ids := [id]) (List.mem_map_of_mem (f := fun e : Entry =>
    if e.id == id then { e with starve := 0 } else { e with starve := if fair then satInc16 e.starve else 0 }) hf)
    (by split <;> exact hel)
  refine ⟨e, he, hid.trans ?_, h⟩
  split <;> rfl



/-- What `yield` leaves of a frontier (R40): the active entries yielded where another may issue, and none where no other is. -/
def Yielded (c : Ctx) (x : Group) : Prop :=
  ((∃ f ∈ c.grp.live, f.id ≠ c.ent.id ∧ f.eligible = true) →
    ∀ e ∈ x.live, e.mask &&& c.act ≠ 0 → (∀ f ∈ c.grp.live, f.id ≠ c.ent.id → f.mask &&& c.act = 0) → e.yld = true) ∧
  (c.grp.live = [c.ent] → c.act = c.ent.mask → ∀ e ∈ x.live, e.yld = false)

theorem mem_setYield {id : Nat} {es : List Entry} {e : Entry} (he : e ∈ setYield id es) :
    ∃ f ∈ es, f.id = e.id ∧ f.mask = e.mask := by
  obtain ⟨f, hf, hv⟩ := exists_view_of_map (view_setYield id es) he
  obtain ⟨h1, -, h3, -⟩ := fields_of_view hv
  exact ⟨f, hf, h1, h3⟩

/-- The entry that holds active lanes is the bundle's, where no other holds any. -/
theorem yielded_whole {c : Ctx} {x : Group} {fair : Bool}
    (hlive : x.live = setYield c.ent.id ((noteIssue fair c.ent.id c.grp.live).map (Entry.past c id))) : Yielded c x := by
  have hid : ∀ e, (Entry.past c id e).id = e.id ∧ (Entry.past c id e).mask = e.mask ∧
      (Entry.past c id e).eligible = e.eligible := by
    intro e; unfold Entry.past; split <;> exact ⟨rfl, rfl, rfl⟩
  have hold : ∀ e ∈ (noteIssue fair c.ent.id c.grp.live).map (Entry.past c id), ∃ f ∈ c.grp.live, f.id = e.id ∧ f.mask = e.mask := by
    intro e he
    obtain ⟨a, ha, rfl⟩ := List.mem_map.mp he
    obtain ⟨f, hf, hv⟩ := exists_view_of_map (view_noteIssue _ _ _) ha
    obtain ⟨h1, -, h3, -⟩ := fields_of_view hv
    exact ⟨f, hf, h1.trans (hid a).1.symm, h3.trans (hid a).2.1.symm⟩
  rw [Yielded, hlive]
  refine ⟨fun ⟨f, hf, hne, hel⟩ e he hact hdisj => ?_, fun hone _ e he => ?_⟩
  · obtain ⟨a, ha, haid, ham⟩ := mem_setYield he
    obtain ⟨b, hb, hbid, hbm⟩ := hold a ha
    refine yld_setYield ?_ he ?_
    · obtain ⟨k, hk, hkid, hkel⟩ := eligible_noteIssue (fair := fair) (id := c.ent.id) hf hel
      exact ⟨_, List.mem_map_of_mem hk, by rw [(hid k).1, hkid]; exact hne, by rw [(hid k).2.2]; exact hkel⟩
    · by_contra hc
      exact hact (by rw [← ham, ← hbm]; exact hdisj b hb (by rw [hbid, haid]; exact hc))
  · refine not_yld_setYield (fun a ha => ?_) he
    obtain ⟨b, hb, hbid, -⟩ := hold a ha
    rw [hone, List.mem_singleton] at hb
    rw [← hbid, hb]

theorem yielded_parts {c : Ctx} {x : Group} {fair : Bool} {k : State} {n : Byte} {starve : Half} (hent : c.ent ∈ c.grp.live)
    (hne : c.act ≠ c.ent.mask)
    (hlive : x.live = setYield k.serial (replaceEntry c.ent.id (c.parts k n starve) (noteIssue fair c.ent.id c.grp.live))) :
    Yielded c x := by
  rw [Yielded, hlive]
  refine ⟨fun _ e he hact hdisj => ?_, fun _ hall => absurd hall hne⟩
  obtain ⟨a, ha, haid, ham⟩ := mem_setYield he
  obtain ⟨d, hd, hdv⟩ := exists_view_of_map (view_noteIssue fair c.ent.id c.grp.live).symm hent
  refine yld_setYield ⟨_, mem_replaceEntry.mpr (Or.inl ⟨d, hd, (fields_of_view hdv).1,
    List.mem_cons_of_mem _ List.mem_cons_self⟩), Nat.succ_ne_self _, rfl⟩ he ?_
  rw [← ham] at hact
  rcases mem_replaceEntry.mp ha with ⟨-, -, -, hp⟩ | ⟨hl, hid⟩
  · obtain ⟨-, ⟨hser, -, -⟩ | ⟨-, hm, -, -⟩⟩ := mem_parts hp
    · rw [← haid, hser]
    · exact absurd (by rw [hm, not_and_and]) hact
  · obtain ⟨f, hf, hfv⟩ := exists_view_of_map (view_noteIssue fair c.ent.id c.grp.live) hl
    obtain ⟨h1, -, h3, -⟩ := fields_of_view hfv
    exact absurd (by rw [← h3]; exact hdisj f hf (h1 ▸ hid)) hact

theorem yield_completes {h : Hdr} {s : State} {c : Ctx} (he : Executes s c h 8 []) :
    ∃ t x, exec (.yield h) s = .next t ∧ OnlyGroup s t c.tid c.g ∧ group t c.tid c.g = some x ∧
      (Splits c x (fun _ => c.ent.pc + 8) (fun m => if m &&& c.act ≠ 0 then c.ent.prio else c.ent.prio) ∧ Yielded c x) ∧
      SameRegs c x ∧ SamePreds c x ∧ x.rest = c.grp.rest := by
  rw [exec_yield]
  by_cases hall : c.act = c.ent.mask
  · refine moved_completes he s.serial (fun es => setYield c.ent.id (es.map (Entry.past c id))) ?_
      ⟨splits_of_past he hall id (rbad_moved _ _ _ _) ?_, yielded_whole (live_moved _ _ _ _)⟩
    · simp only [Ctx.bundle, hall, beq_self_eq_true, if_true]
      rfl
    · rw [live_moved, view_setYield]
      exact view_map_past _ _ (view_noteIssue _ _ _)
  · refine moved_completes he (s.serial + 2)
      (fun es => setYield s.serial (replaceEntry c.ent.id (c.parts s c.ent.prio c.ent.starve) es)) ?_
      ⟨splits_of_parts he (fun _ => Iff.rfl) (rbad_moved _ _ _ _) (view_noteIssue _ _ _)
        (by rw [live_moved, view_setYield]), yielded_parts (ent_mem_live he.1.2) hall (live_moved _ _ _ _)⟩
    have hne : (c.act == c.bundle) = false := by simpa [Ctx.bundle] using hall
    simp only [hne, Bool.false_eq_true, if_false]

/-- Settles O16: each of the two moves its bundle whole, or splits it into the active lanes and the others. -/
theorem priorityAndYield : Obligations.PriorityAndYield := by
  unfold Obligations.PriorityAndYield
  refine ⟨fun h n s c he hev => setprio_completes he hev, fun h s c he => ?_⟩
  obtain ⟨t, x, hexec, honly, hx, ⟨hsplits, hyield⟩, hregs, hpreds, hrest⟩ := yield_completes he
  simp only [ite_self] at hsplits
  exact ⟨t, x, hexec, honly, hx, hsplits, hregs, hpreds, hrest, hyield⟩

end Sys2Proof.Machine
end
section
/-! SUPPORT and PROOFS. Lanes that leave a frontier, the end of a group and of trap mode (R34, R61, R198), and the statement about
`exit` and `rti`. -/

namespace Sys2Proof.Machine

open Host

theorem foldl_of_forall_eq {α β : Type} {f : α → β → α} {a : α} (l : List β) (h : ∀ b ∈ l, f a b = a) : l.foldl f a = a := by
  induction l with
  | nil => rfl
  | cons b l ih =>
    rw [List.foldl_cons, h b List.mem_cons_self]
    exact ih (fun d hd => h d (List.mem_cons_of_mem b hd))

/-! ### Lanes that leave a frontier -/

theorem exists_place_of_map {as bs : List Entry} (h : as.map Entry.place = bs.map Entry.place) {e : Entry} (he : e ∈ as) :
    ∃ f ∈ bs, f.place = e.place := by
  have hmem : e.place ∈ bs.map Entry.place := h ▸ List.mem_map_of_mem he
  exact List.mem_map.mp hmem

theorem dropLanes_eq_nil {m : Lanes} {es : List Entry} : dropLanes m es = [] ↔ ∀ e ∈ es, e.mask &&& ~~~m = 0 := by
  rw [← List.map_eq_nil_iff (f := Entry.place), place_dropLanes, List.filter_eq_nil_iff]
  simp only [List.map_map, List.mem_map, Function.comp, bne_iff_ne, ne_eq, not_not, forall_exists_index, and_imp,
    forall_apply_eq_imp_iff₂]
  rfl

theorem mask_of_mem_dropLanes {m : Lanes} {es : List Entry} {e : Entry} (he : e ∈ dropLanes m es) : e.mask &&& m = 0 := by
  have hmem : e.place ∈ (dropLanes m es).map Entry.place := List.mem_map_of_mem he
  rw [place_dropLanes] at hmem
  obtain ⟨q, -, hq⟩ := List.mem_map.mp (List.mem_of_mem_filter hmem)
  have hmask : e.mask = q.2.2.1 &&& ~~~m := congrArg (fun p : Nat × VA × Lanes × Byte => p.2.2.1) hq.symm
  rw [hmask, not_and_and]

/-! ### The end of a group (R34, R61, R198) -/

/-- No sampler waits for an instruction of the group (R438). -/
def NoTags (s : State) (n tid g : Nat) : Prop :=
  ∀ q ∈ (tenant s n).samplers, ∀ y, q.2.tag = some y → y.note ≠ none ∨ y.tid ≠ tid ∨ y.g ≠ g

theorem slipTags_of_noTags {s : State} {n tid g : Nat} (h : NoTags s n tid g) :
    slipTags s n (fun x => x.tid == tid && x.g == g) = s := by
  unfold slipTags
  refine foldl_of_forall_eq _ (fun q hq => ?_)
  cases htag : q.2.tag with
  | none => rfl
  | some y =>
    have hno : ¬ ((y.note.isNone && (y.tid == tid && y.g == g)) = true) := by
      rcases h q hq y htag with h1 | h1 | h1 <;> simp [h1]
    simp only [hno, if_false, Bool.false_eq_true]

/-- Only a group, or its task's list of groups at it, is different. -/
def GroupFrame (s t : State) (tid g : Nat) : Prop := SameMemory s t ∧ SameCsrs s t ∧ SameGroups s t tid g

theorem GroupFrame.trans {s t u : State} {tid g : Nat} (h : GroupFrame s t tid g) (k : GroupFrame t u tid g) :
    GroupFrame s u tid g := by
  obtain ⟨hm, hc, ht, hg⟩ := h
  obtain ⟨km, kc, kt, kg⟩ := k
  exact ⟨fun a b => (km a b).trans (hm a b), fun a b => (kc a b).trans (hc a b), fun u hu => (kt u hu).trans (ht u hu),
    fun j hj => (kg j hj).trans (hg j hj)⟩

theorem GroupFrame.refl (s : State) (tid g : Nat) : GroupFrame s s tid g :=
  ⟨fun _ _ => rfl, fun _ _ => rfl, fun _ _ => rfl, fun _ _ => rfl⟩

theorem groupFrame_modGroup (s : State) (tid g : Nat) (f : Group → Group) : GroupFrame s (modGroup s tid g f) tid g := by
  obtain ⟨hm, hc, hg, -, -⟩ := onlyGroup_modGroup s tid g f
  exact ⟨hm, hc, hg⟩

/-- A task without one of its groups. -/
def dropGroup (s : State) (tid g : Nat) : State := modTask s tid (fun t => { t with groups := mdel t.groups g })

theorem group_dropGroup (s : State) (tid g u j : Nat) :
    group (dropGroup s tid g) u j = if u = tid ∧ j = g then none else group s u j := by
  unfold group dropGroup
  rw [task_modTask]
  by_cases hu : u = tid
  · subst hu
    cases task s u with
    | none => simp
    | some t => by_cases hj : j = g <;> simp [hj]
  · simp [hu]

theorem groupFrame_dropGroup (s : State) (tid g : Nat) : GroupFrame s (dropGroup s tid g) tid g :=
  ⟨fun _ _ => rfl, fun _ _ => rfl, fun u hu => by simp [dropGroup, hu], fun j hj => by simp [group_dropGroup, hj]⟩

/-- Nothing is left of a group: no entry, no handler, no lane that its operand log is to return. -/
def Group.over (x : Group) : Prop := x.front = [] ∧ x.trap = none ∧ ∀ o ∈ x.oplog, o.resume = []

theorem endGroup_of_not_over {s : State} {tid g : Nat} {x : Group} (hx : group s tid g = some x) (h : ¬ x.over) :
    endGroup s tid g = s := by
  unfold endGroup
  rw [hx]
  refine if_neg (fun hc => h ?_)
  simp only [Bool.and_eq_true, List.isEmpty_iff, Option.isNone_iff_eq_none, List.all_eq_true] at hc
  exact ⟨hc.1.1, hc.1.2, hc.2⟩

theorem endGroup_of_over {s : State} {tid g : Nat} {x : Group} {t : Task} (hx : group s tid g = some x) (ht : task s tid = some t)
    (h : x.over) (hno : NoTags s t.tenant tid g) : endGroup s tid g = dropGroup s tid g := by
  obtain ⟨hf, htrap, hlog⟩ := h
  unfold endGroup
  rw [hx, ht]
  have hall : x.oplog.all (fun o => o.resume.isEmpty) = true := by
    rw [List.all_eq_true]; intro o ho; rw [hlog o ho]; rfl
  simp only [hf, htrap, hall, List.isEmpty_nil, Option.isNone_none, Bool.and_self, if_true, Option.map_some, Option.getD_some]
  exact slipTags_of_noTags (s := dropGroup s tid g) hno

theorem groupFrame_endGroup {s : State} {tid g : Nat} {x : Group} {t : Task} (hx : group s tid g = some x)
    (ht : task s tid = some t) (hno : NoTags s t.tenant tid g) : GroupFrame s (endGroup s tid g) tid g := by
  by_cases h : x.over
  · rw [endGroup_of_over hx ht h hno]; exact groupFrame_dropGroup _ _ _
  · rw [endGroup_of_not_over hx h]; exact GroupFrame.refl _ _ _

theorem leaveTrap_of_user {s : State} {tid g : Nat} {x : Group} (hx : group s tid g = some x) (ht : x.trap = none) :
    leaveTrap s tid g = endGroup s tid g := by
  unfold leaveTrap; rw [hx]; simp only [ht]

theorem leaveTrap_of_handler {s : State} {tid g : Nat} {x : Group} {m : TrapMode} (hx : group s tid g = some x)
    (ht : x.trap = some m) (hf : m.hfront ≠ []) : leaveTrap s tid g = s := by
  unfold leaveTrap
  rw [hx]
  have hne : (!m.hfront.isEmpty) = true := by simpa using hf
  simp only [ht, hne, if_true]

/-- A handler that logged no fault ends (R61): the lanes that returned form an entry at EPC. -/
theorem leaveTrap_of_over {s : State} {tid g : Nat} {x : Group} {m : TrapMode} (hx : group s tid g = some x)
    (ht : x.trap = some m) (hf : m.hfront = []) (hl : m.logged = none) :
    leaveTrap s tid g = endGroup (modGroup { s with serial := s.serial + 32 } tid g (fun y =>
      { y with trap := none, front := y.front ++ (if m.rti == 0 then [] else [Entry.new s.serial x.epc m.rti m.prio]),
               oplog := x.oplog, stall := false, sel := none })) tid g := by
  unfold leaveTrap
  rw [hx]
  simp only [ht, hf, hl, List.isEmpty_nil, Bool.not_true, Bool.false_eq_true, if_false]

/-- Leaving trap mode changes only the group, in every case (R61, R462). -/
theorem groupFrame_leaveTrap {s : State} {tid g : Nat} {x : Group} {t : Task} (hx : group s tid g = some x)
    (ht : task s tid = some t) (hno : NoTags s t.tenant tid g) : GroupFrame s (leaveTrap s tid g) tid g := by
  have hend : ∀ f : Group → Group, GroupFrame s (endGroup (modGroup { s with serial := s.serial + 32 } tid g f) tid g) tid g := by
    intro f
    have h1 : GroupFrame s (modGroup { s with serial := s.serial + 32 } tid g f) tid g :=
      groupFrame_modGroup { s with serial := s.serial + 32 } tid g f
    have hx' : group { s with serial := s.serial + 32 } tid g = some x := hx
    have ht' : task { s with serial := s.serial + 32 } tid = some t := ht
    refine h1.trans (groupFrame_endGroup (x := f x) (t := { t with groups := mmod t.groups g f }) ?_ ?_ hno)
    · rw [group_modGroup_same, hx']; rfl
    · rw [task_modGroup, if_pos rfl, ht']; rfl
  unfold leaveTrap
  rw [hx]
  dsimp only
  split
  · exact groupFrame_endGroup hx ht hno
  · split
    · exact GroupFrame.refl _ _ _
    · exact hend _

/-! ### `exit` (R198) -/

theorem exec_exit (h : Hdr) (s : State) : exec (.exit h) s = execExit h s := rfl
theorem exec_rti (h : Hdr) (s : State) : exec (.rti h) s = execRti h s := rfl

/-- The issuing frontier after an `exit`: the bundle past it, and the active lanes gone. -/
def Ctx.exits (c : Ctx) (es : List Entry) : List Entry := dropLanes c.act (es.map (Entry.past c id))

/-- The group after an `exit`, before it is seen whether it has ended. -/
def Ctx.exited (c : Ctx) (fair : Bool) (x : Group) : Group :=
  if c.user then c.moved fair c.exits x
  else { c.moved fair c.exits x with front := dropLanes c.act (c.moved fair c.exits x).front }

theorem exec_exit_eq {s : State} {c : Ctx} {h : Hdr} (he : Executes s c h 8 []) (hlog : ∀ o ∈ c.grp.oplog, o.act &&& c.act = 0) :
    exec (.exit h) s = .next (leaveTrap (modGroup s c.tid c.g (c.exited (fairOn s c.ten))) c.tid c.g) := by
  have hany : c.grp.oplog.any (fun o => (o.act &&& c.act) != 0) = false := by
    rw [List.any_eq_false]; intro o ho; simp [hlog o ho]
  rw [exec_exit]
  refine run_done (writes := []) he ?_
  simp only [hany, Bool.false_eq_true, if_false]
  have hstate : (if c.user then c.move s c.exits
      else modGroup (c.move s c.exits) c.tid c.g (fun x => { x with front := dropLanes c.act x.front })) =
      modGroup s c.tid c.g (c.exited (fairOn s c.ten)) := by
    unfold Ctx.exited
    split
    · rfl
    · rw [move_eq, modGroup_modGroup]
  exact congrArg (fun u => Res.done (leaveTrap u c.tid c.g)) hstate

theorem place_map_past (c : Ctx) (es : List Entry) : (es.map (Entry.past c id)).map Entry.place =
    (es.map Entry.place).map (fun q => (q.1, if q.1 = c.ent.id then c.npc else q.2.1, q.2.2)) := by
  rw [List.map_map, List.map_map]
  apply List.map_congr_left
  intro e _
  by_cases h : e.id = c.ent.id <;> simp [Entry.past, Entry.place, h]

theorem place_exits (c : Ctx) (fair : Bool) (es : List Entry) : (c.exits (noteIssue fair c.ent.id es)).map Entry.place =
    (es.map (fun e => (e.id, if e.id = c.ent.id then c.npc else e.pc, e.mask &&& ~~~c.act, e.prio))).filter
      (fun q => q.2.2.1 != 0) := by
  rw [Ctx.exits, place_dropLanes, place_map_past, place_noteIssue, List.map_map, List.map_map]
  rfl

theorem exits_eq_nil {c : Ctx} {fair : Bool} {es : List Entry} :
    c.exits (noteIssue fair c.ent.id es) = [] ↔ ∀ e ∈ es, e.mask &&& ~~~c.act = 0 := by
  rw [← List.map_eq_nil_iff (f := Entry.place), place_exits, List.filter_eq_nil_iff]
  simp

section Exited
variable (c : Ctx) (fair : Bool) (x : Group)

theorem exited_of_user (h : c.user = true) : c.exited fair x = c.moved fair c.exits x := by simp [Ctx.exited, h]
theorem exited_of_handler (h : c.user = false) : c.exited fair x =
    { c.moved fair c.exits x with front := dropLanes c.act (c.moved fair c.exits x).front } := by simp [Ctx.exited, h]

theorem reg_exited (r : Rg) (i : Nat) : (c.exited fair x).reg r i = x.reg r i := by
  unfold Ctx.exited
  split
  · exact reg_moved _ _ _ _ _ _
  · cases r with
    | v n => exact reg_moved c fair c.exits x (.v n) i
    | s n => exact reg_moved c fair c.exits x (.s n) i
theorem pred_exited (p : Nat) : (c.exited fair x).pred p = x.pred p := by
  unfold Ctx.exited
  split <;> exact pred_moved c fair c.exits x p

end Exited

theorem task_modGroup_some {s : State} {tid g : Nat} {t : Task} (f : Group → Group) (h : task s tid = some t) :
    task (modGroup s tid g f) tid = some { t with groups := mmod t.groups g f } := by rw [task_modGroup, if_pos rfl, h]; rfl

theorem group_modGroup_some {s : State} {tid g : Nat} {x : Group} (f : Group → Group) (h : group s tid g = some x) :
    group (modGroup s tid g f) tid g = some (f x) := by rw [group_modGroup_same, h]; rfl

/-- The group and the task as `exit` leaves them before it is seen whether the group has ended. -/
theorem group_exited {s : State} {c : Ctx} {h : Hdr} {n : Nat} (hb : bundleOf s c.tid c.g h n = some c) :
    group (modGroup s c.tid c.g (c.exited (fairOn s c.ten))) c.tid c.g = some (c.exited (fairOn s c.ten) c.grp) ∧
    ∃ t, task (modGroup s c.tid c.g (c.exited (fairOn s c.ten))) c.tid = some t ∧ t.tenant = c.task.tenant := by
  obtain ⟨-, -, -, -, ht, hg, -⟩ := group_of_bundle hb
  exact ⟨group_modGroup_some _ hg, _, task_modGroup_some _ ht, rfl⟩

/-- Outside trap mode (R34, R198): the group has ended, or the other lanes stand as they stood and past the instruction. -/
theorem exit_user {s : State} {c : Ctx} {h : Hdr} (he : Executes s c h 8 []) (htrap : c.grp.trap = none)
    (hno : NoTags s c.task.tenant c.tid c.g) :
    let t := leaveTrap (modGroup s c.tid c.g (c.exited (fairOn s c.ten))) c.tid c.g
    if (∀ e ∈ c.grp.front, e.mask &&& ~~~c.act = 0) ∧ ∀ o ∈ c.grp.oplog, o.resume = [] then group t c.tid c.g = none
    else ∃ x, group t c.tid c.g = some x ∧ x.trap = none ∧ SameRegs c x ∧ SamePreds c x ∧
      x.front.map Entry.place = (c.grp.front.map (fun e => (e.id, if e.id = c.ent.id then c.ent.pc + 8 else e.pc,
        e.mask &&& ~~~c.act, e.prio))).filter (fun q => q.2.2.1 != 0) := by
  obtain ⟨-, -, -, hlen, -, -, -⟩ := group_of_bundle he.1.2
  obtain ⟨hx, u, hu, hten⟩ := group_exited he.1.2
  have huser : c.user = true := by simp [Ctx.user, htrap]
  have hex := exited_of_user c (fairOn s c.ten) c.grp huser
  have htrap' : (c.exited (fairOn s c.ten) c.grp).trap = none := by rw [hex, trap_moved, htrap]; rfl
  have hfront : (c.exited (fairOn s c.ten) c.grp).front = c.exits (noteIssue (fairOn s c.ten) c.ent.id c.grp.front) := by
    rw [hex, front_moved, htrap]; rfl
  have hover : (c.exited (fairOn s c.ten) c.grp).over ↔
      (∀ e ∈ c.grp.front, e.mask &&& ~~~c.act = 0) ∧ ∀ o ∈ c.grp.oplog, o.resume = [] := by
    rw [Group.over, hfront, exits_eq_nil, hex, oplog_moved, ← hex]
    simp [htrap']
  intro t
  have ht : t = endGroup (modGroup s c.tid c.g (c.exited (fairOn s c.ten))) c.tid c.g := leaveTrap_of_user hx htrap'
  split
  · next hend =>
    rw [ht, endGroup_of_over hx hu (hover.mpr hend) (hten ▸ hno), group_dropGroup, if_pos ⟨rfl, rfl⟩]
  · next hend =>
    rw [ht, endGroup_of_not_over hx (fun h => hend (hover.mp h))]
    refine ⟨_, hx, htrap', fun r i _ => reg_exited _ _ _ _ _, fun p => pred_exited _ _ _ _, ?_⟩
    rw [hfront, place_exits, Ctx.npc, hlen]
    rfl

/-- In trap mode the lanes leave both frontiers (R61, R198). -/
theorem exit_handler {s : State} {c : Ctx} {h : Hdr} {m : TrapMode} (he : Executes s c h 8 []) (htrap : c.grp.trap = some m)
    (hleft : ∃ e ∈ m.hfront, e.mask &&& ~~~c.act ≠ 0) :
    ∃ x m1, group (leaveTrap (modGroup s c.tid c.g (c.exited (fairOn s c.ten))) c.tid c.g) c.tid c.g = some x ∧
      x.trap = some m1 ∧ SameRegs c x ∧ SamePreds c x ∧ ∀ e ∈ m1.hfront ++ x.front, e.mask &&& c.act = 0 := by
  obtain ⟨hx, -⟩ := group_exited he.1.2
  have hex := exited_of_handler c (fairOn s c.ten) c.grp (user_eq_false (by rw [htrap]; simp))
  have htrap' : (c.exited (fairOn s c.ten) c.grp).trap =
      some { m with hfront := c.exits (noteIssue (fairOn s c.ten) c.ent.id m.hfront) } := by
    rw [hex]
    show (c.moved _ _ _).trap = _
    rw [trap_moved, htrap]
    rfl
  have hne : c.exits (noteIssue (fairOn s c.ten) c.ent.id m.hfront) ≠ [] := by
    obtain ⟨e, he, hmask⟩ := hleft
    exact fun hc => hmask (exits_eq_nil.mp hc e he)
  rw [leaveTrap_of_handler hx htrap' hne]
  refine ⟨_, _, hx, htrap', fun r i _ => reg_exited _ _ _ _ _, fun p => pred_exited _ _ _ _, fun e he => ?_⟩
  rcases List.mem_append.mp he with h1 | h1
  · exact mask_of_mem_dropLanes h1
  · rw [hex] at h1
    exact mask_of_mem_dropLanes h1

/-! ### `rti` (R61) -/

/-- The group when the last lanes of its handler return, before trap mode ends. -/
def Ctx.returned (c : Ctx) (fair : Bool) (x : Group) : Group :=
  { c.moved fair c.exits x with trap := (c.moved fair c.exits x).trap.map (fun m => { m with rti := m.rti ||| c.act }) }

theorem exec_rti_eq {s : State} {c : Ctx} {h : Hdr} (he : Executes s c h 8 []) (htrap : c.grp.trap ≠ none) :
    exec (.rti h) s = .next (leaveTrap (modGroup s c.tid c.g (c.returned (fairOn s c.ten))) c.tid c.g) := by
  rw [exec_rti]
  refine run_done (writes := []) he ?_
  simp only [user_eq_false htrap, Bool.false_eq_true, if_false]
  have hstate : modGroup (c.move s c.exits) c.tid c.g (fun x =>
      { x with trap := x.trap.map (fun tm => { tm with rti := tm.rti ||| c.act }) }) =
      modGroup s c.tid c.g (c.returned (fairOn s c.ten)) := by
    rw [move_eq, modGroup_modGroup]
    rfl
  exact congrArg (fun u => Res.done (leaveTrap u c.tid c.g)) hstate

theorem trap_returned {c : Ctx} {m : TrapMode} (fair : Bool) (htrap : c.grp.trap = some m) (hfront : m.hfront = [c.ent])
    (hall : c.act = c.ent.mask) :
    (c.returned fair c.grp).trap = some { m with hfront := [], rti := m.rti ||| c.act } := by
  have hnil : c.exits (noteIssue fair c.ent.id m.hfront) = [] := by
    rw [exits_eq_nil, hfront]
    intro e he
    rw [List.mem_singleton.mp he, hall, BitVec.and_not_self]
  unfold Ctx.returned
  rw [trap_moved, htrap, Option.map_some, hnil]
  rfl

/-- The group when trap mode has ended: the lanes that have returned form one entry at EPC. -/
def Ctx.resumed (c : Ctx) (m : TrapMode) (n : Nat) (x : Group) : Group :=
  { x with trap := none, front := x.front ++ [Entry.new n c.grp.epc (m.rti ||| c.act) m.prio], stall := false, sel := none,
           oplog := c.grp.oplog }

theorem or_ne_zero {a b : Lanes} (h : b ≠ 0) : (a ||| b == 0) = false := by
  rw [beq_eq_false_iff_ne]
  intro hc
  have := lowest_mem b h
  have hz : has (a ||| b) (lowest b) = true := by rw [has_or, this, Bool.or_true]
  rw [hc] at hz
  simp [has] at hz

theorem rti_leaves {s : State} {c : Ctx} {h : Hdr} {m : TrapMode} (he : Executes s c h 8 []) (htrap : c.grp.trap = some m)
    (hlogged : m.logged = none) (hfront : m.hfront = [c.ent]) (hall : c.act = c.ent.mask) :
    exec (.rti h) s = .next (modGroup { s with serial := s.serial + 32 } c.tid c.g
      (fun x => c.resumed m s.serial (c.returned (fairOn s c.ten) x))) := by
  have hact := he.2.2
  obtain ⟨-, -, -, -, -, hg, -⟩ := group_of_bundle he.1.2
  have hx := group_modGroup_some (c.returned (fairOn s c.ten)) hg
  have hrest := rest_moved c (fairOn s c.ten) c.exits c.grp
  have hepc : (c.returned (fairOn s c.ten) c.grp).epc = c.grp.epc := by
    have := congrArg Group.epc hrest
    exact this
  have hlog : (c.returned (fairOn s c.ten) c.grp).oplog = c.grp.oplog := oplog_moved c (fairOn s c.ten) c.exits c.grp
  have hmerge : modGroup { modGroup s c.tid c.g (c.returned (fairOn s c.ten)) with serial := s.serial + 32 } c.tid c.g
      (c.resumed m s.serial) = modGroup { s with serial := s.serial + 32 } c.tid c.g
        (fun x => c.resumed m s.serial (c.returned (fairOn s c.ten) x)) :=
    modGroup_modGroup { s with serial := s.serial + 32 } c.tid c.g (c.returned (fairOn s c.ten)) (c.resumed m s.serial)
  rw [exec_rti_eq he (by rw [htrap]; simp), leaveTrap_of_over hx (trap_returned _ htrap hfront hall) rfl hlogged]
  simp only [or_ne_zero hact, hepc, hlog, Bool.false_eq_true, if_false]
  refine congrArg _ ((endGroup_of_not_over (x := c.resumed m s.serial (c.returned (fairOn s c.ten) c.grp)) ?_ ?_).trans hmerge)
  · exact group_modGroup_some (s := { modGroup s c.tid c.g (c.returned (fairOn s c.ten)) with serial := s.serial + 32 })
      (c.resumed m s.serial) hx
  · exact fun hover => absurd hover.1 (by simp [Ctx.resumed])

theorem rti_completes {s : State} {c : Ctx} {h : Hdr} {m : TrapMode} (he : Executes s c h 8 []) (htrap : c.grp.trap = some m)
    (hlogged : m.logged = none) (hfront : m.hfront = [c.ent]) (hall : c.act = c.ent.mask) :
    ∃ t x e, exec (.rti h) s = .next t ∧ OnlyGroup s t c.tid c.g ∧ group t c.tid c.g = some x ∧ x.trap = none ∧
      x.front = c.grp.front ++ [e] ∧ e.pc = c.grp.epc ∧ e.mask = m.rti ||| c.act ∧ e.prio = m.prio ∧ e.yld = false ∧ e.blk = none ∧
      SameRegs c x ∧ SamePreds c x ∧
      (x.ecause, x.epc, x.emask, x.ebmask, x.eaddr) =
        (c.grp.ecause, c.grp.epc, c.grp.emask, c.grp.ebmask, c.grp.eaddr) := by
  obtain ⟨-, -, -, -, -, hg, -⟩ := group_of_bundle he.1.2
  have hmove := fun r i => reg_moved c (fairOn s c.ten) c.exits c.grp r i
  have hf : (c.returned (fairOn s c.ten) c.grp).front = c.grp.front := by
    show (c.moved _ _ _).front = _
    rw [front_moved, htrap]
    rfl
  refine ⟨_, _, Entry.new s.serial c.grp.epc (m.rti ||| c.act) m.prio, rti_leaves he htrap hlogged hfront hall,
    onlyGroup_serial _ (onlyGroup_modGroup _ _ _ _),
    group_modGroup_some (s := { s with serial := s.serial + 32 }) _ hg, rfl, ?_, rfl, rfl, rfl, rfl, rfl, ?_, ?_, ?_⟩
  · rw [← hf]; rfl
  · intro r i _
    cases r with
    | v n => exact hmove (.v n) i
    | s n => exact hmove (.s n) i
  · exact fun p => pred_moved c (fairOn s c.ten) c.exits c.grp p
  · have := congrArg (fun x : Group => (x.ecause, x.epc, x.emask, x.ebmask, x.eaddr))
      (rest_moved c (fairOn s c.ten) c.exits c.grp)
    exact this

/-- Settles O17: `exit` outside trap mode and in it, and the `rti` of the last lanes. -/
theorem exitAndReturn : Obligations.ExitAndReturn := by
  unfold Obligations.ExitAndReturn
  refine ⟨fun h s c he hlog hno => ?_, fun h s c m he htrap hl hf hall => rti_completes he htrap hl hf hall⟩
  obtain ⟨hx, u, hu, hten⟩ := group_exited he.1.2
  obtain ⟨hmem, hcsr, hgroups⟩ := (groupFrame_modGroup s c.tid c.g _).trans (groupFrame_leaveTrap hx hu (hten ▸ hno))
  exact ⟨_, exec_exit_eq he hlog, hmem, hcsr, hgroups, fun htrap => exit_user he htrap hno,
    fun m htrap hleft => exit_handler he htrap hleft⟩

end Sys2Proof.Machine
end
section
/-! SUPPORT. What the caches' own actions may change, caches that hold nothing written, what acquires and releases leave. -/

namespace Sys2Proof.Machine

open Host

theorem mem_of_mget {α : Type} {m : Map α} {k : Nat} {v : α} (h : mget m k = some v) : (k, v) ∈ m := by
  induction m with
  | nil => simp at h
  | cons p m ih =>
    obtain ⟨j, w⟩ := p
    simp only [mget] at h
    split at h
    · next hk => cases h; exact hk ▸ List.mem_cons_self
    · exact List.mem_cons_of_mem _ (ih h)

/-! ### What the caches' own actions may change -/

/-- Only caches, clocks, writes on their way and the counts of requests differ (and the model's serial number): no byte of
memory, no task and no tenant. -/
def CacheOnly (s t : State) : Prop :=
  { t with cores := s.cores, dies := s.dies, wq := s.wq, serial := s.serial, mgmt := s.mgmt } = s

namespace CacheOnly
variable {s t u : State}

theorem refl (s : State) : CacheOnly s s := rfl

theorem trans (h : CacheOnly s t) (k : CacheOnly t u) : CacheOnly s u := by
  have := congrArg (fun x : State =>
    { x with cores := s.cores, dies := s.dies, wq := s.wq, serial := s.serial, mgmt := s.mgmt }) k
  exact this.trans h

theorem tasks (h : CacheOnly s t) : t.tasks = s.tasks := by
  have := congrArg State.tasks h
  exact this

theorem tens (h : CacheOnly s t) : t.tens = s.tens := by
  have := congrArg State.tens h
  exact this

theorem memory (h : CacheOnly s t) : SameMemory s t := by
  intro k a
  have := congrArg (fun x : State => readPa x k a) h
  exact this

theorem csrs (h : CacheOnly s t) : SameCsrs s t := by
  intro n r
  have := congrArg (fun x : State => csrGet x n r) h
  exact this

theorem foldl {α : Type} {f : State → α → State} (hf : ∀ s a, CacheOnly s (f s a)) (l : List α) (s : State) :
    CacheOnly s (l.foldl f s) := by
  induction l generalizing s with
  | nil => exact refl s
  | cons a l ih => exact (hf s a).trans (ih _)

end CacheOnly

theorem cacheOnly_setCore (s : State) (c : Nat) (x : Core) : CacheOnly s (setCore s c x) := rfl
theorem cacheOnly_setDie (s : State) (d : Nat) (x : Die) : CacheOnly s (setDie s d x) := rfl

theorem cacheOnly_countReq (s : State) (d pa : Nat) : CacheOnly s (countReq s d pa) := by
  unfold countReq; split <;> rfl

theorem cacheOnly_sendWriteErr (s : State) (d k t line : Nat) (bytes : Map Byte) (o : Option (Nat × Nat × Nat))
    (gs : List Gran) (err : List Nat) : CacheOnly s (sendWriteErr s d k t line bytes o gs err) := rfl

theorem cacheOnly_writeBack (s : State) (c k : Nat) : CacheOnly s (writeBack s c k) := by
  unfold writeBack
  split
  · exact CacheOnly.refl s
  · split
    · exact CacheOnly.refl s
    · exact ((cacheOnly_sendWriteErr _ _ _ _ _ _ _ _ _).trans (cacheOnly_countReq _ _ _)).trans (cacheOnly_setCore _ _ _)

theorem cacheOnly_writeBackAll (s : State) (c : Nat) : CacheOnly s (writeBackAll s c) :=
  CacheOnly.foldl (fun s k => cacheOnly_writeBack s c k) _ s

theorem cacheOnly_flushLine (s : State) (c pa : Nat) : CacheOnly s (flushLine s c pa) :=
  CacheOnly.foldl (fun s k => (cacheOnly_writeBack s c k).trans (cacheOnly_setCore _ _ _)) _ s

theorem cacheOnly_dropCaches (s : State) (c : Nat) : CacheOnly s (dropCaches s c) :=
  ((cacheOnly_writeBackAll s c).trans (cacheOnly_setCore _ _ _)).trans (cacheOnly_setCore _ _ _)

theorem cacheOnly_relAct (s : State) (c : Nat) (scope : Scope) : CacheOnly s (relAct s c scope) := by
  cases scope with
  | group => exact CacheOnly.refl s
  | block => exact CacheOnly.refl s
  | _ => exact cacheOnly_writeBackAll s c

theorem cacheOnly_relDone (s : State) (c : Nat) (scope : Scope) : CacheOnly s (relDone s c scope) := by
  cases scope with
  | group => exact CacheOnly.refl s
  | block => exact CacheOnly.refl s
  | _ => exact cacheOnly_setCore _ _ _

theorem cacheOnly_acqAct (s : State) (c : Nat) (scope : Scope) : CacheOnly s (acqAct s c scope) := by
  cases scope with
  | group => exact CacheOnly.refl s
  | block => exact CacheOnly.refl s
  | cluster => exact cacheOnly_dropCaches s c
  | _ => exact (cacheOnly_dropCaches s c).trans (cacheOnly_setDie _ _ _)

theorem cacheOnly_acqSeen (s : State) (tid g c : Nat) (scope : Scope) : CacheOnly s (acqSeen s tid g c scope) := by
  cases scope with
  | group => exact CacheOnly.refl s
  | block => exact CacheOnly.refl s
  | cluster => exact cacheOnly_dropCaches s c
  | _ => exact (cacheOnly_dropCaches s c).trans (cacheOnly_setDie _ _ _)

/-! ### Caches that hold nothing written -/

/-- Every byte that a core's L1 holds is as at home. -/
def Clean (s : State) (c : Nat) : Prop := ∀ p ∈ (core s c).l1, p.2.dirty = []

theorem writeBack_of_clean {s : State} {c : Nat} (h : Clean s c) (k : Nat) : writeBack s c k = s := by
  unfold writeBack
  split
  · rfl
  · next l hl => rw [if_pos (by rw [h _ (mem_of_mget hl)]; rfl)]

theorem writeBackAll_of_clean {s : State} {c : Nat} (h : Clean s c) : writeBackAll s c = s :=
  foldl_of_forall_eq _ (fun k _ => writeBack_of_clean h k)

theorem relAct_of_clean {s : State} {c : Nat} (h : Clean s c) (scope : Scope) : relAct s c scope = s := by
  cases scope with
  | group => rfl
  | block => rfl
  | _ => exact writeBackAll_of_clean h

/-- No copy of a line, no flush of it. -/
theorem flushLine_of_absent {s : State} {c pa : Nat} (h : ∀ p ∈ (core s c).l1, lineOfKey p.1 ≠ pa / lineBytes) :
    flushLine s c pa = s := by
  have hnone : ((core s c).l1.map (·.1)).filter (fun k => lineOfKey k == pa / lineBytes) = [] := by
    rw [List.filter_eq_nil_iff]
    intro k hk
    obtain ⟨p, hp, rfl⟩ := List.mem_map.mp hk
    simpa using h p hp
  unfold flushLine
  rw [hnone]
  rfl

/-! ### What an acquire and a release leave of a core's caches -/

@[simp] theorem l1_invalidateL1 (s : State) (c : Nat) : (core (invalidateL1 s c) c).l1 = [] := by simp [invalidateL1]

theorem l1_relDone {s : State} {c : Nat} {scope : Scope} (hg : scope ≠ .group) (hb : scope ≠ .block) :
    (core (relDone s c scope) c).l1 = [] := by
  cases scope with
  | group => exact absurd rfl hg
  | block => exact absurd rfl hb
  | _ => exact l1_invalidateL1 s c

@[simp] theorem l1_dropCaches (s : State) (c : Nat) : (core (dropCaches s c) c).l1 = [] := by
  simp [dropCaches, invalidateCC]

@[simp] theorem cc_dropCaches (s : State) (c : Nat) : (core (dropCaches s c) c).cc = [] := by
  simp [dropCaches, invalidateCC]

theorem farq_applyUpds (us : List FarUpd) (x : Die) : (us.foldl applyUpd x).farq = x.farq := by
  induction us generalizing x with
  | nil => rfl
  | cons u us ih => rw [List.foldl_cons, ih]; rfl

@[simp] theorem farq_drainFar (x : Die) : (drainFar x).farq = [] := farq_applyUpds _ _

/-- What an acquire leaves behind is not among the updates that it asks for. -/
theorem not_of_mem_keep {p : Nat → FarUpd → Bool} {us : List FarUpd} {u : FarUpd} (h : u ∈ (splitUpds p us).keep) :
    ∃ i, p i u = false := by
  unfold splitUpds at h
  generalize us.zipIdx = zs at h
  induction zs with
  | nil => simp at h
  | cons q zs ih =>
    rw [List.foldr_cons] at h
    split at h
    · exact ih h
    · next hno =>
      rcases List.mem_cons.mp h with rfl | h1
      · simp only [Bool.or_eq_true, not_or, Bool.not_eq_true] at hno
        exact ⟨q.2, hno.1.1⟩
      · exact ih h1

theorem farq_catchUp (p : Nat → FarUpd → Bool) (x : Die) : (catchUp p x).farq = (splitUpds p x.farq).keep :=
  farq_applyUpds _ _

theorem acquired_acqAct (s : State) (c : Nat) (scope : Scope) : Acquired (acqAct s c scope) c scope := by
  cases scope with
  | group => exact Or.inl rfl
  | block => exact Or.inr (Or.inl rfl)
  | cluster => exact Or.inr (Or.inr ⟨l1_dropCaches s c, cc_dropCaches s c, Or.inl rfl⟩)
  | _ => exact Or.inr (Or.inr ⟨l1_dropCaches s c, cc_dropCaches s c, Or.inr (by simp [acqAct])⟩)

theorem acquiredSeen_acqSeen {s : State} {tid g : Nat} {x : Group} (hx : group s tid g = some x) (c : Nat) (scope : Scope) :
    AcquiredSeen (acqSeen s tid g c scope) c scope x.seen := by
  have hleft : ∀ u ∈ (die (setDie (dropCaches s c) (dieOf c)
      (catchUp (fun _ u => named (((group (dropCaches s c) tid g).map (·.seen)).getD []) u)
        (die (dropCaches s c) (dieOf c)))) (dieOf c)).farq, stampAt x.seen u.origin < stampAt u.stamp u.origin := by
    have hseen : ((group (dropCaches s c) tid g).map (·.seen)).getD [] = x.seen := by
      have : group (dropCaches s c) tid g = some x := by
        rw [Machine.group, task_eq_of_tasks (cacheOnly_dropCaches s c).tasks]; exact hx
      rw [this]; rfl
    rw [die_setDie, if_pos rfl, farq_catchUp, hseen]
    intro u hu
    obtain ⟨i, hi⟩ := not_of_mem_keep hu
    simpa [named] using hi
  cases scope with
  | group => exact Or.inl rfl
  | block => exact Or.inr (Or.inl rfl)
  | cluster => exact Or.inr (Or.inr ⟨l1_dropCaches s c, cc_dropCaches s c, Or.inl rfl⟩)
  | _ => exact Or.inr (Or.inr ⟨l1_dropCaches s c, cc_dropCaches s c, Or.inr hleft⟩)

/-! ### Acquires of other cores -/

theorem core_countReq (s : State) (d pa c : Nat) : core (countReq s d pa) c = core s c := by
  unfold countReq; split <;> rfl
theorem die_countReq (s : State) (d pa e : Nat) : die (countReq s d pa) e = die s e := by
  unfold countReq; split <;> rfl

theorem core_writeBack_other {s : State} {c k d : Nat} (h : d ≠ c) : core (writeBack s c k) d = core s d := by
  unfold writeBack
  split
  · rfl
  · split
    · rfl
    · rw [core_setCore, if_neg h, core_countReq]; rfl

theorem farq_writeBack (s : State) (c k e : Nat) : (die (writeBack s c k) e).farq = (die s e).farq := by
  unfold writeBack
  split
  · rfl
  · next l _ =>
    split
    · rfl
    · show (die (countReq _ _ _) e).farq = _
      rw [die_countReq]
      show (die (setDie s (dieOf c) _) e).farq = _
      rw [die_setDie]
      split
      · next he => rw [he]
      · rfl

theorem core_writeBackAll_other {s : State} {c d : Nat} (h : d ≠ c) : core (writeBackAll s c) d = core s d := by
  unfold writeBackAll
  generalize (core s c).l1.map (·.1) = ks
  induction ks generalizing s with
  | nil => rfl
  | cons k ks ih => rw [List.foldl_cons, ih, core_writeBack_other h]

theorem farq_writeBackAll (s : State) (c e : Nat) : (die (writeBackAll s c) e).farq = (die s e).farq := by
  unfold writeBackAll
  generalize (core s c).l1.map (·.1) = ks
  induction ks generalizing s with
  | nil => rfl
  | cons k ks ih => rw [List.foldl_cons, ih, farq_writeBack]

theorem core_dropCaches_other {s : State} {c d : Nat} (h : d ≠ c) : core (dropCaches s c) d = core s d := by
  simp [dropCaches, invalidateCC, invalidateL1, h, core_writeBackAll_other h]

theorem farq_dropCaches (s : State) (c e : Nat) : (die (dropCaches s c) e).farq = (die s e).farq := farq_writeBackAll s c e

/-- An acquire of another core, or of the same again, undoes nothing. -/
theorem Acquired.acqAct {s : State} {c : Nat} {scope : Scope} (h : Acquired s c scope) (d : Nat) :
    Acquired (acqAct s d .package) c scope := by
  rcases h with h | h | ⟨hl1, hcc, hfar⟩
  · exact Or.inl h
  · exact Or.inr (Or.inl h)
  · refine Or.inr (Or.inr ⟨?_, ?_, hfar.imp_right (fun hf => ?_)⟩)
    · by_cases hd : c = d
      · subst hd; exact l1_dropCaches s c
      · show (core (dropCaches s d) c).l1 = []
        rw [core_dropCaches_other hd, hl1]
    · by_cases hd : c = d
      · subst hd; exact cc_dropCaches s c
      · show (core (dropCaches s d) c).cc = []
        rw [core_dropCaches_other hd, hcc]
    · show (die (setDie (dropCaches s d) (dieOf d) _) (dieOf c)).farq = []
      rw [die_setDie]
      split
      · exact farq_drainFar _
      · rw [farq_dropCaches, hf]

/-- Every core of a list acquires in turn. -/
theorem acquired_foldl {α : Type} (l : List α) (f : α → Nat) (s : State) :
    ∀ a ∈ l, Acquired (l.foldl (fun s a => Machine.acqAct s (f a) .package) s) (f a) .package := by
  have hkeep : ∀ (l : List α) (s : State) (c : Nat), Acquired s c .package →
      Acquired (l.foldl (fun s a => Machine.acqAct s (f a) .package) s) c .package := by
    intro l
    induction l with
    | nil => exact fun _ _ h => h
    | cons a l ih => exact fun s c h => ih _ _ (h.acqAct (f a))
  induction l generalizing s with
  | nil => simp
  | cons b l ih =>
    intro a ha
    rw [List.foldl_cons]
    rcases List.mem_cons.mp ha with rfl | h
    · exact hkeep l _ _ (acquired_acqAct _ _ _)
    · exact ih _ a h

end Sys2Proof.Machine
end
section
/-! PROOFS. Fences, `wait`, and the commit token: its holder, the block that waits for it, the block that passed it on (R233 to R256). -/

namespace Sys2Proof.Machine

open Host

/-! ### Groups and tasks under the caches' actions -/

theorem oplog_of_quiet {x : Group} (h : Quiet x) : x.oplog = [] := (List.append_eq_nil_iff.mp h.2.2).1

theorem acqReady_of_quiet {c : Ctx} (h : Quiet c.grp) : acqReady c = true := by
  simp [acqReady, oplog_of_quiet h, h.1]

theorem relReady_of_quiet {s : State} {c : Ctx} (h : Quiet c.grp) (hw : s.wq = []) (scope : Scope) : relReady s c scope = true := by
  cases scope <;> simp [relReady, oplog_of_quiet h, h.1, h.2.1, hw]

theorem CacheOnly.group {s t : State} (h : CacheOnly s t) (tid g : Nat) : Machine.group t tid g = Machine.group s tid g := by
  rw [Machine.group, task_eq_of_tasks h.tasks]; rfl

theorem CacheOnly.onlyGroupIn {s t : State} (h : CacheOnly s t) (c : Ctx) (f : Group → Group) :
    OnlyGroupIn s (modGroup t c.tid c.g f) c := by
  obtain ⟨-, -, ⟨hother, hgroups⟩, htask, -⟩ := onlyGroup_modGroup t c.tid c.g f
  refine ⟨h.csrs, ⟨fun u hu => (hother u hu).trans (task_eq_of_tasks h.tasks u), fun j hj => (hgroups j hj).trans (h.group _ _)⟩, ?_⟩
  rw [htask, task_eq_of_tasks h.tasks]

/-- An instruction of bundle c acts on caches, which leaves s1, and its bundle advances: no byte of memory, no register and
nothing of any other group is different. -/
def CacheStep (s s1 : State) (c : Ctx) (o : Outcome State Fault Refusal) : Prop :=
  ∃ f x, o = .next (modGroup s1 c.tid c.g f) ∧ OnlyGroupIn s (modGroup s1 c.tid c.g f) c ∧
    SameMemory s (modGroup s1 c.tid c.g f) ∧ group (modGroup s1 c.tid c.g f) c.tid c.g = some x ∧ Advanced c x ∧
    SameRegs c x ∧ SamePreds c x

theorem cacheOnly_completes {s s1 : State} {c : Ctx} {h : Hdr} {n : Nat} {reads writes : List Use} {body : Ctx → State → Res}
    (he : Executes s c h n (reads ++ writes)) (hc : CacheOnly s s1) (hbody : body c s = .ok s1) :
    CacheStep s s1 c (run h n reads writes body s) := by
  obtain ⟨-, -, -, -, -, hg, -⟩ := group_of_bundle he.1.2
  refine ⟨_, c.stepped (fairOn s1 c.ten) c.grp, run_ok he hbody, hc.onlyGroupIn c _, hc.memory, ?_,
    stepped_advanced c _ _ rfl rfl (fun _ hn => hn), fun r i _ => stepped_reg c _ _ r i, fun p => stepped_pred c _ _ p⟩
  exact group_modGroup_some _ ((hc.group c.tid c.g).trans hg)

/-! ### Fences (R95 to R97, R242) -/

theorem exec_fence (h : Hdr) (k : FKind) (scope : Scope) (s : State) : exec (.fence h k scope) s = execFence h k scope s := rfl
theorem exec_wait (h : Hdr) (ld st cp tl : BitVec 6) (s : State) : exec (.wait h ld st cp tl) s = execWait h ld st cp tl s := rfl
theorem exec_tokacq (h : Hdr) (s : State) : exec (.tokacq h) s = execTokacq h s := rfl
theorem exec_tokpass (h : Hdr) (s : State) : exec (.tokpass h) s = execTokpass h s := rfl

theorem clean_relDone {s : State} {c : Nat} (h : Clean s c) (scope : Scope) : Clean (relDone s c scope) c := by
  by_cases hg : scope = .group
  · subst hg; exact h
  · by_cases hb : scope = .block
    · subst hb; exact h
    · unfold Clean; rw [l1_relDone hg hb]; simp

theorem wq_relDone (s : State) (c : Nat) (scope : Scope) : (relDone s c scope).wq = s.wq := by cases scope <;> rfl

theorem dropCaches_of_clean {s : State} {c : Nat} (h : Clean s c) : dropCaches s c = invalidateCC (invalidateL1 s c) c := by
  rw [dropCaches, writeBackAll_of_clean h]

theorem wq_acqAct {s : State} {c : Nat} (h : Clean s c) (scope : Scope) : (acqAct s c scope).wq = s.wq := by
  cases scope <;> simp only [acqAct, dropCaches_of_clean h] <;> rfl

theorem wq_acqSeen {s : State} {c : Nat} (h : Clean s c) (tid g : Nat) (scope : Scope) : (acqSeen s tid g c scope).wq = s.wq := by
  cases scope <;> simp only [acqSeen, dropCaches_of_clean h] <;> rfl

theorem l1_of_acquired {s : State} {c : Nat} {scope : Scope} (h : Acquired s c scope) (hg : scope ≠ .group)
    (hb : scope ≠ .block) : (core s c).l1 = [] := by
  rcases h with h | h | h
  · exact absurd h hg
  · exact absurd h hb
  · exact h.1

theorem l1_of_acquiredSeen {s : State} {c : Nat} {scope : Scope} {seen : List Nat} (h : AcquiredSeen s c scope seen)
    (hg : scope ≠ .group) (hb : scope ≠ .block) : (core s c).l1 = [] := by
  rcases h with h | h | h
  · exact absurd h hg
  · exact absurd h hb
  · exact h.1

/-- The state in which a fence that need not wait completes, where its core's L1 holds nothing written. -/
def fenced (s : State) (c : Ctx) (kind : FKind) (scope : Scope) : State :=
  match kind with
  | .acq => acqSeen s c.tid c.g c.task.core scope
  | .rel => relDone s c.task.core scope
  | .ar => acqSeen (relDone s c.task.core scope) c.tid c.g c.task.core scope
  | .sc => acqAct (relDone s c.task.core scope) c.task.core scope

theorem cacheOnly_fenced (s : State) (c : Ctx) (kind : FKind) (scope : Scope) : CacheOnly s (fenced s c kind scope) := by
  cases kind with
  | acq => exact cacheOnly_acqSeen _ _ _ _ _
  | rel => exact cacheOnly_relDone _ _ _
  | ar => exact (cacheOnly_relDone _ _ _).trans (cacheOnly_acqSeen _ _ _ _ _)
  | sc => exact (cacheOnly_relDone _ _ _).trans (cacheOnly_acqAct _ _ _)

/-- What a fence leaves of its core's caches (R82, R97). -/
theorem fenced_caches {s : State} {c : Ctx} (hg : group s c.tid c.g = some c.grp) (hclean : Clean s c.task.core) (kind : FKind)
    (scope : Scope) : (fenced s c kind scope).wq = s.wq ∧
      (scope ≠ .group → scope ≠ .block → (core (fenced s c kind scope) c.task.core).l1 = []) ∧
      (kind = .acq ∨ kind = .ar → AcquiredSeen (fenced s c kind scope) c.task.core scope c.grp.seen) ∧
      (kind = .sc → Acquired (fenced s c kind scope) c.task.core scope) := by
  have hdone := clean_relDone hclean scope
  cases kind with
  | acq =>
    have h := acquiredSeen_acqSeen hg c.task.core scope
    exact ⟨wq_acqSeen hclean _ _ _, l1_of_acquiredSeen h, fun _ => h, by rintro ⟨⟩⟩
  | rel => exact ⟨wq_relDone _ _ _, l1_relDone, (by rintro (hk | hk) <;> cases hk), by rintro ⟨⟩⟩
  | ar =>
    have h := acquiredSeen_acqSeen (((cacheOnly_relDone s c.task.core scope).group c.tid c.g).trans hg) c.task.core scope
    exact ⟨(wq_acqSeen hdone _ _ _).trans (wq_relDone _ _ _), l1_of_acquiredSeen h, fun _ => h, by rintro ⟨⟩⟩
  | sc =>
    have h := acquired_acqAct (relDone s c.task.core scope) c.task.core scope
    exact ⟨(wq_acqAct hdone _).trans (wq_relDone _ _ _), l1_of_acquired h, (by rintro (hk | hk) <;> cases hk),
      fun _ => h⟩

theorem fence_completes {h : Hdr} {kind : FKind} {scope : Scope} {s : State} {c : Ctx} (he : Executes s c h 8 [])
    (hq : Quiet c.grp) (hd : Drained s c.task.core) :
    ∃ t x, exec (.fence h kind scope) s = .next t ∧ OnlyGroupIn s t c ∧ SameMemory s t ∧ group t c.tid c.g = some x ∧
      Advanced c x ∧ SameRegs c x ∧ SamePreds c x ∧ t.wq = [] ∧
      (scope ≠ .group → scope ≠ .block → (core t c.task.core).l1 = []) ∧
      (kind = .acq ∨ kind = .ar → AcquiredSeen t c.task.core scope c.grp.seen) ∧
      (kind = .sc → Acquired t c.task.core scope) := by
  obtain ⟨hclean, hwq⟩ := hd
  obtain ⟨-, -, -, -, -, hg, -⟩ := group_of_bundle he.1.2
  rw [exec_fence]
  obtain ⟨hfwq, hl1, hseen, hacq⟩ := fenced_caches hg hclean kind scope
  have hstep : CacheStep s (fenced s c kind scope) c (execFence h kind scope s) := by
    refine cacheOnly_completes (writes := []) he (cacheOnly_fenced s c kind scope) ?_
    simp only [oplog_of_quiet hq, relAct_of_clean hclean, ite_self, relReady_of_quiet hq hwq, acqReady_of_quiet hq,
      List.all_nil, Bool.not_true, Bool.and_false, Bool.false_eq_true, if_false]
    cases kind <;> rfl
  obtain ⟨f, x, hexec, honly, hmem, hx, hadv, hregs, hpreds⟩ := hstep
  exact ⟨_, x, hexec, honly, hmem, hx, hadv, hregs, hpreds, hfwq.trans hwq, hl1, hseen, hacq⟩

/-! ### `wait` (R244) -/

/-- The four counts of R244 as the statement writes them. -/
theorem cpCount_eq (s : State) (tid g : Nat) : cpCount s tid g = s.copies.countP (fun p => p.2.tid == tid && p.2.g == g) +
    s.colls.countP (fun p => p.2.tid == tid && p.2.g == g) := by
  simp only [cpCount, List.countP_eq_length_filter]

theorem wait_goes_on {h : Hdr} {ld st cp tl : BitVec 6} {s : State} {c : Ctx} (he : Executes s c h 12 [])
    (hle : ldCount c.grp ≤ ld.toNat ∧ stCount c.grp ≤ st.toNat ∧ cpCount s c.tid c.g ≤ cp.toNat ∧
      tlCount s c.task c.tid c.g ≤ tl.toNat) :
    Leaves s c (exec (.wait h ld st cp tl) s) (fun x => SameRegs c x ∧ SamePreds c x) := by
  rw [exec_wait]
  exact leaves_unchanged (writes := []) he (if_pos hle)

theorem run_wait {s s1 : State} {c : Ctx} {h : Hdr} {n : Nat} {reads writes : List Use} {body : Ctx → State → Res}
    (he : Executes s c h n (reads ++ writes)) (hbody : body c s = .wait s1) :
    run h n reads writes body s = .next (c.stalled s1) := by
  rw [run, runGen_executes false reads writes body he, hbody]

theorem wait_stalls {h : Hdr} {ld st cp tl : BitVec 6} {s : State} {c : Ctx} (he : Executes s c h 12 [])
    (hle : ¬ (ldCount c.grp ≤ ld.toNat ∧ stCount c.grp ≤ st.toNat ∧ cpCount s c.tid c.g ≤ cp.toNat ∧
      tlCount s c.task c.tid c.g ≤ tl.toNat)) : Stalls s c (exec (.wait h ld st cp tl) s) := by
  rw [exec_wait]
  exact run_wait (writes := []) he (if_neg hle)

/-! ### The commit token (R256, R465) -/

theorem tokenPos_free {s : State} {t : Task} (h : detLaunch s t = none) : tokenPos s t = .free := by
  unfold tokenPos; rw [h]
theorem tokenPos_holds {s : State} {t : Task} {l : Launch} (h : detLaunch s t = some l) (hl : l.token = t.blk) :
    tokenPos s t = .holds := by unfold tokenPos; rw [h]; simp [hl]
theorem tokenPos_passed {s : State} {t : Task} {l : Launch} (h : detLaunch s t = some l) (hl : t.blk < l.token) :
    tokenPos s t = .passed := by
  unfold tokenPos; rw [h]
  have : ¬ l.token = t.blk := by omega
  simp [this, hl]
theorem tokenPos_before {s : State} {t : Task} {l : Launch} (h : detLaunch s t = some l) (hl : l.token < t.blk) :
    tokenPos s t = .before := by
  unfold tokenPos; rw [h]
  have h1 : ¬ l.token = t.blk := by omega
  have h2 : ¬ t.blk < l.token := by omega
  simp [h1, h2]

/-- A DET launch is the task's own, and no propagation runs the task. -/
theorem of_detLaunch {s : State} {t : Task} {l : Launch} (h : detLaunch s t = some l) :
    t.prop = false ∧ mget (tenant s t.tenant).launches t.launch = some l ∧ l.trec.det = true := by
  unfold detLaunch at h
  split at h
  · cases h
  · next hp =>
    split at h
    · next k hk =>
      split at h
      · next hd => cases h; exact ⟨by simpa using hp, hk, hd⟩
      · cases h
    · cases h

theorem run_block {s s1 : State} {c : Ctx} {h : Hdr} {n : Nat} {reads writes : List Use} {body : Ctx → State → Res} {w : Wait}
    (he : Executes s c h n (reads ++ writes)) (hbody : body c s = .block s1 w) :
    run h n reads writes body s = .next (c.blockOn s1 w) := by
  rw [run, runGen_executes false reads writes body he, hbody]

/-- What of an entry a wait shows. -/
def Entry.waiting (e : Entry) : Nat × VA × Lanes × Byte × Option (Wait × Nat) := (e.id, e.pc, e.mask, e.prio, e.blk)

theorem waiting_releasePend (ids : List Nat) (es : List Entry) :
    (releasePend ids es).map Entry.waiting = es.map Entry.waiting := by
  unfold releasePend settleYield
  rw [List.map_map, List.map_map]
  apply List.map_congr_left
  intro e _
  simp only [Function.comp]
  split <;> rfl

/-- The group when its bundle blocks. -/
def Ctx.blocked (c : Ctx) (w : Wait) (x : Group) : Group :=
  (x.setLive (releasePend [c.ent.id] (x.live.map (fun e =>
    if e.id == c.ent.id then { e with blk := some (w, c.len) } else e)))).issued c.pc

theorem blockOn_eq (c : Ctx) (s : State) (w : Wait) : c.blockOn s w = modGroup s c.tid c.g (c.blocked w) := rfl

theorem blocks_blocked (c : Ctx) (w : Wait) : Blocks c (c.blocked w c.grp) w := by
  have hlive : (c.blocked w c.grp).live = releasePend [c.ent.id] (c.grp.live.map (fun e =>
      if e.id == c.ent.id then { e with blk := some (w, c.len) } else e)) := live_setLive _ _
  show (c.blocked w c.grp).live.map Entry.waiting = _
  rw [hlive, waiting_releasePend, List.map_map]
  apply List.map_congr_left
  intro e _
  by_cases h : e.id = c.ent.id <;> simp [Entry.waiting, h]

theorem reg_blocked (c : Ctx) (w : Wait) (x : Group) (r : Rg) (i : Nat) : (c.blocked w x).reg r i = x.reg r i :=
  (reg_issued _ _ _ _).trans (reg_setLive _ _ _ _)
theorem pred_blocked (c : Ctx) (w : Wait) (x : Group) (p : Nat) : (c.blocked w x).pred p = x.pred p := pred_setLive _ _ _

theorem mem_blockTasks {s : State} {tid : Nat} {t : Task} (ht : task s tid = some t) (hp : t.prop = false) :
    t ∈ blockTasks s t.tenant t.launch t.blk := by
  refine List.mem_map.mpr ⟨(tid, t), List.mem_filter.mpr ⟨mem_of_mget ht, ?_⟩, rfl⟩
  simp [hp]

theorem mem_insertNat {x y : Nat} {l : List Nat} : y ∈ insertNat x l ↔ y = x ∨ y ∈ l := by
  induction l with
  | nil => simp [insertNat]
  | cons a l ih =>
    unfold insertNat
    split
    · simp
    · split
      · next h => subst h; simp
      · simp only [List.mem_cons, ih]; tauto

theorem firstKey_some {p : Nat → Bool} {n lo k : Nat} (h : firstKey p n lo = some k) :
    lo ≤ k ∧ p k = true ∧ ∀ j, lo ≤ j → j < k → p j = false := by
  induction n generalizing lo with
  | zero => cases h
  | succ n ih =>
    unfold firstKey at h
    split at h
    · next hp => cases h; exact ⟨le_rfl, hp, fun j h1 h2 => absurd h2 (by omega)⟩
    · next hp =>
      obtain ⟨h1, h2, h3⟩ := ih h
      refine ⟨by omega, h2, fun j hj hk => ?_⟩
      rcases Nat.eq_or_lt_of_le hj with rfl | hlt
      · simpa using hp
      · exact h3 j hlt hk

theorem firstKey_none {p : Nat → Bool} {n lo : Nat} (h : firstKey p n lo = none) : ∀ j, j < n → p (lo + j) = false := by
  induction n generalizing lo with
  | zero => exact fun j hj => absurd hj (by omega)
  | succ n ih =>
    unfold firstKey at h
    split at h
    · cases h
    · next hp =>
      intro j hj
      rcases j with _ | j
      · simpa using hp
      · have := ih h j (by omega)
        rwa [show lo + 1 + j = lo + (j + 1) by omega] at this

/-- Some block of as many and one more than have retired has not (R256). -/
theorem unretired_spec (l : Launch) (b : Nat) : b ≤ unretired l b ∧ unretired l b ∉ l.retired ∧
    ∀ k, b ≤ k → k < unretired l b → k ∈ l.retired := by
  unfold unretired
  cases h : firstKey (fun k => !l.retired.contains k) (l.retired.length + 1) b with
  | some k =>
    obtain ⟨h1, h2, h3⟩ := firstKey_some h
    refine ⟨h1, by simpa using h2, fun j hj hk => by simpa using h3 j hj hk⟩
  | none =>
    exfalso
    have hall : (List.range (l.retired.length + 1)).map (b + ·) ⊆ l.retired := by
      intro x hx
      obtain ⟨j, hj, rfl⟩ := List.mem_map.mp hx
      simpa using firstKey_none h j (List.mem_range.mp hj)
    have hnodup : ((List.range (l.retired.length + 1)).map (b + ·)).Nodup :=
      List.nodup_range.map (fun x y hxy => Nat.add_left_cancel hxy)
    have := (hnodup.subperm hall).length_le
    simp at this

/-- A launch when a block of it has been published and has passed the token on. -/
def Launch.passed (l : Launch) (blk : Nat) : Launch :=
  { l with published := insertNat blk l.published, token := unretired l (blk + 1) }

theorem publish_eq {s : State} {t : Task} {l : Launch} (h : detLaunch s t = some l) :
    publish s t = modTenant s t.tenant (fun x => { x with launches := mmod x.launches t.launch (fun l =>
      { l with published := insertNat t.blk l.published }) }) := by
  unfold publish; rw [h]; rfl

theorem modTenant_modTenant (s : State) (n : Nat) (f g : Tenant → Tenant) :
    modTenant (modTenant s n f) n g = modTenant s n (fun x => g (f x)) := by
  simp [modTenant, setTenant, tenant]

/-- The tenant whose launch has been published for a block and passed on. -/
def passedTenant (launch blk : Nat) (x : Tenant) : Tenant :=
  let published := mmod x.launches launch (fun l => { l with published := insertNat blk l.published })
  { x with launches := mmod published launch (fun l => if l.token == blk then { l with token := unretired l (blk + 1) } else l) }

theorem launches_passedTenant {x : Tenant} {launch blk : Nat} {l : Launch} (h : mget x.launches launch = some l)
    (hl : l.token = blk) : mget (passedTenant launch blk x).launches launch = some (l.passed blk) := by
  simp [passedTenant, h, hl, Launch.passed, unretired]

theorem blockTasks_of_tasks {s t : State} (h : t.tasks = s.tasks) (n launch b : Nat) :
    blockTasks t n launch b = blockTasks s n launch b := by unfold blockTasks; rw [h]

/-- The cores of these tasks acquire, one after the other. -/
def acquireAll (us : List Task) (s : State) : State := us.foldl (fun s u => acqAct s u.core .package) s

theorem cacheOnly_acquireAll (us : List Task) (s : State) : CacheOnly s (acquireAll us s) :=
  CacheOnly.foldl (fun s (u : Task) => cacheOnly_acqAct s u.core .package) us s

theorem acquired_acquireAll (us : List Task) (s : State) : ∀ u ∈ us, Acquired (acquireAll us s) u.core .package :=
  acquired_foldl us (fun u : Task => u.core) s

/-- The state in which the token of a launch has passed on from a published block. -/
theorem passToken_publish {s : State} {t : Task} {l : Launch} (h : detLaunch s t = some l) (hl : l.token = t.blk) :
    passToken (publish s t) t.tenant t.launch t.blk =
      acquireAll (blockTasks s t.tenant t.launch (l.passed t.blk).token) (modTenant s t.tenant (passedTenant t.launch t.blk)) := by
  obtain ⟨-, hlaunch, -⟩ := of_detLaunch h
  have hmod : modTenant (publish s t) t.tenant (fun x => { x with launches := mmod x.launches t.launch (fun l =>
      if l.token == t.blk then { l with token := unretired l (t.blk + 1) } else l) }) =
      modTenant s t.tenant (passedTenant t.launch t.blk) := by
    rw [publish_eq h, modTenant_modTenant]
    rfl
  have hget : mget (tenant (modTenant s t.tenant (passedTenant t.launch t.blk)) t.tenant).launches t.launch =
      some (l.passed t.blk) := by
    rw [tenant_modTenant, if_pos rfl]
    exact launches_passedTenant hlaunch hl
  unfold passToken tokenAcquire
  rw [hmod, hget]
  rfl

/-- A group that no longer stalls, and a task of such groups. -/
def Group.woken (x : Group) : Group := { x with stall := false }
def Task.woken (t : Task) : Task := { t with groups := t.groups.map (fun q => (q.1, q.2.woken)) }

theorem tasks_wakeAll (s : State) : (wakeAll s).tasks = s.tasks.map (fun p => (p.1, p.2.woken)) := rfl

theorem task_wakeAll (s : State) (tid : Nat) : task (wakeAll s) tid = (task s tid).map Task.woken := by
  rw [task, tasks_wakeAll, mget_map_values]
  rfl

theorem group_wakeAll (s : State) (tid g : Nat) : group (wakeAll s) tid g = (group s tid g).map Group.woken := by
  unfold group
  rw [task_wakeAll]
  cases task s tid with
  | none => rfl
  | some t => exact mget_map_values Group.woken t.groups g

/-- The accesses of a block's tasks are complete, and its cores hold nothing written (R255). -/
def BlockDrained (s : State) (t : Task) : Prop :=
  ∀ u ∈ blockTasks s t.tenant t.launch t.blk, Drained s u.core ∧ ∀ q ∈ u.groups, Quiet q.2

theorem blockRelease_of_drained {s : State} {t : Task} (h : BlockDrained s t) : blockRelease s t = s := by
  unfold blockRelease
  split
  · rfl
  · exact foldl_of_forall_eq _ (fun u hu => writeBackAll_of_clean (h u hu).1.1)

theorem blockSettled_of_drained {s : State} {t : Task} (h : BlockDrained s t) : blockSettled s t = true := by
  unfold blockSettled
  rw [Bool.or_eq_true, List.all_eq_true]
  refine Or.inr (fun u hu => ?_)
  obtain ⟨⟨-, hwq⟩, hquiet⟩ := h u hu
  simp only [hwq, List.any_nil, Bool.not_false, Bool.true_and, List.all_eq_true]
  intro q hq
  simp [(hquiet q hq).1, (hquiet q hq).2.1, oplog_of_quiet (hquiet q hq)]

theorem tokacq_holds {h : Hdr} {s : State} {c : Ctx} {l : Launch} (he : Executes s c h 8 []) (hq : Quiet c.grp)
    (hl : detLaunch s c.task = some l) (htok : l.token = c.task.blk) :
    CacheStep s (acqAct s c.task.core .package) c (exec (.tokacq h) s) := by
  rw [exec_tokacq]
  refine cacheOnly_completes (writes := []) he (cacheOnly_acqAct _ _ _) ?_
  simp only [tokenPos_holds hl htok, acqReady_of_quiet hq, if_true]

theorem tokacq_blocks {h : Hdr} {s : State} {c : Ctx} {l : Launch} (he : Executes s c h 8 []) (hq : Quiet c.grp)
    (hl : detLaunch s c.task = some l) (htok : l.token < c.task.blk) :
    ∃ t x, exec (.tokacq h) s = .next t ∧ OnlyGroup s t c.tid c.g ∧ group t c.tid c.g = some x ∧ Blocks c x .tok ∧
      SameRegs c x ∧ SamePreds c x := by
  obtain ⟨-, -, -, -, -, hg, -⟩ := group_of_bundle he.1.2
  rw [exec_tokacq]
  refine ⟨_, _, run_block (s1 := s) (w := .tok) (writes := []) he ?_, onlyGroup_modGroup _ _ _ _, group_modGroup_some _ hg,
    blocks_blocked c .tok, fun r i _ => reg_blocked _ _ _ _ _, fun p => pred_blocked _ _ _ _⟩
  simp only [tokenPos_before hl htok, acqReady_of_quiet hq, if_true]

/-- The state in which the token of a launch has passed on: the launch notes it, and the cores of the next block acquire. -/
theorem passedOn {s s2 : State} {t : Task} {l : Launch} (hl : detLaunch s t = some l) (htok : l.token = t.blk)
    (hs2 : s2 = passToken (publish s t) t.tenant t.launch t.blk) :
    SameMemory s s2 ∧ SameCsrs s s2 ∧ s2.tasks = s.tasks ∧
      mget (tenant s2 t.tenant).launches t.launch = some (l.passed t.blk) ∧
      ∀ u ∈ blockTasks s t.tenant t.launch (l.passed t.blk).token, Acquired s2 u.core .package := by
  obtain ⟨-, hlaunch, -⟩ := of_detLaunch hl
  rw [passToken_publish hl htok] at hs2
  have hcache : CacheOnly (modTenant s t.tenant (passedTenant t.launch t.blk)) s2 := by
    rw [hs2]; exact cacheOnly_acquireAll _ _
  refine ⟨hcache.memory, fun k r => (hcache.csrs k r).trans (csrGet_modTenant_of_csr (f := passedTenant t.launch t.blk) (fun _ => rfl) k r), hcache.tasks, ?_, ?_⟩
  · have hten : tenant s2 t.tenant = tenant (modTenant s t.tenant (passedTenant t.launch t.blk)) t.tenant := by
      unfold tenant; rw [hcache.tens]
    rw [hten, tenant_modTenant, if_pos rfl]
    exact launches_passedTenant hlaunch htok
  · rw [hs2]
    exact acquired_acquireAll _ _

theorem tokpass_next {h : Hdr} {s : State} {c : Ctx} {l : Launch} (he : Executes s c h 8 []) (hq : Quiet c.grp)
    (hl : detLaunch s c.task = some l) (htok : l.token = c.task.blk) (hblock : BlockDrained s c.task) :
    let s2 := wakeAll (passToken (publish s c.task) c.task.tenant c.task.launch c.task.blk)
    exec (.tokpass h) s = .next (modGroup s2 c.tid c.g (c.stepped (fairOn s2 c.ten))) := by
  obtain ⟨-, -, -, -, htask, -, -⟩ := group_of_bundle he.1.2
  obtain ⟨⟨hclean, hwq⟩, -⟩ := hblock c.task (mem_blockTasks htask (of_detLaunch hl).1)
  rw [exec_tokpass]
  refine run_ok (writes := []) he ?_
  simp only [tokenPos_holds hl htok, relAct_of_clean hclean, blockRelease_of_drained hblock, relReady_of_quiet hq hwq,
    blockSettled_of_drained hblock, Bool.not_true, Bool.or_self, Bool.false_eq_true, if_false]
  rfl

theorem tokpass_holds {h : Hdr} {s : State} {c : Ctx} {l : Launch} (he : Executes s c h 8 []) (hq : Quiet c.grp)
    (hl : detLaunch s c.task = some l) (htok : l.token = c.task.blk) (hblock : BlockDrained s c.task) :
    ∃ t x l1, exec (.tokpass h) s = .next t ∧ SameMemory s t ∧ SameCsrs s t ∧ group t c.tid c.g = some x ∧ Advanced c x ∧
      SameRegs c x ∧ SamePreds c x ∧ mget (tenant t c.task.tenant).launches c.task.launch = some l1 ∧
      c.task.blk ∈ l1.published ∧ c.task.blk < l1.token ∧ l1.token ∉ l1.retired ∧
      (∀ k, c.task.blk < k → k < l1.token → k ∈ l1.retired) ∧ { l1 with published := l.published, token := l.token } = l ∧
      ∀ u ∈ blockTasks s c.task.tenant c.task.launch l1.token, Acquired t u.core .package := by
  obtain ⟨-, -, -, -, -, hg, -⟩ := group_of_bundle he.1.2
  have hnext := tokpass_next he hq hl htok hblock
  obtain ⟨s2, hs2⟩ : ∃ s2, s2 = passToken (publish s c.task) c.task.tenant c.task.launch c.task.blk := ⟨_, rfl⟩
  obtain ⟨hmem, hcsr, htasks, hget, hacq⟩ := passedOn hl htok hs2
  rw [← hs2] at hnext
  have hx : group (wakeAll s2) c.tid c.g = some c.grp.woken := by
    have hg2 : group s2 c.tid c.g = some c.grp := by rw [group, task_eq_of_tasks htasks]; exact hg
    rw [group_wakeAll, hg2]
    rfl
  obtain ⟨hgt, hnot, hall⟩ := unretired_spec l (c.task.blk + 1)
  refine ⟨_, _, l.passed c.task.blk, hnext, hmem, hcsr, group_modGroup_some _ hx,
    stepped_advanced c _ _ rfl rfl (fun _ hn => hn), fun r i _ => ?_, fun p => stepped_pred c _ _ p, hget,
    mem_insertNat.mpr (Or.inl rfl), hgt, hnot, hall, rfl, hacq⟩
  rw [stepped_reg]
  cases r <;> rfl

/-- Without the token a block may not pass it on, and may not acquire where it has passed it (R256). -/
theorem token_misuse {h : Hdr} {s : State} {c : Ctx} (he : Executes s c h 8 []) (htrap : c.grp.trap = none)
    (hv : hvec s c.task.tenant ≠ 0) :
    (tokenPos s c.task = .passed → Traps s c (exec (.tokacq h) s) 0x0D (oneLane (lowest c.act)) 0) ∧
    (tokenPos s c.task = .passed ∨ tokenPos s c.task = .before →
      Traps s c (exec (.tokpass h) s) 0x0D (oneLane (lowest c.act)) 0) := by
  refine ⟨fun hp => ?_, fun hp => ?_⟩
  · rw [exec_tokacq]
    refine traps_of_body (writes := []) (addr := 0) he htrap hv ?_
    simp only [hp]
    rfl
  · rw [exec_tokpass]
    refine traps_of_body (writes := []) (addr := 0) he htrap hv ?_
    rcases hp with hp | hp <;> simp only [hp] <;> rfl

/-- Outside a DET launch the two only advance. -/
theorem token_free {h : Hdr} {s : State} {c : Ctx} (he : Executes s c h 8 []) (hl : detLaunch s c.task = none) :
    Leaves s c (exec (.tokacq h) s) (fun x => SameRegs c x ∧ SamePreds c x) ∧
    Leaves s c (exec (.tokpass h) s) (fun x => SameRegs c x ∧ SamePreds c x) := by
  constructor
  · rw [exec_tokacq]
    refine leaves_unchanged (writes := []) he ?_
    simp only [tokenPos_free hl]
  · rw [exec_tokpass]
    refine leaves_unchanged (writes := []) he ?_
    simp only [tokenPos_free hl]

theorem tlCount_eq (s : State) (t : Task) (tid g : Nat) : tlCount s t tid g =
    ((core s t.core).ma0 ++ (core s t.core).ma1).countP (fun o => o.tid == tid && o.g == g &&
      (match o.kind with
       | .acczero _ _ => false
       | _ => true)) := by
  rw [tlCount, List.countP_eq_length_filter]
  rfl

/-- Settles O33: the fence, the two ways of `wait`, and the block that holds the token, waits for it, or has passed it on. -/
theorem fencesWaitsAndCommitToken : Obligations.FencesWaitsAndCommitToken := by
  unfold Obligations.FencesWaitsAndCommitToken
  refine ⟨⟨fun h kind scope s c he hq hd => fence_completes he hq hd, fun h ld st cp tl s c he => ?_⟩,
    fun h s c he hq => ⟨token_free he, fun l hl => ⟨fun htok => ⟨?_, tokpass_holds he hq hl htok⟩, fun hlt htrap hv => ?_,
      fun hlt => ⟨tokacq_blocks he hq hl hlt, fun htrap hv => ?_⟩⟩⟩⟩
  · intro lds sts cps tls
    have hcp : cps = cpCount s c.tid c.g := (cpCount_eq _ _ _).symm
    have htl : tls = tlCount s c.task c.tid c.g := (tlCount_eq _ _ _ _).symm
    rw [hcp, htl]
    exact ⟨wait_goes_on he, wait_stalls he⟩
  · obtain ⟨f, x, hexec, honly, hmem, hx, hadv, hregs, hpreds⟩ := tokacq_holds he hq hl htok
    exact ⟨_, x, hexec, honly, hmem, hx, hadv, hregs, hpreds, acquired_acqAct s c.task.core .package⟩
  · have hpos := tokenPos_passed hl hlt
    exact ⟨(token_misuse he htrap hv).1 hpos, (token_misuse he htrap hv).2 (Or.inl hpos)⟩
  · exact (token_misuse he htrap hv).2 (Or.inr (tokenPos_before hl hlt))

end Sys2Proof.Machine
end
section
/-! SUPPORT. What a translation may change, and the address of a lane. -/

namespace Sys2Proof.Machine

open Host

/-! ### What a translation may change -/

/-- A translation changes neither tasks nor tenants nor writes on their way, and no core's L1: only TLBs, walker caches, and the
marks of a leaf (R387) with the copies of its line. -/
structure Translates (s t : State) : Prop where
  tasks : t.tasks = s.tasks
  tens : t.tens = s.tens
  wq : t.wq = s.wq
  l1 : ∀ c, (core t c).l1 = (core s c).l1

namespace Translates
variable {s t u : State}

theorem refl (s : State) : Translates s s := ⟨rfl, rfl, rfl, fun _ => rfl⟩

theorem trans (h : Translates s t) (k : Translates t u) : Translates s u :=
  ⟨k.tasks.trans h.tasks, k.tens.trans h.tens, k.wq.trans h.wq, fun c => (k.l1 c).trans (h.l1 c)⟩

theorem drained (h : Translates s t) {c : Nat} (hd : Drained s c) : Drained t c :=
  ⟨fun p hp => hd.1 p (h.l1 c ▸ hp), h.wq.trans hd.2⟩

theorem task (h : Translates s t) (tid : Nat) : Machine.task t tid = Machine.task s tid := task_eq_of_tasks h.tasks tid

theorem group (h : Translates s t) (tid g : Nat) : Machine.group t tid g = Machine.group s tid g := by
  unfold Machine.group; rw [h.task]

theorem tenant (h : Translates s t) (n : Nat) : Machine.tenant t n = Machine.tenant s n := by unfold Machine.tenant; rw [h.tens]

theorem detLaunch (h : Translates s t) (k : Task) : Machine.detLaunch t k = Machine.detLaunch s k := by
  unfold Machine.detLaunch; rw [h.tenant]

theorem blockTasks (h : Translates s t) (n launch b : Nat) :
    Machine.blockTasks t n launch b = Machine.blockTasks s n launch b := blockTasks_of_tasks h.tasks n launch b

end Translates

/-- A relation of states that an access keeps: one that holds of a byte written, of a die's and of a TLB's change. -/
structure AccessClosed (R : State → State → Prop) : Prop where
  refl : ∀ s, R s s
  trans : ∀ s t u, R s t → R t u → R s u
  writePa : ∀ s k a b, R s (writePa s k a b)
  setDie : ∀ s d x, R s (setDie s d x)
  setTlb : ∀ s v l, R s (setTlb s v l)

namespace AccessClosed
variable {R : State → State → Prop} (h : AccessClosed R)
include h

theorem foldl {α : Type} {f : State → α → State} (hf : ∀ s a, R s (f s a)) (l : List α) (s : State) : R s (l.foldl f s) := by
  induction l generalizing s with
  | nil => exact h.refl s
  | cons a l ih => exact h.trans _ _ _ (hf s a) (ih _)

theorem writePas (bs : List Byte) (s : State) (k a : Nat) : R s (Machine.writePas s k a bs) := by
  induction bs generalizing s a with
  | nil => exact h.refl s
  | cons b bs ih => exact h.trans _ _ _ (h.writePa s k a b) (ih _ _)

theorem tableWord (s : State) (t a w : Nat) : R s (Machine.tableWord s t a w) :=
  h.trans _ _ _ (h.writePas _ _ _ _) (h.foldl (fun s d => h.setDie s d _) _ _)

theorem tlbOne (s : State) (v : Via) (t root va : Nat) : R s (Machine.tlbOne s v t root va) := by
  unfold Machine.tlbOne
  split
  · exact h.refl s
  · split
    · exact h.refl s
    · exact h.setTlb _ _ _

theorem markLeaf (s : State) (t : Nat) (x : Xl) (wr : Bool) : R s (Machine.markLeaf s t x wr).1 := by
  unfold Machine.markLeaf
  dsimp only
  generalize (if wr then 2 ^ 9 else 0) = d
  split
  · exact h.refl s
  · exact h.tableWord _ _ _ _

theorem walked {s : State} {v : Via} {t root va : Nat} {w : Want} {look : Nat → Nat × Nat} {wk : Walk} {r : State × Acc}
    (hr : Machine.walked s v t root va w look wk = some r) : R s r.1 := by
  unfold Machine.walked at hr
  split at hr
  · next x _ =>
    cases hr
    have hfill : R s (fillTlb (Machine.markLeaf s t x w.w).1 v t root va (Machine.markLeaf s t x w.w).2) :=
      h.trans _ _ _ (h.markLeaf _ _ _ _) (h.setTlb _ _ _)
    cases hv : v.at with
    | none => exact hfill
    | some c => exact h.trans _ _ _ hfill (h.setDie _ _ _)
  · cases hr

theorem access (s : State) (v : Via) (t root va : Nat) (w : Want) : R s (Machine.access s v t root va w).1 := by
  have hone := h.tlbOne s v t root va
  unfold Machine.access
  split
  · exact hone
  · dsimp only
    split
    · next r hr =>
      unfold walkStale at hr
      split at hr
      · cases hr
      · split at hr
        · cases hr
        · exact h.trans _ _ _ hone (h.walked hr)
    · cases hw : Machine.walked (Machine.tlbOne s v t root va) v t root va w
        (entryWords (Machine.tlbOne s v t root va) (tableKey (Machine.tlbOne s v t root va) t))
        (walk (Machine.tlbOne s v t root va) t root va) with
      | none => exact hone
      | some r => exact h.trans _ _ _ hone (h.walked hw)

end AccessClosed

theorem translates_setCore {s : State} {c : Nat} {x : Core} (h : x.l1 = (core s c).l1) : Translates s (setCore s c x) := by
  refine ⟨rfl, rfl, rfl, fun d => ?_⟩
  rw [core_setCore]
  split
  · next hd => rw [hd, h]
  · rfl

theorem translates_closed : AccessClosed Translates where
  refl := Translates.refl
  trans := fun _ _ _ => Translates.trans
  writePa := fun s k a b => by
    unfold writePa writeByte
    split
    · exact ⟨rfl, rfl, rfl, fun _ => rfl⟩
    · dsimp only
      split <;> exact ⟨rfl, rfl, rfl, fun _ => rfl⟩
  setDie := fun _ _ _ => ⟨rfl, rfl, rfl, fun _ => rfl⟩
  setTlb := fun s v l => by
    cases v with
    | fresh => exact Translates.refl s
    | core c => exact translates_setCore rfl
    | tile c => exact translates_setCore rfl

theorem translates_access (s : State) (v : Via) (t root va : Nat) (w : Want) : Translates s (access s v t root va w).1 :=
  translates_closed.access s v t root va w

theorem translates_laneCheck (s : State) (t : Task) (user : Bool) (op : MemOp) (la : LaneAcc) :
    Translates s (laneCheck s t user op la).1 := by
  unfold laneCheck
  split
  · exact Translates.refl s
  split
  · exact Translates.refl s
  split
  · exact Translates.refl s
  have hacc := translates_access s (.core t.core) t.tenant (rootOf s t) la.addr ⟨opReads op, opWrites op, false, user⟩
  split
  · next hr => rw [hr] at hacc; exact hacc
  · next hr => rw [hr] at hacc; exact hacc
  · next hr =>
    rw [hr] at hacc
    split <;> exact hacc

theorem translates_lanesCheck (t : Task) (user : Bool) (op : MemOp) (las : List LaneAcc) (s : State) :
    Translates s (lanesCheck s t user op las).1 := by
  induction las generalizing s with
  | nil => exact Translates.refl s
  | cons la las ih => exact (translates_laneCheck s t user op la).trans (ih _)

/-- A lane that goes on keeps its address and its operands. -/
theorem laneCheck_go {s s1 : State} {t : Task} {user : Bool} {op : MemOp} {la la1 : LaneAcc}
    (h : laneCheck s t user op la = (s1, .go la1)) :
    la1.addr = la.addr ∧ Translates s s1 := by
  have ht := translates_laneCheck s t user op la
  rw [h] at ht
  refine ⟨?_, ht⟩
  unfold laneCheck at h
  repeat' (split at h <;> try (cases h; rfl))
  all_goals cases h

/-! ### Addresses (R223) -/

theorem pair_eq_append (lo hi : Word) : BitVec.ofNat 64 (pair lo hi) = hi ++ lo := by
  refine BitVec.eq_of_toNat_eq ?_
  rw [BitVec.toNat_ofNat, BitVec.toNat_append, Nat.shiftLeft_eq, Nat.mul_comm, ← Nat.two_pow_add_eq_or_of_lt lo.isLt, pair]
  omega

theorem gaddr_eq_address (c : Ctx) (a : Reg) (off : SrcB) (i : Nat) : c.gaddr a off i = address c a off i := by
  have hoff : (c.b off i).signExtend 64 = BitVec.ofInt 64 (c.offset off i) := rfl
  have hpair : (c.ra a 1 i ++ c.ra a 0 i : BitVec 64) = BitVec.ofInt 64 (c.rpair a i) := by
    rw [BitVec.ofInt_natCast]; exact (pair_eq_append _ _).symm
  rw [address, hpair, hoff, ← BitVec.ofInt_add, BitVec.toNat_ofInt]
  rfl

end Sys2Proof.Machine
end
section
/-! PROOFS. Chain words: `chainp` sends its word, `chainw` goes on or blocks by the word at its home (R253 to R255). -/

namespace Sys2Proof.Machine

open Host

/-! ### Steps that leave tasks, CSRs and memory -/

/-- Tasks, CSRs and every byte of memory stay; writes on their way, caches and a tenant's records may not. -/
structure Beside (s t : State) : Prop where
  tasks : t.tasks = s.tasks
  csrs : SameCsrs s t
  memory : SameMemory s t

theorem CacheOnly.beside {s t : State} (h : CacheOnly s t) : Beside s t := ⟨h.tasks, h.csrs, h.memory⟩

namespace Beside
variable {s t u : State}

theorem refl (s : State) : Beside s s := (CacheOnly.refl s).beside

theorem trans (h : Beside s t) (k : Beside t u) : Beside s u :=
  ⟨k.tasks.trans h.tasks, fun n r => (k.csrs n r).trans (h.csrs n r), fun m a => (k.memory m a).trans (h.memory m a)⟩

theorem wakeAll (h : Beside s t) : Beside (wakeAll s) (wakeAll t) :=
  ⟨by rw [tasks_wakeAll, tasks_wakeAll, h.tasks], h.csrs, h.memory⟩

theorem group (h : Beside s t) (tid g : Nat) : Machine.group t tid g = Machine.group s tid g := by
  unfold Machine.group; rw [task_eq_of_tasks h.tasks]

theorem onlyGroupIn (h : Beside s t) (c : Ctx) : OnlyGroupIn s t c :=
  ⟨h.csrs, ⟨fun u _ => task_eq_of_tasks h.tasks u, fun j _ => h.group _ j⟩, by rw [task_eq_of_tasks h.tasks]⟩

end Beside

theorem onlyGroupIn_modGroup (s : State) (c : Ctx) (f : Group → Group) : OnlyGroupIn s (modGroup s c.tid c.g f) c := by
  obtain ⟨-, hcsrs, hgroups, htask, -⟩ := onlyGroup_modGroup s c.tid c.g f
  exact ⟨hcsrs, hgroups, htask⟩

theorem OnlyGroupIn.trans {s t u : State} {c : Ctx} (h : OnlyGroupIn s t c) (k : OnlyGroupIn t u c) : OnlyGroupIn s u c := by
  obtain ⟨hcsrs, ⟨hothers, hgroups⟩, htask⟩ := h
  obtain ⟨kcsrs, ⟨kothers, kgroups⟩, ktask⟩ := k
  exact ⟨fun n r => (kcsrs n r).trans (hcsrs n r), ⟨fun v hv => (kothers v hv).trans (hothers v hv),
    fun j hj => (kgroups j hj).trans (hgroups j hj)⟩, ktask.trans htask⟩

theorem beside_modTenant {s : State} {n : Nat} {f : Tenant → Tenant} (hf : ∀ x, (f x).csr = x.csr) :
    Beside s (modTenant s n f) := ⟨rfl, csrGet_modTenant_of_csr hf, fun _ _ => rfl⟩

/-- A trace's events stand in their tenant's queue of records only. -/
def tracedTenant (evs : List TrEvent) (x : Tenant) : Tenant := { x with trq := x.trq ++ evs }

theorem traceRead_eq (s : State) (t : Task) (la : LaneAcc) (va n : Nat) :
    traceRead s t la va n = s ∨ ∃ evs, traceRead s t la va n = modTenant s t.tenant (tracedTenant evs) := by
  unfold traceRead
  split
  · exact Or.inl rfl
  · split
    · exact Or.inl rfl
    · exact Or.inr ⟨_, rfl⟩

theorem traceWrite_eq (s : State) (t : Task) (la : LaneAcc) (va n : Nat) :
    traceWrite s t la va n = s ∨ ∃ evs, traceWrite s t la va n = modTenant s t.tenant (tracedTenant evs) := by
  unfold traceWrite
  split
  · exact Or.inl rfl
  · split
    · exact Or.inl rfl
    · exact Or.inr ⟨_, rfl⟩

theorem beside_tracedTenant (s : State) (n : Nat) (evs : List TrEvent) : Beside s (modTenant s n (tracedTenant evs)) :=
  beside_modTenant (f := tracedTenant evs) (fun _ => rfl)

theorem launches_modTenant {f : Tenant → Tenant} (hf : ∀ x, (f x).launches = x.launches) (s : State) (n k : Nat) :
    (tenant (modTenant s n f) k).launches = (tenant s k).launches := by
  rw [tenant_modTenant]
  split
  · next h => rw [hf, h]
  · rfl

theorem beside_traceRead (s : State) (t : Task) (la : LaneAcc) (va n : Nat) : Beside s (traceRead s t la va n) := by
  rcases traceRead_eq s t la va n with h | ⟨evs, h⟩ <;> rw [h]
  · exact Beside.refl s
  · exact beside_tracedTenant s _ evs

theorem beside_traceWrite (s : State) (t : Task) (la : LaneAcc) (va n : Nat) : Beside s (traceWrite s t la va n) := by
  rcases traceWrite_eq s t la va n with h | ⟨evs, h⟩ <;> rw [h]
  · exact Beside.refl s
  · exact beside_tracedTenant s _ evs

theorem launches_traceWrite (s : State) (t : Task) (la : LaneAcc) (va n k : Nat) :
    (tenant (traceWrite s t la va n) k).launches = (tenant s k).launches := by
  rcases traceWrite_eq s t la va n with h | ⟨evs, h⟩ <;> rw [h]
  exact launches_modTenant (f := tracedTenant evs) (fun _ => rfl) _ _ _

theorem wq_traceWrite (s : State) (t : Task) (la : LaneAcc) (va n : Nat) : (traceWrite s t la va n).wq = s.wq := by
  rcases traceWrite_eq s t la va n with h | ⟨evs, h⟩ <;> rw [h]
  rfl

/-- A launch that has published a block. -/
def publishedTenant (launch blk : Nat) (x : Tenant) : Tenant :=
  { x with launches := mmod x.launches launch (fun l => { l with published := insertNat blk l.published }) }

theorem publish_cases (s : State) (t : Task) : publish s t =
    if (detLaunch s t).isNone then s else modTenant s t.tenant (publishedTenant t.launch t.blk) := rfl

theorem beside_publish (s : State) (t : Task) : Beside s (publish s t) := by
  rw [publish_cases]
  split
  · exact Beside.refl s
  · exact beside_modTenant (f := publishedTenant t.launch t.blk) (fun _ => rfl)

theorem wq_publish (s : State) (t : Task) : (publish s t).wq = s.wq := by
  rw [publish_cases]
  split <;> rfl

/-! ### Lines read at their home (R81, R253) -/

theorem cacheOnly_dieRead (s : State) (d pa key : Nat) : CacheOnly s (dieRead s d pa key false).1 := by
  unfold dieRead
  dsimp only
  split
  · exact (cacheOnly_countReq s _ _).trans (cacheOnly_setDie _ _ _)
  · exact ((cacheOnly_countReq s _ _).trans (cacheOnly_setDie _ _ _)).trans (cacheOnly_setDie _ _ _)

theorem readPas_of_memory {s t : State} (h : SameMemory s t) (k pa n : Nat) : readPas t k pa n = readPas s k pa n :=
  List.map_congr_left (fun i _ => h k (pa + i))

theorem data_dieRead (s : State) (d pa key : Nat) :
    (dieRead s d pa key false).2 = readPas s key (pa / lineBytes * lineBytes) lineBytes := by
  unfold dieRead
  dsimp only
  split
  · exact readPas_of_memory (cacheOnly_countReq s _ _).memory _ _ _
  · exact readPas_of_memory ((cacheOnly_countReq s _ _).trans (cacheOnly_setDie _ _ _)).memory _ _ _

/-- Bytes that lie in one line are read as they stand at its home. -/
theorem data_homeRead (s : State) (d pa key : Nat) {n : Nat} (h : pa % lineBytes + n ≤ lineBytes) :
    (homeRead s d pa key n).2 = readPas s key pa n := by
  unfold homeRead
  dsimp only
  rw [data_dieRead]
  refine List.map_congr_left (fun i hi => ?_)
  have hn : i < n := List.mem_range.mp hi
  simp only [lineBytes] at h ⊢
  have hmod : (pa + i) % 128 = pa % 128 + i := by omega
  have hplace : pa / 128 * 128 + (pa % 128 + i) = pa + i := by omega
  rw [hmod, readPas, List.getD_eq_getElem?_getD, List.getElem?_map, List.getElem?_range (by omega), Option.map_some,
    Option.getD_some, hplace]

theorem leNat_readPas (s : State) (k pa n : Nat) : leNat (readPas s k pa n) = numAt s k pa n := by
  induction n generalizing pa with
  | zero => rfl
  | succ n ih =>
    have hstep : leNat (readPas s k pa (n + 1)) = (readPa s k pa).toNat + 256 * leNat (readPas s k (pa + 1) n) := by
      unfold readPas
      rw [List.range_succ_eq_map, List.map_cons, List.map_map, leNat]
      simp only [Nat.add_zero, Function.comp_def, Nat.succ_eq_add_one, Nat.add_assoc, Nat.add_comm 1]
    rw [hstep, ih]
    unfold numAt
    rw [List.range_succ_eq_map, List.map_cons, List.map_map, List.sum_cons, ← List.sum_map_mul_left]
    simp only [Nat.add_zero, pow_zero, mul_one, Function.comp_def, Nat.succ_eq_add_one, pow_succ, Nat.add_assoc, Nat.add_comm 1]
    congr 2
    refine List.map_congr_left (fun i _ => ?_)
    ring

theorem leBytes_eq_map (n w : Nat) : leBytes n w = (List.range n).map (fun j => BitVec.ofNat 8 (w / 256 ^ j)) := by
  induction n generalizing w with
  | zero => rfl
  | succ n ih =>
    rw [leBytes, ih, List.range_succ_eq_map, List.map_cons, List.map_map, pow_zero, Nat.div_one]
    refine congrArg _ (List.map_congr_left (fun j _ => ?_))
    rw [Function.comp, Nat.pow_succ', Nat.div_div_eq_div_mul]

theorem bytesAt_leBytes (pa n : Nat) (w : Word) :
    bytesAt pa (leBytes n w.toNat) = (List.range n).map (fun j => (pa + j, (w >>> (8 * j)).setWidth 8)) := by
  unfold bytesAt
  refine List.ext_getElem (by simp [leBytes_eq_map]) (fun j _ _ => ?_)
  have hbyte : BitVec.ofNat 8 (w.toNat / 256 ^ j) = (w >>> (8 * j)).setWidth 8 := by
    refine BitVec.eq_of_toNat_eq ?_
    rw [BitVec.toNat_ofNat, BitVec.toNat_setWidth, BitVec.toNat_ushiftRight, Nat.shiftRight_eq_div_pow, Nat.pow_mul]
  simp [leBytes_eq_map, hbyte]

/-! ### The chain word's access (R253, R254, R463) -/

theorem exec_chainp (h : Hdr) (a : Reg) (off : SrcB) (v : SrcC) (scope : Scope) (s : State) :
    exec (.chainp h a off v scope) s = execChainp h a off v scope s := rfl
theorem exec_chainw (h : Hdr) (a : Reg) (off : SrcB) (v : SrcC) (scope : Scope) (ge : Bool) (s : State) :
    exec (.chainw h a off v scope ge) s = execChainw h a off v scope ge s := rfl

theorem chainAccess_go {c : Ctx} {s s1 : State} {a : Reg} {off : SrcB} {op : MemOp} {la : LaneAcc} (k : State → LaneAcc → Res)
    (hq : Quiet c.grp)
    (hcheck : laneCheck s c.task c.user op (laneAcc (lowest c.act) (address c a off (lowest c.act)) (address c a off (lowest c.act)) 0 [])
      = (s1, .go la)) (hord : la.ordsh = false) (hmap : mapHolds s1 la.pa = false) :
    chainAccess c s a off op k = k s1 la := by
  have hlog : ∀ pages, logHolds c.grp pages = false := fun pages => by simp [logHolds, oplog_of_quiet hq]
  unfold chainAccess
  simp only [gaddr_eq_address, hlog, Ctx.lead, hcheck, hord, hmap, Bool.false_eq_true, if_false]

theorem blockRelease_of_settled {s : State} {t : Task} (h : detLaunch s t ≠ none → BlockDrained s t) : blockRelease s t = s := by
  by_cases hl : detLaunch s t = none
  · simp [blockRelease, hl]
  · exact blockRelease_of_drained (h hl)

theorem blockSettled_of_settled {s : State} {t : Task} (h : detLaunch s t ≠ none → BlockDrained s t) : blockSettled s t = true := by
  by_cases hl : detLaunch s t = none
  · simp [blockSettled, hl]
  · exact blockSettled_of_drained (h hl)

/-- The state in which the word of `chainp` is on its way to its home port. -/
def chainSent (s : State) (c : Ctx) (la : LaneAcc) (w : Word) (scope : Scope) : State :=
  let s3 := traceWrite (relDone s c.task.core scope) c.task la la.addr 4
  sendWrite (countReq s3 (dieOf c.task.core) la.pa) (dieOf c.task.core) la.key c.ten (la.pa / lineBytes)
    (bytesAt la.pa (leBytes 4 w.toNat)) none (laneGrans s3 c.task la la.addr 4)

theorem beside_chainSent (s : State) (c : Ctx) (la : LaneAcc) (w : Word) (scope : Scope) : Beside s (chainSent s c la w scope) :=
  (cacheOnly_relDone s _ _).beside.trans ((beside_traceWrite _ _ _ _ _).trans
    ((cacheOnly_countReq _ _ _).trans (cacheOnly_sendWriteErr _ _ _ _ _ _ _ _ _)).beside)

theorem launches_chainSent (s : State) (c : Ctx) (la : LaneAcc) (w : Word) (scope : Scope) (n : Nat) :
    (tenant (chainSent s c la w scope) n).launches = (tenant s n).launches := by
  have hsend := ((cacheOnly_countReq (traceWrite (relDone s c.task.core scope) c.task la la.addr 4) (dieOf c.task.core) la.pa).trans
    (cacheOnly_sendWriteErr _ (dieOf c.task.core) la.key c.ten (la.pa / lineBytes) (bytesAt la.pa (leBytes 4 w.toNat)) none
      (laneGrans (traceWrite (relDone s c.task.core scope) c.task la la.addr 4) c.task la la.addr 4) [])).tens
  have hten : tenant (chainSent s c la w scope) n = tenant (traceWrite (relDone s c.task.core scope) c.task la la.addr 4) n := by
    unfold tenant
    exact congrArg (fun m => mgetD (Tenant.reset false) m n) hsend
  have hrel : tenant (relDone s c.task.core scope) n = tenant s n := by
    unfold tenant
    rw [(cacheOnly_relDone s _ _).tens]
  rw [hten, launches_traceWrite, hrel]

theorem wq_countReq (s : State) (d pa : Nat) : (countReq s d pa).wq = s.wq := by
  unfold countReq
  split <;> rfl

theorem wq_chainSent {s : State} (hwq : s.wq = []) (c : Ctx) (la : LaneAcc) (w : Word) (scope : Scope) :
    (chainSent s c la w scope).wq.map Wr.view = [(dieOf c.task.core, la.key, c.task.tenant, la.pa / lineBytes,
      (List.range 4).map (fun j => (la.pa + j, (w >>> (8 * j)).setWidth 8)), none)] := by
  have hold : (countReq (traceWrite (relDone s c.task.core scope) c.task la la.addr 4) (dieOf c.task.core) la.pa).wq = [] := by
    rw [wq_countReq, wq_traceWrite, wq_relDone, hwq]
  unfold chainSent sendWrite sendWriteErr
  dsimp only
  rw [show ∀ (x : State) (d : Nat) (y : Die), (setDie x d y).wq = x.wq from fun _ _ _ => rfl, hold, bytesAt_leBytes]
  rfl

/-- What `chainp` does once its word may be sent. -/
theorem chainp_next {h : Hdr} {a : Reg} {off : SrcB} {v : SrcC} {scope : Scope} {s s1 : State} {c : Ctx} {la : LaneAcc}
    (he : Executes s c h off.len (⟨h.u, a, 2⟩ :: (useB h.u off 1 ++ useC h.u v 1))) (hq : Quiet c.grp)
    (hd : Drained s1 c.task.core) (hmap : mapHolds s1 la.pa = false)
    (hcheck : laneCheck s c.task c.user (.store .b32 true) (laneAcc (lowest c.act) (address c a off (lowest c.act))
      (address c a off (lowest c.act)) 0 []) = (s1, .go la)) (hord : la.ordsh = false)
    (hline : ∀ p ∈ (core s1 c.task.core).l1, lineOfKey p.1 ≠ la.pa / lineBytes)
    (hblock : detLaunch s1 c.task ≠ none → BlockDrained s1 c.task) :
    let t := wakeAll (publish (chainSent s1 c la (c.c v (lowest c.act)) (pubScope s1 c.task scope)) c.task)
    exec (.chainp h a off v scope) s = .next (modGroup t c.tid c.g (c.stepped (fairOn t c.ten))) := by
  have hflush : flushLine (relDone s1 c.task.core (pubScope s1 c.task scope)) c.task.core la.pa =
      relDone s1 c.task.core (pubScope s1 c.task scope) := by
    refine flushLine_of_absent ?_
    cases pubScope s1 c.task scope with
    | group => exact hline
    | block => exact hline
    | _ => simp [relDone]
  have hahead : ∀ spans, loadAhead c.grp spans = false := fun spans => by simp [loadAhead, hq.1]
  rw [exec_chainp]
  refine run_ok (writes := []) (by simpa using he) ?_
  rw [chainAccess_go _ hq hcheck hord hmap]
  simp only [relAct_of_clean hd.1, blockRelease_of_settled hblock, relReady_of_quiet hq hd.2, blockSettled_of_settled hblock,
    hahead, hflush, Bool.not_true, Bool.or_self, Bool.false_eq_true, if_false]
  rfl

theorem launches_publish {s : State} {t : Task} {l : Launch} (hl : detLaunch s t = some l)
    {x : Launch} (hx : mget (tenant s t.tenant).launches t.launch = some x) :
    mget (tenant (publish s t) t.tenant).launches t.launch = some { x with published := insertNat t.blk x.published } := by
  rw [publish_cases, hl, if_neg (by simp), tenant_modTenant, if_pos rfl]
  simp [publishedTenant, hx]

theorem chainp_holds {h : Hdr} {a : Reg} {off : SrcB} {v : SrcC} {scope : Scope} {s s1 : State} {c : Ctx} {la : LaneAcc}
    (he : Executes s c h off.len (⟨h.u, a, 2⟩ :: (useB h.u off 1 ++ useC h.u v 1))) (hq : Quiet c.grp)
    (hd : Drained s1 c.task.core) (hmap : mapHolds s1 la.pa = false) (hkept : Translates s s1)
    (hcheck : laneCheck s c.task c.user (.store .b32 true) (laneAcc (lowest c.act) (address c a off (lowest c.act))
      (address c a off (lowest c.act)) 0 []) = (s1, .go la)) (hord : la.ordsh = false)
    (hline : ∀ p ∈ (core s1 c.task.core).l1, lineOfKey p.1 ≠ la.pa / lineBytes)
    (hblock : detLaunch s1 c.task ≠ none → BlockDrained s1 c.task) :
    ∃ t x, exec (.chainp h a off v scope) s = .next t ∧ OnlyGroupIn (wakeAll s1) t c ∧ SameMemory s1 t ∧
      group t c.tid c.g = some x ∧ Advanced c x ∧ SameRegs c x ∧ SamePreds c x ∧
      t.wq.map Wr.view = [(dieOf c.task.core, la.key, c.task.tenant, la.pa / lineBytes,
        (List.range 4).map (fun j => (la.pa + j, ((c.c v (lowest c.act)) >>> (8 * j)).setWidth 8)), none)] ∧
      ∀ l, detLaunch s c.task = some l → ∃ l1, mget (tenant t c.task.tenant).launches c.task.launch = some l1 ∧
        c.task.blk ∈ l1.published ∧ { l1 with published := l.published } = l := by
  obtain ⟨-, -, -, -, -, hg, -⟩ := group_of_bundle he.1.2
  have hnext := chainp_next (scope := scope) he hq hd hmap hcheck hord hline hblock
  obtain ⟨w, hw⟩ : ∃ w, w = c.c v (lowest c.act) := ⟨_, rfl⟩
  rw [← hw] at hnext ⊢
  obtain ⟨sent, hsent⟩ : ∃ t, t = chainSent s1 c la w (pubScope s1 c.task scope) := ⟨_, rfl⟩
  have hbeside : Beside s1 (publish sent c.task) := by
    rw [hsent]; exact (beside_chainSent _ _ _ _ _).trans (beside_publish _ _)
  have hx : group (wakeAll (publish sent c.task)) c.tid c.g = some c.grp.woken := by
    rw [group_wakeAll, hbeside.group, hkept.group, hg]; rfl
  rw [← hsent] at hnext
  refine ⟨_, _, hnext, (hbeside.wakeAll.onlyGroupIn c).trans (onlyGroupIn_modGroup _ c _), hbeside.memory,
    group_modGroup_some _ hx, stepped_advanced c _ _ rfl rfl (fun _ hn => hn), fun r i _ => ?_, fun p => stepped_pred c _ _ p, ?_,
    fun l hl => ?_⟩
  · rw [stepped_reg]
    cases r <;> rfl
  · have hwq : (publish sent c.task).wq = sent.wq := wq_publish _ _
    show (publish sent c.task).wq.map Wr.view = _
    rw [hwq, hsent, wq_chainSent hd.2]
  · obtain ⟨hprop, hlaunch, hdet⟩ := of_detLaunch hl
    have hold : mget (tenant sent c.task.tenant).launches c.task.launch = some l := by
      rw [hsent, launches_chainSent, hkept.tenant, hlaunch]
    have hsentDet : detLaunch sent c.task = some l := by
      unfold detLaunch
      rw [hold]
      simp [hprop, hdet]
    exact ⟨_, launches_publish hsentDet hold, mem_insertNat.mpr (Or.inl rfl), rfl⟩

/-! ### Waiting for the word -/

theorem chainHolds_eq (word w : Word) (ge : Bool) :
    chainHolds word w ge = true ↔ if ge then (word - w).toNat < 2 ^ 31 else word = w := by
  cases ge <;> simp [chainHolds]

theorem chainRead_settled {s : State} {c : Ctx} {la : LaneAcc} (hwq : s.wq = []) (hreds : redsDue s (la.pa / lineBytes) = false)
    (hmap : mapHolds s la.pa = false) (hline : ∀ p ∈ (core s c.task.core).l1, lineOfKey p.1 ≠ la.pa / lineBytes)
    (hfit : la.pa % lineBytes + 4 ≤ lineBytes) :
    ∃ s1 st, Beside s s1 ∧ ∃ s3, Beside (noteSeen s1 c.tid c.g st) s3 ∧
      chainRead s c.tid c.g c.task la = some (s3, BitVec.ofNat 32 (numAt s la.key la.pa 4)) := by
  have hhome : CacheOnly s (homeRead s (dieOf c.task.core) la.pa la.key 4).1 := cacheOnly_dieRead s _ _ _
  refine ⟨_, lineStamp (homeRead s (dieOf c.task.core) la.pa la.key 4).1 (la.pa / lineBytes), hhome.beside, _,
    beside_traceRead _ c.task la la.addr 4, ?_⟩
  have hpend : wrPending s (dieOf c.task.core) (la.pa / lineBytes) = false := by simp [wrPending, hwq]
  have hword := (congrArg leNat (data_homeRead s (dieOf c.task.core) la.pa la.key hfit)).trans (leNat_readPas s la.key la.pa 4)
  unfold chainRead
  rw [hpend, hreds, hmap, flushLine_of_absent hline]
  simp only [Bool.or_self, Bool.false_eq_true, if_false, hword]

theorem chainw_goes_on {h : Hdr} {a : Reg} {off : SrcB} {v : SrcC} {scope : Scope} {ge : Bool} {s s1 : State} {c : Ctx}
    {la : LaneAcc} (he : Executes s c h off.len (⟨h.u, a, 2⟩ :: (useB h.u off 1 ++ useC h.u v 1))) (hq : Quiet c.grp)
    (hwq : s1.wq = []) (hmap : mapHolds s1 la.pa = false) (hkept : Translates s s1)
    (hcheck : laneCheck s c.task c.user (.load 0 false .b32 false true false) (laneAcc (lowest c.act)
      (address c a off (lowest c.act)) (address c a off (lowest c.act)) 0 []) = (s1, .go la)) (hord : la.ordsh = false)
    (hfit : la.pa % lineBytes + 4 ≤ lineBytes)
    (hline : ∀ p ∈ (core s1 c.task.core).l1, lineOfKey p.1 ≠ la.pa / lineBytes) (hreds : redsDue s1 (la.pa / lineBytes) = false)
    (hsat : chainHolds (BitVec.ofNat 32 (numAt s1 la.key la.pa 4)) (c.c v (lowest c.act)) ge = true) :
    ∃ t x, exec (.chainw h a off v scope ge) s = .next t ∧ OnlyGroupIn s1 t c ∧ SameMemory s1 t ∧ group t c.tid c.g = some x ∧
      Moved c x ∧ SameRegs c x ∧ SamePreds c x ∧ { x.rest with seen := c.grp.seen } = c.grp.rest ∧
      AcquiredSeen t c.task.core scope x.seen := by
  obtain ⟨-, -, -, -, -, hg, -⟩ := group_of_bundle he.1.2
  obtain ⟨s2, st, hs2, s3, hs3, hread⟩ := chainRead_settled hwq hreds hmap hline hfit
  have hacq := cacheOnly_acqSeen s3 c.tid c.g c.task.core scope
  have hseen : group s3 c.tid c.g = some { c.grp with seen := maxStamp c.grp.seen st } := by
    rw [hs3.group]
    exact group_modGroup_some _ ((hs2.group _ _).trans ((hkept.group _ _).trans hg))
  have hx : group (acqSeen s3 c.tid c.g c.task.core scope) c.tid c.g = some { c.grp with seen := maxStamp c.grp.seen st } :=
    (hacq.group _ _).trans hseen
  have honly : OnlyGroupIn s1 (acqSeen s3 c.tid c.g c.task.core scope) c :=
    (hs2.onlyGroupIn c).trans ((onlyGroupIn_modGroup s2 c _).trans ((hs3.trans hacq.beside).onlyGroupIn c))
  rw [exec_chainw]
  refine ⟨_, _, run_ok (s1 := acqSeen s3 c.tid c.g c.task.core scope) (writes := []) (by simpa using he) ?_,
    honly.trans (onlyGroupIn_modGroup _ c _), ?_, group_modGroup_some _ hx, moved_stepped c _ rfl (fun _ hn => hn),
    fun r i _ => stepped_reg c _ _ r i, fun p => stepped_pred c _ _ p, ?_, ?_⟩
  · rw [chainAccess_go _ hq hcheck hord hmap]
    simp only [flushLine_of_absent hline, acqReady_of_quiet hq, Ctx.lead, hread, hsat, Bool.not_true, Bool.false_eq_true, if_false,
      if_true]
  · exact fun k pa => (hacq.memory k pa).trans ((hs3.memory k pa).trans (hs2.memory k pa))
  · rw [rest_stepped]
    rfl
  · have hstamp := fun (fair : Bool) (y : Group) => congrArg Group.seen (rest_stepped c fair y)
    simp only [Group.rest] at hstamp
    rw [hstamp]
    exact acquiredSeen_acqSeen hseen c.task.core scope

theorem chainw_blocks {h : Hdr} {a : Reg} {off : SrcB} {v : SrcC} {scope : Scope} {ge : Bool} {s s1 : State} {c : Ctx}
    {la : LaneAcc} (he : Executes s c h off.len (⟨h.u, a, 2⟩ :: (useB h.u off 1 ++ useC h.u v 1))) (hq : Quiet c.grp)
    (hwq : s1.wq = []) (hmap : mapHolds s1 la.pa = false) (hkept : Translates s s1)
    (hcheck : laneCheck s c.task c.user (.load 0 false .b32 false true false) (laneAcc (lowest c.act)
      (address c a off (lowest c.act)) (address c a off (lowest c.act)) 0 []) = (s1, .go la)) (hord : la.ordsh = false)
    (hfit : la.pa % lineBytes + 4 ≤ lineBytes)
    (hline : ∀ p ∈ (core s1 c.task.core).l1, lineOfKey p.1 ≠ la.pa / lineBytes) (hreds : redsDue s1 (la.pa / lineBytes) = false)
    (hsat : chainHolds (BitVec.ofNat 32 (numAt s1 la.key la.pa 4)) (c.c v (lowest c.act)) ge = false) :
    ∃ t x, exec (.chainw h a off v scope ge) s = .next t ∧ OnlyGroupIn s1 t c ∧ SameMemory s1 t ∧ group t c.tid c.g = some x ∧
      SameRegs c x ∧ SamePreds c x ∧ Blocks c x (.chain (address c a off (lowest c.act)) (c.c v (lowest c.act)) ge scope) := by
  obtain ⟨-, -, -, -, -, hg, -⟩ := group_of_bundle he.1.2
  obtain ⟨s2, st, hs2, s3, hs3, hread⟩ := chainRead_settled hwq hreds hmap hline hfit
  have haddr : la.addr = address c a off (lowest c.act) := (laneCheck_go hcheck).1
  rw [exec_chainw]
  refine ⟨_, _, run_block (s1 := s1) (writes := []) (by simpa using he) ?_, onlyGroupIn_modGroup s1 c _, fun _ _ => rfl,
    group_modGroup_some _ ((hkept.group _ _).trans hg), fun r i _ => reg_blocked _ _ _ _ _, fun p => pred_blocked _ _ _ _,
    blocks_blocked c _⟩
  rw [chainAccess_go _ hq hcheck hord hmap]
  simp only [flushLine_of_absent hline, acqReady_of_quiet hq, Ctx.lead, hread, hsat, haddr, Bool.not_true, Bool.false_eq_true,
    if_false]

/-- Settles O37: a chain word whose access is allowed, sent to its port or read at its home. -/
theorem chains : Obligations.Chains := by
  unfold Obligations.Chains
  intro h a off v scope ge s s1 c la he hq hd va w hmap
  refine ⟨fun hcheck hord hline hblock => ?_, fun hcheck hord hfit hline hreds => ?_⟩
  · have hkept := (laneCheck_go hcheck).2
    refine chainp_holds he hq (hkept.drained hd) hmap hkept hcheck hord hline (fun hl u hu => ?_)
    rw [hkept.detLaunch] at hl
    rw [hkept.blockTasks] at hu
    obtain ⟨hdrained, hquiet⟩ := hblock hl u hu
    exact ⟨hkept.drained hdrained, hquiet⟩
  · have hkept := (laneCheck_go hcheck).2
    have hwq := (hkept.drained hd).2
    intro word
    by_cases hsat : chainHolds word w ge = true
    · rw [if_pos ((chainHolds_eq word w ge).mp hsat)]
      exact chainw_goes_on he hq hwq hmap hkept hcheck hord hfit hline hreds hsat
    · rw [if_neg (fun hh => hsat ((chainHolds_eq word w ge).mpr hh))]
      exact chainw_blocks he hq hwq hmap hkept hcheck hord hfit hline hreds (Bool.eq_false_iff.mpr hsat)

end Sys2Proof.Machine
end
section
/-! PROOFS. Loads that issue (R57, R223 to R233). -/

namespace Sys2Proof.Machine

open Host

theorem exec_ld (h : Hdr) (d a : Reg) (off : SrcB) (sz : Size) (sx home : Bool) (s : State) :
    exec (.ld h d a off sz sx home) s = execLd h d a off sz sx home s := rfl
theorem exec_ldx (h : Hdr) (d a : Reg) (off : SrcB) (idx : SrcC) (f : Fmt) (g : Geom) (s : State) :
    exec (.ldx h d a off idx f g) s = execLdx h d a off idx f g s := rfl
theorem exec_ldc (h : Hdr) (d a : Reg) (off : SrcB) (sz : Size) (sx : Bool) (s : State) :
    exec (.ldc h d a off sz sx) s = execLdc h d a off sz sx s := rfl

/-! ### Lanes whose checks all pass -/

theorem lanes_ne_nil {c : Ctx} (h : c.act ≠ 0) : c.lanes ≠ [] := by
  unfold Ctx.lanes
  split
  · simp
  · intro hnil
    refine h (BitVec.eq_of_getLsbD_eq (fun i hi => ?_))
    have hnot : i ∉ lanesOf c.act := by rw [hnil]; exact List.not_mem_nil
    rw [mem_lanesOf, has] at hnot
    simpa using hnot

section
variable {accs las : List LaneAcc}

theorem laneTrap_zip_go : laneTrap (accs.zip (las.map LaneOut.go)) = none := by
  unfold laneTrap
  dsimp only
  split
  · rfl
  · next b bs hbads =>
    obtain ⟨p, hp, hb⟩ := List.mem_filterMap.mp (hbads ▸ List.mem_cons_self (a := b) (l := bs))
    obtain ⟨la, -, hla⟩ := List.mem_map.mp (List.of_mem_zip hp).2
    rw [← hla] at hb
    cases hb

theorem servedLanes_zip_go : servedLanes (accs.zip (las.map LaneOut.go)) = [] := by
  unfold servedLanes
  rw [List.filterMap_eq_nil_iff]
  intro p hp
  obtain ⟨la, -, hla⟩ := List.mem_map.mp (List.of_mem_zip hp).2
  rw [← hla]

theorem goLanes_zip_go (h : las.length = accs.length) : goLanes (accs.zip (las.map LaneOut.go)) = las := by
  induction las generalizing accs with
  | nil => simp [goLanes]
  | cons la las ih =>
    cases accs with
    | nil => simp at h
    | cons acc accs =>
      have := ih (accs := accs) (by simpa using h)
      unfold goLanes at this ⊢
      rw [List.map_cons, List.zip_cons_cons, List.filterMap_cons, this]

end

theorem cacheOnly_flushLanes (s : State) (c : Nat) (op : MemOp) (las : List LaneAcc) : CacheOnly s (flushLanes s c op las) := by
  refine CacheOnly.foldl (fun s la => ?_) las s
  split
  · exact CacheOnly.foldl (fun s (p : Nat × Nat) => cacheOnly_flushLine s c p.1) _ s
  · exact CacheOnly.refl s

/-! ### Loads that issue (R57, R223 to R233) -/

/-- A group whose one outstanding load is this. -/
def Group.loading (id : Nat) (l : LoadRec) (x : Group) : Group := { x with loads := joinLoad x.loads id l }

/-- The state in which a load has issued: the lines it reads at the port have left the L1, and its record stands. -/
def loadIssued (s : State) (c : Ctx) (op : MemOp) (las : List LaneAcc) : State :=
  modGroup { flushLanes s c.task.core op las with serial := (flushLanes s c.task.core op las).serial + 1 } c.tid c.g
    (Group.loading (flushLanes s c.task.core op las).serial { op := op, act := c.act, lanes := las, vals := [] })

/-- The form of an access that only loads. -/
def MemOp.isLoad : MemOp → Bool
  | .load _ _ _ _ _ _ => true
  | .loadx _ _ _ _ => true
  | _ => false

theorem kind_of_isLoad {op : MemOp} (h : op.isLoad = true) :
    opOrder op = (.group, .relaxed) ∧ opWrites op = false ∧ opOrdWrites op = false ∧ opAtPort op = false ∧ opCountsLd op = true := by
  cases op with
  | load d u sz sx home const => exact ⟨rfl, rfl, rfl, rfl, rfl⟩
  | loadx d u f g => exact ⟨rfl, rfl, rfl, rfl, rfl⟩
  | _ => cases h

theorem perform_load {op : MemOp} {las : List LaneAcc} (h : op.isLoad = true) (hne : las ≠ []) (s : State) (tid g : Nat) (t : Task)
    (id : Nat) (act : Lanes) :
    perform s tid g t op id act las = modGroup s tid g (Group.loading id { op := op, act := act, lanes := las, vals := [] }) := by
  unfold perform
  rw [if_neg (by simpa using hne)]
  cases op with
  | load d u sz sx home const => rfl
  | loadx d u f g => rfl
  | _ => cases h

/-- A load whose lanes all pass their checks issues, where nothing of its group is outstanding. -/
theorem gmem_load {c : Ctx} {s s1 : State} {op : MemOp} {accs las : List LaneAcc} (hop : op.isLoad = true) (hq : Quiet c.grp)
    (hgo : Granted s c op accs s1 las) (hmap : ∀ la ∈ las, mapHolds s la.pa = false)
    (hord : opOrdReads op = true → (∃ la ∈ las, la.ordsh = true) → lowerPublished s c.task = true) (hne : las ≠ []) :
    gmem c s op accs = .ok (loadIssued s1 c op las) := by
  obtain ⟨hcheck, hlen⟩ := hgo
  have hlog : logHolds c.grp (accs.map (fun la => la.addr / 2 ^ 12)) = false := by simp [logHolds, oplog_of_quiet hq]
  have hld : ldCount c.grp = 0 := by simp [ldCount, hq.1, oplog_of_quiet hq]
  have hst : stCount c.grp = 0 := by simp [stCount, hq.2.1, oplog_of_quiet hq]
  have hmaps : las.any (fun la => mapHolds s la.pa) = false := List.any_eq_false.mpr (fun la hla => by simp [hmap la hla])
  have hlower : (las.any (·.ordsh) && opOrdReads op && !lowerPublished s c.task) = false := by
    by_cases hany : las.any (·.ordsh) = true
    · by_cases hreads : opOrdReads op = true
      · simp [hord hreads (List.any_eq_true.mp hany)]
      · simp [hreads]
    · simp [hany]
  obtain ⟨horder, hnowrite, hnoord, hnoport, hcounts⟩ := kind_of_isLoad hop
  unfold gmem
  simp only [hld, hst, hlog, hcheck, laneTrap_zip_go, goLanes_zip_go hlen, servedLanes_zip_go, hmaps, hlower, horder, hnowrite, hnoord,
    hnoport, hcounts, perform_load hop hne]
  simp [ordRel, ordAcq]
  rfl

/-- Every load is an access of its lanes at their addresses. -/
theorem exec_load {i : Instr} {q : Access} (h : loadOf i = some q) (s : State) :
    exec i s = run q.h q.len q.reads q.writes (fun c s => gmem c s q.op (q.accs c)) s := by
  unfold loadOf at h
  split at h
  case h_4 => cases h
  all_goals
    cases h
    simp only [exec_ld, exec_ldc, exec_ldx, execLd, execLdc, execLdx, elemAcc, plainAccs, elemAccs, gaddr_eq_address]

theorem isLoad_of_loadOf {i : Instr} {q : Access} (h : loadOf i = some q) : q.op.isLoad = true := by
  unfold loadOf at h
  split at h
  case h_4 => cases h
  all_goals
    cases h
    rfl

theorem dests_of_loadOf {i : Instr} {q : Access} (h : loadOf i = some q) : q.op.dests = q.writes.flatMap Use.regs := by
  unfold loadOf at h
  split at h
  case h_4 => cases h
  all_goals
    cases h
    rfl

theorem length_accs_of_loadOf {i : Instr} {q : Access} (h : loadOf i = some q) (c : Ctx) : (q.accs c).length = c.lanes.length := by
  unfold loadOf at h
  split at h
  case h_4 => cases h
  all_goals
    cases h
    exact List.length_map _

theorem loggedOps_rest (x : Group) : x.rest.loggedOps = x.loggedOps := by
  unfold Group.loggedOps Group.rest
  cases x.trap <;> rfl

theorem pendRegs_rest (x : Group) : x.rest.pendRegs = x.pendRegs := by
  unfold Group.pendRegs
  rw [loggedOps_rest]
  rfl

/-- Settles O23: the load's lanes all pass, so its record stands with no data yet, and its bundle advances. -/
theorem loadsIssue : Obligations.LoadsIssue := by
  unfold Obligations.LoadsIssue
  intro i q s s1 c las hi he hq hgo hmap hord
  obtain ⟨-, -, -, -, -, hg, -⟩ := group_of_bundle he.1.2
  have hlen : las.length = c.lanes.length := hgo.2.trans (length_accs_of_loadOf hi c)
  have hne : las ≠ [] := fun hnil => lanes_ne_nil he.2.2 (List.length_eq_zero_iff.mp (by rw [← hlen, hnil]; rfl))
  have hkept : Translates s s1 := by
    have := translates_lanesCheck c.task c.user q.op (q.accs c) s
    rwa [hgo.1] at this
  obtain ⟨s2, hs2⟩ : ∃ s2, s2 = { flushLanes s1 c.task.core q.op las with serial := (flushLanes s1 c.task.core q.op las).serial + 1 } :=
    ⟨_, rfl⟩
  have hcache : CacheOnly s1 s2 := by rw [hs2]; exact (cacheOnly_flushLanes s1 _ _ _).trans rfl
  obtain ⟨n, hn⟩ : ∃ n, n = (flushLanes s1 c.task.core q.op las).serial := ⟨_, rfl⟩
  obtain ⟨y, hy⟩ : ∃ y, y = Group.loading n { op := q.op, act := c.act, lanes := las, vals := [] } c.grp := ⟨_, rfl⟩
  have hloads : y.loads = [(n, { op := q.op, act := c.act, lanes := las, vals := [] })] := by
    rw [hy, Group.loading, hq.1]; rfl
  have hissued : loadIssued s1 c q.op las = modGroup s2 c.tid c.g (Group.loading n { op := q.op, act := c.act, lanes := las, vals := [] }) := by
    rw [hs2, hn]; rfl
  have hx : group (loadIssued s1 c q.op las) c.tid c.g = some y := by
    rw [hissued, hy]
    exact group_modGroup_some _ ((hcache.group _ _).trans ((hkept.group _ _).trans hg))
  have hrest := fun fair => rest_stepped c fair y
  rw [exec_load hi]
  refine ⟨_, c.stepped (fairOn (loadIssued s1 c q.op las) c.ten) y, n,
    run_ok he (gmem_load (isLoad_of_loadOf hi) hq hgo hmap hord hne), ?_, ?_, group_modGroup_some _ hx,
    moved_stepped c _ (by rw [hy]; rfl) (by rw [hy]; exact fun _ hn => hn), fun r i _ => ?_, fun p => ?_, ?_, fun r => ?_, ?_⟩
  · rw [hissued]
    exact (hcache.beside.onlyGroupIn c).trans ((onlyGroupIn_modGroup s2 c _).trans (onlyGroupIn_modGroup _ c _))
  · rw [hissued]
    exact hcache.memory
  · rw [stepped_reg, hy]
    cases r <;> rfl
  · rw [stepped_pred, hy]
    rfl
  · exact (congrArg Group.loads (hrest _)).trans hloads
  · rw [← pendRegs_rest, hrest, pendRegs_rest]
    have hlogged : y.loggedOps = [] := by rw [hy]; exact hq.2.2
    simp [Group.pendRegs, hloads, hlogged, dests_of_loadOf hi]
  · rw [hrest, hy]
    have hold : c.grp.rest.loads = [] := hq.1
    rw [← hold]
    rfl

end Sys2Proof.Machine
end
section
/-! PROOFS. What the device holds at reset. -/

namespace Sys2Proof.Machine

open Host

theorem reset_eq : Sys2Proof.core.reset = State.reset := rfl

theorem csrGet_reset (n r : Nat) : csrGet State.reset n r = csrReset r := by
  have hcsr : (tenant State.reset n).csr = [] := by
    by_cases h : n = 0 <;> simp [tenant, State.reset, mgetD, mget, h, Tenant.reset]
  rw [csrGet, hcsr]; rfl

theorem csrReset_eq (r : Nat) : csrReset r = if r = 0x020 then 3 else if r = 0x021 then 0x100 else if r = 0x022 then 0x1A else
    if r = 0x051 then 0x33F else if r = 0x085 then 0x10000 else 0 := by
  unfold csrReset
  split <;> simp_all

theorem fregGet_reset (n o : Nat) : fregGet State.reset n o = 0 := by
  have hfreg : (tenant State.reset n).freg = [] := by
    by_cases h : n = 0 <;> simp [tenant, State.reset, mgetD, mget, h, Tenant.reset]
  rw [fregGet, hfreg]; rfl

/-- A management register that nothing has written holds its reset value. -/
theorem mregGet_reset (o : Nat) : mregGet State.reset o = mregReset o := rfl

theorem mregReset_matrix {r i : Nat} (hr : r < 16) (hi : i < 32) :
    mregReset (0x100 + 128 * r + 4 * i) = BitVec.ofNat 32 (matrixRow i) := by
  have hin : 0x100 ≤ 0x100 + 128 * r + 4 * i ∧ 0x100 + 128 * r + 4 * i < 0x900 := by omega
  have hrow : (0x100 + 128 * r + 4 * i - 0x100) / 4 % 32 = i := by omega
  rw [mregReset, if_pos hin, hrow]

theorem mregReset_stack {k : Nat} (hk : k < 8) :
    mregReset (0xB00 + 4 * k) = 0x400 ∧ mregReset (0xB20 + 4 * k) = 0 := by
  revert k; decide

theorem islandState_reset {i : Nat} (hi : i < 24) : islandState State.reset i = 0 := by
  revert i; decide

/-- Settles O60: every register is read at its reset value, family by family. -/
theorem resetState : Obligations.ResetState := by
  unfold Obligations.ResetState
  rw [reset_eq]
  refine ⟨rfl, rfl, reset_memoriesWf.1, reset_memoriesWf.2, rfl, rfl, fun n r => ?_, fregGet_reset,
    fun i => islandState_reset, fun k hk => mregReset_stack hk, rfl, rfl, fun r i hr hi => ?_⟩
  · rw [csrGet_reset, csrReset_eq]
  · rw [matRow, mregGet_reset, mregReset_matrix hr hi]
    revert i; decide

end Sys2Proof.Machine
end
section
/-! SUPPORT. What the memory service, and writes of the device itself, may change. -/

namespace Sys2Proof.Machine

open Host

/-- A property that every step of a fold keeps. -/
theorem foldl_keeps {σ α : Type} {P : σ → Prop} {f : σ → α → σ} {s : σ} (h : P s) (hf : ∀ v a, P v → P (f v a)) (l : List α) :
    P (l.foldl f s) := by
  induction l generalizing s with
  | nil => exact h
  | cons a l ih => exact ih (hf _ _ h)

/-! ### What the memory service and the device's own writes may change (R390 to R398) -/

/-- A tenant but for what serving a page may change: its CSRs and function registers, its frame store, and its share counts. -/
def Tenant.unserved (x : Tenant) : Tenant :=
  { x with csr := [], freg := [], frames := [], pieces := [], shares := [], splits := [], arenaFrames := [] }

/-- The state but for memory and what stands before it: the cells and their errors, caches, writes and reductions on their way,
modifications, counts of requests; and but for the tenants. -/
def State.unserved (s : State) : State :=
  { s with tens := [], serial := 0, cores := [], dies := [], mem := [], ukey := [], lstamp := [], bad := [], wq := [], reds := [],
           modq := [], hostMem := [], loose := [], images := [], direct := [], mgmt := Mgmt.reset }

/-- The memory service has served, or the device has written: no task, no operation and no launch is different, and of a
tenant only its pools and registers, of its CSRs only the head of its frame pool's ring. -/
structure Served (s t : State) : Prop where
  state : t.unserved = s.unserved
  tenants : ∀ n, (tenant t n).unserved = (tenant s n).unserved
  csrs : ∀ n r, r ≠ 0x046 → csrGet t n r = csrGet s n r

namespace Served
variable {s t u : State}

theorem refl (s : State) : Served s s := ⟨rfl, fun _ => rfl, fun _ _ _ => rfl⟩

theorem trans (h : Served s t) (k : Served t u) : Served s u :=
  ⟨k.state.trans h.state, fun n => (k.tenants n).trans (h.tenants n), fun n r hr => (k.csrs n r hr).trans (h.csrs n r hr)⟩

theorem tasks (h : Served s t) : t.tasks = s.tasks := by
  have := congrArg State.tasks h.state
  exact this

theorem script (h : Served s t) : t.script = s.script := by
  have := congrArg State.script h.state
  exact this

/-- A further step in which only memory and what stands before it changes. -/
theorem step (h : Served s t) (hstate : u.unserved = t.unserved) (htens : u.tens = t.tens) : Served s u := by
  have hten : ∀ n, tenant u n = tenant t n := fun n => by unfold tenant; rw [htens]
  exact h.trans ⟨hstate, fun n => by rw [hten], fun n r _ => by unfold csrGet; rw [hten]⟩

theorem cacheOnly (h : Served s t) (k : CacheOnly t u) : Served s u := by
  refine h.step ?_ k.tens
  have := congrArg State.unserved k
  exact this

theorem modTenant (h : Served s t) {n : Nat} {f : Tenant → Tenant} (hf : ∀ x, (f x).unserved = x.unserved)
    (hcsr : ∀ x, (f x).csr = x.csr) : Served s (Machine.modTenant t n f) := by
  refine h.trans ⟨rfl, fun m => ?_, fun m r _ => csrGet_modTenant_of_csr hcsr m r⟩
  rw [tenant_modTenant]
  split
  · next h => rw [hf, h]
  · rfl

theorem foldl {α : Type} {f : State → α → State} (h : Served s t) (hf : ∀ v a, Served s v → Served s (f v a)) (l : List α) :
    Served s (l.foldl f t) :=
  foldl_keeps (P := Served s) h hf l

/-- A fold that carries a result beside the state. -/
theorem foldl_pair {α β : Type} {f : State × β → α → State × β} {p : State × β} (h : Served s p.1)
    (hf : ∀ q a, Served s q.1 → Served s (f q a).1) (l : List α) : Served s (l.foldl f p).1 :=
  foldl_keeps (P := fun q : State × β => Served s q.1) h hf l

/-- A fold that may fail. -/
theorem foldl_bind {α : Type} {f : State → α → Option State} (h : Served s t)
    (hf : ∀ v a w, Served s v → f v a = some w → Served s w) (l : List α)
    (hl : l.foldl (fun acc a => acc.bind (fun s => f s a)) (some t) = some u) : Served s u := by
  induction l generalizing t with
  | nil => cases hl; exact h
  | cons a l ih =>
    rw [List.foldl_cons, Option.bind_some] at hl
    cases ha : f t a with
    | none =>
      have hnone : ∀ l : List α, l.foldl (fun acc a => acc.bind (fun s => f s a)) (none : Option State) = none := by
        intro l
        induction l with
        | nil => rfl
        | cons b l ih => exact ih
      rw [ha, hnone] at hl
      cases hl
    | some v => rw [ha] at hl; exact ih (hf _ _ _ h ha) hl

end Served

theorem served_closed : AccessClosed Served where
  refl := Served.refl
  trans := fun _ _ _ => Served.trans
  writePa := fun s k a b => by
    unfold writePa writeByte
    split
    · exact (Served.refl s).step rfl rfl
    · dsimp only
      split <;> exact (Served.refl s).step rfl rfl
  setDie := fun s _ _ => (Served.refl s).step rfl rfl
  setTlb := fun s v l => by cases v <;> exact (Served.refl s).step rfl rfl

namespace Served
variable {s u v : State}

theorem access (h : Served s u) (via : Via) (t root va : Nat) (w : Want) : Served s (Machine.access u via t root va w).1 :=
  h.trans (served_closed.access u via t root va w)

theorem writePas (h : Served s u) (k a : Nat) (bs : List Byte) : Served s (Machine.writePas u k a bs) :=
  h.trans (served_closed.writePas bs u k a)

theorem tablePut (h : Served s u) (t a w0 w1 : Nat) : Served s (Machine.tablePut u t a w0 w1) :=
  (h.trans (served_closed.tableWord _ _ _ _)).trans (served_closed.tableWord _ _ _ _)

theorem putLeaf (h : Served s u) (t a ps w0 w1 : Nat) : Served s (Machine.putLeaf u t a ps w0 w1) :=
  h.foldl (fun _ _ hv => hv.tablePut _ _ _ _) _

theorem shareMod (h : Served s u) (t pa n : Nat) (f : Nat → Nat) : Served s (Machine.shareMod u t pa n f) :=
  h.modTenant (fun _ => rfl) (fun _ => rfl)
theorem shareUp (h : Served s u) (t pa n : Nat) : Served s (Machine.shareUp u t pa n) := h.shareMod t pa n _
theorem shareDown (h : Served s u) (t pa n : Nat) : Served s (Machine.shareDown u t pa n) := h.shareMod t pa n _

theorem markSplit (h : Served s u) (t pa n : Nat) : Served s (Machine.markSplit u t pa n) := by
  unfold Machine.markSplit
  exact h.modTenant (fun _ => rfl) (fun _ => rfl)

theorem dropImage (h : Served s u) (t w0 : Nat) : Served s (Machine.dropImage u t w0) := by
  unfold Machine.dropImage
  dsimp only
  split
  · exact h.shareDown _ _ _
  · exact h.step rfl rfl

theorem noteArena (h : Served s u) (t job : Nat) (old new : Option Nat) : Served s (Machine.noteArena u t job old new) := by
  unfold Machine.noteArena
  split
  · exact h
  · exact h.modTenant (fun _ => rfl) (fun _ => rfl)

theorem dropFrame (h : Served s u) (pa n : Nat) : Served s (Machine.dropFrame u pa n) := by
  unfold Machine.dropFrame
  refine Served.foldl (h.foldl (fun v c hv => ?_) _) (fun v d hv => ?_) _
  · exact hv.step rfl rfl
  · exact hv.step rfl rfl

theorem copyPage (h : Served s u) (key src dst n : Nat) : Served s (Machine.copyPage u key src dst n) := by
  have hw := (h.writePas key dst (readPas u key src n)).dropFrame dst n
  unfold Machine.copyPage
  generalize Machine.dropFrame (Machine.writePas u key dst (readPas u key src n)) dst n = w at hw
  exact hw.step rfl rfl

theorem loosen (h : Served s u) (pa : Nat) : Served s (Machine.loosen u pa) := by
  have hw := h.dropFrame pa (2 ^ 16)
  unfold Machine.loosen
  generalize Machine.dropFrame u pa (2 ^ 16) = w at hw
  exact hw.step rfl rfl

theorem fregSet (h : Served s u) (t o : Nat) (w : Word) : Served s (Machine.fregSet u t o w) :=
  h.modTenant (fun _ => rfl) (fun _ => rfl)

theorem frameHead (h : Served s u) (t : Nat) (w : Word) : Served s (csrSet u t 0x046 w) := by
  refine h.trans ⟨rfl, fun m => ?_, fun m r hr => ?_⟩
  · unfold csrSet
    rw [tenant_modTenant]
    split
    · next h => rw [h]; rfl
    · rfl
  · rw [csrGet_csrSet]
    simp [hr]

theorem poolEntry (h : Served s u) (t va : Nat) : Served s (Machine.poolEntry u t va).1 := by
  have hacc := h.access .fresh t (tenantRoot u t) va ⟨true, false, false, false⟩
  unfold Machine.poolEntry
  split <;> next hr => rw [hr] at hacc; exact hacc

theorem refill (n : Nat) (h : Served s u) (t : Nat) : Served s (Machine.refill n u t) := by
  induction n generalizing u with
  | zero => exact h
  | succ n ih =>
    unfold Machine.refill
    dsimp only
    split
    · exact h
    · have hpool := h.poolEntry t
        (csrAddr u t 0x042 12 + 8 * ((csrGet u t 0x046).toNat % 2 ^ nb (csrGet u t 0x044).toNat 0 5))
      split
      · next hr => rw [hr] at hpool; exact hpool
      · next hr =>
        rw [hr] at hpool
        split
        · exact ih ((hpool.frameHead _ _).modTenant (fun _ => rfl) (fun _ => rfl))
        · exact ih ((hpool.frameHead _ _).fregSet _ _ _)

theorem takeFrame (h : Served s u) {t : Nat} {fits : State → Nat → Bool} {r : State × Nat}
    (hr : Machine.takeFrame u t fits = some r) : Served s r.1 := by
  obtain ⟨f, -, rfl⟩ := Option.map_eq_some_iff.mp hr
  dsimp only
  exact (h.refill _ _).modTenant (fun _ => rfl) (fun _ => rfl)

theorem carve (h : Served s u) {t : Nat} {fits : State → Nat → Bool} (hr : Machine.carve u t fits = some v) : Served s v := by
  obtain ⟨p, hp, rfl⟩ := Option.map_eq_some_iff.mp hr
  exact (h.takeFrame hp).modTenant (fun _ => rfl) (fun _ => rfl)

theorem takeWhere (h : Served s u) {t : Nat} {fits : State → Nat → Bool} {p : List Nat → Nat → Bool} {r : State × Nat}
    (hr : Machine.takeWhere u t fits p = some r) : Served s r.1 := by
  unfold Machine.takeWhere at hr
  dsimp only at hr
  split at hr
  · cases hr; exact h
  · obtain ⟨w, hw, hk⟩ := Option.bind_eq_some_iff.mp hr
    obtain ⟨k, -, rfl⟩ := Option.map_eq_some_iff.mp hk
    exact h.carve hw

theorem takePiece (h : Served s u) {t : Nat} {fits : State → Nat → Bool} {r : State × Nat}
    (hr : Machine.takePiece u t fits = some r) : Served s r.1 := by
  obtain ⟨p, hp, rfl⟩ := Option.map_eq_some_iff.mp hr
  dsimp only
  exact (h.takeWhere hp).modTenant (fun _ => rfl) (fun _ => rfl)

theorem takePage (h : Served s u) {t ps w1 : Nat} {r : State × Nat} (hr : Machine.takePage u t ps w1 = some r) : Served s r.1 := by
  unfold Machine.takePage at hr
  split at hr
  · exact h.takePiece hr
  · exact h.takeFrame hr

theorem takeTable (h : Served s u) {t : Nat} {r : State × Nat} (hr : Machine.takeTable u t = some r) : Served s r.1 := by
  obtain ⟨p, hp, rfl⟩ := Option.map_eq_some_iff.mp hr
  dsimp only
  refine Served.foldl ?_ (fun v i hv => ?_) _
  · exact (h.takeWhere hp).modTenant (fun _ => rfl) (fun _ => rfl)
  · exact hv.tablePut _ _ _ _

theorem flushFrame (h : Served s u) (pa n : Nat) : Served s (Machine.flushFrame u pa n) := by
  refine h.foldl (fun w c hw => hw.foldl (fun x k hx => ?_) _) _
  split
  · exact (hx.cacheOnly (cacheOnly_writeBack x _ _)).step rfl rfl
  · exact hx

theorem shootPage (h : Served s u) (t va : Nat) : Served s (Machine.shootPage u t va) := h.step rfl rfl
theorem moveReds (h : Served s u) (t root old new n : Nat) : Served s (Machine.moveReds u t root old new n) := h.step rfl rfl

theorem splitTable (h : Served s u) {t w0 w1 : Nat} {r : State × Nat} (hr : Machine.splitTable u t w0 w1 = some r) :
    Served s r.1 := by
  obtain ⟨p, hp, rfl⟩ := Option.map_eq_some_iff.mp hr
  dsimp only
  exact (h.takeTable hp).foldl (fun _ _ hv => hv.tablePut _ _ _ _) _

theorem splitLeaf (h : Served s u) {t a w0 w1 : Nat} (hr : Machine.splitLeaf u t a w0 w1 = some v) : Served s v := by
  have hmark := h.markSplit t (pointed w0 w1) (pageBytes (nb w0 2 2))
  unfold Machine.splitLeaf at hr
  dsimp only at hr
  split at hr
  · obtain ⟨p, hp, rfl⟩ := Option.map_eq_some_iff.mp hr
    exact (hmark.splitTable hp).tablePut _ _ _ _
  · obtain ⟨p, hp, hr⟩ := Option.bind_eq_some_iff.mp hr
    obtain ⟨w, hw, rfl⟩ := Option.map_eq_some_iff.mp hr
    refine ((hmark.takeTable hp).foldl_bind (fun x i y hx hy => ?_) _ hw).tablePut _ _ _ _
    obtain ⟨q, hq, rfl⟩ := Option.map_eq_some_iff.mp hy
    exact (hx.splitTable hq).tablePut _ _ _ _

theorem copyEntry (h : Served s u) (t src dst i : Nat) : Served s (Machine.copyEntry u t src dst i) := by
  have hboth : ∀ v0 v1 : Nat, Served s (Machine.tablePut
      (if v0 = entry0 u t src ∧ v1 = entry1 u t src then u else Machine.tablePut u t src v0 v1) t dst v0 v1) := by
    intro v0 v1
    split
    · exact h.tablePut _ _ _ _
    · exact (h.tablePut _ _ _ _).tablePut _ _ _ _
  unfold Machine.copyEntry
  dsimp only
  split
  · exact (hboth _ _).shareUp _ _ _
  split
  · split
    · exact hboth _ _
    · exact (hboth _ _).shareUp _ _ _
  split
  · split
    · exact hboth _ _
    · exact (hboth _ _).shareUp _ _ _
  · exact hboth _ _

theorem breakTable (h : Served s u) {t a : Nat} (hr : Machine.breakTable u t a = some v) : Served s v := by
  unfold Machine.breakTable at hr
  dsimp only at hr
  split at hr
  · cases hr; exact h.tablePut _ _ _ _
  · obtain ⟨p, hp, rfl⟩ := Option.map_eq_some_iff.mp hr
    exact (((h.takeTable hp).foldl (fun _ _ hw => hw.copyEntry _ _ _ _) _).shareDown _ _ _).tablePut _ _ _ _

end Served

/-- What holds of the state that a service leaves, where it leaves one. -/
def Svc.Leaves (v : Svc) (R : State → Prop) : Prop :=
  match v with
  | .done s => R s
  | .again s => R s
  | .noFrame => True
  | .bad _ => True

namespace Served
variable {s u v : State}

theorem breakLeaf (h : Served s u) (t root va a : Nat) : (Machine.breakLeaf u t root va a).Leaves (Served s) := by
  have hflush := h.flushFrame (pointed (entry0 u t a) (entry1 u t a)) (pageBytes (nb (entry0 u t a) 2 2))
  unfold Machine.breakLeaf
  dsimp only
  split
  · exact (h.putLeaf _ _ _ _ _).shootPage _ _
  split
  · exact hflush
  split
  · trivial
  · next hp =>
    exact ((((((hflush.takePage hp).copyPage _ _ _ _).shareDown _ _ _).moveReds _ _ _ _ _).noteArena _ _ _ _).putLeaf
      _ _ _ _ _).shootPage _ _

theorem breakFrom (k : Nat) (h : Served s u) (t root va : Nat) : (Machine.breakFrom k u t root va).Leaves (Served s) := by
  induction k generalizing u with
  | zero => exact h
  | succ k ih =>
    unfold Machine.breakFrom
    dsimp only
    split
    · split
      · trivial
      · next hb => exact ih ((h.breakTable hb).shootPage _ _)
    split
    · exact h
    split
    · exact h.shootPage _ _
    split
    · split
      · trivial
      · next hb => exact ih ((h.splitLeaf hb).shootPage _ _)
    · exact h.breakLeaf _ _ _ _

theorem backArena (h : Served s u) (t a w1 : Nat) : (Machine.backArena u t a w1).Leaves (Served s) := by
  unfold Machine.backArena
  split
  · trivial
  · next hf => exact (((h.takeFrame hf).loosen _).putLeaf _ _ _ _ _).noteArena _ _ _ _

theorem restorePage (h : Served s u) (t a w0 w1 : Nat) : (Machine.restorePage u t a w0 w1).Leaves (Served s) := by
  unfold Machine.restorePage
  split
  · trivial
  next n _ =>
  dsimp only
  split
  · trivial
  · next s1 f hp =>
    have hcopy := (h.takePage hp).copyPage (nb w1 28 8) (tierBase + w0 / 2 ^ 12 * 2 ^ 12) f n
    refine ((Served.dropImage ?_ _ _).noteArena _ _ _ _).putLeaf _ _ _ _ _
    dsimp only at hcopy
    generalize Machine.copyPage s1 (nb w1 28 8) (tierBase + w0 / 2 ^ 12 * 2 ^ 12) f n = w at hcopy
    split
    · exact hcopy.step rfl rfl
    · exact hcopy

theorem serveOnce (h : Served s u) (t root va : Nat) (w : Service) : (Machine.serveOnce u t root va w).Leaves (Served s) := by
  unfold Machine.serveOnce
  split
  · exact breakFrom 8 h _ _ _
  · exact h.backArena _ _ _
  · exact h.restorePage _ _ _ _
  · exact h

end Served

/-- The state that a reach leaves. -/
def Reach.state : Reach → State
  | .ok s _ _ => s
  | .wait s => s
  | .need s _ => s
  | .bad s _ => s

namespace Served
variable {s u v : State}

theorem reach (k : Nat) (h : Served s u) (t root va : Nat) (w : Want) : Served s (Machine.reach k u t root va w).state := by
  induction k generalizing u with
  | zero => exact h
  | succ k ih =>
    have hacc := h.access .fresh t root va w
    unfold Machine.reach
    split
    · next hr =>
      rw [hr] at hacc
      split
      · exact hacc
      · split <;> exact hacc
    · next hr => rw [hr] at hacc; exact hacc
    · next hr => rw [hr] at hacc; exact hacc
    · next hr => rw [hr] at hacc; exact hacc
    · next hr => rw [hr] at hacc; exact hacc
    · next s1 service _ _ _ hr =>
      rw [hr] at hacc
      have hserve := hacc.serveOnce t root va service
      split
      · next hs => rw [hs] at hserve; exact ih hserve
      · next hs => rw [hs] at hserve; exact hserve
      · split <;> exact hacc
      · exact hacc

/-! ### The device's own writes (R421, R434) -/

theorem queueMods (h : Served s u) (t : Nat) (gs : List Gran) : Served s (Machine.queueMods u t gs) := by
  refine h.foldl (fun w g hw => ?_) _
  dsimp only
  split <;> exact hw.step rfl rfl

theorem sendUpdates (h : Served s u) (line keyid origin : Nat) (bytes : Map Byte) (stamp : List Nat) :
    Served s (Machine.sendUpdates u line keyid origin bytes stamp) := by
  refine h.foldl (fun w d hw => ?_) _
  split
  · exact hw
  dsimp only
  split
  · exact hw.step rfl rfl
  · exact hw

theorem applyBytes (h : Served s u) (k : Nat) (bytes : Map Byte) : Served s (Machine.applyBytes u k bytes) := by
  unfold Machine.applyBytes
  refine Served.step (h.foldl (fun w p hw => ?_) bytes) rfl rfl
  split
  · exact hw
  · exact hw.trans (served_closed.writePa _ _ _ _)

theorem applyAtHome (h : Served s u) (origin keyid t line : Nat) (bytes : Map Byte) (stamp : List Nat) (gs : List Gran) :
    Served s (Machine.applyAtHome u origin keyid t line bytes stamp gs) := by
  have hbytes := h.applyBytes keyid bytes
  unfold Machine.applyAtHome
  generalize Machine.applyBytes u keyid bytes = w at hbytes
  have hstamp : Served s { w with lstamp := mput w.lstamp line (maxStamp (lineStamp w line) stamp) } := hbytes.step rfl rfl
  exact (hstamp.sendUpdates _ _ _ _ _).queueMods _ _

theorem homeWrite (h : Served s u) (d keyid t pa : Nat) (bs : List Byte) (gs : List Gran) :
    Served s (Machine.homeWrite u d keyid t pa bs gs) := by
  unfold Machine.homeWrite
  exact (h.trans (served_closed.setDie _ _ _)).applyAtHome _ _ _ _ _ _ _

theorem devWrite (h : Served s u) (d t root va : Nat) (bs : List Byte) (user : Bool) (own : Option Nat) :
    Served s (Machine.devWrite u d t root va bs user own).1 := by
  refine foldl_pair (p := (u, true)) h (fun q c hq => ?_) _
  obtain ⟨w, ok⟩ := q
  cases ok with
  | false => exact hq
  | true =>
    dsimp only
    have hreach := reach 8 hq t root c.1 ⟨false, true, false, user⟩
    split
    · next hr => rw [hr] at hreach; exact hreach.homeWrite _ _ _ _ _ _
    · exact hq

end Served

end Sys2Proof.Machine
end
section
/-! SUPPORT. What records, samples and abandoned operations leave of a tenant's accounts. -/

namespace Sys2Proof.Machine

open Host

/-! ### Records, samples and abandoned operations: what they leave of a tenant's accounts -/

/-- What a tenant's accounts hold: its counters, launches, queues, spawned tasks, traces, roots and contexts. -/
def Tenant.accounts (x : Tenant) :
    Map Counter × Map Launch × Map DevQueue × List Spawned × Map Trace × Map Nat × Map Context :=
  (x.ctr, x.launches, x.queues, x.spawns, x.traces, x.roots, x.ctxs)

/-- Tasks, cancellations, forks and every tenant's accounts stay, and its CSRs but for those of a list. -/
structure Kept (rs : List Nat) (s t : State) : Prop where
  tasks : t.tasks = s.tasks
  cancels : t.cancels = s.cancels
  forks : t.forks = s.forks
  script : t.script = s.script
  cycle : t.cycle = s.cycle
  accounts : ∀ n, (tenant t n).accounts = (tenant s n).accounts
  csrs : ∀ n r, r ∉ rs → csrGet t n r = csrGet s n r

namespace Kept
variable {rs qs : List Nat} {s t u : State}

theorem refl (rs : List Nat) (s : State) : Kept rs s s := ⟨rfl, rfl, rfl, rfl, rfl, fun _ => rfl, fun _ _ _ => rfl⟩

theorem trans (h : Kept rs s t) (k : Kept rs t u) : Kept rs s u :=
  ⟨k.tasks.trans h.tasks, k.cancels.trans h.cancels, k.forks.trans h.forks, k.script.trans h.script, k.cycle.trans h.cycle,
    fun n => (k.accounts n).trans (h.accounts n), fun n r hr => (k.csrs n r hr).trans (h.csrs n r hr)⟩

theorem mono (h : Kept rs s t) (hsub : rs ⊆ qs) : Kept qs s t :=
  { h with csrs := fun n r hr => h.csrs n r (fun hmem => hr (hsub hmem)) }

theorem ctr (h : Kept rs s t) (n : Nat) : (tenant t n).ctr = (tenant s n).ctr := congrArg (·.1) (h.accounts n)
theorem launches (h : Kept rs s t) (n : Nat) : (tenant t n).launches = (tenant s n).launches := congrArg (·.2.1) (h.accounts n)
theorem queues (h : Kept rs s t) (n : Nat) : (tenant t n).queues = (tenant s n).queues := congrArg (·.2.2.1) (h.accounts n)
theorem spawns (h : Kept rs s t) (n : Nat) : (tenant t n).spawns = (tenant s n).spawns := congrArg (·.2.2.2.1) (h.accounts n)
theorem traces (h : Kept rs s t) (n : Nat) : (tenant t n).traces = (tenant s n).traces := congrArg (·.2.2.2.2.1) (h.accounts n)
theorem roots (h : Kept rs s t) (n : Nat) : (tenant t n).roots = (tenant s n).roots := congrArg (·.2.2.2.2.2.1) (h.accounts n)
theorem ctxs (h : Kept rs s t) (n : Nat) : (tenant t n).ctxs = (tenant s n).ctxs := congrArg (·.2.2.2.2.2.2) (h.accounts n)

theorem task (h : Kept rs s t) (tid : Nat) : Machine.task t tid = Machine.task s tid := task_eq_of_tasks h.tasks tid
theorem counter (h : Kept rs s t) (n i : Nat) : Machine.counter t n i = Machine.counter s n i := by
  unfold Machine.counter; rw [h.ctr]

/-- A further step that touches no task, tenant, cancellation or fork. -/
theorem step (h : Kept rs s t) (htasks : u.tasks = t.tasks) (hcancels : u.cancels = t.cancels) (hforks : u.forks = t.forks)
    (hscript : u.script = t.script) (hcycle : u.cycle = t.cycle) (htens : u.tens = t.tens) : Kept rs s u := by
  have hten : ∀ n, tenant u n = tenant t n := fun n => by unfold tenant; rw [htens]
  exact h.trans ⟨htasks, hcancels, hforks, hscript, hcycle, fun n => by rw [hten], fun n r _ => by unfold csrGet; rw [hten]⟩

theorem served (h : Kept rs s t) (k : Served t u) (hrs : 0x046 ∈ rs) : Kept rs s u := by
  refine h.trans ⟨k.tasks, ?_, ?_, k.script, ?_, fun n => ?_, fun n r hr => k.csrs n r (fun he => hr (he ▸ hrs))⟩
  · have := congrArg State.cancels k.state
    exact this
  · have := congrArg State.forks k.state
    exact this
  · have := congrArg State.cycle k.state
    exact this
  · have := congrArg Tenant.accounts (k.tenants n)
    exact this

theorem cacheOnly (h : Kept rs s t) (k : CacheOnly t u) : Kept rs s u := by
  refine h.step k.tasks ?_ ?_ ?_ ?_ k.tens
  · have := congrArg State.cancels k
    exact this
  · have := congrArg State.forks k
    exact this
  · have := congrArg State.script k
    exact this
  · have := congrArg State.cycle k
    exact this

theorem modTenant (h : Kept rs s t) {n : Nat} {f : Tenant → Tenant} (hf : ∀ x, (f x).accounts = x.accounts)
    (hcsr : ∀ x, (f x).csr = x.csr) : Kept rs s (Machine.modTenant t n f) := by
  refine h.trans ⟨rfl, rfl, rfl, rfl, rfl, fun m => ?_, fun m r _ => csrGet_modTenant_of_csr hcsr m r⟩
  rw [tenant_modTenant]
  split
  · next h => rw [hf, h]
  · rfl

theorem csrSet (h : Kept rs s t) (n r : Nat) (w : Word) (hr : r ∈ rs) : Kept rs s (Machine.csrSet t n r w) := by
  refine h.trans ⟨rfl, rfl, rfl, rfl, rfl, fun m => ?_, fun m c hc => ?_⟩
  · unfold Machine.csrSet
    rw [tenant_modTenant]
    split
    · next h => rw [h]; rfl
    · rfl
  · rw [csrGet_csrSet, if_neg]
    rintro ⟨-, rfl⟩
    exact hc hr

theorem foldl {α : Type} {f : State → α → State} (h : Kept rs s t) (hf : ∀ v a, Kept rs s v → Kept rs s (f v a)) (l : List α) :
    Kept rs s (l.foldl f t) :=
  foldl_keeps (P := Kept rs s) h hf l

theorem foldl_pair {α β : Type} {f : State × β → α → State × β} {p : State × β} (h : Kept rs s p.1)
    (hf : ∀ q a, Kept rs s q.1 → Kept rs s (f q a).1) (l : List α) : Kept rs s (l.foldl f p).1 :=
  foldl_keeps (P := fun q : State × β => Kept rs s q.1) h hf l

/-- A record put into a ring moves the ring's tail. -/
theorem ringPut (h : Kept rs s t) (n base size head tail sz : Nat) (units : List Nat) (trunc : Nat → Nat) (hrs : 0x046 ∈ rs)
    (htail : tail ∈ rs) : Kept rs s (Machine.ringPut t n base size head tail sz units trunc).1 := by
  unfold Machine.ringPut
  dsimp only
  split
  · exact h
  · have hwrites : ∀ l : List (Nat × Nat), Kept rs s (l.foldl (fun (acc : State × Bool) iu =>
        match acc with
        | (s, false) => (s, false)
        | (s, true) => devWrite s 0 n (tenantRoot s n)
            (csrAddr s n base 12 + sz * (((csrGet t n tail).toNat + iu.1) % 2 ^ nb (csrGet t n size).toNat 0 5))
            (leBytes sz iu.2) false none) (t, true)).1 := by
      refine foldl_pair (p := (t, true)) h (fun q iu hq => ?_)
      obtain ⟨w, ok⟩ := q
      cases ok with
      | false => exact hq
      | true => exact hq.served ((Served.refl w).devWrite _ _ _ _ _ _ _) hrs
    split
    all_goals
      split
      · exact hwrites _
      · exact (hwrites _).csrSet _ _ _ htail

theorem csrCount (h : Kept rs s t) (n r : Nat) (hr : r ∈ rs) : Kept rs s (Machine.csrCount t n r) := by
  unfold Machine.csrCount
  dsimp only
  split
  · exact h
  · exact h.csrSet _ _ _ hr

/-- The CSRs that move when a sampler's record is put: the heads and tails of the frame pool's and the samplers' rings, and the
count of lost samples. -/
def sampleCsrs : List Nat := [0x046, 0x084, 0x087]

theorem putSample (h : Kept sampleCsrs s t) (n r : Nat) : Kept sampleCsrs s (Machine.putSample t n r) := by
  have hput := h.ringPut n 0x080 0x082 0x083 0x084 64 [r] id (by decide) (by decide)
  unfold Machine.putSample
  split
  next s1 k hr =>
  rw [hr] at hput
  split
  · exact hput.csrCount _ _ (by decide)
  · exact hput

theorem cancelTags (h : Kept sampleCsrs s t) (tid : Nat) (k : Task) : Kept sampleCsrs s (Machine.cancelTags t tid k) := by
  refine h.foldl (fun v q hv => ?_) _
  split
  · exact hv
  split
  · exact hv
  split
  · exact hv
  · refine Kept.putSample ?_ _ _
    refine Kept.modTenant ?_ (fun _ => rfl) (fun _ => rfl)
    exact hv.step rfl rfl rfl rfl rfl rfl

theorem dropNeeds (h : Kept rs s t) (p : Needer → Bool) : Kept rs s (Machine.dropNeeds t p) := h.step rfl rfl rfl rfl rfl rfl

theorem dropColl (h : Kept rs s t) (id : Nat) (op : CollOp) : Kept rs s (Machine.dropColl t id op) := by
  have hdel : Kept rs s { t with colls := mdel t.colls id } := h.step rfl rfl rfl rfl rfl rfl
  unfold Machine.dropColl
  dsimp only
  split
  · exact hdel
  split
  · split
    · exact hdel.modTenant (fun _ => rfl) (fun _ => rfl)
    · exact hdel
  · exact hdel.modTenant (fun _ => rfl) (fun _ => rfl)

theorem dropOps (h : Kept rs s t) (tid : Nat) : Kept rs s (Machine.dropOps t tid) := by
  unfold Machine.dropOps
  dsimp only
  refine Kept.step ((h.dropNeeds (needOf t tid)).foldl (fun v p hv => ?_) _) rfl rfl rfl rfl rfl rfl
  exact hv.dropColl _ _

end Kept

end Sys2Proof.Machine
end
section
/-! SUPPORT. The merges of a regrouping point (R38). -/

namespace Sys2Proof.Machine

open Host

/-! ### Merging a frontier (R38) -/

/-- The unblocked entry of a frontier that an entry merges with. -/
def Mergeable (a e : Entry) : Prop := a.blk = none ∧ e.blk = none ∧ a.pc = e.pc

theorem mergeInto_cases (e : Entry) (acc : List Entry) :
    (mergeInto e acc = acc ++ [e] ∧ ∀ a ∈ acc, ¬ Mergeable a e) ∨
    ∃ l a r, acc = l ++ a :: r ∧ Mergeable a e ∧ mergeInto e acc = l ++ mergeTwo a e :: r := by
  induction acc with
  | nil => exact Or.inl ⟨rfl, by simp⟩
  | cons a acc ih =>
    by_cases hm : Mergeable a e
    · refine Or.inr ⟨[], a, acc, rfl, hm, ?_⟩
      obtain ⟨ha, he, hpc⟩ := hm
      simp [mergeInto, ha, he, hpc]
    · have hskip : mergeInto e (a :: acc) = a :: mergeInto e acc := by
        rw [mergeInto, if_neg]
        simpa [Mergeable, and_assoc] using hm
      rw [hskip]
      rcases ih with ⟨heq, hnone⟩ | ⟨l, b, r, hacc, hb, heq⟩
      · refine Or.inl ⟨by rw [heq]; rfl, fun b hb => ?_⟩
        rcases List.mem_cons.mp hb with rfl | hb
        · exact hm
        · exact hnone b hb
      · exact Or.inr ⟨a :: l, b, r, by rw [hacc]; rfl, hb, by rw [heq]; rfl⟩

theorem nodup_pcs_append {acc : List Entry} {e : Entry} (h : ((acc.filter (fun a => a.blk.isNone)).map (·.pc)).Nodup)
    (hnone : ∀ a ∈ acc, ¬ Mergeable a e) : (((acc ++ [e]).filter (fun a => a.blk.isNone)).map (·.pc)).Nodup := by
  cases hblk : e.blk with
  | some w => simpa [List.filter_append, hblk] using h
  | none =>
    rw [List.filter_append, List.map_append, List.nodup_append]
    refine ⟨h, by simp [hblk], fun pc hpc pc' hpc' => ?_⟩
    obtain ⟨a, ha, rfl⟩ := List.mem_map.mp hpc
    obtain ⟨ha, hab⟩ := List.mem_filter.mp ha
    have he : pc' = e.pc := by simpa [hblk] using hpc'
    rw [he]
    exact fun hpc => hnone a ha ⟨by simpa using hab, hblk, hpc⟩

/-- An entry that merges with none stands for itself. -/
theorem regrouped_append {old acc : List Entry} {e : Entry} (h : Regrouped old acc) (hnone : ∀ a ∈ acc, ¬ Mergeable a e) :
    Regrouped (old ++ [e]) (acc ++ [e]) := by
  obtain ⟨hnodup, hkept, hfrom, hblocked⟩ := h
  have hold : ∀ f ∈ old, f.blk = none → e.blk = none → f.pc ≠ e.pc := fun f hf hfb heb hpc => by
    obtain ⟨a, ha, hab, hapc⟩ := hkept f hf hfb
    exact hnone a ha ⟨hab, heb, hapc.trans hpc⟩
  refine ⟨nodup_pcs_append hnodup hnone, ?_, ?_, by simp [List.filter_append, hblocked]⟩
  · grind
  · unfold Mergeable at hnone
    grind

/-- An entry that merges with one adds its lanes to it, and its priority where that is higher. -/
theorem regrouped_merge {old l r : List Entry} {a e : Entry} (h : Regrouped old (l ++ a :: r)) (hm : Mergeable a e) :
    Regrouped (old ++ [e]) (l ++ mergeTwo a e :: r) := by
  obtain ⟨hnodup, hkept, hfrom, hblocked⟩ := h
  obtain ⟨ha, he, hpc⟩ := hm
  have hblk : (mergeTwo a e).blk = none := rfl
  have hpc2 : (mergeTwo a e).pc = a.pc := rfl
  have hmask : ∀ i, has (mergeTwo a e).mask i = true ↔ has a.mask i = true ∨ has e.mask i = true := by
    intro i
    simp [mergeTwo, has]
  have hprio : (mergeTwo a e).prio = if e.prio.toNat ≤ a.prio.toNat then a.prio else e.prio := rfl
  have hother : ∀ b, b ∈ l ∨ b ∈ r → b.blk = none → b.pc ≠ a.pc := by
    simp only [List.filter_append, List.filter_cons, ha, Option.isNone_none, if_true, List.map_append, List.map_cons,
      List.nodup_append, List.nodup_cons, List.mem_map, List.mem_filter, List.mem_cons] at hnodup
    grind
  refine ⟨by simpa [List.filter_append, List.filter_cons, ha, hblk, hpc2] using hnodup, ?_, ?_,
    by simpa [List.filter_append, List.filter_cons, ha, he, hblk] using hblocked⟩
  · grind
  · grind

theorem regrouped_mergeAll_fold (es old acc : List Entry) (h : Regrouped old acc) :
    Regrouped (old ++ es) (es.foldl (fun acc e => mergeInto e acc) acc) := by
  induction es generalizing old acc with
  | nil => simpa using h
  | cons e es ih =>
    rw [List.append_cons, List.foldl_cons]
    refine ih _ _ ?_
    rcases mergeInto_cases e acc with ⟨heq, hnone⟩ | ⟨l, a, r, rfl, hm, heq⟩ <;> rw [heq]
    · exact regrouped_append h hnone
    · exact regrouped_merge h hm

theorem view_eq_iff {e f : Entry} : e.view = f.view ↔
    e.id = f.id ∧ e.pc = f.pc ∧ e.mask = f.mask ∧ e.prio = f.prio ∧ e.blk.isSome = f.blk.isSome := by
  simp [Entry.view]

theorem blk_none_iff_of_view {e f : Entry} (h : e.view = f.view) : e.blk = none ↔ f.blk = none := by
  obtain ⟨-, -, -, -, hb⟩ := view_eq_iff.mp h
  rw [← Option.not_isSome_iff_eq_none, ← Option.not_isSome_iff_eq_none, hb]

/-- Regrouping shows in the entries' views alone. -/
theorem regrouped_of_view {old es es' : List Entry} (h : Regrouped old es) (hv : es'.map Entry.view = es.map Entry.view) :
    Regrouped old es' := by
  obtain ⟨hnodup, hkept, hfrom, hblocked⟩ := h
  have hpcs : ∀ es : List Entry, (es.filter (fun e => e.blk.isNone)).map (·.pc) =
      ((es.map Entry.view).filter (fun v => !v.2.2.2.2)).map (fun v => v.2.1) := by
    intro es
    rw [List.filter_map, List.map_map]
    simp [Function.comp_def, Entry.view]
  have hwaits : ∀ es : List Entry, (es.filter (fun e => e.blk.isSome)).map Entry.view =
      (es.map Entry.view).filter (fun v => v.2.2.2.2) := by
    intro es
    rw [List.filter_map]
    rfl
  refine ⟨by rw [hpcs, hv, ← hpcs]; exact hnodup, fun f hf hfb => ?_, fun e he heb => ?_, by rw [hwaits, hv, ← hwaits]; exact hblocked⟩
  · obtain ⟨a, ha, hab, hpc⟩ := hkept f hf hfb
    obtain ⟨e, he, hev⟩ := exists_view_of_map hv.symm ha
    exact ⟨e, he, (blk_none_iff_of_view hev).mpr hab, (view_eq_iff.mp hev).2.1.trans hpc⟩
  · obtain ⟨a, ha, hav⟩ := exists_view_of_map hv he
    obtain ⟨-, hpc, hmask, hprio, -⟩ := view_eq_iff.mp hav
    rw [← hpc, ← hmask, ← hprio]
    exact hfrom a ha ((blk_none_iff_of_view hav).mpr heb)

theorem regrouped_mergeAll (es : List Entry) : Regrouped es (mergeAll es) :=
  regrouped_of_view (regrouped_mergeAll_fold es [] [] ⟨by simp, by simp, by simp, rfl⟩) (view_releasePend _ _)

/-! ### Regrouping (R38) -/

theorem exec_regroupMerge (tid g : Nat) (s : State) : exec (.regroupMerge tid g) s = fire (regroup s tid g) s := rfl

/-- A group after the merges of a regrouping point. -/
def Group.regrouped (x : Group) : Group := x.reselect.setLive (mergeAll x.live)

theorem live_regrouped (x : Group) : x.regrouped.live = mergeAll x.live := live_setLive _ _

theorem rest_regrouped (x : Group) : x.regrouped.rest = x.rest := (rest_setLive _ _).trans rfl

theorem registers_regrouped (x : Group) : x.regrouped.v = x.v ∧ x.regrouped.sr = x.sr ∧ x.regrouped.pr = x.pr := by
  unfold Group.regrouped Group.setLive
  split <;> exact ⟨rfl, rfl, rfl⟩

theorem mergeGroups_ne_nil {es : List Entry} (h : ¬ ((es.filter (fun e => e.blk.isNone)).map (·.pc)).Nodup) :
    mergeGroups es ≠ [] := by
  rw [List.nodup_iff_count_le_one] at h
  obtain ⟨pc, hpc⟩ := not_forall.mp h
  unfold mergeGroups
  dsimp only
  intro hnil
  rw [List.filter_eq_nil_iff] at hnil
  have hmem : pc ∈ ((es.filter (fun e => e.blk.isNone)).map (·.pc)).dedup :=
    List.mem_dedup.mpr (List.count_pos_iff.mp (by omega))
  have hlen := hnil _ (List.mem_map_of_mem hmem)
  have hcount : ((es.filter (fun e => e.blk.isNone)).filter (fun e => e.pc == pc)).length =
      ((es.filter (fun e => e.blk.isNone)).map (·.pc)).count pc := by
    rw [List.count, List.countP_map, List.countP_eq_length_filter]
    rfl
  rw [hcount] at hlen
  exact hlen (decide_eq_true (by omega))

theorem regroup_merges {s : State} {tid g : Nat} {tk : Task} {x0 : Group} (ht : task s tid = some tk)
    (hg : mget tk.groups g = some x0) (hruns : taskRuns s tk = true) (hrun : tk.run = .running)
    (hpoint : regroupPoint s tk.core = true) (hev : evOn s tk.tenant 2 x0.trap.isNone = false)
    (hdup : ¬ ((x0.live.filter (fun e => e.blk.isNone)).map (·.pc)).Nodup) :
    regroup s tid g = some (modGroup s tid g Group.regrouped) := by
  have hms : (mergeGroups x0.live).isEmpty = false := by simpa using mergeGroups_ne_nil hdup
  unfold regroup
  simp only [ht, hg, hpoint, hms, hruns, hrun, hev, Bool.not_true, bne_self_eq_false, Bool.or_self, Bool.false_and, Bool.false_eq_true,
    if_false]
  rfl

end Sys2Proof.Machine
end
section
/-! SUPPORT. Dispatch: the task that is placed, the context that is called back, and the age of a queue (R49 to R53). -/

namespace Sys2Proof.Machine

open Host

/-! ### Placing a task (R42, R46, R49) -/

theorem exec_dispatchDecision (n c : Nat) (s : State) : exec (.dispatchDecision n c) s = fire (dispatch s n c) s := rfl

/-- What a tenant has ordered: its launches, its queues and its spawn store. -/
def Tenant.orders (x : Tenant) : Map Launch × Map DevQueue × List Spawned := (x.launches, x.queues, x.spawns)

/-- Tasks, memory, CSRs, the rotation, the cycle count and every tenant's orders stay. -/
structure Ordered (s t : State) : Prop where
  tasks : t.tasks = s.tasks
  memory : SameMemory s t
  csrs : SameCsrs s t
  rrTen : t.rrTen = s.rrTen
  cycle : t.cycle = s.cycle
  orders : ∀ n, (tenant t n).orders = (tenant s n).orders

namespace Ordered
variable {s t u : State}

theorem refl (s : State) : Ordered s s := ⟨rfl, fun _ _ => rfl, fun _ _ => rfl, rfl, rfl, fun _ => rfl⟩

theorem trans (h : Ordered s t) (k : Ordered t u) : Ordered s u :=
  ⟨k.tasks.trans h.tasks, fun m a => (k.memory m a).trans (h.memory m a), fun n r => (k.csrs n r).trans (h.csrs n r),
    k.rrTen.trans h.rrTen, k.cycle.trans h.cycle, fun n => (k.orders n).trans (h.orders n)⟩

theorem cacheOnly (h : Ordered s t) (k : CacheOnly t u) : Ordered s u := by
  refine h.trans ⟨k.tasks, k.memory, k.csrs, ?_, ?_, fun n => by unfold tenant; rw [k.tens]⟩
  · have := congrArg State.rrTen k
    exact this
  · have := congrArg State.cycle k
    exact this

theorem modTenant (h : Ordered s t) {n : Nat} {f : Tenant → Tenant} (hf : ∀ x, (f x).orders = x.orders)
    (hcsr : ∀ x, (f x).csr = x.csr) : Ordered s (Machine.modTenant t n f) := by
  refine h.trans ⟨rfl, fun _ _ => rfl, csrGet_modTenant_of_csr hcsr, rfl, rfl, fun m => ?_⟩
  rw [tenant_modTenant]
  split
  · next h => rw [hf, h]
  · rfl

theorem foldl {α : Type} {f : State → α → State} (h : Ordered s t) (hf : ∀ v a, Ordered s v → Ordered s (f v a)) (l : List α) :
    Ordered s (l.foldl f t) :=
  foldl_keeps (P := Ordered s) h hf l

theorem markBegan (h : Ordered s t) (n i : Nat) : Ordered s (Machine.markBegan t n i) := by
  refine h.foldl (fun v j hv => ?_) _
  split
  · exact hv
  · exact hv.modTenant (fun _ => rfl) (fun _ => rfl)

theorem memberStart (h : Ordered s t) (n hd r : Nat) : Ordered s (Machine.memberStart t n hd r) := by
  unfold Machine.memberStart
  split
  · exact h
  · exact h.modTenant (fun _ => rfl) (fun _ => rfl)

theorem launches (h : Ordered s t) (n : Nat) : (tenant t n).launches = (tenant s n).launches := congrArg (·.1) (h.orders n)
theorem queues (h : Ordered s t) (n : Nat) : (tenant t n).queues = (tenant s n).queues := congrArg (·.2.1) (h.orders n)
theorem spawns (h : Ordered s t) (n : Nat) : (tenant t n).spawns = (tenant s n).spawns := congrArg (·.2.2) (h.orders n)

end Ordered

/-- A task as it starts on a core (R42): its record's shape, and one entry of 32 lanes at the entry point in each group. -/
def Fresh (tk : Task) (n c launch blk : Nat) (entry : VA) (prio : Byte) (args : List Word) (r : TaskRec) : Prop :=
  (tk.tenant, tk.core, tk.launch, tk.blk, tk.entry, tk.prio, tk.args) = (n, c, launch, blk, entry, prio, args) ∧
    (tk.ngrp, tk.granules, tk.scratchSize, tk.accRows) = (r.groups + 1, r.regs, 1024 * r.scratch, 32 * r.accg) ∧
    tk.scratch = [] ∧ tk.acc0 = [] ∧ tk.acc1 = [] ∧ tk.tds = [] ∧ tk.bars = [] ∧ tk.queues = [] ∧
    ∀ g, if g < r.groups + 1 then ∃ x, mget tk.groups g = some x ∧
        x.front.map Entry.view = [(x.front.headD (Entry.new 0 0 0 0)).id].map (fun i => (i, entry, 0xFFFFFFFF, prio, false)) ∧
        x.trap = none ∧ x.v = [] ∧ x.sr = [] ∧ x.pr = [] ∧ x.toks = []
      else mget tk.groups g = none

theorem mget_zipIdx {α β : Type} (f : α × Nat → β) (l : List α) (k g : Nat) :
    mget ((l.zipIdx k).map (fun p => (p.2, f p))) (k + g) = (l[g]?).map (fun a => f (a, k + g)) := by
  induction l generalizing k g with
  | nil => rfl
  | cons a l ih =>
    rw [List.zipIdx_cons, List.map_cons]
    cases g with
    | zero => simp [mget]
    | succ g =>
      have hk : k + (g + 1) = k + 1 + g := by omega
      rw [hk, mget, if_neg (by omega), ih (k + 1) g]
      rfl

theorem length_pickSlots (n : Nat) (used : List (Nat × Nat)) : (pickSlots n used).length = n := by
  induction n generalizing used with
  | zero => rfl
  | succ n ih => simp [pickSlots, ih]

/-- The core has acquired, and the launch of a block has begun. -/
def acquiredStart (s : State) (n c launch : Nat) (prop : Bool) : State :=
  if prop then dropCode (acqAct s c .package) c else markBegan (dropCode (acqAct s c .package) c) n launch

theorem ordered_acquiredStart (s : State) (n c launch : Nat) (prop : Bool) : Ordered s (acquiredStart s n c launch prop) := by
  have hcode : Ordered s (dropCode (acqAct s c .package) c) :=
    ((Ordered.refl s).cacheOnly (cacheOnly_acqAct s c .package)).cacheOnly (cacheOnly_setCore _ _ _)
  unfold acquiredStart
  split
  · exact hcode
  · exact hcode.markBegan _ _

/-- The groups of a task that starts in state s1, each in its slot. -/
def startedGroups (s1 : State) (c : Nat) (entry : VA) (prio : Byte) (r : TaskRec) : Map Group :=
  (pickSlots (r.groups + 1) (usedSlots s1 c)).zipIdx.map (fun p =>
    (p.2, Group.start p.1.1 p.1.2 (s1.serial + 1 + p.2) entry prio))

/-- The task that starts in state s1. -/
def startedTask (s1 : State) (n c launch blk : Nat) (entry : VA) (prio : Byte) (args : List Word) (org : Origin)
    (traced : Option (Nat × Nat)) (prop spawned : Bool) : Task :=
  { Task.start n c launch blk entry prio args org (org.trec.groups + 1) org.trec.regs (1024 * org.trec.scratch) (32 * org.trec.accg)
    with groups := startedGroups s1 c entry prio org.trec, traced := traced, prop := prop, spawned := spawned, chargedAt := s1.cycle,
         stopReq := if !prop && (tenant s1 n).preStop.contains (launch, blk) then some (3, 0) else none }

theorem fresh_startedTask (s1 : State) (n c launch blk : Nat) (entry : VA) (prio : Byte) (args : List Word) (org : Origin)
    (traced : Option (Nat × Nat)) (prop spawned : Bool) :
    Fresh (startedTask s1 n c launch blk entry prio args org traced prop spawned) n c launch blk entry prio args org.trec := by
  refine ⟨rfl, rfl, rfl, rfl, rfl, rfl, rfl, rfl, fun g => ?_⟩
  have hget : mget (startedGroups s1 c entry prio org.trec) g = ((pickSlots (org.trec.groups + 1) (usedSlots s1 c))[g]?).map
      (fun a => Group.start a.1 a.2 (s1.serial + 1 + g) entry prio) := by
    have := mget_zipIdx (fun p : (Nat × Nat) × Nat => Group.start p.1.1 p.1.2 (s1.serial + 1 + p.2) entry prio)
      (pickSlots (org.trec.groups + 1) (usedSlots s1 c)) 0 g
    rw [Nat.zero_add] at this
    exact this
  show if g < org.trec.groups + 1 then ∃ x, mget (startedGroups s1 c entry prio org.trec) g = some x ∧ _
    else mget (startedGroups s1 c entry prio org.trec) g = none
  rw [hget]
  split
  · next hlt =>
    rw [List.getElem?_eq_getElem (by rw [length_pickSlots]; exact hlt)]
    exact ⟨_, rfl, rfl, rfl, rfl, rfl, rfl, rfl⟩
  · next hge =>
    rw [List.getElem?_eq_none (by rw [length_pickSlots]; omega)]
    rfl

/-- A tenant whose task has started on a core: its context is there. -/
def Tenant.entered (c launch blk cycle : Nat) (x : Tenant) : Tenant :=
  { x with preStop := x.preStop.filter (fun p => p != (launch, blk)),
           ctxs := if (mget x.ctxs c).isSome then x.ctxs else
             mput x.ctxs c { since := cycle, hang := 0, phase := .resident, check := [] } }

/-- State s1 with a started task in it. -/
def withTask (s1 : State) (n c launch blk groups : Nat) (tk : Task) : State :=
  modTenant { s1 with serial := s1.serial + 1 + groups, tasks := mput s1.tasks s1.serial tk } n
    (Tenant.entered c launch blk s1.cycle)

theorem startTask_cases (s : State) (n c launch blk : Nat) (entry : VA) (prio : Byte) (args : List Word) (org : Origin)
    (traced : Option (Nat × Nat)) (prop spawned : Bool) :
    let s1 := acquiredStart s n c launch prop
    let s2 := withTask s1 n c launch blk (org.trec.groups + 1) (startedTask s1 n c launch blk entry prio args org traced prop spawned)
    startTask s n c launch blk entry prio args org traced prop spawned = s2 ∨
      ∃ h k, startTask s n c launch blk entry prio args org traced prop spawned = memberStart s2 n h k := by
  intro s1 s2
  cases traced with
  | none => exact Or.inl rfl
  | some hk =>
    cases prop with
    | false => exact Or.inl rfl
    | true => exact Or.inr ⟨hk.1, hk.2, rfl⟩

theorem ordered_withTask {s s1 : State} (h : Ordered s s1) (n c launch blk groups : Nat) (tk : Task) :
    Ordered { s with tasks := mput s.tasks s1.serial tk } (withTask s1 n c launch blk groups tk) := by
  have hput : Ordered { s with tasks := mput s.tasks s1.serial tk }
      { s1 with serial := s1.serial + 1 + groups, tasks := mput s1.tasks s1.serial tk } :=
    ⟨by rw [← h.tasks], h.memory, h.csrs, h.rrTen, h.cycle, h.orders⟩
  exact hput.modTenant (f := Tenant.entered c launch blk s1.cycle) (fun _ => rfl) (fun _ => rfl)

theorem startTask_fresh (s : State) (n c launch blk : Nat) (entry : VA) (prio : Byte) (args : List Word) (org : Origin)
    (traced : Option (Nat × Nat)) (prop spawned : Bool) :
    ∃ k tk, Ordered { s with tasks := mput s.tasks k tk } (startTask s n c launch blk entry prio args org traced prop spawned) ∧
      Fresh tk n c launch blk entry prio args org.trec := by
  refine ⟨(acquiredStart s n c launch prop).serial, _, ?_, fresh_startedTask (acquiredStart s n c launch prop) n c launch blk entry prio args org traced prop spawned⟩
  have hwith := ordered_withTask (ordered_acquiredStart s n c launch prop) n c launch blk (org.trec.groups + 1)
    (startedTask (acquiredStart s n c launch prop) n c launch blk entry prio args org traced prop spawned)
  rcases startTask_cases s n c launch blk entry prio args org traced prop spawned with h | ⟨h, k, hk⟩
  · rw [h]; exact hwith
  · rw [hk]; exact hwith.memberStart _ _ _

/-- The task stands where it was placed, and every other as it was. -/
theorem taskPlaced_of_fresh {s t : State} {k n c launch blk : Nat} {tk : Task} {entry : VA} {prio : Byte} {args : List Word}
    {r : TaskRec} (htasks : t.tasks = mput s.tasks k tk) (hfresh : Fresh tk n c launch blk entry prio args r) :
    TaskPlaced s t n c launch blk entry prio args r := by
  obtain ⟨hplace, hshape, hempty⟩ := hfresh
  refine ⟨k, tk, fun u hu => ?_, ?_, hplace, hshape, hempty⟩
  · simp [task, htasks, hu]
  · simp [task, htasks]

/-! ### Dispatch decisions (R49, R51 to R53) -/

theorem spawn_dispatched {s : State} {n c : Nat} {p : Spawned} (hturn : turnOf s = some n) (hdec : decision s n = some (.spawn p))
    (hfits : fitsOn s n c none p.org.trec = true) :
    ∃ t, dispatch s n c = some t ∧ TaskPlaced s t n c p.launch p.blk p.entry p.prio p.args p.org.trec ∧ t.rrTen = n ∧
      SameMemory s t ∧ SameCsrs s t ∧ (tenant t n).spawns = (tenant s n).spawns.erase p := by
  obtain ⟨s1, hs1⟩ : ∃ s1, s1 = modTenant { s with rrTen := n } n (fun y => { y with spawns := y.spawns.erase p }) := ⟨_, rfl⟩
  obtain ⟨k, tk, hord, hfresh⟩ := startTask_fresh s1 n c p.launch p.blk p.entry p.prio p.args p.org p.traced p.prop true
  refine ⟨startTask s1 n c p.launch p.blk p.entry p.prio p.args p.org p.traced p.prop true, ?_,
    taskPlaced_of_fresh (k := k) ?_ hfresh, ?_, ?_, ?_, ?_⟩
  · simp only [dispatch, hturn, hdec, hfits, bne_self_eq_false, Bool.false_eq_true, if_false, Bool.not_true]
    rw [hs1]
  · rw [hord.tasks, hs1]; rfl
  · rw [hord.rrTen, hs1]; rfl
  · intro m a
    rw [hord.memory, hs1]; rfl
  · intro m r
    rw [hord.csrs]
    show csrGet s1 m r = _
    rw [hs1]
    exact csrGet_modTenant_of_csr (s := { s with rrTen := n }) (by intro; rfl) m r
  · rw [hord.spawns]
    show (tenant s1 n).spawns = _
    rw [hs1, tenant_modTenant, if_pos rfl]
    rfl

/-- A launch whose blocks below b + 1 have been dispatched, and a queue of a tenant that has dispatched. -/
def Tenant.advanced (i b : Nat) (l : Launch) (x : Tenant) : Tenant :=
  { x with launches := mput x.launches i { l with next := b + 1 } }

theorem placeHead_eq {s : State} {n c q i b : Nat} {l : Launch} (hstream : l.trec.stream = true → l.trec.det = true ∨ l.strB ≠ none)
    (hnext : nextBlock l = some b) :
    placeHead s n c q i l = queueFired (modTenant (startBlock s n c i l b) n (Tenant.advanced i b l)) n q := by
  have hno : (l.trec.stream && !l.trec.det && l.strB.isNone) = false := by
    by_cases hs : l.trec.stream = true
    · rcases hstream hs with hd | hb
      · simp [hd]
      · cases hstr : l.strB with
        | none => exact absurd hstr hb
        | some k => simp
    · simp [hs]
  unfold placeHead
  rw [hnext]
  simp only [hno, Bool.false_eq_true, if_false]
  rfl

/-- A queue that has dispatched, in its tenant. -/
def Tenant.fired (q cycle : Nat) (x : Tenant) : Tenant :=
  { x with rrq := q
           queues := mput x.queues q { recs := (mgetD ⟨[], 0, false, 0⟩ x.queues q).recs.filter (fun i =>
          (mget x.launches i).any (fun l => (nextBlock l).isSome)), since := cycle, fired := true, bump := 0 } }

theorem queueFired_eq (s : State) (n q : Nat) : queueFired s n q = modTenant s n (Tenant.fired q s.cycle) := rfl

theorem queue_dispatched {s : State} {n c q i b : Nat} {l : Launch} (hturn : turnOf s = some n)
    (hdec : decision s n = some (.queue q i l)) (hfits : fitsOn s n c none l.trec = true)
    (hstream : l.trec.stream = true → l.trec.det = true ∨ l.strB ≠ none) (hnext : nextBlock l = some b) :
    ∃ t, dispatch s n c = some t ∧ TaskPlaced s t n c i b l.trec.entry l.trec.prio l.trec.args l.trec ∧ t.rrTen = n ∧
      SameMemory s t ∧ SameCsrs s t ∧ mget (tenant t n).launches i = some { l with next := b + 1 } ∧
      (queueOf t n q).since = s.cycle ∧ (queueOf t n q).bump = 0 := by
  obtain ⟨k, tk, hord, hfresh⟩ := startTask_fresh { s with rrTen := n } n c i b l.trec.entry l.trec.prio l.trec.args
    (originOf { s with rrTen := n } n i l.trec (l.strB.getD l.trec.blocks)) (topRecord { s with rrTen := n } n i b) false false
  obtain ⟨s1, hs1⟩ : ∃ s1, s1 = startBlock { s with rrTen := n } n c i l b := ⟨_, rfl⟩
  have hord1 : Ordered { s with rrTen := n, tasks := mput s.tasks k tk } s1 := by rw [hs1]; exact hord
  have hcsr : SameCsrs s1 (queueFired (modTenant s1 n (Tenant.advanced i b l)) n q) := fun m r =>
    (csrGet_modTenant_of_csr (f := Tenant.fired q s1.cycle) (fun _ => rfl) m r).trans
      (csrGet_modTenant_of_csr (f := Tenant.advanced i b l) (fun _ => rfl) m r)
  have hten : tenant (queueFired (modTenant s1 n (Tenant.advanced i b l)) n q) n =
      Tenant.fired q s1.cycle (Tenant.advanced i b l (tenant s1 n)) := by
    rw [queueFired_eq, tenant_modTenant, if_pos rfl, tenant_modTenant, if_pos rfl]
    rfl
  refine ⟨queueFired (modTenant s1 n (Tenant.advanced i b l)) n q, ?_, taskPlaced_of_fresh hord1.tasks hfresh, hord1.rrTen,
    hord1.memory, fun m r => (hcsr m r).trans (hord1.csrs m r), ?_, ?_, ?_⟩
  · simp only [dispatch, hturn, hdec, hfits, bne_self_eq_false, Bool.false_eq_true, if_false, if_true]
    rw [placeHead_eq hstream hnext, hs1]
  · rw [hten]
    simp [Tenant.fired, Tenant.advanced]
  · rw [queueOf, hten]
    simp only [Tenant.fired, mgetD, mget_mput, if_true, Option.getD_some]
    exact hord1.cycle
  · rw [queueOf, hten]
    simp [Tenant.fired, mgetD]

/-! ### A saved context called back (R49, R412) -/

/-- The state that an access to a slot leaves. -/
def SlotRes.state : SlotRes → State
  | .ok s => s
  | .wait s => s
  | .bad s _ => s

theorem served_slotReach (n : Nat) (w : Want) (ps : List (Nat × Nat)) {s u : State} (h : Served s u) :
    Served s (slotReach n w ps u).state := by
  induction ps generalizing u with
  | nil => exact h
  | cons p ps ih =>
    have hreach := h.reach 4 n (tenantRoot u n) p.1 w
    unfold slotReach
    split
    · next hr =>
      rw [hr] at hreach
      split
      · exact hreach
      · exact ih hreach
    all_goals next hr => rw [hr] at hreach; exact hreach

theorem served_slotPut (s : State) (n c off : Nat) (bs : List Byte) : Served s (slotPut s n c off bs).state := by
  have hreach := served_slotReach n ⟨false, true, false, false⟩ (chunksOf (slotVa s n c + off) bs.length) (Served.refl s)
  unfold slotPut
  dsimp only
  split
  · next hr => rw [hr] at hreach; exact hreach.devWrite _ _ _ _ _ _ _
  · exact hreach

theorem ctxOf_setCtx (s : State) (n c : Nat) (f : Context → Context) : ctxOf (setCtx s n c f) n c = (ctxOf s n c).map f := by
  unfold ctxOf setCtx
  rw [tenant_modTenant, if_pos rfl]
  simp

theorem ctxOf_of_served {s t : State} (h : Served s t) (n c : Nat) : ctxOf t n c = ctxOf s n c := by
  have := ((Kept.refl [0x046] s).served h (by simp)).ctxs n
  unfold ctxOf
  rw [this]

theorem phase_slotState (s : State) (n c st : Nat) : (ctxOf (slotState s n c st) n c).map (·.phase) = (ctxOf s n c).map (·.phase) := by
  have hctx := ctxOf_of_served (served_slotPut s n c 0 [stateByte s n st]) n c
  unfold slotState
  split
  all_goals
    next hr =>
    rw [← hctx, hr]
    simp [SlotRes.state, ctxOf_setCtx, Function.comp_def]

theorem back_dispatched {s : State} {n c : Nat} (hturn : turnOf s = some n) (hdec : decision s n = some .back)
    (hcan : canReturn s n c = true) :
    ∃ t, dispatch s n c = some t ∧ (ctxOf t n c).map (·.phase) = some .restoring := by
  obtain ⟨x, hx⟩ : ∃ x, ctxOf s n c = some x := by
    unfold canReturn at hcan
    cases h : ctxOf s n c with
    | none => rw [h] at hcan; cases hcan
    | some x => exact ⟨x, rfl⟩
  refine ⟨slotState (setCtx { s with rrTen := n } n c (fun x => { x with phase := .restoring })) n c 3, ?_, ?_⟩
  · simp only [dispatch, hturn, hdec, hcan, bne_self_eq_false, Bool.false_eq_true, if_false, if_true]
  · rw [phase_slotState, ctxOf_setCtx]
    have : ctxOf { s with rrTen := n } n c = some x := hx
    rw [this]
    rfl

/-! ### Ageing (R51) -/

theorem exec_queueAging (n q : Nat) (s : State) : exec (.queueAging n q) s = fire (queueAging s n q) s := rfl

/-- A queue of a tenant one millisecond older. -/
def Tenant.aged (q : Nat) (x : DevQueue) (y : Tenant) : Tenant := { y with queues := mput y.queues q { x with bump := x.bump + 1 } }

theorem queueAging_due {s : State} {n q : Nat} (hne : (queueOf s n q).recs ≠ [])
    (hdue : (queueOf s n q).since + 850000 * ((queueOf s n q).bump + 1) ≤ s.cycle) :
    ∃ t, queueAging s n q = some t ∧ { t with tens := s.tens } = s ∧
      queueOf t n q = { queueOf s n q with bump := (queueOf s n q).bump + 1 } ∧ ∀ k, k ≠ q → queueOf t n k = queueOf s n k := by
  have hcond : ((queueOf s n q).recs.isEmpty || decide (s.cycle < (queueOf s n q).since + 850000 * ((queueOf s n q).bump + 1))) = false := by
    simpa using ⟨hne, hdue⟩
  refine ⟨modTenant s n (Tenant.aged q (queueOf s n q)), ?_, rfl, ?_, fun k hk => ?_⟩
  · unfold queueAging
    simp only [hcond, Bool.false_eq_true, if_false]
    rfl
  · rw [queueOf, tenant_modTenant, if_pos rfl]
    simp [Tenant.aged, mgetD]
  · rw [queueOf, tenant_modTenant, if_pos rfl]
    simp [Tenant.aged, mgetD, hk, queueOf]

end Sys2Proof.Machine
end
section
/-! SUPPORT. Contexts that hang: their report, and blocks that end or are held (R54). -/

namespace Sys2Proof.Machine

open Host

/-! ### Reports (R421) -/

/-- The CSRs that a report may move: the heads and tails of the frame pool's and the reports' rings, and the status. -/
def reportCsrs : List Nat := [0x046, 0x059, 0x05A]

theorem kept_report (s : State) (tid kind : Nat) (cause : Byte) (infos : List (Nat × TrapInfo)) (edges : List Nat) :
    Kept reportCsrs s (report s tid kind cause infos edges) := by
  unfold report
  split
  · exact Kept.refl _ s
  · next t _ =>
    have hput := fun us f => (Kept.refl reportCsrs s).ringPut t.tenant 0x055 0x057 0x058 0x059 64 us f (by decide) (by decide)
    dsimp only
    split
    · exact (hput _ _).csrSet _ _ _ (by decide)
    · exact hput _ _

/-- A report that finds no room is noted beside bit 0 of the status. -/
theorem hold_report (s : State) (tid kind : Nat) (cause : Byte) (infos : List (Nat × TrapInfo)) (edges : List Nat) (n : Nat) :
    (csrGet (report s tid kind cause infos edges) n 0x05A).getLsbD 0 = (csrGet s n 0x05A).getLsbD 0 := by
  unfold report
  split
  · rfl
  · next t _ =>
    have hput := fun us f => ((Kept.refl [0x046, 0x059] s).ringPut t.tenant 0x055 0x057 0x058 0x059 64 us f (by decide)
      (by decide)).csrs
    dsimp only
    split
    · rw [csrGet_csrSet]
      split
      · next h =>
        rw [hput _ _ _ _ (by decide), ← h.1]
        simp
      · rw [hput _ _ _ _ (by decide)]
    · rw [hput _ _ _ _ (by decide)]

/-! ### Blocks that end or are held (R54) -/

theorem nb_one_iff (w : Word) (i : Nat) : nb w.toNat i 1 = 1 ↔ w.getLsbD i = true := by
  simp [nb, BitVec.getLsbD, Nat.testBit_eq_decide_div_mod_eq]

/-- A block that the hang detector has stopped: held, or at its end with a fault. -/
def Stopped (hold : Bool) (t : Task) : Prop :=
  if hold then t.run = .held none else (t.groups, t.run, t.faulted) = ([], .running, true)

theorem stopped_woken {hold : Bool} {t : Task} (h : Stopped hold t) : Stopped hold t.woken := by
  unfold Stopped at h ⊢
  split at h
  · next hh => rw [if_pos hh]; exact h
  · next hh =>
    rw [if_neg hh]
    simp only [Prod.mk.injEq] at h ⊢
    exact ⟨by simp [Task.woken, h.1], h.2⟩

/-- What ending or holding one block does to a task. -/
theorem task_endOrHold (s : State) (tid u : Nat) (x : Task) (hx : task s u = some x) :
    ∃ y, task (endOrHold s tid none) u = some y ∧ y.tenant = x.tenant ∧
      ((u = tid ∨ Stopped ((csrGet s x.tenant 0x05A).getLsbD 0) x) → Stopped ((csrGet s x.tenant 0x05A).getLsbD 0) y) := by
  unfold endOrHold
  cases ht : task s tid with
  | none => exact ⟨x, hx, rfl, fun h => h.elim (fun he => by rw [he, ht] at hx; cases hx) id⟩
  | some t =>
    have hbit := nb_one_iff (csrGet s t.tenant 0x05A) 0
    by_cases hhold : nb (csrGet s t.tenant 0x05A).toNat 0 1 = 1
    · simp only [hhold, if_true, task_setTask]
      by_cases hu : u = tid
      · have hxt : x = t := by rw [hu, ht] at hx; exact (Option.some.inj hx).symm
        rw [if_pos hu, hxt, hbit.mp hhold]
        exact ⟨_, rfl, rfl, fun _ => rfl⟩
      · rw [if_neg hu]
        exact ⟨x, hx, rfl, fun h => h.elim (fun he => absurd he hu) id⟩
    · simp only [hhold, if_false]
      unfold finishTask
      have hkept := ((Kept.refl Kept.sampleCsrs s).cancelTags tid t).dropOps tid
      simp only [ht, task_wakeAll, task_setTask, hkept.task]
      by_cases hu : u = tid
      · have hxt : x = t := by rw [hu, ht] at hx; exact (Option.some.inj hx).symm
        have hnot : (csrGet s t.tenant 0x05A).getLsbD 0 = false := by rw [← Bool.not_eq_true]; exact fun h => hhold (hbit.mpr h)
        rw [if_pos hu, hxt, hnot]
        exact ⟨_, rfl, rfl, fun _ => rfl⟩
      · rw [if_neg hu, hx]
        exact ⟨_, rfl, rfl, fun h => stopped_woken (h.elim (fun he => absurd he hu) id)⟩

theorem status_endOrHold (s : State) (tid n : Nat) : csrGet (endOrHold s tid none) n 0x05A = csrGet s n 0x05A := by
  unfold endOrHold
  split
  · rfl
  · next t ht =>
    split
    · rfl
    · unfold finishTask
      rw [ht]
      exact (((Kept.refl Kept.sampleCsrs s).cancelTags tid t).dropOps tid).csrs n 0x05A (by decide)

theorem task_endOrHolds (l : List (Nat × Task)) (s : State) (u : Nat) (x : Task) (hx : task s u = some x) :
    ∃ y, task (l.foldl (fun s p => endOrHold s p.1 none) s) u = some y ∧ y.tenant = x.tenant ∧
      ((u ∈ l.map (·.1) ∨ Stopped ((csrGet s x.tenant 0x05A).getLsbD 0) x) → Stopped ((csrGet s x.tenant 0x05A).getLsbD 0) y) := by
  induction l generalizing s x with
  | nil => exact ⟨x, hx, rfl, fun h => h.elim (fun h => absurd h (by simp)) id⟩
  | cons p l ih =>
    obtain ⟨y, hy, hten, hstop⟩ := task_endOrHold s p.1 u x hx
    obtain ⟨z, hz, hten2, hstop2⟩ := ih (endOrHold s p.1 none) y hy
    rw [status_endOrHold, hten] at hstop2
    refine ⟨z, hz, hten2.trans hten, fun h => hstop2 ?_⟩
    rw [List.map_cons, List.mem_cons, or_assoc] at h
    rcases h with h | h | h
    · exact Or.inr (hstop (Or.inl h))
    · exact Or.inl h
    · exact Or.inr (hstop (Or.inr h))

theorem mem_sortBlk {p : Nat × Task} {l : List (Nat × Task)} : p ∈ sortBlk l ↔ p ∈ l := by
  have hinsert : ∀ (q : Nat × Task) (l : List (Nat × Task)), p ∈ insertBlk q l ↔ p = q ∨ p ∈ l := by
    intro q l
    induction l with
    | nil => simp [insertBlk]
    | cons a l ih =>
      unfold insertBlk
      split
      · simp
      · rw [List.mem_cons, ih, List.mem_cons]
        tauto
  have hfold : ∀ (l acc : List (Nat × Task)), p ∈ l.foldl (fun acc p => insertBlk p acc) acc ↔ p ∈ l ∨ p ∈ acc := by
    intro l
    induction l with
    | nil => simp
    | cons a l ih =>
      intro acc
      rw [List.foldl_cons, ih, hinsert, List.mem_cons]
      tauto
  rw [sortBlk, hfold]
  simp

theorem exec_hangDetect (n c : Nat) (s : State) : exec (.hangDetect n c) s = fire (hangDetect s n c) s := rfl

theorem kept_reports (l : List (Nat × Task)) (s : State) :
    Kept reportCsrs s (l.foldl (fun s p => report s p.1 2 causeHang [] (edgesOf s p.2)) s) :=
  (Kept.refl _ s).foldl (fun v _ hv => hv.trans (kept_report v _ _ _ _ _)) l

theorem hold_reports (l : List (Nat × Task)) (s : State) (n : Nat) :
    (csrGet (l.foldl (fun s p => report s p.1 2 causeHang [] (edgesOf s p.2)) s) n 0x05A).getLsbD 0 =
      (csrGet s n 0x05A).getLsbD 0 := by
  induction l generalizing s with
  | nil => rfl
  | cons p l ih => rw [List.foldl_cons, ih, hold_report]

theorem hangDetect_stops {s : State} {n c : Nat} {x : Context} (hx : ctxOf s n c = some x)
    (hon : (csrGet s n 0x020).getLsbD 1 = true) (hlimit : 2 ^ ((csrGet s n 0x022).toNat % 64) ≤ x.hang)
    (hhangs : ctxHangs s n c = true) :
    ∃ t, hangDetect s n c = some t ∧ ∀ tid tk, task s tid = some tk → tk.tenant = n → tk.core = c → tk.saved = false →
      ∃ y, task t tid = some y ∧ Stopped ((csrGet s n 0x05A).getLsbD 0) y := by
  obtain ⟨ts, hts⟩ : ∃ ts, ts = sortBlk (s.tasks.filter (fun p => p.2.tenant == n && p.2.core == c && !p.2.saved)) := ⟨_, rfl⟩
  obtain ⟨s1, hs1⟩ : ∃ s1, s1 = ts.foldl (fun (s : State) p => report s p.1 2 causeHang [] (edgesOf s p.2)) s := ⟨_, rfl⟩
  have hkept : Kept reportCsrs s s1 := by rw [hs1]; exact kept_reports ts s
  have hhold : (csrGet s1 n 0x05A).getLsbD 0 = (csrGet s n 0x05A).getLsbD 0 := by rw [hs1]; exact hold_reports ts s n
  refine ⟨setCtx (ts.foldl (fun (s : State) p => endOrHold s p.1 none) s1) n c (fun y => { y with hang := 0 }), ?_,
    fun tid tk htk hn hc hsaved => ?_⟩
  · have hon1 : ¬ nb (csrGet s n 0x020).toNat 1 1 = 0 := by rw [(nb_one_iff _ 1).mpr hon]; decide
    have hlimit1 : ¬ x.hang < 2 ^ nb (csrGet s n 0x022).toNat 0 6 := by simpa [nb] using hlimit
    unfold hangDetect
    simp only [hx, hon1, hlimit1, hhangs, Bool.not_true, Bool.false_eq_true, or_self, if_false]
    rw [hs1, hts]
  · obtain ⟨y, hy, -, hstop⟩ := task_endOrHolds ts s1 tid tk ((hkept.task tid).trans htk)
    refine ⟨y, hy, ?_⟩
    rw [hn, hhold] at hstop
    refine hstop (Or.inl (List.mem_map.mpr ⟨(tid, tk), ?_, rfl⟩))
    rw [hts, mem_sortBlk, List.mem_filter]
    exact ⟨mem_of_mget htk, by simp [hn, hc, hsaved]⟩

end Sys2Proof.Machine
end
section
/-! SUPPORT. Counting and cancelling: what they leave of tasks and traces (R45 to R48, R316). -/

namespace Sys2Proof.Machine

open Host

/-! ### Counting and cancelling (R45 to R48, R316): what they leave of tasks and traces -/

/-- Every task is as it was, but for groups that no longer stall. -/
def SameTasks (s t : State) : Prop := ∀ tid, (task t tid).map Task.woken = (task s tid).map Task.woken

/-- Every propagation runs for a job for which one ran before. -/
def PropJobs (s t : State) : Prop :=
  ∀ n, ∀ p ∈ (tenant t n).traces, ∀ r, p.2.prop = some r → ∃ q ∈ (tenant s n).traces, ∃ r', q.2.prop = some r' ∧ r'.job = r.job

theorem propJobs_of_traces {s t : State} (h : ∀ n, (tenant t n).traces = (tenant s n).traces) : PropJobs s t :=
  fun n p hp r hr => ⟨p, h n ▸ hp, r, hr, rfl⟩

theorem PropJobs.trans {s t u : State} (h : PropJobs s t) (k : PropJobs t u) : PropJobs s u := by
  intro n p hp r hr
  obtain ⟨q, hq, r', hr', hjob⟩ := k n p hp r hr
  obtain ⟨q2, hq2, r2, hr2, hjob2⟩ := h n q hq r' hr'
  exact ⟨q2, hq2, r2, hr2, hjob2.trans hjob⟩

/-- What the distributor's counting leaves: tasks but for stalls, the script, the cycle count, and no new propagation. -/
structure Tallied (s t : State) : Prop where
  tasks : SameTasks s t
  script : t.script = s.script
  cycle : t.cycle = s.cycle
  props : PropJobs s t

theorem woken_woken (t : Task) : t.woken.woken = t.woken := by
  simp [Task.woken, Group.woken, Function.comp_def]

namespace Tallied
variable {s t u : State}

theorem refl (s : State) : Tallied s s := ⟨fun _ => rfl, rfl, rfl, propJobs_of_traces (fun _ => rfl)⟩

theorem trans (h : Tallied s t) (k : Tallied t u) : Tallied s u :=
  ⟨fun tid => (k.tasks tid).trans (h.tasks tid), k.script.trans h.script, k.cycle.trans h.cycle, h.props.trans k.props⟩

theorem none_task (h : Tallied s t) {tid : Nat} (hn : task s tid = none) : task t tid = none := by
  have := h.tasks tid
  rw [hn] at this
  simpa using this

theorem kept {rs : List Nat} (h : Tallied s t) (k : Kept rs t u) : Tallied s u :=
  h.trans ⟨fun tid => by rw [k.task], k.script, k.cycle, propJobs_of_traces k.traces⟩

theorem wakeAll (h : Tallied s t) : Tallied s (Machine.wakeAll t) := by
  refine h.trans ⟨fun tid => ?_, rfl, rfl, propJobs_of_traces (fun _ => rfl)⟩
  rw [task_wakeAll, Option.map_map]
  congr 1
  funext x
  exact woken_woken x

theorem modTenant (h : Tallied s t) {n : Nat} {f : Tenant → Tenant} (hf : ∀ x, (f x).traces = x.traces) :
    Tallied s (Machine.modTenant t n f) := by
  refine h.trans ⟨fun _ => rfl, rfl, rfl, propJobs_of_traces (fun m => ?_)⟩
  rw [tenant_modTenant]
  split
  · next h => rw [hf, h]
  · rfl

theorem foldl {α : Type} {f : State → α → State} (h : Tallied s t) (hf : ∀ v a, Tallied s v → Tallied s (f v a)) (l : List α) :
    Tallied s (l.foldl f t) :=
  foldl_keeps (P := Tallied s) h hf l

end Tallied

/-! ### Watches (R368, R369) -/

namespace Kept
variable {rs : List Nat} {s t : State}

theorem writeHost (h : Kept rs s t) (a : Nat) (x : Byte) : Kept rs s (Machine.writeHost t a x) :=
  h.step rfl rfl rfl rfl rfl rfl

theorem cqWrite (h : Kept rs s t) (n : Nat) (e : BitVec 128) : Kept rs s (Machine.cqWrite t n e) := by
  unfold Machine.cqWrite raiseMsi
  dsimp only
  generalize hz : List.foldl _ t _ = z
  have hk : Kept rs s z := by
    rw [← hz]
    exact h.foldl (fun v p hv => hv.writeHost _ _) _
  clear hz
  generalize hz2 : Machine.modTenant z n _ = z2
  have hk2 : Kept rs s z2 := by
    rw [← hz2]
    exact hk.modTenant (fun _ => rfl) (fun _ => rfl)
  exact hk2.step rfl rfl rfl rfl rfl rfl

theorem cqPut (h : Kept rs s t) (n : Nat) (e : BitVec 128) : Kept rs s (Machine.cqPut t n e) := by
  unfold Machine.cqPut
  split
  · exact h
  split
  · exact h.modTenant (fun _ => rfl) (fun _ => rfl)
  · exact h.cqWrite _ _

theorem fregSet (h : Kept rs s t) (n o : Nat) (w : Word) : Kept rs s (Machine.fregSet t n o w) :=
  h.modTenant (fun _ => rfl) (fun _ => rfl)

theorem fireWatches (h : Kept rs s t) (n i : Nat) : Kept rs s (Machine.fireWatches t n i) := by
  refine h.foldl (fun v w hv => ?_) _
  dsimp only
  split
  · exact (hv.cqPut _ _).fregSet _ _ _
  · exact hv

end Kept

/-! ### Counters -/

namespace Tallied
variable {s t : State}

theorem setCounter (h : Tallied s t) (n i : Nat) (c : Counter) : Tallied s (Machine.setCounter t n i c) := h.modTenant (fun _ => rfl)

theorem fireWatches (h : Tallied s t) (n i : Nat) : Tallied s (Machine.fireWatches t n i) :=
  h.kept ((Kept.refl [] t).fireWatches n i)

theorem countUpFrom (m : Nat) (h : Tallied s t) (n i k : Nat) (bad : Bool) : Tallied s (Machine.countUpFrom m t n i k bad) := by
  induction m generalizing t i k bad with
  | zero => exact h
  | succ m ih =>
    unfold Machine.countUpFrom
    split
    · exact h
    dsimp only
    split
    · exact h
    split
    · exact ih ((h.setCounter _ _ _).fireWatches _ _) _ _ _
    · exact h.setCounter _ _ _

theorem unqueue (h : Tallied s t) (n i : Nat) : Tallied s (Machine.unqueue t n i) := h.modTenant (fun _ => rfl)

theorem removeLaunch (h : Tallied s t) (n i : Nat) : Tallied s (Machine.removeLaunch t n i) := by
  unfold Machine.removeLaunch
  split
  · exact h
  split
  · exact h
  · refine countUpFrom _ (Tallied.fireWatches ?_ _ _) _ _ _ _
    exact ((h.unqueue _ _).setCounter _ _ _).modTenant (fun _ => rfl)

theorem sweepDeps (m : Nat) (h : Tallied s t) (n : Nat) : Tallied s (Machine.sweepDeps m t n) := by
  induction m generalizing t with
  | zero => exact h
  | succ m ih =>
    unfold Machine.sweepDeps
    dsimp only
    split
    · exact h.modTenant (fun _ => rfl)
    · refine ih (Tallied.removeLaunch ?_ _ _)
      exact h.modTenant (fun _ => rfl)

theorem settleDeps (h : Tallied s t) (n : Nat) : Tallied s (Machine.settleDeps t n) := sweepDeps _ h n

theorem countUp (h : Tallied s t) (n i k : Nat) (bad : Bool) : Tallied s (Machine.countUp t n i k bad) :=
  ((countUpFrom 4096 h n i k bad).settleDeps n).wakeAll

/-! ### Cancellation -/

theorem markEntries (h : Tallied s t) (n : Nat) (set : List Nat) (st : CStat) : Tallied s (Machine.markEntries t n set st) := by
  unfold Machine.markEntries
  dsimp only
  refine foldl (foldl (h.foldl (fun v i hv => ?_) _) (fun v i hv => ?_) _) (fun v i hv => ?_) _
  · split
    · exact hv
    · exact (hv.setCounter _ _ _).fireWatches _ _
  · exact (hv.unqueue _ _).modTenant (fun _ => rfl)
  · split
    · exact hv
    · exact countUpFrom _ hv _ _ _ _

theorem markJobs (h : Tallied s t) (n : Nat) (set : List Nat) : Tallied s (Machine.markJobs t n set) := by
  refine h.trans ⟨fun _ => rfl, rfl, rfl, fun m p hp r hr => ?_⟩
  unfold Machine.markJobs at hp
  dsimp only at hp
  rw [tenant_modTenant] at hp
  split at hp
  · next hm =>
    obtain ⟨q, hq, rfl⟩ := List.mem_map.mp hp
    refine ⟨q, hm ▸ hq, ?_⟩
    dsimp only at hr
    split at hr
    · obtain ⟨r', hr', rfl⟩ := Option.map_eq_some_iff.mp hr
      exact ⟨r', hr', rfl⟩
    · exact ⟨r, hr, rfl⟩
  · exact ⟨p, hp, r, hr, rfl⟩

theorem startCancel (h : Tallied s t) (n : Nat) (set : List Nat) (st : CStat) (tok : Option (Nat × Nat × Nat)) :
    Tallied s (Machine.startCancel t n set st tok) := by
  have hmark := ((h.markEntries n set st).settleDeps n).markJobs n set
  unfold Machine.startCancel
  dsimp only
  generalize Machine.markJobs (Machine.settleDeps (Machine.markEntries t n set st) n) n set = w at hmark
  refine Tallied.wakeAll (hmark.trans ⟨fun _ => rfl, rfl, rfl, propJobs_of_traces (fun _ => rfl)⟩)

theorem capBudgets (h : Tallied s t) (n : Nat) : Tallied s (Machine.capBudgets t n) := by
  refine h.foldl (fun v p hv => ?_) _
  split
  · exact hv.startCancel _ _ _ _
  · exact hv

theorem countTaskEnd (h : Tallied s t) (n launch blk : Nat) (bad : Bool) : Tallied s (Machine.countTaskEnd t n launch blk bad) := by
  unfold Machine.countTaskEnd
  split
  · split
    · refine Tallied.modTenant ?_ (fun _ => rfl)
      split
      · exact h.setCounter _ _ _
      · exact h
    · exact h.countUp _ _ _ _
  · exact h.countUp _ _ _ _

end Tallied

end Sys2Proof.Machine
end
section
/-! SUPPORT. Counters, charges, and the end of a task (R45, R59, R198). -/

namespace Sys2Proof.Machine

open Host

/-! ### Counters of a job's chain (R45, R59) -/

/-- What counting leaves of a counter: its place in the tree and its budget. -/
def Counter.bounds (c : Counter) : Nat × Nat × Nat := (c.parent, c.level, c.budget)

/-- A tenant's counters keep their bounds, and an entry that has ended BUDGET stays so. -/
structure Counted (n : Nat) (s t : State) : Prop where
  bounds : ∀ i, (counter t n i).map Counter.bounds = (counter s n i).map Counter.bounds
  capped : ∀ i, (counter s n i).map (·.status) = some .budget → (counter t n i).map (·.status) = some .budget

theorem counter_setCounter (s : State) (n i j : Nat) (c : Counter) (hi : (counter s n i).isSome = true) :
    counter (setCounter s n i c) n j = if j = i then some c else counter s n j := by
  have hne : i ≠ 0 := by
    rintro rfl
    simp [counter] at hi
  unfold counter setCounter
  rw [tenant_modTenant, if_pos rfl, mget_mput]
  by_cases hj : j = i
  · simp [hj, hne]
  · simp [hj]

theorem counter_modTenant (s : State) (m n : Nat) {f : Tenant → Tenant} (hf : ∀ x, (f x).ctr = x.ctr) (i : Nat) :
    counter (modTenant s m f) n i = counter s n i := by
  have hctr : (tenant (modTenant s m f) n).ctr = (tenant s n).ctr := by
    rw [tenant_modTenant]
    split
    · next hm => rw [hf, hm]
    · rfl
  unfold counter
  rw [hctr]

theorem counter_unqueue (s : State) (m n j i : Nat) : counter (unqueue s m j) n i = counter s n i := by
  unfold unqueue
  exact counter_modTenant s m n (by intro; rfl) i

namespace Counted
variable {n : Nat} {s t u : State}

theorem refl (n : Nat) (s : State) : Counted n s s := ⟨fun _ => rfl, fun _ h => h⟩

theorem trans (h : Counted n s t) (k : Counted n t u) : Counted n s u :=
  ⟨fun i => (k.bounds i).trans (h.bounds i), fun i hi => k.capped i (h.capped i hi)⟩

theorem of_counter (h : Counted n s t) (k : ∀ i, counter u n i = counter t n i) : Counted n s u :=
  h.trans ⟨fun i => by rw [k], fun i => by rw [k]; exact id⟩

theorem kept {rs : List Nat} (h : Counted n s t) (k : Kept rs t u) : Counted n s u := h.of_counter (fun i => k.counter n i)

theorem wakeAll (h : Counted n s t) : Counted n s (Machine.wakeAll t) := h.of_counter (fun _ => rfl)

theorem modTenant (h : Counted n s t) {m : Nat} {f : Tenant → Tenant} (hf : ∀ x, (f x).ctr = x.ctr) :
    Counted n s (Machine.modTenant t m f) := h.of_counter (counter_modTenant t m n hf)

theorem foldl {α : Type} {f : State → α → State} (h : Counted n s t) (hf : ∀ v a, Counted n s v → Counted n s (f v a))
    (l : List α) : Counted n s (l.foldl f t) :=
  foldl_keeps (P := Counted n s) h hf l

theorem setCounter (h : Counted n s t) {i : Nat} {c d : Counter} (hc : counter t n i = some c) (hb : d.bounds = c.bounds)
    (hst : c.status = .budget → d.status = .budget) : Counted n s (Machine.setCounter t n i d) := by
  have hget := fun j => counter_setCounter t n i j d (by rw [hc]; rfl)
  refine h.trans ⟨fun j => ?_, fun j hj => ?_⟩
  · rw [hget]
    split
    · next he => rw [he, hc, Option.map_some, Option.map_some, hb]
    · rfl
  · rw [hget]
    split
    · next he =>
      rw [he, hc] at hj
      exact congrArg some (hst (Option.some.inj hj))
    · exact hj

theorem fireWatches (h : Counted n s t) (m i : Nat) : Counted n s (Machine.fireWatches t m i) :=
  h.kept ((Kept.refl [] t).fireWatches m i)

theorem countUpFrom (m : Nat) (h : Counted n s t) (i k : Nat) (bad : Bool) : Counted n s (Machine.countUpFrom m t n i k bad) := by
  induction m generalizing t i k bad with
  | zero => exact h
  | succ m ih =>
    unfold Machine.countUpFrom
    split
    · exact h
    next c hc =>
    dsimp only
    split
    · exact h
    split
    · next hopen =>
      refine ih (Counted.fireWatches ?_ _ _) _ _ _
      refine h.setCounter hc rfl (fun hb => ?_)
      rw [hb] at hopen
      exact absurd hopen (by simp)
    · exact h.setCounter hc rfl id

theorem unqueue (h : Counted n s t) (m i : Nat) : Counted n s (Machine.unqueue t m i) := h.modTenant (fun _ => rfl)

theorem removeLaunch (h : Counted n s t) (i : Nat) : Counted n s (Machine.removeLaunch t n i) := by
  unfold Machine.removeLaunch
  split
  · exact h
  next c hc =>
  split
  · exact h
  · next hfinal =>
    refine countUpFrom _ (Counted.fireWatches ?_ _ _) _ _ _
    refine Counted.modTenant ?_ (fun _ => rfl)
    refine (h.unqueue n i).setCounter ((counter_unqueue t n n i i).trans hc) rfl (fun hb => absurd ?_ hfinal)
    rw [hb]
    rfl

theorem sweepDeps (m : Nat) (h : Counted n s t) : Counted n s (Machine.sweepDeps m t n) := by
  induction m generalizing t with
  | zero => exact h
  | succ m ih =>
    unfold Machine.sweepDeps
    dsimp only
    split
    · exact h.modTenant (fun _ => rfl)
    · refine ih (Counted.removeLaunch ?_ _)
      exact h.modTenant (fun _ => rfl)

theorem settleDeps (h : Counted n s t) : Counted n s (Machine.settleDeps t n) := sweepDeps _ h

theorem countUp (h : Counted n s t) (i k : Nat) (bad : Bool) : Counted n s (Machine.countUp t n i k bad) :=
  ((countUpFrom 4096 h i k bad).settleDeps).wakeAll

/-- An entry that ends BUDGET: it and what is below it. -/
theorem markOne (h : Counted n s t) (i : Nat) : Counted n s (match counter t n i with
    | none => t
    | some c => Machine.fireWatches (Machine.setCounter t n i { c with status := .budget }) n i) := by
  split
  · exact h
  · next c hc =>
    refine Counted.fireWatches ?_ _ _
    exact h.setCounter hc rfl (fun _ => rfl)

/-- What is left of a cancellation once the statuses of its entries are written. -/
theorem markRest (h : Counted n s t) (l : List Nat) :
    Counted n s (l.foldl (fun s i =>
      match counter s n i with
      | none => s
      | some c => Machine.countUpFrom 4096 s n c.parent 1 false)
      (l.foldl (fun s i => Machine.modTenant (Machine.unqueue s n i) n (fun x =>
        { x with launches := mmod x.launches i (fun l => { l with aborted := true }) })) t)) := by
  refine foldl (h.foldl (fun v i hv => ?_) _) (fun v i hv => ?_) _
  · exact (hv.unqueue _ _).modTenant (fun _ => rfl)
  · split
    · exact hv
    · exact countUpFrom _ hv _ _ _

theorem markEntries (h : Counted n s t) (set : List Nat) : Counted n s (Machine.markEntries t n set .budget) := by
  unfold Machine.markEntries
  dsimp only
  refine Counted.markRest ?_ _
  exact h.foldl (fun _ i hv => hv.markOne i) _

theorem startCancel_of_mark {set : List Nat} {st : CStat} (h : Counted n s (Machine.markEntries t n set st))
    (tok : Option (Nat × Nat × Nat)) : Counted n s (Machine.startCancel t n set st tok) := by
  unfold Machine.startCancel
  dsimp only
  refine Counted.wakeAll ?_
  have hjobs : Counted n s (Machine.markJobs (Machine.settleDeps (Machine.markEntries t n set st) n) n set) := by
    refine h.settleDeps.of_counter (fun i => ?_)
    unfold Machine.markJobs
    exact counter_modTenant _ n n (by intro; rfl) i
  exact hjobs.of_counter (fun _ => rfl)

theorem capBudgets (h : Counted n s t) : Counted n s (Machine.capBudgets t n) := by
  refine h.foldl (fun v p hv => ?_) _
  split
  · exact startCancel_of_mark (hv.markEntries _) none
  · exact hv

end Counted

/-! ### Charging a task (R59) -/

/-- What charging leaves of a counter: everything but what it has used. -/
def Counter.unused (c : Counter) : Counter := { c with used := 0 }

theorem bounds_of_unused {c d : Counter} (h : c.unused = d.unused) : c.bounds = d.bounds := by
  have hbounds := congrArg Counter.bounds h
  exact hbounds

/-- Cycles charged to a list of a tenant's entries. -/
def charges (s : State) (n k : Nat) (l : List Nat) : State :=
  l.foldl (fun s i =>
    match counter s n i with
    | none => s
    | some c => setCounter s n i { c with used := c.used + k }) s

theorem counter_charges (l : List Nat) (hl : l.Nodup) (s : State) (n k j : Nat) :
    counter (charges s n k l) n j = (counter s n j).map (fun c => if j ∈ l then { c with used := c.used + k } else c) := by
  unfold charges
  induction l generalizing s with
  | nil => simp
  | cons i l ih =>
    obtain ⟨hnot, hl⟩ := List.nodup_cons.mp hl
    rw [List.foldl_cons, ih hl]
    cases hc : counter s n i with
    | none =>
      dsimp only
      by_cases hj : j = i
      · rw [hj, hc]; rfl
      · simp [hj]
    | some c =>
      dsimp only
      rw [counter_setCounter _ _ _ _ _ (by rw [hc]; rfl)]
      by_cases hj : j = i
      · rw [hj, hc]; simp [hnot]
      · simp [hj]

theorem unused_charges (l : List Nat) (s : State) (n k j : Nat) :
    (counter (charges s n k l) n j).map Counter.unused = (counter s n j).map Counter.unused := by
  unfold charges
  induction l generalizing s with
  | nil => rfl
  | cons i l ih =>
    rw [List.foldl_cons, ih]
    split
    · rfl
    · next c hc =>
      rw [counter_setCounter _ _ _ _ _ (by rw [hc]; rfl)]
      split
      · next hj => rw [hj, hc]; rfl
      · rfl

/-- Nothing but the counters of one tenant is other. -/
structure CountersOnly (n : Nat) (s t : State) : Prop where
  state : { t with tens := s.tens } = s
  tenants : ∀ m, { tenant t m with ctr := (tenant s m).ctr } = tenant s m
  others : ∀ m, m ≠ n → tenant t m = tenant s m

theorem CountersOnly.setCounter {n : Nat} {s t : State} (h : CountersOnly n s t) (i : Nat) (c : Counter) :
    CountersOnly n s (Machine.setCounter t n i c) := by
  refine ⟨h.state, fun m => ?_, fun m hm => ?_⟩
  · have hten := h.tenants m
    unfold Machine.setCounter
    rw [tenant_modTenant]
    split
    · next he => rw [← he]; exact hten
    · exact hten
  · unfold Machine.setCounter
    rw [tenant_modTenant, if_neg hm, h.others m hm]

theorem countersOnly_charges (l : List Nat) (s : State) (n k : Nat) : CountersOnly n s (charges s n k l) := by
  suffices h : ∀ t, CountersOnly n s t → CountersOnly n s (charges t n k l) from h s ⟨rfl, fun _ => rfl, fun _ _ => rfl⟩
  intro t ht
  unfold charges
  induction l generalizing t with
  | nil => exact ht
  | cons i l ih =>
    refine ih _ ?_
    dsimp only
    split
    · exact ht
    · exact ht.setCounter _ _

namespace CountersOnly
variable {n : Nat} {s t : State}

theorem tasks (h : CountersOnly n s t) : t.tasks = s.tasks := by
  have := congrArg State.tasks h.state
  exact this

theorem task (h : CountersOnly n s t) (u : Nat) : Machine.task t u = Machine.task s u := task_eq_of_tasks h.tasks u

theorem sameMemory (h : CountersOnly n s t) : SameMemory s t := by
  rw [← h.state]
  exact fun _ _ => rfl

theorem csr (h : CountersOnly n s t) (m : Nat) : (tenant t m).csr = (tenant s m).csr := by
  have := congrArg Tenant.csr (h.tenants m)
  exact this

theorem launches (h : CountersOnly n s t) (m : Nat) : (tenant t m).launches = (tenant s m).launches := by
  have := congrArg Tenant.launches (h.tenants m)
  exact this

theorem traces (h : CountersOnly n s t) (m : Nat) : (tenant t m).traces = (tenant s m).traces := by
  have := congrArg Tenant.traces (h.tenants m)
  exact this

theorem cancels (h : CountersOnly n s t) : t.cancels = s.cancels := by
  have := congrArg State.cancels h.state
  exact this

theorem script (h : CountersOnly n s t) : t.script = s.script := by
  have := congrArg State.script h.state
  exact this

theorem cycle (h : CountersOnly n s t) : t.cycle = s.cycle := by
  have := congrArg State.cycle h.state
  exact this

theorem sameCsrs (h : CountersOnly n s t) : SameCsrs s t := by
  intro m r
  unfold csrGet
  rw [h.csr]

end CountersOnly

/-- The cycles that a task is charged now. -/
def Task.owed (t : Task) (now : Nat) : Nat := if t.saved then 0 else now - t.chargedAt

theorem chargeTask_eq {s : State} {tid : Nat} {t : Task} (ht : task s tid = some t) :
    chargeTask s tid = setTask (charges s t.tenant (t.owed s.cycle) (chargedJobs s t)) tid { t with chargedAt := s.cycle } := by
  unfold chargeTask
  rw [ht]
  rfl

/-! ### A task that is gone (R198) -/

/-- What charging and ending a task leave of its tenant: launches, and of each counter all but what it has used. -/
structure Uncounted (n : Nat) (s t : State) : Prop where
  counters : ∀ i, (counter t n i).map Counter.unused = (counter s n i).map Counter.unused
  launches : (tenant t n).launches = (tenant s n).launches

namespace Uncounted
variable {n : Nat} {s t u : State}

theorem trans (h : Uncounted n s t) (k : Uncounted n t u) : Uncounted n s u :=
  ⟨fun i => (k.counters i).trans (h.counters i), k.launches.trans h.launches⟩

theorem of_kept {rs : List Nat} (k : Kept rs s t) : Uncounted n s t := ⟨fun i => by rw [k.counter], k.launches n⟩

theorem modTenant (h : Uncounted n s t) {m : Nat} {f : Tenant → Tenant} (hctr : ∀ x, (f x).ctr = x.ctr)
    (hlaunches : ∀ x, (f x).launches = x.launches) : Uncounted n s (Machine.modTenant t m f) := by
  refine h.trans ⟨fun i => by rw [counter_modTenant t m n hctr], ?_⟩
  rw [tenant_modTenant]
  split
  · next hm => rw [hlaunches, hm]
  · rfl

theorem traceEnded (h : Uncounted n s t) (m : Nat) (hd : Option (Nat × Nat)) : Uncounted n s (Machine.traceEnded t m hd) := by
  unfold Machine.traceEnded
  split
  · exact h
  · exact h.modTenant (fun _ => rfl) (fun _ => rfl)

theorem dropContext (h : Uncounted n s t) (m c : Nat) : Uncounted n s (Machine.dropContext t m c) := by
  unfold Machine.dropContext
  split
  · exact h
  · exact h.modTenant (fun _ => rfl) (fun _ => rfl)

end Uncounted

theorem uncounted_chargeTask {s : State} {tid : Nat} {t : Task} (ht : task s tid = some t) :
    Uncounted t.tenant s (chargeTask s tid) := by
  rw [chargeTask_eq ht]
  exact ⟨fun i => unused_charges _ s _ _ i, (countersOnly_charges _ s _ _).launches _⟩

theorem mem_mput {α : Type} {m : Map α} {k : Nat} {v : α} {p : Nat × α} (h : p ∈ mput m k v) : p = (k, v) ∨ p ∈ m := by
  induction m with
  | nil => simpa [mput] using h
  | cons q m ih =>
    unfold mput at h
    split at h
    · simpa using h
    split at h
    · rw [List.mem_cons] at h ⊢
      tauto
    · rw [List.mem_cons] at h ⊢
      rcases h with h | h
      · exact Or.inr (Or.inl h)
      · exact (ih h).imp_right Or.inr

theorem mem_mmod {α : Type} {m : Map α} {k : Nat} {f : α → α} {p : Nat × α} (h : p ∈ mmod m k f) :
    p ∈ m ∨ ∃ q ∈ m, p.2 = f q.2 := by
  unfold mmod at h
  split at h
  · exact Or.inl h
  · next v hv =>
    rcases mem_mput h with rfl | h
    · exact Or.inr ⟨(k, v), mem_of_mget hv, rfl⟩
    · exact Or.inl h

/-- No task comes back, no propagation for another job, and the script stays. -/
structure Fewer (s t : State) : Prop where
  tasks : ∀ u, task s u = none → task t u = none
  props : PropJobs s t
  script : t.script = s.script

namespace Fewer
variable {s t u : State}

theorem refl (s : State) : Fewer s s := ⟨fun _ h => h, propJobs_of_traces (fun _ => rfl), rfl⟩

theorem trans (h : Fewer s t) (k : Fewer t u) : Fewer s u :=
  ⟨fun v hv => k.tasks v (h.tasks v hv), h.props.trans k.props, k.script.trans h.script⟩

theorem tallied (h : Fewer s t) (k : Tallied t u) : Fewer s u := h.trans ⟨fun _ hv => k.none_task hv, k.props, k.script⟩

theorem modTenant (h : Fewer s t) {n : Nat} {f : Tenant → Tenant} (hf : ∀ x, (f x).traces = x.traces) :
    Fewer s (Machine.modTenant t n f) := by
  refine h.tallied ((Tallied.refl t).modTenant hf)

theorem chargeTask (h : Fewer s t) (tid : Nat) : Fewer s (Machine.chargeTask t tid) := by
  cases ht : task t tid with
  | none =>
    unfold Machine.chargeTask
    rw [ht]
    exact h
  | some x =>
    rw [chargeTask_eq ht]
    have honly := countersOnly_charges (chargedJobs t x) t x.tenant (x.owed t.cycle)
    refine h.trans ⟨fun v hv => ?_, propJobs_of_traces honly.traces, honly.script⟩
    rw [task_setTask, if_neg (by rintro rfl; rw [ht] at hv; cases hv), honly.task, hv]

theorem traceEnded (h : Fewer s t) (n : Nat) (hd : Option (Nat × Nat)) : Fewer s (Machine.traceEnded t n hd) := by
  unfold Machine.traceEnded
  split
  · exact h
  · refine h.trans ⟨fun _ hv => hv, fun m p hp r hr => ?_, rfl⟩
    rw [tenant_modTenant] at hp
    split at hp
    · next hm =>
      subst hm
      rcases mem_mmod hp with hp | ⟨q, hq, hpq⟩
      · exact ⟨p, hp, r, hr, rfl⟩
      · exact ⟨q, hq, r, by rw [hpq] at hr; exact hr, rfl⟩
    · exact ⟨p, hp, r, hr, rfl⟩

theorem dropContext (h : Fewer s t) (n c : Nat) : Fewer s (Machine.dropContext t n c) := by
  unfold Machine.dropContext
  split
  · exact h
  · exact h.modTenant (fun _ => rfl)

end Fewer

/-- A state once a task is charged, its operations are dropped and it is gone. -/
def taskGone (s : State) (tid : Nat) (t : Task) : State :=
  let s1 := dropOps (chargeTask (cancelTags s tid t) tid) tid
  dropContext (traceEnded { s1 with tasks := mdel s1.tasks tid } t.tenant t.traced) t.tenant t.core

theorem endTask_eq {s : State} {tid : Nat} {t : Task} (ht : task s tid = some t) (bad : Bool) :
    endTask s tid bad = capBudgets (wakeAll (if t.prop then taskGone s tid t else
      countTaskEnd (taskGone s tid t) t.tenant t.launch t.blk bad)) t.tenant := by
  unfold endTask
  rw [ht]
  rfl

theorem uncounted_taskGone {s : State} {tid : Nat} {t : Task} (ht : task s tid = some t) :
    Uncounted t.tenant s (taskGone s tid t) := by
  have htags := (Kept.refl Kept.sampleCsrs s).cancelTags tid t
  have hcharge := uncounted_chargeTask ((htags.task tid).trans ht)
  have hops := (Kept.refl Kept.sampleCsrs (chargeTask (cancelTags s tid t) tid)).dropOps tid
  have hdel : Uncounted t.tenant s
      { dropOps (chargeTask (cancelTags s tid t) tid) tid with
        tasks := mdel (dropOps (chargeTask (cancelTags s tid t) tid) tid).tasks tid } :=
    (((Uncounted.of_kept htags).trans hcharge).trans (Uncounted.of_kept hops)).trans ⟨fun _ => rfl, rfl⟩
  exact (hdel.traceEnded _ _).dropContext _ _

theorem fewer_taskGone (s : State) (tid : Nat) (t : Task) : Fewer s (taskGone s tid t) := by
  have htags := (Tallied.refl s).kept ((Kept.refl Kept.sampleCsrs s).cancelTags tid t)
  have hops := (Tallied.refl _).kept ((Kept.refl Kept.sampleCsrs (chargeTask (cancelTags s tid t) tid)).dropOps tid)
  have hall := (((Fewer.refl s).tallied htags).chargeTask tid).tallied hops
  have hdel : Fewer s
      { dropOps (chargeTask (cancelTags s tid t) tid) tid with
        tasks := mdel (dropOps (chargeTask (cancelTags s tid t) tid) tid).tasks tid } := by
    refine hall.trans ⟨fun u hu => ?_, propJobs_of_traces (fun _ => rfl), rfl⟩
    unfold task at hu ⊢
    rw [mget_mdel]
    split
    · rfl
    · exact hu
  exact (hdel.traceEnded _ _).dropContext _ _

theorem task_taskGone (s : State) (tid : Nat) (t : Task) : task (taskGone s tid t) tid = none := by
  have hdel : task { dropOps (chargeTask (cancelTags s tid t) tid) tid with
        tasks := mdel (dropOps (chargeTask (cancelTags s tid t) tid) tid).tasks tid } tid = none := by
    unfold task
    rw [mget_mdel, if_pos rfl]
  exact (((Fewer.refl _).traceEnded t.tenant t.traced).dropContext t.tenant t.core).tasks tid hdel

theorem tallied_afterGone (s : State) (tid : Nat) (t : Task) (bad : Bool) :
    Tallied (taskGone s tid t) (capBudgets (wakeAll (if t.prop then taskGone s tid t else
      countTaskEnd (taskGone s tid t) t.tenant t.launch t.blk bad)) t.tenant) := by
  refine Tallied.capBudgets (Tallied.wakeAll ?_) _
  split
  · exact Tallied.refl _
  · exact (Tallied.refl _).countTaskEnd _ _ _ _

theorem fewer_endTask (s : State) (tid : Nat) (bad : Bool) : Fewer s (endTask s tid bad) := by
  cases ht : task s tid with
  | none =>
    unfold endTask
    rw [ht]
    exact Fewer.refl s
  | some t =>
    rw [endTask_eq ht]
    exact (fewer_taskGone s tid t).tallied (tallied_afterGone s tid t bad)

theorem task_endTask (s : State) (tid : Nat) (bad : Bool) : task (endTask s tid bad) tid = none := by
  cases ht : task s tid with
  | none => exact (fewer_endTask s tid bad).tasks tid ht
  | some t =>
    rw [endTask_eq ht]
    exact (tallied_afterGone s tid t bad).none_task (task_taskGone s tid t)

/-! ### The count of a task's end (R45) -/

/-- A tenant's entries have no budget. -/
def NoBudget (s : State) (n : Nat) : Prop := ∀ i c, counter s n i = some c → c.budget = 0

theorem Counted.noBudget {n : Nat} {s t : State} (h : Counted n s t) (hs : NoBudget s n) : NoBudget t n := by
  intro i c hc
  have hb := h.bounds i
  rw [hc] at hb
  obtain ⟨d, hd, hbd⟩ := Option.map_eq_some_iff.mp hb.symm
  rw [← hs i d hd]
  exact (congrArg (·.2.2) hbd).symm

theorem capBudgets_noBudget {s : State} {n : Nat} (h : NoBudget s n) : capBudgets s n = s := by
  refine List.foldl_fixed' (fun p => ?_) _
  refine if_neg ?_
  intro hany
  obtain ⟨c, hc, hcap⟩ := (Option.any_eq_true _ _).mp hany
  simp [h _ c hc] at hcap

theorem chainFrom_congr {s t : State} {n : Nat}
    (h : ∀ i, (counter t n i).map Counter.parent = (counter s n i).map Counter.parent) (m i : Nat) :
    chainFrom t n m i = chainFrom s n m i := by
  induction m generalizing i with
  | zero => rfl
  | succ m ih =>
    have hi := h i
    unfold chainFrom
    cases hs : counter s n i with
    | none =>
      rw [hs] at hi
      rw [Option.map_eq_none_iff.mp hi]
    | some c =>
      rw [hs] at hi
      obtain ⟨d, hd, hp⟩ := Option.map_eq_some_iff.mp hi
      rw [hd]
      dsimp only
      rw [hp, ih]

theorem chainFrom_subset (s : State) (n m i : Nat) : chainFrom s n m i ⊆ chainFrom s n (m + 1) i := by
  induction m generalizing i with
  | zero => exact List.nil_subset _
  | succ m ih =>
    unfold chainFrom
    split
    · exact List.nil_subset _
    · exact List.cons_subset_cons _ (ih _)

theorem Counted.chainFrom {n : Nat} {s t : State} (h : Counted n s t) (m i : Nat) :
    Machine.chainFrom t n m i = Machine.chainFrom s n m i := by
  refine chainFrom_congr (fun j => ?_) m i
  have hb := congrArg (Option.map (·.1)) (h.bounds j)
  rw [Option.map_map, Option.map_map] at hb
  exact hb

/-- A count reaches only the entries of the chain above the one it counts. -/
theorem counter_countUpFrom {n j : Nat} (m : Nat) (s : State) (i k : Nat) (bad : Bool) (hj : j ∉ chainFrom s n m i) :
    counter (countUpFrom m s n i k bad) n j = counter s n j := by
  induction m generalizing s i k bad with
  | zero => rfl
  | succ m ih =>
    unfold chainFrom at hj
    unfold countUpFrom
    cases hc : counter s n i with
    | none => rfl
    | some c =>
      rw [hc] at hj
      dsimp only at hj ⊢
      rw [List.mem_cons, not_or] at hj
      have hset := fun d => (counter_setCounter s n i j d (by rw [hc]; rfl)).trans (if_neg hj.1)
      split
      · rfl
      split
      · next hopen =>
        rw [ih, ((Kept.refl [] _).fireWatches n i).counter, hset]
        rw [Counted.chainFrom]
        · exact hj.2
        · refine Counted.fireWatches ?_ _ _
          refine (Counted.refl n s).setCounter hc rfl (fun hb => ?_)
          rw [hb] at hopen
          exact absurd hopen (by simp)
      · exact hset _

theorem launches_countUpFrom (m : Nat) (s : State) (n i k : Nat) (bad : Bool) (u : Nat) :
    (tenant (countUpFrom m s n i k bad) u).launches = (tenant s u).launches := by
  have hset (s : State) (i : Nat) (c : Counter) : (tenant (setCounter s n i c) u).launches = (tenant s u).launches := by
    unfold setCounter
    rw [tenant_modTenant]
    split
    · next h => rw [h]
    · rfl
  induction m generalizing s i k bad with
  | zero => rfl
  | succ m ih =>
    unfold countUpFrom
    split
    · rfl
    dsimp only
    split
    · rfl
    split
    · rw [ih, ((Kept.refl [] _).fireWatches n i).launches, hset]
    · rw [hset]

/-- The counter of an open entry when one more is done. -/
def Counter.counted (c : Counter) (bad : Bool) : Counter :=
  { c with done := c.done + 1, bad := c.bad || bad,
           status := if c.target ≤ c.done + 1 then (if (c.bad || bad) = true then .faulted else .done) else .open }

theorem countUpFrom_open {s : State} {n i : Nat} {c : Counter} (m : Nat) (hc : counter s n i = some c) (hopen : c.status = .open)
    (hchain : i ∉ chainFrom s n m c.parent) (bad : Bool) :
    counter (countUpFrom (m + 1) s n i 1 bad) n i = some (c.counted bad) := by
  have hset := fun d => (counter_setCounter s n i i d (by rw [hc]; rfl)).trans (if_pos rfl)
  unfold countUpFrom
  rw [hc]
  dsimp only
  rw [hopen, if_neg (by decide)]
  by_cases htarget : c.target ≤ c.done + 1
  · rw [if_pos (by simp [htarget]), counter_countUpFrom, ((Kept.refl [] _).fireWatches n i).counter, hset]
    · simp [Counter.counted, htarget]
    · rw [Counted.chainFrom]
      · exact hchain
      · refine Counted.fireWatches ?_ _ _
        refine (Counted.refl n s).setCounter hc rfl (fun hb => ?_)
        rw [hb] at hopen
        exact absurd hopen (by decide)
  · rw [if_neg (by simp [htarget]), hset]
    simp [Counter.counted, htarget]

/-- Launches that wait for nothing stay as they are. -/
theorem counter_settleDeps {s : State} {n : Nat} (h : NoneWaits s n) (j : Nat) :
    counter (settleDeps s n) n j = counter s n j := by
  have hdead : ∀ (v : State) thr, depDead v n 0 thr = false := fun v thr => rfl
  unfold settleDeps sweepDeps
  dsimp only
  rw [List.find?_eq_none.mpr]
  · exact counter_modTenant s n n (by intro; rfl) j
  · intro p hp
    rw [tenant_modTenant, if_pos rfl] at hp
    obtain ⟨q, hq, rfl⟩ := List.mem_map.mp hp
    obtain ⟨h0, h1⟩ := h q hq
    simp [h0, h1, hdead]

/-! ### A task's end -/

theorem exec_taskEnd (tid : Nat) (s : State) : exec (.taskEnd tid) s = fire (taskOver s tid) s := rfl

theorem opsOver_of_none {s : State} {tid c : Nat} (hcopies : ∀ p ∈ s.copies, p.2.tid ≠ tid) (hcolls : ∀ p ∈ s.colls, p.2.tid ≠ tid)
    (hqueries : ∀ p ∈ s.queries, p.2.tid ≠ tid) (hmat : ∀ o ∈ (core s c).ma0 ++ (core s c).ma1, o.tid ≠ tid) :
    opsOver s tid c = true := by
  have hnone : ∀ {α : Type} (l : List α) (f : α → Nat), (∀ a ∈ l, f a ≠ tid) → l.any (fun a => f a == tid) = false := by
    intro α l f h
    rw [List.any_eq_false]
    exact fun a ha => by simpa using h a ha
  unfold opsOver
  rw [hnone _ _ hcopies, hnone _ _ hcolls, hnone _ _ hqueries, hnone _ _ hmat]
  rfl

theorem coreClean_of_written {s : State} {c : Nat} (h : Written s c) : coreClean s c = true := by
  obtain ⟨hclean, hwq⟩ := h
  have hlines : (core s c).l1.any (fun p => !p.2.dirty.isEmpty) = false := by
    rw [List.any_eq_false]
    exact fun p hp => by rw [hclean p hp]; decide
  have hwrites : s.wq.any (fun w => w.die == dieOf c) = false := by
    rw [List.any_eq_false]
    exact fun w hw => by simpa using hwq w hw
  unfold coreClean
  rw [hlines, hwrites]
  rfl

theorem countTaskEnd_eq {s : State} {n launch : Nat}
    (h : ∀ l, mget (tenant s n).launches launch = some l → l.trec.det = false ∨ l.aborted = true) (blk : Nat) (bad : Bool) :
    countTaskEnd s n launch blk bad = countUp s n launch 1 bad := by
  unfold countTaskEnd
  cases hl : mget (tenant s n).launches launch with
  | none => rfl
  | some l => exact if_neg (by rcases h l hl with h | h <;> simp [h])

/-- Only what a task has used of its launch's counter moves before its end is counted. -/
theorem counter_taskGone {s : State} {tid : Nat} {t : Task} {i : Nat} {e : Counter} (ht : task s tid = some t)
    (he : counter s t.tenant i = some e) : ∃ k, counter (taskGone s tid t) t.tenant i = some { e with used := k } := by
  have h := (uncounted_taskGone ht).counters i
  rw [he] at h
  obtain ⟨d, hd, hu⟩ := Option.map_eq_some_iff.mp h
  refine ⟨d.used, hd.trans (congrArg some ?_)⟩
  have hd' := congrArg (fun x : Counter => { x with used := d.used }) hu
  exact hd'

theorem counted_taskGone {s : State} {tid : Nat} {t : Task} (ht : task s tid = some t) : Counted t.tenant s (taskGone s tid t) := by
  have h := (uncounted_taskGone ht).counters
  refine ⟨fun i => ?_, fun i hi => ?_⟩
  · have hb := congrArg (Option.map Counter.bounds) (h i)
    rw [Option.map_map, Option.map_map] at hb
    exact hb
  · have hst := congrArg (Option.map Counter.status) (h i)
    rw [Option.map_map, Option.map_map] at hst
    exact Eq.trans hst hi

theorem endTask_counts {s : State} {tid : Nat} {t : Task} {e : Counter} (ht : task s tid = some t) (bad : Bool)
    (hbudget : NoBudget s t.tenant) (he : counter s t.tenant t.launch = some e) (hprop : t.prop = false)
    (hwait : NoneWaits s t.tenant)
    (hdet : ∀ l, mget (tenant s t.tenant).launches t.launch = some l → l.trec.det = false ∨ l.aborted = true)
    (hopen : e.status = .open) (hchain : t.launch ∉ chainOf s t.tenant e.parent) :
    ∃ k, counter (endTask s tid bad) t.tenant t.launch = some (Counter.counted { e with used := k } bad) := by
  have hgone := counted_taskGone ht
  have hlaunches := (uncounted_taskGone ht).launches
  obtain ⟨k, hk⟩ := counter_taskGone ht he
  have hcount : counter (countUpFrom 4096 (taskGone s tid t) t.tenant t.launch 1 bad) t.tenant t.launch =
      some (Counter.counted { e with used := k } bad) := by
    refine countUpFrom_open 4095 hk hopen (fun hm => hchain ?_) bad
    rw [hgone.chainFrom] at hm
    exact chainFrom_subset s _ _ _ hm
  have hsettled : NoneWaits (countUpFrom 4096 (taskGone s tid t) t.tenant t.launch 1 bad) t.tenant := by
    intro p hp
    rw [launches_countUpFrom, hlaunches] at hp
    exact hwait p hp
  refine ⟨k, ?_⟩
  rw [endTask_eq ht, hprop, if_neg (by decide), countTaskEnd_eq (by rw [hlaunches]; exact hdet), capBudgets_noBudget]
  · unfold countUp
    exact (counter_settleDeps hsettled _).trans hcount
  · exact ((hgone.countUp _ _ _).wakeAll).noBudget hbudget

theorem taskEnd_ends {s : State} {tid : Nat} {tk : Task} (ht : task s tid = some tk) (hruns : unitRuns s tk = true)
    (hgroups : tk.groups = []) (hcopies : ∀ p ∈ s.copies, p.2.tid ≠ tid) (hcolls : ∀ p ∈ s.colls, p.2.tid ≠ tid)
    (hqueries : ∀ p ∈ s.queries, p.2.tid ≠ tid) (hmat : ∀ o ∈ (core s tk.core).ma0 ++ (core s tk.core).ma1, o.tid ≠ tid)
    (hwritten : Written s tk.core) : taskOver s tid = some (endTask s tid tk.faulted) := by
  unfold taskOver
  rw [ht]
  dsimp only
  rw [hruns, hgroups, opsOver_of_none hcopies hcolls hqueries hmat, coreClean_of_written hwritten]
  rfl

end Sys2Proof.Machine
end
section
/-! PROOFS. The events of the distributor. -/

namespace Sys2Proof.Machine

open Host

/-! ### The events of the distributor (R38, R49 to R54) -/

theorem fire_some {o : Option State} {s t : State} (h : o = some t) : fire o s = .next (wakeAll t) := by rw [h]; rfl

/-- The count that a task's end shows. -/
theorem shown_counted (e : Counter) (k : Nat) (bad : Bool) :
    ((Counter.counted { e with used := k } bad).done, (Counter.counted { e with used := k } bad).status) =
      (e.done + 1, if e.target ≤ e.done + 1 then (if e.bad = true ∨ bad = true then CStat.faulted else .done) else .open) := by
  simp only [Counter.counted, Bool.or_eq_true]

theorem shown_stopped {hold : Bool} {o : Option Task} {y : Task} (ho : o = some y) (h : Stopped hold y) :
    if hold = true then o.map (·.run) = some (.held none)
    else o.map (fun x => (x.groups, x.run, x.faulted)) = some ([], .running, true) := by
  unfold Stopped at h
  rw [ho]
  split
  · next hh => rw [if_pos hh] at h; exact congrArg some h
  · next hh => rw [if_neg hh] at h; exact congrArg some h

/-- Settles O46: one lemma per event says which state it leaves. -/
theorem distributorEvents : Obligations.DistributorEvents := by
  refine ⟨?_, ?_, ?_, ?_, ?_, ?_, ?_⟩
  · intro s tid g tk x0 ht hg hruns hrun hpoint hev hdup
    have hgroup : group s tid g = some x0 := by
      unfold group
      rw [ht]
      exact hg
    refine ⟨modGroup s tid g Group.regrouped, x0.regrouped, ?_, ?_, ?_, rest_regrouped x0, ?_⟩
    · rw [exec_regroupMerge]
      exact fire_some (regroup_merges ht hg hruns hrun hpoint hev hdup)
    · exact onlyGroup_modGroup s tid g _
    · rw [group_modGroup, if_pos ⟨rfl, rfl⟩, hgroup]
      rfl
    · obtain ⟨hv, hsr, hpr⟩ := registers_regrouped x0
      refine ⟨hv, hsr, hpr, ?_⟩
      rw [live_regrouped]
      exact regrouped_mergeAll _
  · intro s n c q i b l hturn hdec hfits hstream hnext
    obtain ⟨t, hdisp, hrest⟩ := queue_dispatched hturn hdec hfits hstream hnext
    exact ⟨t, fire_some hdisp, hrest⟩
  · intro s n c p hturn hdec hfits
    obtain ⟨t, hdisp, hrest⟩ := spawn_dispatched hturn hdec hfits
    exact ⟨t, fire_some hdisp, hrest⟩
  · intro s n c hturn hdec hcan
    obtain ⟨t, hdisp, hrest⟩ := back_dispatched hturn hdec hcan
    exact ⟨t, fire_some hdisp, hrest⟩
  · intro s n q hne hdue
    obtain ⟨t, hage, hrest⟩ := queueAging_due hne hdue
    exact ⟨t, fire_some hage, hrest⟩
  · intro s tid tk ht hruns hgroups hcopies hcolls hqueries hmat hwritten hbudget
    refine ⟨endTask s tid tk.faulted, fire_some (taskEnd_ends ht hruns hgroups hcopies hcolls hqueries hmat hwritten),
      task_endTask s tid _, fun e he hprop hwait hdet hopen hchain => ?_⟩
    have hnone : NoBudget s tk.tenant := fun i c hc => by
      unfold counter at hc
      split at hc
      · cases hc
      · exact hbudget _ (mem_of_mget hc)
    obtain ⟨k, hk⟩ := endTask_counts ht tk.faulted hnone he hprop hwait hdet hopen hchain
    rw [hk]
    exact congrArg some (shown_counted e k tk.faulted)
  · intro s n c x hx hon hlimit hhangs
    obtain ⟨t, hdetect, hstop⟩ := hangDetect_stops hx hon hlimit hhangs
    refine ⟨t, fire_some hdetect, fun tid tk ht hn hc hsaved => ?_⟩
    obtain ⟨y, hy, hy'⟩ := hstop tid tk ht hn hc hsaved
    exact shown_stopped hy hy'

end Sys2Proof.Machine
end
section
/-! SUPPORT. Charges, and a budget that is exceeded (R59). -/

namespace Sys2Proof.Machine

open Host

/-! ### A budget that is exceeded (R59) -/

theorem counter_some {s : State} {n i : Nat} {c : Counter} (h : counter s n i = some c) : (i, c) ∈ (tenant s n).ctr := by
  unfold counter at h
  split at h
  · cases h
  · exact mem_of_mget h

theorem mem_subtree_self {s : State} {n i : Nat} {c : Counter} (h : counter s n i = some c) : i ∈ subtree s n i := by
  have hchain : (chainOf s n i).contains i = true := by
    unfold chainOf chainFrom
    rw [h]
    simp
  exact List.mem_filter.mpr ⟨List.mem_map_of_mem (counter_some h), hchain⟩

/-- The open entries of a list end BUDGET, and stay so. -/
theorem status_markEach {n j : Nat} (l : List Nat) (s : State) {c : Counter} (hc : counter s n j = some c)
    (h : j ∈ l ∨ c.status = .budget) :
    (counter (l.foldl (fun s i =>
      match counter s n i with
      | none => s
      | some c => fireWatches (setCounter s n i { c with status := .budget }) n i) s) n j).map (·.status) = some .budget := by
  induction l generalizing s c with
  | nil =>
    rw [List.foldl_nil, hc]
    exact congrArg some (h.resolve_left List.not_mem_nil)
  | cons i l ih =>
    rw [List.foldl_cons]
    by_cases hi : j = i
    · subst hi
      have hset : counter (fireWatches (setCounter s n j { c with status := .budget }) n j) n j =
          some { c with status := .budget } := by
        rw [((Kept.refl [] _).fireWatches n j).counter, counter_setCounter _ _ _ _ _ (by rw [hc]; rfl), if_pos rfl]
      rw [hc]
      exact ih _ hset (Or.inr rfl)
    · have hsame : counter (match counter s n i with
          | none => s
          | some c => fireWatches (setCounter s n i { c with status := .budget }) n i) n j = some c := by
        split
        · exact hc
        · next d hd =>
          rw [((Kept.refl [] _).fireWatches n i).counter, counter_setCounter _ _ _ _ _ (by rw [hd]; rfl), if_neg hi, hc]
      exact ih _ hsame (h.imp_left (fun hm => (List.mem_cons.mp hm).resolve_left hi))

theorem status_startCancel {s : State} {n j : Nat} {c : Counter} (hc : counter s n j = some c) (hopen : c.status = .open) :
    (counter (startCancel s n (subtree s n j) .budget none) n j).map (·.status) = some .budget := by
  have hhit : j ∈ (subtree s n j).filter (fun i => (counter s n i).any (fun c => c.status == .open)) :=
    List.mem_filter.mpr ⟨mem_subtree_self hc, by rw [hc]; simp [hopen]⟩
  have hmark : (counter (markEntries s n (subtree s n j) .budget) n j).map (·.status) = some .budget := by
    unfold markEntries
    dsimp only
    exact ((Counted.refl n _).markRest _).capped j (status_markEach _ s hc (Or.inl hhit))
  exact (Counted.startCancel_of_mark (Counted.refl n _) none).capped j hmark

/-- The check of one entry against its budget. -/
def capOne (n : Nat) (s : State) (p : Nat × Counter) : State :=
  if (counter s n p.1).any (fun c => c.level == 4 && c.status == .open && c.budget != 0 && decide (c.budget < c.used)) then
    startCancel s n (subtree s n p.1) .budget none
  else s

theorem counted_capOne (n : Nat) (s : State) (p : Nat × Counter) : Counted n s (capOne n s p) := by
  unfold capOne
  split
  · exact Counted.startCancel_of_mark ((Counted.refl n s).markEntries _) none
  · exact Counted.refl n s

/-- The one entry with a budget ends BUDGET where it is over it. -/
theorem status_capBudgets {s : State} {n j : Nat} {c : Counter} (hc : counter s n j = some c) (hlevel : c.level = 4)
    (hopen : c.status = .open) (hbudget : c.budget ≠ 0) (hover : c.budget < c.used)
    (honly : ∀ i d, counter s n i = some d → d.budget ≠ 0 → i = j) :
    (counter (capBudgets s n) n j).map (·.status) = some .budget := by
  have hcapped (l : List (Nat × Counter)) (v : State) (hv : (counter v n j).map (·.status) = some .budget) :
      (counter (l.foldl (capOne n) v) n j).map (·.status) = some .budget :=
    ((Counted.refl n v).foldl (fun w p hw => hw.trans (counted_capOne n w p)) l).capped j hv
  have hreach (l : List (Nat × Counter)) (hl : (j, c) ∈ l) :
      (counter (l.foldl (capOne n) s) n j).map (·.status) = some .budget := by
    induction l with
    | nil => cases hl
    | cons p l ih =>
      rw [List.foldl_cons]
      by_cases hp : p.1 = j
      · refine hcapped l _ ?_
        unfold capOne
        rw [hp, hc, if_pos (by simp [hlevel, hopen, hbudget, hover])]
        exact status_startCancel hc hopen
      · have hskip : capOne n s p = s := by
          refine if_neg ?_
          intro hany
          obtain ⟨d, hd, hcap⟩ := (Option.any_eq_true _ _).mp hany
          refine hp (honly p.1 d hd ?_)
          simp only [Bool.and_eq_true, bne_iff_ne] at hcap
          exact hcap.1.2
        rw [hskip]
        refine ih ((List.mem_cons.mp hl).resolve_left ?_)
        rintro rfl
        exact hp rfl
  exact hreach _ (counter_some hc)

/-! ### The charge of a core (R59) -/

theorem exec_budgetCharge (c : Nat) (s : State) : exec (.budgetCharge c) s = fire (budgetCharge s c) s := rfl

theorem budgetCharge_single {s : State} {c tid : Nat} {tk : Task}
    (hts : s.tasks.filter (fun p => p.2.core == c && !p.2.saved) = [(tid, tk)]) :
    budgetCharge s c = some (capBudgets (chargeTask s tid) tk.tenant) := by
  unfold budgetCharge
  rw [hts]
  rfl

/-- The entries of a list that are job entries. -/
theorem mem_chargedJobs {s : State} {tk : Task} {j : Nat} {e : Counter} (he : counter s tk.tenant j = some e)
    (hprop : tk.prop = false) :
    j ∈ chargedJobs s tk ↔ e.level = 4 ∧ j ∈ chainOf s tk.tenant (jobOf s tk.tenant tk.launch) := by
  unfold chargedJobs chargeJob
  rw [hprop, List.mem_filter, he]
  simp [and_comm]

theorem counter_chargeTask {s : State} {tid j : Nat} {tk : Task} {e : Counter} (ht : task s tid = some tk) (hprop : tk.prop = false)
    (hnodup : (chainOf s tk.tenant (jobOf s tk.tenant tk.launch)).Nodup) (he : counter s tk.tenant j = some e) :
    counter (chargeTask s tid) tk.tenant j = some (if e.level = 4 ∧ j ∈ chainOf s tk.tenant (jobOf s tk.tenant tk.launch)
      then { e with used := e.used + tk.owed s.cycle } else e) := by
  have hjobs : (chargedJobs s tk).Nodup := by
    unfold chargedJobs chargeJob
    rw [hprop]
    exact hnodup.filter _
  have hcount := counter_charges (chargedJobs s tk) hjobs s tk.tenant (tk.owed s.cycle) j
  rw [he] at hcount
  rw [chargeTask_eq ht]
  refine Eq.trans hcount (congrArg some ?_)
  exact if_congr (mem_chargedJobs he hprop) rfl rfl

theorem chargeTask_kept {s : State} {tid : Nat} {tk : Task} (ht : task s tid = some tk) :
    task (chargeTask s tid) tid = some { tk with chargedAt := s.cycle } ∧ SameMemory s (chargeTask s tid) ∧
      SameCsrs s (chargeTask s tid) ∧
      ∀ i, (counter (chargeTask s tid) tk.tenant i).map Counter.unused = (counter s tk.tenant i).map Counter.unused := by
  rw [chargeTask_eq ht]
  have honly := countersOnly_charges (chargedJobs s tk) s tk.tenant (tk.owed s.cycle)
  refine ⟨?_, honly.sameMemory, honly.sameCsrs, fun i => unused_charges _ s _ _ i⟩
  rw [task_setTask, if_pos rfl]

theorem noBudget_of_unused {s t : State} {n : Nat} {P : Nat → Prop}
    (h : ∀ i, (counter t n i).map Counter.unused = (counter s n i).map Counter.unused)
    (hs : ∀ i d, counter s n i = some d → d.budget ≠ 0 → P i) {i : Nat} {d : Counter} (hd : counter t n i = some d)
    (hb : d.budget ≠ 0) : P i := by
  have hi := h i
  rw [hd] at hi
  obtain ⟨d0, hd0, hu⟩ := Option.map_eq_some_iff.mp hi.symm
  refine hs i d0 hd0 ?_
  have hbudget := congrArg Counter.budget hu
  intro h0
  exact hb (Eq.trans hbudget.symm h0)

/-- The charge of a core's one task. -/
theorem budgetCharge_charges {s : State} {c tid : Nat} {tk : Task}
    (hts : s.tasks.filter (fun p => p.2.core == c && !p.2.saved) = [(tid, tk)]) (ht : task s tid = some tk) (hprop : tk.prop = false)
    (hnodup : (chainOf s tk.tenant (jobOf s tk.tenant tk.launch)).Nodup) :
    ∃ t, budgetCharge s c = some t ∧ (task t tid).map (·.chargedAt) = some s.cycle ∧
      ((∀ p ∈ (tenant s tk.tenant).ctr, p.2.budget = 0) → SameMemory s t ∧ SameCsrs s t ∧ ∀ j e, counter s tk.tenant j = some e →
        counter t tk.tenant j = some (if e.level = 4 ∧ j ∈ chainOf s tk.tenant (jobOf s tk.tenant tk.launch)
          then { e with used := e.used + (s.cycle - tk.chargedAt) } else e)) ∧
      (∀ j e, counter s tk.tenant j = some e → e.level = 4 → e.status = .open → e.budget ≠ 0 →
        j ∈ chainOf s tk.tenant (jobOf s tk.tenant tk.launch) → e.budget < e.used + (s.cycle - tk.chargedAt) →
        (∀ p ∈ (tenant s tk.tenant).ctr, p.2.budget ≠ 0 → p.1 = j) → (counter t tk.tenant j).map (·.status) = some .budget) := by
  obtain ⟨htask, hmem, hcsrs, hunused⟩ := chargeTask_kept ht
  have hsaved : tk.saved = false := by
    have hmem : (tid, tk) ∈ s.tasks.filter (fun p => p.2.core == c && !p.2.saved) := by rw [hts]; exact List.mem_singleton.mpr rfl
    have := (List.mem_filter.mp hmem).2
    simp only [Bool.and_eq_true, Bool.not_eq_true'] at this
    exact this.2
  have howed : tk.owed s.cycle = s.cycle - tk.chargedAt := by unfold Task.owed; rw [hsaved]; rfl
  have hcount := fun j e he => counter_chargeTask (j := j) (e := e) ht hprop hnodup he
  rw [howed] at hcount
  refine ⟨_, budgetCharge_single hts, ?_, fun hnone => ?_, fun j e he hlevel hopen hbudget hchain hover honly => ?_⟩
  · have hcap := ((Tallied.refl (chargeTask s tid)).capBudgets tk.tenant).tasks tid
    have hat := congrArg (Option.map Task.chargedAt) hcap
    rw [Option.map_map, Option.map_map, htask] at hat
    exact hat
  · have hno : NoBudget (chargeTask s tid) tk.tenant := fun i d hd => by
      by_contra hb
      exact noBudget_of_unused (P := fun _ => False) hunused (fun i d hd hb => hb (hnone _ (counter_some hd))) hd hb
    rw [capBudgets_noBudget hno]
    exact ⟨hmem, hcsrs, hcount⟩
  · have hj := hcount j e he
    rw [if_pos ⟨hlevel, hchain⟩] at hj
    refine status_capBudgets hj hlevel hopen hbudget hover (fun i d hd hb => ?_)
    exact noBudget_of_unused (P := (· = j)) hunused (fun i d hd hb => honly _ (counter_some hd) hb) hd hb

end Sys2Proof.Machine
end
section
/-! SUPPORT. The replay of a logged access (R462). -/

namespace Sys2Proof.Machine

open Host

/-! ### The replay of a logged access (R462) -/

theorem exec_oplogReplay (tid g : Nat) (s : State) : exec (.oplogReplay tid g) s = fire (oplogReplay s tid g) s := rfl

section
variable {s : State} {tid g : Nat} {tk : Task} {x0 : Group} {o : OpEntry} {os : List OpEntry}

/-- A replay that may run takes the trap of an access that failed. -/
theorem oplogReplay_failed (ht : task s tid = some tk) (hg : mget tk.groups g = some x0) (hlog : x0.oplog = o :: os)
    (hruns : unitRuns s tk = true) (hrun : tk.run = .running) (hstop : tk.stopReq = none) {cause : Byte} {ls : Lanes}
    (hfailed : o.failed = some (cause, ls)) :
    oplogReplay s tid g =
      some (replayTrap s tid g o cause ls (((o.lanes.find? (fun l => has ls l.lane)).map (·.addr)).getD 0 % 2 ^ 57)) := by
  unfold oplogReplay
  simp only [ht, hg, hlog, hruns, hrun, hstop, hfailed, Bool.not_true, bne_self_eq_false, Option.isSome_none, Bool.or_self,
    Bool.false_eq_true, if_false]

theorem oplogReplay_served (ht : task s tid = some tk) (hg : mget tk.groups g = some x0) (hlog : x0.oplog = o :: os)
    (hruns : unitRuns s tk = true) (hrun : tk.run = .running) (hstop : tk.stopReq = none) (hfailed : o.failed = none)
    (hneed : hasNeed s (.log tid g o.id) = false) : oplogReplay s tid g = replayLanes s tid g tk o := by
  unfold oplogReplay
  simp only [ht, hg, hlog, hruns, hrun, hstop, hfailed, hneed, Bool.not_true, bne_self_eq_false, Option.isSome_none, Bool.or_self,
    Bool.false_eq_true, if_false]

end

/-- A group once it is in the handler of a logged access's trap. -/
def Group.replayTrapped (n : Nat) (hv : Nat) (o : OpEntry) (cause : Byte) (ls : Lanes) (addr : Nat) (x : Group) : Group :=
  let resume := x.front.flatMap (fun e => (lanesOf (e.mask &&& o.act)).map (fun i => (i, e.pc, e.prio))) ++ o.resume
  { x with
    oplog := x.oplog.filter (fun p => p.id != o.id), ecause := cause, epc := o.pc, emask := ls, ebmask := o.act,
    eaddr := BitVec.ofNat 57 addr, front := dropLanes o.act x.front,
    trap := some { hfront := [Entry.new n (BitVec.ofNat 57 hv) o.act 0], bundle := o.act, prio := o.prio, rti := 0,
                   resume := resume, logged := some o },
    stall := false, sel := none }

/-- A state that differs from s in one group only, which is x, and whose memory is that of s1. -/
def GroupIs (s1 s t : State) (tid g : Nat) (x : Group) : Prop :=
  SameMemory s1 t ∧ SameCsrs s t ∧ SameGroups s t tid g ∧ group t tid g = some x

theorem GroupIs.modGroup {s1 s t : State} {tid g : Nat} {x : Group} (h : GroupIs s1 s t tid g x) (n : Nat) (f : Group → Group) :
    GroupIs s1 s (Machine.modGroup { t with serial := n } tid g f) tid g (f x) := by
  obtain ⟨hmem, hcsrs, ⟨hothers, hgroups⟩, hx⟩ := h
  have hone := (onlyGroup_modGroup { t with serial := n } tid g f).2.2.1
  refine ⟨hmem, hcsrs, ⟨fun u hu => (hone.1 u hu).trans (hothers u hu), fun j hj => (hone.2 j hj).trans (hgroups j hj)⟩, ?_⟩
  have : group { t with serial := n } tid g = some x := hx
  rw [group_modGroup_same, this]
  rfl

theorem replayTrap_traps {s : State} {tid g : Nat} {tk : Task} {x0 : Group} (ht : task s tid = some tk)
    (hg : mget tk.groups g = some x0) (htrap : x0.trap = none) (hv : hvec s tk.tenant ≠ 0) (o : OpEntry) (cause : Byte) (ls : Lanes)
    (addr : Nat) :
    GroupIs s s (replayTrap s tid g o cause ls addr) tid g
      (Group.replayTrapped s.serial (hvec s tk.tenant) o cause ls addr x0) := by
  have hgroup : group s tid g = some x0 := by
    unfold group
    rw [ht]
    exact hg
  obtain ⟨f, hf⟩ : ∃ f : Group → Group, f = fun x => { x with oplog := x.oplog.filter (fun p => p.id != o.id) } := ⟨_, rfl⟩
  have hg1 : group (modGroup s tid g f) tid g = some (f x0) := by rw [group_modGroup_same, hgroup]; rfl
  obtain ⟨t1, ht1, hten⟩ : ∃ t1, task (modGroup s tid g f) tid = some t1 ∧ t1.tenant = tk.tenant := by
    rw [task_modGroup, if_pos rfl, ht]
    exact ⟨_, rfl, rfl⟩
  have hv1 : hvec (modGroup s tid g f) t1.tenant = hvec s tk.tenant := by rw [hten]; rfl
  have htrap1 : (f x0).trap = none := by rw [hf]; exact htrap
  have hsuper : ((group s tid g).any (·.trap.isSome) || ((task s tid).map (fun t => hvec s t.tenant)).getD 0 == 0) = false := by
    rw [hgroup, ht]
    simp [htrap, hv]
  have heq : replayTrap s tid g o cause ls addr = modGroup { modGroup s tid g f with serial := s.serial + 1 } tid g
      (fun _ => Group.replayTrapped s.serial (hvec s tk.tenant) o cause ls addr x0) := by
    unfold replayTrap
    dsimp only
    rw [hsuper]
    have hlog : (fun x : Group => { x with oplog := trapLog false x.oplog o.id cause ls }) = f := by rw [hf]; rfl
    rw [hlog]
    unfold enterTrap
    simp only [ht1, hg1, htrap1, Option.isSome_none, Bool.false_eq_true, if_false, hv1, hv]
    rw [hf]
    rfl
  have hs : GroupIs s s s tid g x0 := ⟨fun _ _ => rfl, fun _ _ => rfl, ⟨fun _ _ => rfl, fun _ _ => rfl⟩, hgroup⟩
  rw [heq]
  exact (hs.modGroup s.serial f).modGroup (s.serial + 1) _

/-! ### The replay of an access that is served -/

/-- The lanes of a replayed access that resume. -/
theorem mem_resumeEntries {n : Nat} {resume : List (Nat × VA × Byte)} {r : Nat × VA × Byte} (hr : r ∈ resume) (hlt : r.1 < 32) :
    ∃ e ∈ resumeEntries n 0xFFFFFFFF resume, has e.mask r.1 = true ∧ e.pc = r.2.1 ∧ e.prio = r.2.2 := by
  have hall : has 0xFFFFFFFF r.1 = true := by
    have : ∀ i < 32, has 0xFFFFFFFF i = true := by decide
    exact this _ hlt
  unfold resumeEntries
  dsimp only
  have hin : r ∈ resume.filter (fun r => has 0xFFFFFFFF r.1) := List.mem_filter.mpr ⟨hr, hall⟩
  have hkey : r.2 ∈ ((resume.filter (fun r => has 0xFFFFFFFF r.1)).map (fun r => r.2)).dedup :=
    List.mem_dedup.mpr (List.mem_map_of_mem hin)
  obtain ⟨k, hk, hkr⟩ := List.mem_iff_getElem.mp hkey
  refine ⟨_, List.mem_mapIdx.mpr ⟨k, hk, rfl⟩, ?_, ?_, ?_⟩
  · rw [hkr]
    show has (maskOf _) r.1 = true
    rw [has_maskOf]
    simp only [Bool.and_eq_true, decide_eq_true_eq, List.any_eq_true, beq_iff_eq]
    exact ⟨hlt, r, hin, rfl, rfl⟩
  · rw [hkr]; rfl
  · rw [hkr]; rfl

/-- A group once a logged load of it is made: its record stands, the entry is gone, and its lanes go on. -/
def Group.replayed (n : Nat) (o : OpEntry) (las : List LaneAcc) (x : Group) : Group :=
  let y := { x with loads := joinLoad x.loads o.id { op := o.op, act := o.dst, lanes := las, vals := [] },
                    oplog := x.oplog.filter (fun p => p.id != o.id) }
  if o.resume.isEmpty then y
  else { y with front := y.front ++ resumeEntries n 0xFFFFFFFF o.resume, stall := false }

theorem replayed_spec {n : Nat} {o : OpEntry} {las : List LaneAcc} {x0 : Group} (hload : mget x0.loads o.id = none) :
    let x := x0.replayed n o las
    x.oplog = x0.oplog.filter (fun p => p.id != o.id) ∧
      mget x.loads o.id = some { op := o.op, act := o.dst, lanes := las, vals := [] } ∧
      { x with oplog := x0.oplog, loads := x0.loads, front := x0.front, stall := x0.stall } = x0 ∧
      (o.resume = [] → x.front = x0.front) ∧
      ∀ r ∈ o.resume, r.1 < 32 → ∃ e ∈ x.front, has e.mask r.1 = true ∧ e.pc = r.2.1 ∧ e.prio = r.2.2 := by
  have hjoin : mget (joinLoad x0.loads o.id { op := o.op, act := o.dst, lanes := las, vals := [] }) o.id =
      some { op := o.op, act := o.dst, lanes := las, vals := [] } := by
    unfold joinLoad
    rw [hload]
    simp
  unfold Group.replayed
  dsimp only
  split
  · next hnil =>
    have hnil : o.resume = [] := List.isEmpty_iff.mp hnil
    refine ⟨rfl, hjoin, rfl, fun _ => rfl, fun r hr => ?_⟩
    rw [hnil] at hr
    cases hr
  · next hcons =>
    refine ⟨rfl, hjoin, rfl, fun h => absurd (List.isEmpty_iff.mpr h) hcons, fun r hr hlt => ?_⟩
    obtain ⟨e, he, hspec⟩ := mem_resumeEntries (n := n) hr hlt
    exact ⟨e, List.mem_append_right _ he, hspec⟩

theorem replayLanes_load {s s1 : State} {tid g : Nat} {tk : Task} {x0 : Group} {o : OpEntry} {las : List LaneAcc}
    (hgroup : group s tid g = some x0) (hop : o.op.isLoad = true) (hne : las ≠ [])
    (hcheck : lanesCheck s tk o.user o.op o.lanes = (s1, o.lanes.zip (las.map LaneOut.go))) (hlen : las.length = o.lanes.length)
    (hord : ∀ la ∈ las, la.ordsh = false) :
    ∃ t n, replayLanes s tid g tk o = some t ∧ GroupIs s1 s t tid g (x0.replayed n o las) := by
  obtain ⟨horder, hnowrite, -, hnoport, -⟩ := kind_of_isLoad hop
  have hnoord : las.any (·.ordsh) = false := List.any_eq_false.mpr (fun la hla => by simp [hord la hla])
  have hcaches := cacheOnly_flushLanes s1 tk.core o.op las
  have htrans := translates_lanesCheck tk o.user o.op o.lanes s
  rw [hcheck] at htrans
  obtain ⟨s2, hs2⟩ : ∃ s2, s2 = flushLanes s1 tk.core o.op las := ⟨_, rfl⟩
  rw [← hs2] at hcaches
  have heq : replayLanes s tid g tk o = some (replayBack (modGroup (modGroup s2 tid g
      (Group.loading o.id { op := o.op, act := o.dst, lanes := las, vals := [] })) tid g
      (fun x => { x with oplog := x.oplog.filter (fun p => p.id != o.id) })) tid g o) := by
    unfold replayLanes
    simp only [hcheck, laneTrap_zip_go, goLanes_zip_go hlen, servedLanes_zip_go, hnoord, horder, hnowrite, hnoport,
      perform_load hop hne, ← hs2]
    simp [ordAcq]
  have htasks : s2.tasks = s.tasks := hcaches.tasks.trans htrans.tasks
  have hs2 : GroupIs s1 s s2 tid g x0 := by
    refine ⟨hcaches.memory, fun n r => ?_, ⟨fun u _ => task_eq_of_tasks htasks u, fun j _ => ?_⟩, ?_⟩
    · unfold csrGet tenant
      rw [hcaches.tens, htrans.tens]
    · unfold group
      rw [task_eq_of_tasks htasks]
    · unfold group
      rw [task_eq_of_tasks htasks]
      exact hgroup
  have hlogged := (hs2.modGroup s2.serial (Group.loading o.id { op := o.op, act := o.dst, lanes := las, vals := [] })).modGroup
    s2.serial (fun x => { x with oplog := x.oplog.filter (fun p => p.id != o.id) })
  refine ⟨_, s2.serial, heq, ?_⟩
  unfold replayBack Group.replayed
  split
  · exact hlogged
  · exact hlogged.modGroup (s2.serial + 32) _

end Sys2Proof.Machine
end
section
/-! SUPPORT. What a reclamation leaves, and the end of a trace (R316, R319). -/

namespace Sys2Proof.Machine

open Host

/-! ### What a reclamation and the end of a trace leave (R316, R319) -/

/-- No task comes back, and the script stays. -/
structure Onward (s t : State) : Prop where
  tasks : ∀ u, task s u = none → task t u = none
  script : t.script = s.script

namespace Onward
variable {s t u : State}

theorem refl (s : State) : Onward s s := ⟨fun _ h => h, rfl⟩

theorem trans (h : Onward s t) (k : Onward t u) : Onward s u := ⟨fun v hv => k.tasks v (h.tasks v hv), k.script.trans h.script⟩

theorem step (h : Onward s t) (htasks : u.tasks = t.tasks) (hscript : u.script = t.script) : Onward s u :=
  h.trans ⟨fun v hv => (task_eq_of_tasks htasks v).trans hv, hscript⟩

theorem fewer (h : Onward s t) (k : Fewer t u) : Onward s u := h.trans ⟨k.tasks, k.script⟩
theorem tallied (h : Onward s t) (k : Tallied t u) : Onward s u := h.fewer ((Fewer.refl t).tallied k)
theorem served (h : Onward s t) (k : Served t u) : Onward s u := h.step k.tasks k.script

theorem cacheOnly (h : Onward s t) (k : CacheOnly t u) : Onward s u :=
  h.tallied ((Tallied.refl t).kept ((Kept.refl [] t).cacheOnly k))

theorem modTenant (h : Onward s t) (n : Nat) (f : Tenant → Tenant) : Onward s (Machine.modTenant t n f) := h.step rfl rfl

theorem modTask (h : Onward s t) (tid : Nat) (f : Task → Task) : Onward s (Machine.modTask t tid f) := by
  refine h.trans ⟨fun v hv => ?_, ?_⟩
  · rw [task_modTask]
    split
    · next he => rw [← he, hv]; rfl
    · exact hv
  · rfl

theorem modGroup (h : Onward s t) (tid g : Nat) (f : Group → Group) : Onward s (Machine.modGroup t tid g f) := h.modTask tid _

theorem foldl {α : Type} {f : State → α → State} (h : Onward s t) (hf : ∀ v a, Onward s v → Onward s (f v a)) (l : List α) :
    Onward s (l.foldl f t) :=
  foldl_keeps (P := Onward s) h hf l

theorem writeToken (h : Onward s t) (tid g tok : Nat) (w : Word) : Onward s (Machine.writeToken t tid g tok w) := by
  unfold Machine.writeToken
  refine Onward.modGroup ?_ _ _ _
  split
  · exact h.cacheOnly (cacheOnly_acqAct _ _ _)
  · exact h

theorem applyRed (h : Onward s t) (r : RedOp) : Onward s (Machine.applyRed t r) := by
  unfold Machine.applyRed
  dsimp only
  generalize hw : observe _ _ _ = w
  have hk : Onward s w := by
    rw [← hw]
    exact h.step rfl rfl
  exact hk.served ((Served.refl w).homeWrite _ _ _ _ _ _)

theorem settleReds (h : Onward s t) (n i : Nat) : Onward s (Machine.settleReds t n i) := by
  unfold Machine.settleReds
  split
  · exact h
  dsimp only
  generalize hw : List.foldl Machine.applyRed t _ = w
  have hk : Onward s w := by
    rw [← hw]
    exact h.foldl (fun _ _ hv => hv.applyRed _) _
  exact hk.step rfl rfl

theorem dropQueued (h : Onward s t) (n i : Nat) : Onward s (Machine.dropQueued t n i) := by
  unfold Machine.dropQueued
  split
  · exact h
  dsimp only
  split
  · exact (h.tallied ((Tallied.refl t).unqueue _ _)).modTenant _ _
  · exact ((h.tallied ((Tallied.refl t).unqueue _ _)).modTenant _ _).tallied ((Tallied.refl _).countUp _ _ _ _)

theorem endTask (h : Onward s t) (tid : Nat) (bad : Bool) : Onward s (Machine.endTask t tid bad) := h.fewer (fewer_endTask t tid bad)

theorem mapTasks (h : Onward s t) (f : Task → Task) : Onward s { t with tasks := t.tasks.map (fun p => (p.1, f p.2)) } := by
  refine h.trans ⟨fun v hv => ?_, rfl⟩
  unfold task at hv ⊢
  rw [mget_map_values, hv]
  rfl

theorem destroyTrace (h : Onward s t) (n hd : Nat) : Onward s (Machine.destroyTrace t n hd) := by
  unfold Machine.destroyTrace
  split
  · exact h
  extract_lets s1 s2 ts s3
  have h1 : Onward s s1 := h.foldl (fun _ _ hv => hv.endTask _ _) _
  have h2 : Onward s s2 := by
    unfold s2
    split
    · exact h1
    · exact h1.foldl (fun _ _ hv => hv.writeToken _ _ _ _) _
  clear_value s2
  have h3 : Onward s s3 := by
    refine Onward.step (t := { s2 with tasks := ts }) ?_ rfl rfl
    exact h2.mapTasks (fun x => if x.tenant == n && x.traced.any (fun y => y.1 == hd) then { x with traced := none } else x)
  exact h3.modTenant _ _

theorem clearGranule (h : Onward s t) (n root va : Nat) (p : Nat → Bool) : Onward s (Machine.clearGranule t n root va p) := by
  have hput (v : State) (hv : Onward s v) (b : Nat) : Onward s (tablePut v n b 0 0) :=
    hv.served ((Served.refl v).tablePut n b 0 0)
  have hclear (a w1 : Nat) : Onward s (if p w1 then (leafSlots a 1).foldl (fun s b => tablePut s n b 0 0) t else t) := by
    split
    · exact h.foldl (fun v b hv => hput v hv b) _
    · exact h
  unfold Machine.clearGranule
  dsimp only
  split
  · split
    · exact hclear _ _
    · exact h
  · split
    · exact hclear _ _
    · exact h
  · exact h

theorem clearCarriers (h : Onward s t) (n j v : Nat) : Onward s (Machine.clearCarriers t n j v) :=
  h.foldl (fun _ _ hv => hv.foldl (fun _ _ hw => hw.clearGranule _ _ _ _) _) _

theorem broadcastGen (h : Onward s t) (n j old : Nat) : Onward s (Machine.broadcastGen t n j old) := by
  refine h.foldl (fun _ _ hv => ?_) _
  exact hv.step rfl rfl

theorem spliceArena (h : Onward s t) (n j : Nat) : Onward s (Machine.spliceArena t n j) :=
  ((h.clearCarriers _ _ _).modTenant _ _).broadcastGen _ _ _

theorem dropJob (h : Onward s t) (n j : Nat) : Onward s (Machine.dropJob t n j) :=
  (h.foldl (fun _ _ hv => hv.destroyTrace _ _) _).spliceArena _ _

theorem reclaimSet (h : Onward s t) (n : Nat) (set : List Nat) : Onward s (Machine.reclaimSet t n set) := by
  unfold Machine.reclaimSet
  dsimp only
  refine foldl (h.foldl (fun _ _ hv => (hv.dropQueued _ _).settleReds _ _) _) (fun _ _ hv => ?_) _
  split
  · exact hv.dropJob _ _
  · exact hv

end Onward

end Sys2Proof.Machine
end
section
/-! SUPPORT. Tokens that are written, and the end of a cancellation (R316). -/

namespace Sys2Proof.Machine

open Host

/-! ### A token that is written (R316) -/

theorem statusWord_eq (code value : Nat) : statusWord code value = status code value := by
  have hsat : satTo value (2 ^ 24 - 1) = min value 0xFFFFFF := by
    unfold satTo
    split <;> omega
  unfold statusWord status
  rw [hsat, Nat.mul_comm]

theorem writeToken_eq (s : State) (tid g tok : Nat) (w : Word) : ∃ s1, CacheOnly s s1 ∧
    writeToken s tid g tok w = modGroup s1 tid g (fun x =>
      { x with sr := mputD 0 x.sr tok w, toks := x.toks.filter (fun k => k != tok), stall := false,
               rbad := x.rbad.filter (fun k => k != 16384 + tok) }) := by
  refine ⟨_, ?_, rfl⟩
  split
  · exact cacheOnly_acqAct _ _ _
  · exact CacheOnly.refl s

theorem tokenHolds_writeToken (s : State) (tid g tok : Nat) (w : Word) : TokenHolds (writeToken s tid g tok w) tid g tok w := by
  obtain ⟨s1, -, heq⟩ := writeToken_eq s tid g tok w
  intro x hx
  rw [heq, group_modGroup_same] at hx
  obtain ⟨y, -, rfl⟩ := Option.map_eq_some_iff.mp hx
  refine ⟨?_, ?_⟩
  · show mgetD 0 (mputD 0 y.sr tok w) tok = w
    rw [mgetD_mputD, if_pos rfl]
  · show tok ∉ y.toks.filter (fun k => k != tok)
    simp

theorem sameMemory_writeToken (s : State) (tid g tok : Nat) (w : Word) : SameMemory s (writeToken s tid g tok w) := by
  obtain ⟨s1, hs1, heq⟩ := writeToken_eq s tid g tok w
  rw [heq]
  exact hs1.memory

theorem sameCsrs_writeToken (s : State) (tid g tok : Nat) (w : Word) : SameCsrs s (writeToken s tid g tok w) := by
  obtain ⟨s1, hs1, heq⟩ := writeToken_eq s tid g tok w
  rw [heq]
  exact hs1.csrs

theorem cancels_writeToken (s : State) (tid g tok : Nat) (w : Word) : (writeToken s tid g tok w).cancels = s.cancels := by
  obtain ⟨s1, hs1, heq⟩ := writeToken_eq s tid g tok w
  rw [heq]
  have := congrArg State.cancels hs1
  exact this

theorem tenant_writeToken (s : State) (tid g tok : Nat) (w : Word) (n : Nat) : tenant (writeToken s tid g tok w) n = tenant s n := by
  obtain ⟨s1, hs1, heq⟩ := writeToken_eq s tid g tok w
  rw [heq]
  unfold tenant
  exact congrArg (mgetD _ · n) hs1.tens

theorem forks_writeToken (s : State) (tid g tok : Nat) (w : Word) : (writeToken s tid g tok w).forks = s.forks := by
  obtain ⟨s1, hs1, heq⟩ := writeToken_eq s tid g tok w
  rw [heq]
  have := congrArg State.forks hs1
  exact this

/-! ### A cancellation that is over (R316) -/

theorem exec_cancelReclaim (id : Nat) (s : State) : exec (.cancelReclaim id) s = fire (cancelReclaim s id) s := rfl

/-- A state once a cancellation is over: it is gone, and its token has its status. -/
def cancelDone (id : Nat) (op : CancelOp) (s : State) : State :=
  match op.tok with
  | none => { s with cancels := mdel s.cancels id }
  | some (tid, g, tok) => writeToken { s with cancels := mdel s.cancels id } tid g tok (statusWord op.status op.value)

section
variable (id : Nat) (op : CancelOp) (s : State)

theorem cancels_cancelDone (k : Nat) :
    mget (cancelDone id op s).cancels k = if k = id then none else mget s.cancels k := by
  unfold cancelDone
  split
  · exact mget_mdel _ _ _
  · rw [cancels_writeToken]
    exact mget_mdel _ _ _

theorem sameMemory_cancelDone : SameMemory s (cancelDone id op s) := by
  unfold cancelDone
  split
  · exact fun _ _ => rfl
  · exact sameMemory_writeToken { s with cancels := mdel s.cancels id } _ _ _ _

theorem sameCsrs_cancelDone : SameCsrs s (cancelDone id op s) := by
  unfold cancelDone
  split
  · exact fun _ _ => rfl
  · exact sameCsrs_writeToken { s with cancels := mdel s.cancels id } _ _ _ _

theorem tokenHolds_cancelDone {tid g tok : Nat} (h : op.tok = some (tid, g, tok)) :
    TokenHolds (cancelDone id op s) tid g tok (status op.status op.value) := by
  unfold cancelDone
  rw [h]
  dsimp only
  rw [statusWord_eq]
  exact tokenHolds_writeToken _ _ _ _ _

theorem onward_cancelDone : Onward s (cancelDone id op s) := by
  have hdel : Onward s { s with cancels := mdel s.cancels id } := (Onward.refl s).step rfl rfl
  unfold cancelDone
  split
  · exact hdel
  · exact hdel.writeToken _ _ _ _

end

theorem cancelReclaim_over {s : State} {id : Nat} {op : CancelOp} (h : mget s.cancels id = some op) (hst : op.status = 6) :
    cancelReclaim s id = some (cancelDone id op s) := by
  unfold cancelReclaim cancelDone
  rcases htok : op.tok with _ | ⟨tid, g, tok⟩ <;> simp only [h, hst, htok, if_true]

/-! ### The tasks of a cancellation end (R316) -/

/-- The tasks that a cancellation ends. -/
theorem mem_cancelTasks {s : State} {op : CancelOp} {p : Nat × Task} : p ∈ cancelTasks s op ↔
    p ∈ s.tasks ∧ p.2.tenant = op.tenant ∧ (p.1 ∈ op.tasks ∨ (p.2.prop = false ∧ p.2.launch ∈ op.entries)) := by
  unfold cancelTasks
  rw [List.mem_filter]
  simp

/-- The state once the tasks of a list are ended. -/
def endTasks (s : State) (ts : List (Nat × Task)) : State := ts.foldl (fun (s : State) p => endTask s p.1 (p.2.faulted)) s

theorem fewer_endTasks (ts : List (Nat × Task)) (s : State) : Fewer s (endTasks s ts) := by
  induction ts generalizing s with
  | nil => exact Fewer.refl s
  | cons p ts ih => exact (fewer_endTask s p.1 p.2.faulted).trans (ih _)

theorem task_endTasks (ts : List (Nat × Task)) (s : State) {p : Nat × Task} (hp : p ∈ ts) : task (endTasks s ts) p.1 = none := by
  induction ts generalizing s with
  | nil => cases hp
  | cons q ts ih =>
    rcases List.mem_cons.mp hp with rfl | hp
    · exact (fewer_endTasks ts _).tasks _ (task_endTask s p.1 p.2.faulted)
    · exact ih _ hp

theorem propOf_none {s t : State} {n : Nat} {set : List Nat} (h : PropJobs s t)
    (hs : ∀ p ∈ (tenant s n).traces, ∀ r, p.2.prop = some r → r.job = 0 ∨ r.job ∉ set) : propOf t n set = none := by
  unfold propOf
  rw [Option.map_eq_none_iff, List.find?_eq_none]
  intro p hp hany
  obtain ⟨r, hr, hjob⟩ := (Option.any_eq_true _ _).mp hany
  obtain ⟨q, hq, r', hr', heq⟩ := h n p hp r hr
  have := hs q hq r' hr'
  rw [heq] at this
  simp only [Bool.and_eq_true, bne_iff_ne, ne_eq, List.contains_iff_mem] at hjob
  tauto

theorem cancelReclaim_ends {s : State} {id : Nat} {op : CancelOp} (h : mget s.cancels id = some op) (hst : op.status = 0)
    (hwritten : ∀ p ∈ cancelTasks s op, Written s p.2.core)
    (hprop : ∀ p ∈ (tenant s op.tenant).traces, ∀ r, p.2.prop = some r → r.job = 0 ∨ r.job ∉ op.entries) :
    cancelReclaim s id = some (cancelDone id op (reclaimSet (endTasks s (cancelTasks s op)) op.tenant op.entries)) := by
  have hcores : ∀ c ∈ ((cancelTasks s op).map (fun p => p.2.core)).dedup, Written s c := by
    intro c hc
    obtain ⟨p, hp, rfl⟩ := List.mem_map.mp (List.mem_dedup.mp hc)
    exact hwritten p hp
  have hclean : ((cancelTasks s op).map (fun p => p.2.core)).dedup.any
      (fun c => (core s c).l1.any (fun p => !p.2.dirty.isEmpty)) = false := by
    rw [List.any_eq_false]
    intro c hc
    rw [Bool.not_eq_true, List.any_eq_false]
    exact fun p hp => by rw [(hcores c hc).1 p hp]; decide
  have hdone : ((cancelTasks s op).map (fun p => p.2.core)).dedup.any (fun c => !coreClean s c) = false := by
    rw [List.any_eq_false]
    exact fun c hc => by rw [coreClean_of_written (hcores c hc)]; decide
  have hnone := propOf_none (fewer_endTasks (cancelTasks s op) s).props hprop
  unfold endTasks at hnone
  unfold cancelReclaim cancelDone endTasks
  rcases htok : op.tok with _ | ⟨tid, g, tok⟩ <;>
    simp only [h, hst, htok, hclean, hdone, hnone, Bool.false_eq_true, if_false, OfNat.zero_ne_ofNat]

/-- The tasks that a cancellation ends are gone once it is over. -/
theorem task_reclaimed {s : State} {id : Nat} {op : CancelOp} {tid : Nat} {tk : Task} (ht : task s tid = some tk)
    (hten : tk.tenant = op.tenant) (hdies : tid ∈ op.tasks ∨ (tk.prop = false ∧ tk.launch ∈ op.entries)) :
    task (cancelDone id op (reclaimSet (endTasks s (cancelTasks s op)) op.tenant op.entries)) tid = none := by
  have hin : (tid, tk) ∈ cancelTasks s op := mem_cancelTasks.mpr ⟨mem_of_mget ht, hten, hdies⟩
  refine (onward_cancelDone id op _).tasks tid ?_
  exact ((Onward.refl _).reclaimSet op.tenant op.entries).tasks tid (task_endTasks _ s hin)

end Sys2Proof.Machine
end
section
/-! SUPPORT. The tables and the entries of a fork's children (R312). -/

namespace Sys2Proof.Machine

open Host

/-! ### The tables of a fork's children (R312) -/

namespace Served
variable {s u v : State}

theorem rawEntry (h : Served s u) (t src dst i : Nat) : Served s (Machine.rawEntry u t src dst i) := by
  unfold Machine.rawEntry
  dsimp only
  split
  · exact (h.tablePut _ _ _ _).shareUp _ _ _
  split
  · exact (h.tablePut _ _ _ _).shareUp _ _ _
  · exact h.tablePut _ _ _ _

theorem markEntry (h : Served s u) (t pa ca i : Nat) : Served s (Machine.markEntry u t pa ca i) := by
  have hboth : ∀ v0 v1 : Nat, Served s (Machine.tablePut (Machine.tablePut u t pa v0 v1) t ca v0 v1) :=
    fun _ _ => (h.tablePut _ _ _ _).tablePut _ _ _ _
  unfold Machine.markEntry
  dsimp only
  split
  · split
    · exact hboth _ _
    · exact (hboth _ _).shareUp _ _ _
  split
  · split
    · exact hboth _ _
    · exact (hboth _ _).shareUp _ _ _
  split
  · split
    · exact hboth _ _
    · exact (hboth _ _).shareUp _ _ _
  · exact h

theorem rawTable (h : Served s u) {t src : Nat} {r : State × Nat} (hr : Machine.rawTable u t src = some r) : Served s r.1 := by
  unfold Machine.rawTable at hr
  obtain ⟨p, hp, rfl⟩ := Option.map_eq_some_iff.mp hr
  dsimp only
  refine Served.foldl (h.takeTable hp) (fun _ _ hv => ?_) _
  exact hv.rawEntry _ _ _ _

theorem shareSpan (k : Nat) (h : Served s u) {t pt ct n base : Nat} {sp : Span}
    (hr : Machine.shareSpan k u t pt ct n base sp = some v) : Served s v := by
  induction k generalizing u v pt ct n base with
  | zero => cases hr; exact h
  | succ k ih =>
    unfold Machine.shareSpan at hr
    dsimp only at hr
    refine h.foldl_bind (fun w i x hw hx => ?_) _ hr
    split at hx
    · cases hx; exact hw
    split at hx
    · cases hx
      refine hw.foldl (fun y j hy => ?_) _
      split
      · exact hy
      · exact hy.markEntry _ _ _ _
    split at hx
    · cases hx; exact hw.markEntry _ _ _ _
    · obtain ⟨s1, hs1, hx⟩ := Option.bind_eq_some_iff.mp hx
      obtain ⟨q, hq, hx⟩ := Option.bind_eq_some_iff.mp hx
      have h1 : Served s s1 := by
        split at hs1
        · exact hw.breakTable hs1
        · cases hs1; exact hw
      refine ih ?_ hx
      split at hq
      · obtain ⟨p, hp, rfl⟩ := Option.map_eq_some_iff.mp hq
        exact (h1.rawTable hp).tablePut _ _ _ _
      · cases hq; exact h1

theorem shootSpans (h : Served s u) (t : Nat) (spans : List Span) : Served s (Machine.shootSpans u t spans) := by
  refine h.foldl (fun _ _ hv => ?_) _
  exact hv.step rfl rfl

theorem forkRoot (h : Served s u) {t root : Nat} {spans : List Span} {r : State × Nat}
    (hr : Machine.forkRoot u t root spans = some r) : Served s r.1 := by
  unfold Machine.forkRoot at hr
  obtain ⟨p, hp, hshare⟩ := Option.bind_eq_some_iff.mp hr
  obtain ⟨s1, hs1, rfl⟩ := Option.map_eq_some_iff.mp hshare
  have hspans : Served s s1 := (h.rawTable hp).foldl_bind (fun _ _ _ hw hx => Served.shareSpan 5 hw hx) _ hs1
  exact hspans.shootSpans _ _

end Served

/-! ### The entries of a fork's children -/

/-- What the statement about a child says of its entry. -/
def Counter.shown (e : Counter) : Nat × Nat × CStat × Nat × Nat × Nat := (e.level, e.parent, e.status, e.done, e.target, e.budget)

/-- Every entry of a list is a job entry below job that has just been made, and has a root. -/
def Children (s : State) (n : Nat) (shown : Nat × Nat × CStat × Nat × Nat × Nat) (ids : List Nat) : Prop :=
  ∀ i ∈ ids, (mget (tenant s n).roots i).isSome = true ∧ (counter s n i).map Counter.shown = some shown

/-- A tenant's counters and roots are as they were. -/
structure SameJobs (n : Nat) (s t : State) : Prop where
  ctr : (tenant t n).ctr = (tenant s n).ctr
  roots : (tenant t n).roots = (tenant s n).roots

namespace SameJobs
variable {n : Nat} {s t u : State}

theorem refl (n : Nat) (s : State) : SameJobs n s s := ⟨rfl, rfl⟩

theorem trans (h : SameJobs n s t) (k : SameJobs n t u) : SameJobs n s u := ⟨k.ctr.trans h.ctr, k.roots.trans h.roots⟩

theorem step (h : SameJobs n s t) (htens : u.tens = t.tens) : SameJobs n s u := by
  have hten : tenant u n = tenant t n := by unfold tenant; rw [htens]
  exact h.trans ⟨by rw [hten], by rw [hten]⟩

theorem served (h : SameJobs n s t) (k : Served t u) : SameJobs n s u :=
  h.trans ⟨congrArg (·.ctr) (k.tenants n), congrArg (·.roots) (k.tenants n)⟩

theorem counter (h : SameJobs n s t) (i : Nat) : Machine.counter t n i = Machine.counter s n i := by
  unfold Machine.counter
  rw [h.ctr]

theorem children (h : SameJobs n s t) {sh : Nat × Nat × CStat × Nat × Nat × Nat} {ids : List Nat} (k : Children s n sh ids) :
    Children t n sh ids := by
  intro i hi
  rw [h.roots, h.counter]
  exact k i hi

end SameJobs

/-- An entry that is free is made a child, beside those there are. -/
theorem children_add {s : State} {n c r : Nat} {ids : List Nat} {e : Counter} (hfree : freeCounter s n = some c)
    (h : Children s n e.shown ids) :
    Children (modTenant (setCounter s n c e) n (fun x => { x with roots := mput x.roots c r })) n e.shown (ids ++ [c]) := by
  obtain ⟨hpos, -, -⟩ := firstKey_some hfree
  have hcounter (i : Nat) : counter (modTenant (setCounter s n c e) n (fun x => { x with roots := mput x.roots c r })) n i =
      if i = c then some e else counter s n i := by
    rw [counter_modTenant _ n n (by intro; rfl)]
    unfold counter setCounter
    rw [tenant_modTenant, if_pos rfl, mget_mput]
    by_cases hi : i = c
    · rw [if_neg (by omega), if_pos hi, if_pos hi]
    · rw [if_neg hi, if_neg hi]
  have hroots (i : Nat) : mget (tenant (modTenant (setCounter s n c e) n (fun x => { x with roots := mput x.roots c r })) n).roots i =
      if i = c then some r else mget (tenant s n).roots i := by
    rw [tenant_modTenant, if_pos rfl, mget_mput]
    unfold setCounter
    rw [tenant_modTenant, if_pos rfl]
  intro i hi
  rw [hcounter, hroots]
  by_cases hic : i = c
  · rw [if_pos hic, if_pos hic]
    exact ⟨rfl, rfl⟩
  · rw [if_neg hic, if_neg hic]
    exact h i ((List.mem_append.mp hi).resolve_right (fun hm => hic (List.mem_singleton.mp hm)))

theorem forkChildren_children {s s5 : State} {t : Task} {op : ForkOp} {n root k : Nat} {spans : List Span} {ids : List Nat}
    (htraced : nb n 296 1 = 0) (h : forkChildren s t op n spans root k = some (s5, ids)) :
    Children s5 t.tenant (4, op.job, .open, 0, nb n 260 32, nb n 320 64) ids := by
  unfold forkChildren at h
  have hfold (l : List Nat) (acc : Option (State × List Nat)) (hacc : ∀ r, acc = some r →
      Children r.1 t.tenant (4, op.job, .open, 0, nb n 260 32, nb n 320 64) r.2) : ∀ r,
      l.foldl (fun (acc : Option (State × List Nat)) i => acc.bind (fun (s, ids) =>
        (forkRoot s t.tenant root spans).bind (fun (s1, r) =>
          (freeCounter s1 t.tenant).map (fun c =>
            let s2 := setCounter s1 t.tenant c (Counter.new 4 op.job (nb n 260 32) (nb n 320 64) ((nb n 384 64 + i) % 2 ^ 64))
            let s3 := modTenant s2 t.tenant (fun x => { x with roots := mput x.roots c r })
            let s4 := if nb n 296 1 = 1 then forkTrace s3 t.tenant (nb n 292 4) r (clusterOf t.core) c else s3
            (s4, ids ++ [c]))))) acc = some r →
      Children r.1 t.tenant (4, op.job, .open, 0, nb n 260 32, nb n 320 64) r.2 := by
    induction l generalizing acc with
    | nil => exact hacc
    | cons i l ih =>
      refine ih _ (fun r hr => ?_)
      obtain ⟨⟨w, ws⟩, hw, hr⟩ := Option.bind_eq_some_iff.mp hr
      obtain ⟨⟨w1, r1⟩, hroot, hr⟩ := Option.bind_eq_some_iff.mp hr
      obtain ⟨c, hc, rfl⟩ := Option.map_eq_some_iff.mp hr
      dsimp only
      rw [htraced, if_neg (by decide)]
      have hjobs := (SameJobs.refl t.tenant w).served ((Served.refl w).forkRoot hroot)
      exact children_add (e := Counter.new 4 op.job (nb n 260 32) (nb n 320 64) ((nb n 384 64 + i) % 2 ^ 64)) hc
        (hjobs.children (hacc _ hw))
  exact hfold (upTo k) (some (s, [])) (fun r hr => by cases hr; exact fun i hi => by cases hi) _ h

end Sys2Proof.Machine
end
section
/-! SUPPORT. The end of a fork (R312). -/

namespace Sys2Proof.Machine

open Host

/-! ### What an engine's own accesses leave of a tenant's entries -/

namespace SameJobs
variable {n : Nat} {s t u : State}

theorem foldl {α : Type} {f : State → α → State} (h : SameJobs n s t) (hf : ∀ v a, SameJobs n s v → SameJobs n s (f v a))
    (l : List α) : SameJobs n s (l.foldl f t) :=
  foldl_keeps (P := SameJobs n s) h hf l

theorem modTenant (h : SameJobs n s t) {m : Nat} {f : Tenant → Tenant} (hctr : ∀ x, (f x).ctr = x.ctr)
    (hroots : ∀ x, (f x).roots = x.roots) : SameJobs n s (Machine.modTenant t m f) := by
  refine h.trans ⟨?_, ?_⟩
  · rw [tenant_modTenant]
    split
    · next hm => rw [hctr, hm]
    · rfl
  · rw [tenant_modTenant]
    split
    · next hm => rw [hroots, hm]
    · rfl

theorem access (h : SameJobs n s t) (v : Via) (m root va : Nat) (w : Want) : SameJobs n s (Machine.access t v m root va w).1 :=
  h.served ((Served.refl t).access v m root va w)

theorem engTouch (h : SameJobs n s t) (k : Task) (user rd wr : Bool) (fmt : Option (Fmt × Geom)) (gran : Nat) :
    SameJobs n s (Machine.engTouch t k user rd wr fmt gran).1 := by
  have hacc := h.access (.tile k.core) k.tenant (rootOf t k) (32 * gran) ⟨rd, wr, false, user⟩
  unfold Machine.engTouch
  dsimp only
  split
  · exact h
  split
  · next hr => rw [hr] at hacc; exact hacc
  · next hr => rw [hr] at hacc; exact hacc
  · next hr =>
    rw [hr] at hacc
    repeat' split
    all_goals exact hacc

theorem engTouches (k : Task) (user rd wr : Bool) (fmt : Option (Fmt × Geom)) (gs : List Nat) (h : SameJobs n s t) :
    SameJobs n s (Machine.engTouches t k user rd wr fmt gs).1 := by
  induction gs generalizing t with
  | nil => exact h
  | cons g gs ih => exact ih (h.engTouch k user rd wr fmt g)

theorem engPlan (h : SameJobs n s t) {k : Task} {user rd wr : Bool} {fmt : Option (Fmt × Geom)} {vas : List Nat}
    {las : List LaneAcc} (hplan : Machine.engPlan t k user rd wr fmt vas = .go u las) : SameJobs n s u := by
  have htouch := engTouches k user rd wr fmt (granules vas) h
  unfold Machine.engPlan at hplan
  dsimp only at hplan
  split at hplan
  · cases hplan
  · cases hplan
  · split at hplan
    · cases hplan
    · cases hplan
      exact htouch

theorem traceWrite (h : SameJobs n s t) (k : Task) (la : LaneAcc) (va m : Nat) : SameJobs n s (Machine.traceWrite t k la va m) := by
  rcases traceWrite_eq t k la va m with he | ⟨evs, he⟩ <;> rw [he]
  · exact h
  · exact h.modTenant (fun _ => rfl) (fun _ => rfl)

theorem engApply (h : SameJobs n s t) (k : Task) (las : List LaneAcc) (bytes : Map Byte) :
    SameJobs n s (Machine.engApply t k las bytes) := by
  refine h.foldl (fun v la hv => ?_) _
  dsimp only
  split
  · exact hv
  · unfold homeWriteMap
    dsimp only
    generalize hw : setDie (countReq (flushLine (Machine.traceWrite v k la la.addr 32) k.core la.pa) _ _) _ _ = w
    have hk : SameJobs n s w := by
      rw [← hw]
      have hflush := (hv.traceWrite k la la.addr 32).served ((Served.refl _).cacheOnly (cacheOnly_flushLine _ k.core la.pa))
      exact (hflush.served ((Served.refl _).cacheOnly (cacheOnly_countReq _ (dieOf k.core) la.pa))).step rfl
    exact hk.served ((Served.refl w).applyAtHome _ _ _ _ _ _ _)

theorem forkOwn (k : Task) (vas : List Nat) (h : SameJobs n s t) (hown : Machine.forkOwn t k vas = .ok u) : SameJobs n s u := by
  induction vas generalizing t with
  | nil => cases hown; exact h
  | cons va vas ih =>
    have hreach := h.served ((Served.refl t).reach 8 k.tenant (rootOf t k) va ⟨false, true, false, false⟩)
    unfold Machine.forkOwn at hown
    split at hown
    · next hr => rw [hr] at hreach; exact ih hreach hown
    · cases hown
    · cases hown
    · cases hown

theorem forkEnd (h : SameJobs n s t) (id : Nat) (op : ForkOp) (st value : Nat) : SameJobs n s (Machine.forkEnd t id op st value) := by
  have hten := tenant_writeToken { (dropNeeds t (fun w => w == .fork id)) with forks := mdel t.forks id } op.tid op.g op.tok
    (statusWord st value) n
  exact h.trans ⟨by unfold Machine.forkEnd; rw [hten]; rfl, by unfold Machine.forkEnd; rw [hten]; rfl⟩

end SameJobs

/-! ### The end of a fork (R312) -/

theorem exec_forkComplete (id : Nat) (s : State) : exec (.forkComplete id) s = fire (forkComplete s id) s := rfl

theorem forkEnd_ends (s : State) (id : Nat) (op : ForkOp) (st value : Nat) :
    SameMemory s (forkEnd s id op st value) ∧ mget (forkEnd s id op st value).forks id = none ∧
      TokenHolds (forkEnd s id op st value) op.tid op.g op.tok (status st value) := by
  unfold forkEnd
  refine ⟨sameMemory_writeToken { (dropNeeds s (fun w => w == .fork id)) with forks := mdel s.forks id } _ _ _ _, ?_, ?_⟩
  · rw [forks_writeToken]
    exact (mget_mdel _ _ _).trans (if_pos rfl)
  · rw [statusWord_eq]
    exact tokenHolds_writeToken _ _ _ _ _

/-- A read of an engine that goes on. -/
theorem forkRead_reads {s s1 : State} {t : Task} {op : ForkOp} {va len v : Nat} (h : EngReads s s1 t op.user va len v) (id : Nat)
    (k : State → Nat → Option State) : forkRead s t id op va len false k = k s1 v := by
  obtain ⟨s0, las, hplan, rfl, rfl⟩ := h
  unfold forkRead
  rw [Bool.not_false, hplan]
  rfl

theorem forkRead_writes {s s1 : State} {t : Task} {op : ForkOp} {va len : Nat} {las : List LaneAcc}
    (h : engPlan s t op.user false true none ((upTo len).map (va + ·)) = .go s1 las) (id : Nat)
    (k : State → Nat → Option State) : forkRead s t id op va len true k = k s1 0 := by
  unfold forkRead
  rw [Bool.not_true, h]
  rfl

/-- The bytes that a fork writes: the four of each of its children's indices, one after another. -/
def indexBytes (base : Nat) (ids : List Nat) : Map Byte :=
  ids.zipIdx.flatMap (fun p => (leBytes 4 p.1).zipIdx.map (fun q => (base + 4 * p.2 + q.2, q.1)))

theorem keys_indexBytes (base : Nat) (ids : List Nat) :
    (indexBytes base ids).map (·.1) = (List.range (4 * ids.length)).map (base + ·) := by
  have hfour (w k : Nat) : ((leBytes 4 w).zipIdx.map (fun q => (base + 4 * k + q.2, q.1))).map (·.1) =
      (List.range 4).map (fun j => base + (4 * k + j)) := by
    simp [leBytes, List.range_succ, List.zipIdx, Nat.add_assoc]
  unfold indexBytes
  suffices h : ∀ k, ((ids.zipIdx k).flatMap (fun p => (leBytes 4 p.1).zipIdx.map (fun q => (base + 4 * p.2 + q.2, q.1)))).map (·.1) =
      (List.range (4 * ids.length)).map (fun j => base + (4 * k + j)) by
    simpa using h 0
  induction ids with
  | nil => intro k; rfl
  | cons i ids ih =>
    intro k
    have hlen : 4 * (i :: ids).length = 4 + 4 * ids.length := by
      rw [List.length_cons]
      omega
    rw [List.zipIdx_cons, List.flatMap_cons, List.map_append, hfour, ih, hlen, List.range_add, List.map_append, List.map_map]
    refine congrArg _ (List.map_congr_left (fun j _ => ?_))
    show base + (4 * (k + 1) + j) = base + (4 * k + (4 + j))
    omega

/-- A fork whose descriptor is good completes: its children's entries are made, their indices written, and it ends. -/
theorem forkComplete_done {s s1 s2 s4 s5 s6 s7 s8 : State} {id n m : Nat} {op : ForkOp} {tk : Task} {w0 las : List LaneAcc}
    {ids : List Nat} {j : Counter} (hop : mget s.forks id = some op) (ht : task s op.tid = some tk)
    (hneed : hasNeed s (.fork id) = false) (hlive : dying s op.tid tk = false) (hcancelled : op.cancelled = false) (hjob : op.job ≠ 0)
    (hread : EngReads s s1 tk op.user op.addr 64 n) (hbad : forkBad n = false)
    (hspans : EngReads s1 s2 tk op.user (op.addr + 64) (16 * nb n 304 16) m) (htraced : nb n 296 1 = 0)
    {es : List Nat} (hes : es = (upTo (nb n 304 16)).map (fun i => nb m (128 * i) 128))
    {spans : List Span} (hsp : spans = es.map (fun e => (nb e 71 57 / 2 ^ 12, nb e 28 36)))
    (hgood : es.any spanBad = false) (hapart : spansOverlap spans = false)
    (hstate : ∀ sp ∈ spans, spanState s2 tk.tenant (rootOf s2 tk) sp = .ok)
    (hroom : (tenant s2 tk.tenant).ctr.length + nb n 297 7 ≤ 4095)
    (hback : (s2.cores.map (·.1)).foldl (fun s c => writeBackAll s c) s2 = s2) (hwq : s2.wq = [])
    (hplace : engPlan s2 tk op.user false true none ((upTo (4 * nb n 297 7)).map (nb n 455 57 + ·)) = .go s4 w0)
    (hchildren : forkChildren s4 tk op n spans (rootOf s2 tk) (nb n 297 7) = some (s5, ids))
    (hj : counter s5 tk.tenant op.job = some j)
    (hs6 : s6 = setCounter s5 tk.tenant op.job { j with target := j.target + nb n 297 7 })
    {vas : List Nat} (hvas : vas = (granules ((List.range (4 * ids.length)).map (nb n 455 57 + ·))).map (32 * ·))
    (hown : forkOwn s6 tk vas = .ok s7) (hplan : engPlan s7 tk op.user false true none vas = .go s8 las) :
    forkComplete s id = some (forkEnd (engApply s8 tk las (indexBytes (nb n 455 57) ids)) id op 0 (nb n 297 7)) := by
  have hhost : spans.any (fun sp => spanState s2 tk.tenant (rootOf s2 tk) sp == .host) = false :=
    List.any_eq_false.mpr (fun sp hsp => by rw [hstate sp hsp]; decide)
  have hwindow : spans.any (fun sp => spanState s2 tk.tenant (rootOf s2 tk) sp == .window) = false :=
    List.any_eq_false.mpr (fun sp hsp => by rw [hstate sp hsp]; decide)
  have hroom' : ¬ 4095 < (tenant s2 tk.tenant).ctr.length + nb n 297 7 := by omega
  have huntraced : ¬ nb n 296 1 = 1 := by rw [htraced]; decide
  subst hsp hes hs6
  rw [← keys_indexBytes] at hvas
  subst hvas
  unfold indexBytes at hown hplan ⊢
  unfold forkComplete
  simp only [hop, ht, hneed, hlive, hcancelled, hjob, Bool.or_self, Bool.false_eq_true, if_false, forkRead_reads hread, hbad,
    forkRead_reads hspans, hgood, hapart, hhost, hwindow, hroom', huntraced, hback, hwq, false_and, Option.any_none, List.isEmpty_nil, Bool.not_true, forkRead_writes hplace, Option.map_none,
    Option.getD_none, List.filter_nil, List.append_nil, hchildren, hj, hown, hplan]

/-- What a completed fork shows of its children and of the job that forked them. -/
theorem children_shown {s4 s5 s6 s7 s8 : State} {tk : Task} {op : ForkOp} {n root : Nat} {spans : List Span} {ids vas : List Nat}
    {las : List LaneAcc} {j : Counter} (htraced : nb n 296 1 = 0)
    (hchildren : forkChildren s4 tk op n spans root (nb n 297 7) = some (s5, ids)) (hj : counter s5 tk.tenant op.job = some j)
    (hjob : op.job ∉ ids) (hs6 : s6 = setCounter s5 tk.tenant op.job { j with target := j.target + nb n 297 7 })
    (hown : forkOwn s6 tk vas = .ok s7) (hplan : engPlan s7 tk op.user false true none vas = .go s8 las) (bytes : Map Byte)
    (id st value : Nat) :
    let t := forkEnd (engApply s8 tk las bytes) id op st value
    (counter t tk.tenant op.job).map (·.target) = some (j.target + nb n 297 7) ∧
      Children t tk.tenant (4, op.job, .open, 0, nb n 260 32, nb n 320 64) ids := by
  have hset (i : Nat) : counter s6 tk.tenant i =
      if i = op.job then some { j with target := j.target + nb n 297 7 } else counter s5 tk.tenant i := by
    rw [hs6]
    exact counter_setCounter s5 tk.tenant op.job i _ (by rw [hj]; rfl)
  have hjobs := ((((SameJobs.refl tk.tenant s6).forkOwn tk vas hown).engPlan hplan).engApply tk las bytes).forkEnd id op st value
  refine ⟨?_, hjobs.children (fun i hi => ?_)⟩
  · rw [hjobs.counter, hset, if_pos rfl]
    rfl
  · have hroots : (tenant s6 tk.tenant).roots = (tenant s5 tk.tenant).roots := by
      rw [hs6]
      unfold setCounter
      rw [tenant_modTenant, if_pos rfl]
    have hne : i ≠ op.job := fun he => hjob (he ▸ hi)
    rw [hset, if_neg hne, hroots]
    exact forkChildren_children htraced hchildren i hi

end Sys2Proof.Machine
end
section
/-! PROOFS. Charges, replays, reclamations and forks. -/

namespace Sys2Proof.Machine

open Host

/-! ### Charges, replays, reclamations and forks (R56, R59, R312, R316, R462) -/

/-- Settles O47: the charge of a core's one task, the replay of a logged access, the end of a cancellation and that of a fork, each
by the lemmas that say which state its event leaves. -/
theorem chargesReplaysReclaims : Obligations.ChargesReplaysReclaims := by
  refine ⟨?_, ?_, ?_, ?_⟩
  · intro s c tid tk hts ht hprop hnodup
    obtain ⟨t, hcharge, hrest⟩ := budgetCharge_charges hts ht hprop hnodup
    exact ⟨t, fire_some hcharge, hrest⟩
  · intro s tid g tk x0 o os ht hg hlog hruns hrun hstop
    refine ⟨fun cause ls hfailed htrap hv => ?_, fun s1 las d u sz sx const hfailed hneed hop hne hload hcheck hlen hord hresume => ?_⟩
    · obtain ⟨hmem, hcsrs, hgroups, hx⟩ := replayTrap_traps ht hg htrap hv o cause ls
        (((o.lanes.find? (fun l => has ls l.lane)).map (·.addr)).getD 0 % 2 ^ 57)
      exact ⟨_, _, _, _, fire_some (oplogReplay_failed ht hg hlog hruns hrun hstop hfailed), hmem, hcsrs, hgroups, hx, rfl, rfl, rfl,
        rfl, rfl, rfl, rfl, rfl, rfl, rfl, rfl, rfl, rfl, fun f hf => mask_of_mem_dropLanes hf, rfl, rfl, rfl⟩
    · have hgroup : group s tid g = some x0 := by
        unfold group
        rw [ht]
        exact hg
      obtain ⟨t, n, heq, hmem, hcsrs, hgroups, hx⟩ := replayLanes_load (o := o) hgroup (by rw [hop]; rfl) hne hcheck hlen hord
      obtain ⟨hlog1, hload1, hrest, hfront, hback⟩ := replayed_spec (n := n) (las := las) hload
      exact ⟨t, x0.replayed n o las, fire_some ((oplogReplay_served ht hg hlog hruns hrun hstop hfailed hneed).trans heq), hmem,
        hcsrs, hgroups, hx, hlog1, hload1, hrest, hfront, fun r hr => hback r hr (hresume r hr)⟩
  · intro s id op hop
    refine ⟨fun hst => ?_, fun hst => ?_⟩
    · refine ⟨cancelDone id op s, fire_some (cancelReclaim_over hop hst), sameMemory_cancelDone id op s, sameCsrs_cancelDone id op s,
        cancels_cancelDone id op s, fun tid g tok htok => ?_⟩
      rw [← hst]
      exact tokenHolds_cancelDone id op s htok
    · intro dies hwritten hprop
      refine ⟨_, fire_some (cancelReclaim_ends hop hst (fun p hp => ?_) hprop), ?_, fun tid tk ht hdies => ?_,
        fun tid g tok htok => ?_⟩
      · obtain ⟨hin, hten, hwho⟩ := mem_cancelTasks.mp hp
        exact hwritten p hin ⟨hten, hwho⟩
      · rw [cancels_cancelDone, if_pos rfl]
      · exact task_reclaimed ht hdies.1 hdies.2
      · rw [← hst]
        exact tokenHolds_cancelDone id op _ htok
  · intro s id op tk hop ht hneed hlive
    refine ⟨fun hcancelled => ?_, fun hcancelled hjob => ?_, ?_⟩
    · have hend : forkComplete s id = some (forkEnd s id op 0x0D 0) := by
        unfold forkComplete
        simp [hop, ht, hneed, hlive, hcancelled]
      obtain ⟨hmem, hforks, htok⟩ := forkEnd_ends s id op 0x0D 0
      exact ⟨_, fire_some hend, hmem, hforks, htok⟩
    · have hend : forkComplete s id = some (forkEnd s id op 4 0) := by
        unfold forkComplete
        simp [hop, ht, hneed, hlive, hcancelled, hjob]
      obtain ⟨hmem, hforks, htok⟩ := forkEnd_ends s id op 4 0
      exact ⟨_, fire_some hend, hmem, hforks, htok⟩
    · intro s1 s2 s4 s5 s6 s7 s8 n m w0 las ids j hcancelled hjob hread hbad hspans htraced es spans k hgood hapart hstate hroom hback
        hwq hplace hchildren hj hnot hs6 vas hown hplan hlen
      have hdone := forkComplete_done hop ht hneed hlive hcancelled hjob hread hbad hspans htraced (es := es) rfl (spans := spans) rfl
        hgood hapart hstate hroom hback hwq hplace hchildren hj hs6 (vas := vas) rfl hown hplan
      obtain ⟨-, hforks, htok⟩ := forkEnd_ends (engApply s8 tk las (indexBytes (nb n 455 57) ids)) id op 0 k
      obtain ⟨htarget, hshown⟩ := children_shown htraced hchildren hj hnot hs6 hown hplan (indexBytes (nb n 455 57) ids) id 0 k
      exact ⟨_, fire_some hdone, hforks, htok, htarget, hshown⟩

end Sys2Proof.Machine
end
section
/-! SUPPORT. The script that every cycle leaves: waits that are over (R36). -/

namespace Sys2Proof.Machine

open Host

/-! ### What leaves the script (R36) -/

/-- The turns that the script still holds stay. -/
def SameScript (s t : State) : Prop := t.script = s.script

namespace SameScript
variable {s t u : State}

theorem refl (s : State) : SameScript s s := rfl

theorem step (h : SameScript s t) (hscript : u.script = t.script) : SameScript s u := hscript.trans h

theorem served (h : SameScript s t) (k : Served t u) : SameScript s u := h.step k.script
theorem onward (h : SameScript s t) (k : Onward t u) : SameScript s u := h.step k.script
theorem tallied (h : SameScript s t) (k : Tallied t u) : SameScript s u := h.step k.script
theorem kept {rs : List Nat} (h : SameScript s t) (k : Kept rs t u) : SameScript s u := h.step k.script
theorem cacheOnly (h : SameScript s t) (k : CacheOnly t u) : SameScript s u := h.kept ((Kept.refl [] t).cacheOnly k)

theorem modTenant (h : SameScript s t) (n : Nat) (f : Tenant → Tenant) : SameScript s (Machine.modTenant t n f) := h
theorem modTask (h : SameScript s t) (tid : Nat) (f : Task → Task) : SameScript s (Machine.modTask t tid f) := h
theorem modGroup (h : SameScript s t) (tid g : Nat) (f : Group → Group) : SameScript s (Machine.modGroup t tid g f) := h
theorem setTask (h : SameScript s t) (tid : Nat) (x : Task) : SameScript s (Machine.setTask t tid x) := h
theorem setCore (h : SameScript s t) (c : Nat) (x : Core) : SameScript s (Machine.setCore t c x) := h
theorem csrSet (h : SameScript s t) (n c : Nat) (w : Word) : SameScript s (Machine.csrSet t n c w) := h
theorem fregSet (h : SameScript s t) (n o : Nat) (w : Word) : SameScript s (Machine.fregSet t n o w) := h
theorem wakeAll (h : SameScript s t) : SameScript s (Machine.wakeAll t) := h
theorem setCtx (h : SameScript s t) (n c : Nat) (f : Context → Context) : SameScript s (Machine.setCtx t n c f) := h
theorem dropNeeds (h : SameScript s t) (p : Needer → Bool) : SameScript s (Machine.dropNeeds t p) := h

theorem foldl {α : Type} {f : State → α → State} (h : SameScript s t) (hf : ∀ v a, SameScript s v → SameScript s (f v a))
    (l : List α) : SameScript s (l.foldl f t) :=
  foldl_keeps (P := SameScript s) h hf l

theorem foldl_pair {α β : Type} {f : State × β → α → State × β} {p : State × β} (h : SameScript s p.1)
    (hf : ∀ q a, SameScript s q.1 → SameScript s (f q a).1) (l : List α) : SameScript s (l.foldl f p).1 :=
  foldl_keeps (P := fun q : State × β => SameScript s q.1) h hf l

/-- What may happen, or leaves the state as it is. -/
theorem getD {o : Option State} (h : SameScript s t) (ho : ∀ u, o = some u → SameScript s u) : SameScript s (o.getD t) := by
  cases o with
  | none => exact h
  | some u => exact ho u rfl

theorem access (h : SameScript s t) (v : Via) (n root va : Nat) (w : Want) : SameScript s (Machine.access t v n root va w).1 :=
  h.served ((Served.refl t).access v n root va w)

theorem laneCheck (h : SameScript s t) (k : Task) (user : Bool) (op : MemOp) (la : LaneAcc) :
    SameScript s (Machine.laneCheck t k user op la).1 := by
  have hacc := h.access (.core k.core) k.tenant (rootOf t k) la.addr ⟨opReads op, opWrites op, false, user⟩
  unfold Machine.laneCheck
  split
  · exact h
  split
  · exact h
  split
  · exact h
  split
  · next hr => rw [hr] at hacc; exact hacc
  · next hr => rw [hr] at hacc; exact hacc
  · next hr =>
    rw [hr] at hacc
    split <;> exact hacc

/-! ### Waits that are over -/

theorem dieRead (h : SameScript s t) (d pa k : Nat) (far : Bool) : SameScript s (Machine.dieRead t d pa k far).1 := by
  have hcount := h.cacheOnly (cacheOnly_countReq t d (pa / lineBytes * lineBytes))
  unfold Machine.dieRead observe
  dsimp only
  generalize Machine.countReq t d (pa / lineBytes * lineBytes) = w at hcount
  generalize hx : setDie w d (catchUp _ _) = x
  have hcaught : SameScript s x := by rw [← hx]; exact hcount
  clear hx
  split
  · exact hcount
  split
  · exact hcaught
  split
  · exact hcaught
  · exact hcaught

theorem engRead (h : SameScript s t) (d pa k n : Nat) : SameScript s (Machine.engRead t d pa k n).1 := h.dieRead d pa k true
theorem homeRead (h : SameScript s t) (d pa k n : Nat) : SameScript s (Machine.homeRead t d pa k n).1 := h.dieRead d pa k false

theorem traceRead (h : SameScript s t) (k : Task) (la : LaneAcc) (va n : Nat) : SameScript s (Machine.traceRead t k la va n) := by
  unfold Machine.traceRead
  split
  · exact h
  split
  · exact h
  · exact h.modTenant _ _

theorem noteSeen (h : SameScript s t) (tid g : Nat) (st : List Nat) : SameScript s (Machine.noteSeen t tid g st) := h.modGroup _ _ _
theorem unblock (h : SameScript s t) (tid g id len : Nat) : SameScript s (Machine.unblock t tid g id len) := h.modGroup _ _ _
theorem reissue (h : SameScript s t) (tid g id : Nat) : SameScript s (Machine.reissue t tid g id) := h.modGroup _ _ _
theorem acqAct (h : SameScript s t) (c : Nat) (scope : Scope) : SameScript s (Machine.acqAct t c scope) :=
  h.cacheOnly (cacheOnly_acqAct t c scope)

theorem chainRead (h : SameScript s t) {tid g : Nat} {k : Task} {la : LaneAcc} {r : State × Word}
    (hr : Machine.chainRead t tid g k la = some r) : SameScript s r.1 := by
  unfold Machine.chainRead at hr
  split at hr
  · cases hr
  · cases hr
    have hline := h.cacheOnly (cacheOnly_flushLine t k.core la.pa)
    exact ((hline.homeRead (dieOf k.core) la.pa la.key 4).noteSeen _ _ _).traceRead _ _ _ _

theorem wakeOne {tid : Nat} {k : Task} {x : Nat × Nat × Wait × Nat} (h : SameScript s t) (hr : Machine.wakeOne t tid k x = some u) :
    SameScript s u := by
  obtain ⟨g, id, w, len⟩ := x
  unfold Machine.wakeOne at hr
  dsimp only at hr
  cases w with
  | bar n phase =>
    dsimp only at hr
    split at hr
    · cases hr
    split at hr
    · cases hr; exact h.reissue _ _ _
    split at hr
    · cases hr
    · cases hr; exact h.unblock _ _ _ _
  | push n entries ord =>
    dsimp only at hr
    split at hr
    · cases hr
    split at hr
    · cases hr; exact h.reissue _ _ _
    split at hr
    · cases hr
    · cases hr; exact (h.setTask _ _).unblock _ _ _ _
  | pop n d u act ord =>
    dsimp only at hr
    split at hr
    · cases hr
    generalize (if u then 1 else lcount act) = m at hr
    split at hr
    · cases hr; exact h.reissue _ _ _
    split at hr
    · cases hr
    split at hr
    · cases hr; exact h.reissue _ _ _
    · cases hr; exact ((h.setTask _ _).modGroup _ _ _).unblock _ _ _ _
  | chain va w ge scope =>
    dsimp only at hr
    split at hr
    · cases hr
    have hcheck := h.laneCheck k (groupUser k g) (.load 0 false .b32 false true false) (laneAcc 0 va va 0 [])
    split at hr
    · next hgo =>
      rw [hgo] at hcheck
      split at hr
      · cases hr
      · next hread =>
        split at hr
        · cases hr
          exact ((hcheck.chainRead hread).cacheOnly (cacheOnly_acqSeen _ _ _ _ _)).unblock _ _ _ _
        · cases hr
    · cases hr
      exact h.reissue _ _ _
  | tok =>
    dsimp only at hr
    split at hr
    · cases hr; exact (h.acqAct _ _).unblock _ _ _ _
    · cases hr
  | cnt p act a idx thr =>
    dsimp only at hr
    split at hr
    · cases hr
    split at hr
    · cases hr
    · next v _ =>
      cases hr
      refine SameScript.unblock ?_ _ _ _ _
      split
      · exact (h.modGroup _ _ _).acqAct _ _
      · exact h.modGroup _ _ _

theorem firstWake (h : SameScript s t) (hr : Machine.firstWake t = some u) : SameScript s u := by
  obtain ⟨p, -, hp⟩ := List.exists_of_findSome?_eq_some hr
  split at hp
  · obtain ⟨x, -, hx⟩ := List.exists_of_findSome?_eq_some hp
    exact h.wakeOne hx
  · cases hp

theorem settle (h : SameScript s t) : SameScript s (Machine.settle t) := by
  suffices hfrom : ∀ n t, SameScript s t → SameScript s (settleFrom n t) from hfrom _ t h
  intro n
  induction n with
  | zero => exact fun _ ht => ht
  | succ n ih =>
    intro t ht
    unfold settleFrom
    split
    · exact ht
    · next hr => exact ih _ (ht.firstWake hr)

theorem hangTick (h : SameScript s t) : SameScript s (Machine.hangTick t) :=
  h.foldl (fun _ _ hv => hv.foldl (fun _ _ hw => hw.setCtx _ _ _) _) _

end SameScript

end Sys2Proof.Machine
end
section
/-! SUPPORT. The script that every cycle leaves: traps, reports, and needs that are over. -/

namespace Sys2Proof.Machine

open Host

/-! ### Traps and reports leave the script -/

namespace SameScript
variable {s t u : State}

theorem writeNum (h : SameScript s t) (k a n v : Nat) : SameScript s (Machine.writeNum t k a n v) :=
  h.served ((Served.refl t).writePas k a _)

theorem faultReport (h : SameScript s t) (n : Nat) (f : FaultAt) : SameScript s (Machine.faultReport t n f) := by
  unfold Machine.faultReport
  split
  · exact h
  split
  · exact h.fregSet _ _ _
  · unfold putFault raiseMsi
    dsimp only
    generalize hw : Machine.writeNum t _ _ _ _ = w
    have hk : SameScript s w := by rw [← hw]; exact h.writeNum _ _ _ _
    exact hk

theorem finishTask (h : SameScript s t) (tid : Nat) (bad : Bool) : SameScript s (Machine.finishTask t tid bad) := by
  unfold Machine.finishTask
  split
  · exact h
  · next k _ =>
    have hdrop := h.kept (((Kept.refl Kept.sampleCsrs t).cancelTags tid k).dropOps tid)
    exact (hdrop.setTask tid _).wakeAll

theorem endOrHold (h : SameScript s t) (tid : Nat) (tr : Option (Nat × VA × Lanes)) : SameScript s (Machine.endOrHold t tid tr) := by
  unfold Machine.endOrHold
  split
  · exact h
  split
  · exact h.setTask _ _
  · exact h.finishTask _ _

theorem deliver (h : SameScript s t) (tid kind : Nat) (cause : Byte) (g : Nat) (info : TrapInfo) :
    SameScript s (Machine.deliver t tid kind cause g info) :=
  (h.kept (kept_report t tid kind cause [(g, info)] [])).endOrHold _ _

theorem enterTrap (h : SameScript s t) (tid g : Nat) (pc : VA) (bundle : Lanes) (prio cause : Byte) (lanes : Lanes) (addr : Nat)
    (logged : Option OpEntry) : SameScript s (Machine.enterTrap t tid g pc bundle prio cause lanes addr logged) := by
  unfold Machine.enterTrap
  split
  · dsimp only
    split
    · exact h.deliver _ _ _ _ _
    split
    · exact (h.modGroup _ _ _).deliver _ _ _ _ _
    · exact h
  · exact h

theorem takeTrap (h : SameScript s t) (c : Ctx) (cause : Byte) (lanes : Lanes) (addr : Nat) :
    SameScript s (c.takeTrap t cause lanes addr) := by
  have hmove : SameScript s (c.move t id) := h.modGroup _ _ _
  exact hmove.enterTrap _ _ _ _ _ _ _ _ _

theorem fetchTrapNow (h : SameScript s t) (tid g : Nat) (cause : Byte) : SameScript s (Machine.fetchTrapNow t tid g cause) := by
  unfold Machine.fetchTrapNow
  split
  · exact h
  · exact h.takeTrap _ _ _ _

theorem failFetch (h : SameScript s t) (n : Need) (tid g : Nat) (cause : Byte) : SameScript s (Machine.failFetch t n tid g cause) := by
  unfold Machine.failFetch
  split
  · split
    · exact h.fetchTrapNow _ _ _
    · exact h
  · exact h

theorem windowRead (h : SameScript s t) (c pa k : Nat) : SameScript s (Machine.windowRead t c pa k).1 := by
  have hread := h.engRead (dieOf c) (pa / 32 * 32) k 32
  unfold Machine.windowRead
  dsimp only
  split
  · exact h
  · exact hread

theorem fetchAt {k : Task} {pc : Nat} {user : Bool} {bs : List Byte} (h : SameScript s t)
    (hf : Machine.fetchAt t k pc user = .bytes u bs) : SameScript s u := by
  have hacc := h.access (.core k.core) k.tenant (rootOf t k) pc ⟨false, false, true, user⟩
  unfold Machine.fetchAt at hf
  split at hf
  · next s1 pa x hr =>
    rw [hr] at hacc
    have hread := hacc.windowRead k.core pa x.key
    split at hf
    · cases hf
    split at hf
    · cases hf
    split at hf
    · cases hf
    · cases hf
      exact hread
  · cases hf
  · cases hf

theorem failGroup (h : SameScript s t) (tid g : Nat) (cause : Byte) (va : Nat) : SameScript s (Machine.failGroup t tid g cause va) := by
  unfold Machine.failGroup
  split
  · exact h
  split
  · next hf =>
    have hbytes := h.fetchAt hf
    split
    · exact hbytes
    · split
      · exact hbytes
      · exact hbytes.takeTrap _ _ _ _
    · split
      · exact hbytes
      · exact hbytes
  · exact h

/-! ### Operations that a fault ends -/

theorem stopCopy (h : SameScript s t) (id st : Nat) (op : CopyOp) : SameScript s (Machine.stopCopy t id st op) := h
theorem modMat (h : SameScript s t) (c : Nat) (e : Bool) (id : Nat) (f : MatOp → MatOp) : SameScript s (Machine.modMat t c e id f) := h
theorem noteProg (h : SameScript s t) (tid : Nat) (e : Bool) (id st k : Nat) : SameScript s (Machine.noteProg t tid e id st k) := h
theorem endMat (h : SameScript s t) (c : Nat) (e : Bool) (o : MatOp) (st : Nat) : SameScript s (Machine.endMat t c e o st) := h
theorem queryFail (h : SameScript s t) (id : Nat) (pages : List Nat) : SameScript s (Machine.queryFail t id pages) := h

theorem writeToken (h : SameScript s t) (tid g tok : Nat) (w : Word) : SameScript s (Machine.writeToken t tid g tok w) :=
  h.onward ((Onward.refl t).writeToken tid g tok w)

theorem forkEnd (h : SameScript s t) (id : Nat) (op : ForkOp) (st v : Nat) : SameScript s (Machine.forkEnd t id op st v) :=
  SameScript.writeToken (t := { Machine.dropNeeds t (fun w => w == .fork id) with forks := mdel t.forks id }) h _ _ _ _

theorem collEnd (h : SameScript s t) (id : Nat) (op : CollOp) (st : Nat) : SameScript s (Machine.collEnd t id op st) := by
  unfold Machine.collEnd
  dsimp only
  split
  · exact h
  · exact (h.kept (((Kept.refl [] t).dropNeeds _).dropColl id op)).writeToken _ _ _ _

theorem setTr (h : SameScript s t) (n hd : Nat) (tr : Trace) : SameScript s (Machine.setTr t n hd tr) := h

theorem closeProp (h : SameScript s t) (n hd st : Nat) : SameScript s (Machine.closeProp t n hd st) := by
  unfold Machine.closeProp
  split
  · exact h
  dsimp only
  refine SameScript.setTr ?_ _ _ _
  split
  · exact h
  · exact h.foldl (fun _ _ hv => hv.writeToken _ _ _ _) _

theorem applyWrite (h : SameScript s t) (w : Wr) : SameScript s (Machine.applyWrite t w) := by
  unfold Machine.applyWrite
  dsimp only
  have hhome := (Served.refl { t with wq := t.wq.filter (fun v => v.id != w.id) }).applyAtHome w.die w.keyid w.tenant w.line w.bytes
    w.stamp w.grans
  generalize applyAtHome _ _ _ _ _ _ _ _ = x at hhome
  have hbad : SameScript s (w.err.foldl markBad x) := by
    refine SameScript.foldl (h.step hhome.script) (fun v a hv => ?_) _
    unfold markBad
    split
    · exact hv
    · exact hv
  unfold storeAccepted
  split
  · exact hbad
  · exact hbad.modGroup _ _ _

theorem writeBackAll (h : SameScript s t) (c : Nat) : SameScript s (Machine.writeBackAll t c) :=
  h.cacheOnly (cacheOnly_writeBackAll t c)

theorem endTask (h : SameScript s t) (tid : Nat) (bad : Bool) : SameScript s (Machine.endTask t tid bad) :=
  h.onward ((Onward.refl t).endTask tid bad)

theorem drainWrites (n : Nat) (h : SameScript s t) : SameScript s (Machine.drainWrites n t) := by
  induction n generalizing t with
  | zero => exact h
  | succ n ih =>
    unfold Machine.drainWrites
    split
    · exact h
    · exact ih (h.applyWrite _)

theorem killTask (h : SameScript s t) (n hd r : Nat) : SameScript s (Machine.killTask t n hd r) := by
  unfold Machine.killTask
  dsimp only
  generalize hw : Machine.modTenant t n _ = w
  have hk : SameScript s w := by rw [← hw]; exact h.modTenant _ _
  split
  · exact hk
  · exact ((hk.writeBackAll _).drainWrites _).endTask _ _

theorem pokeVa (h : SameScript s t) (n root va : Nat) (bs : List Byte) : SameScript s (Machine.pokeVa t n root va bs) := by
  have hreach := h.served ((Served.refl t).reach 8 n root va wantWrite)
  unfold Machine.pokeVa
  split
  · next hr =>
    rw [hr] at hreach
    exact hreach.served ((Served.refl _).applyAtHome _ _ _ _ _ _ _)
  · exact h

end SameScript

/-- The state that a plan leaves. -/
def Plan.state : Plan → State
  | .ok s => s
  | .wait s => s
  | .bad s _ _ => s

namespace SameScript
variable {s t u : State}

theorem addNeed (h : SameScript s t) (n : Nat) (who : Needer) (v : Service) (wr : Bool) (va src : Nat) :
    SameScript s (Machine.addNeed t n who v wr va src) := by
  unfold Machine.addNeed
  dsimp only
  split
  · split <;> exact h
  · exact h

theorem reachFor (h : SameScript s t) (n hd root va : Nat) : SameScript s (Machine.reachFor t n hd root va).state := by
  have hreach := h.served ((Served.refl t).reach 8 n root va wantWrite)
  unfold Machine.reachFor
  split
  · exact h
  split
  · next hr => rw [hr] at hreach; exact hreach
  · next hr => rw [hr] at hreach; exact hreach
  · next hr => rw [hr] at hreach; exact SameScript.addNeed hreach _ _ _ _ _ _
  · next hr => rw [hr] at hreach; exact hreach

theorem reachAll (n hd root : Nat) (vas : List Nat) (h : SameScript s t) : SameScript s (Machine.reachAll t n hd root vas).state := by
  unfold Machine.reachAll
  suffices hfold : ∀ p : Plan, SameScript s p.state → SameScript s (vas.foldl (fun p va => match p with
      | .ok s1 => Machine.reachFor s1 n hd root va
      | q => q) p).state from hfold (.ok t) h
  induction vas with
  | nil => exact fun _ hp => hp
  | cons va vas ih =>
    intro p hp
    refine ih _ ?_
    cases p with
    | ok v => exact SameScript.reachFor hp _ _ _ _
    | wait v => exact hp
    | bad v cause a => exact hp

theorem applyAct (h : SameScript s t) (n hd : Nat) (a : TrAct) : SameScript s (Machine.applyAct t n hd a).state := by
  have hreach := reachAll n hd (trRoot a.tr) (a.undo.map (fun w => 32 * w.gran)) h
  unfold Machine.applyAct
  dsimp only
  split
  · next s1 hr =>
    rw [hr] at hreach
    have hkill := SameScript.foldl (f := fun s r => Machine.killTask s n hd r) hreach (fun _ _ hv => hv.killTask _ _ _) a.kill
    have hundo := SameScript.foldl (f := fun s w => Machine.pokeVa s n (trRoot a.tr) (32 * w.gran) w.old) hkill
      (fun _ _ hv => hv.pokeVa _ _ _ _) a.undo
    exact hundo
  · exact hreach

theorem stopProp (h : SameScript s t) (n hd st : Nat) : SameScript s (Machine.stopProp t n hd st).state := by
  unfold Machine.stopProp
  split
  · exact h
  · next tr _ =>
    dsimp only
    have hact := h.applyAct n hd (endedEarly ((tenant t n).trq.filter (evOf hd)) tr)
    split
    · next hr => rw [hr] at hact; exact SameScript.closeProp hact _ _ _
    · next hr => rw [hr] at hact; exact hact
    · next s1 cause va hr =>
      rw [hr] at hact
      have hmark : SameScript s (reportEventide s1 n tr cause va) := SameScript.faultReport hact n _
      generalize ha : Machine.applyAct (reportEventide s1 n tr cause va) n hd _ = p
      have hagain : SameScript s p.state := by rw [← ha]; exact hmark.applyAct _ _ _
      cases p with
      | ok v => exact SameScript.closeProp hagain _ _ _
      | wait v => exact hagain
      | bad v c a => exact hagain

theorem failEventide (h : SameScript s t) (n hd va : Nat) : SameScript s (Machine.failEventide t n hd va) := by
  have hstop := h.stopProp n hd 0x0C
  unfold Machine.failEventide
  split
  · exact h
  split
  · split
    · next hr => rw [hr] at hstop; exact hstop
    · next hr => rw [hr] at hstop; exact hstop
    · next hr => rw [hr] at hstop; exact hstop
  split
  · split <;> exact h
  · exact h

theorem failNeed (h : SameScript s t) (id : Nat) (cause : Byte) (pages : List Nat) : SameScript s (Machine.failNeed t id cause pages) := by
  unfold Machine.failNeed
  split
  · exact h
  · next n _ =>
    dsimp only
    have hrep := (h.dropNeeds (fun w => w == n.who)).faultReport n.tenant (needFault t n cause (pages.foldl min (pages.headD (needPage n))))
    generalize Machine.faultReport _ _ _ = rep at hrep
    refine SameScript.wakeAll ?_
    split
    · exact hrep
    · refine hrep.getD (fun v hv => ?_)
      obtain ⟨o, -, rfl⟩ := Option.map_eq_some_iff.mp hv
      exact hrep
    · refine hrep.getD (fun v hv => ?_)
      obtain ⟨o, -, rfl⟩ := Option.map_eq_some_iff.mp hv
      exact hrep
    · refine hrep.getD (fun v hv => ?_)
      obtain ⟨o, -, rfl⟩ := Option.map_eq_some_iff.mp hv
      exact hrep.collEnd _ _ _
    · exact hrep
    · refine hrep.getD (fun v hv => ?_)
      obtain ⟨o, -, rfl⟩ := Option.map_eq_some_iff.mp hv
      exact hrep.forkEnd _ _ _ _
    · exact hrep.failFetch _ _ _ _
    · exact hrep.failGroup _ _ _ _
    · exact hrep.failEventide _ _ _
    · exact h

/-! ### Needs that are over -/

theorem needOver (h : SameScript s t) (who : Needer) : SameScript s (Machine.needOver t who) := by
  unfold Machine.needOver
  split
  · split
    · exact h
    split <;> exact h
  · exact h

theorem putNeed (h : SameScript s t) (id : Nat) (n : Need) : SameScript s (Machine.putNeed t id n) := by
  unfold Machine.putNeed
  split
  · exact SameScript.needOver (t := { t with needs := mdel t.needs id }) h _
  · exact h

theorem answerGroup (h : SameScript s t) (n : Nat) (v : Service) (i code : Nat) : SameScript s (Machine.answerGroup t n v i code) := by
  unfold Machine.answerGroup
  split
  · exact h
  · next id need _ =>
    dsimp only
    split
    · exact h.putNeed _ _
    split
    · generalize hw : (if code = 15 then _ else t) = w
      have hk : SameScript s w := by
        rw [← hw]
        split <;> exact h
      split
      · exact hk.putNeed _ _
      · refine SameScript.failNeed ?_ _ _ _
        exact hk
    · exact h

theorem sweepWpw (h : SameScript s t) (n : Nat) : SameScript s (Machine.sweepWpw t n) := by
  refine h.foldl (fun v p hv => ?_) _
  split
  · split
    · exact hv.putNeed _ _
    · exact hv.putNeed _ _
  · exact hv

theorem sweepAll (h : SameScript s t) : SameScript s (Machine.sweepAll t) := h.foldl (fun _ _ hv => hv.sweepWpw _) _

theorem genTick (h : SameScript s t) : SameScript s (Machine.genTick t) := by
  unfold Machine.genTick
  split <;> exact h

end SameScript

end Sys2Proof.Machine
end
section
/-! SUPPORT. The script that every cycle leaves: the host's writes, and the cycle itself. -/

namespace Sys2Proof.Machine

open Host

/-! ### The host's writes leave the script (R361 to R391) -/

/-- The state that a host access leaves once its pages are reached. -/
def WindowRes.Leaves (v : WindowRes) (R : State → Prop) : Prop :=
  match v with
  | .ok s => R s
  | .wait => True
  | .bad s _ _ => R s

namespace SameScript
variable {s t u : State}

theorem cfgErr (h : SameScript s t) (n : Nat) : SameScript s (Machine.cfgErr t n) := h

theorem windowReach {n : Nat} {w : Want} {ps : List (Nat × Nat)} {r : WindowRes} (hr : Machine.windowReach n w ps t = r)
    (h : SameScript s t) : r.Leaves (SameScript s) := by
  subst hr
  induction ps generalizing t with
  | nil => exact h
  | cons p ps ih =>
    have hreach := h.served ((Served.refl t).reach 4 n (tenantRoot t n) p.1 w)
    unfold Machine.windowReach
    split
    · exact h
    split
    · next hr => rw [hr] at hreach; exact ih hreach
    · exact True.intro
    · next hr => rw [hr] at hreach; exact hreach
    · next hr => rw [hr] at hreach; exact hreach

theorem hostBytes (h : SameScript s t) (n va : Nat) (bs : List Byte) : SameScript s (Machine.hostBytes t n va bs).1 := by
  refine foldl_pair (p := (t, [])) h (fun q p hq => ?_) _
  split
  · dsimp only
    split <;> exact hq
  · exact hq

theorem devRead (h : SameScript s t) {n root va k : Nat} {user : Bool} {r : State × Option (List Byte)}
    (hr : Machine.devRead t n root va k user = r) : SameScript s r.1 := by
  subst hr
  refine foldl_pair (p := (t, some [])) h (fun q c hq => ?_) _
  obtain ⟨w, out⟩ := q
  cases out with
  | none => exact hq
  | some out =>
    have hreach := SameScript.served hq ((Served.refl w).reach 8 n root c.1 ⟨true, false, false, user⟩)
    dsimp only
    split
    · next hr => rw [hr] at hreach; exact hreach
    · exact hq

theorem window (h : SameScript s t) (n off : Nat) (wr : Bool) (data : List Byte) : SameScript s (Machine.window t n off wr data) := by
  unfold Machine.window
  dsimp only
  split
  · split <;> exact h
  · next s1 cause a hr =>
    have hbad : SameScript s (windowFault s1 n cause a wr) := SameScript.faultReport (windowReach hr h) n _
    split <;> exact hbad
  · next s1 hr =>
    have hk : SameScript s s1 := windowReach hr h
    split
    · exact hk.served ((Served.refl s1).devWrite _ _ _ _ _ _ _)
    · split
      · next s2 bs hr2 => exact SameScript.hostBytes (hk.devRead hr2) n (apBase t n + off) bs
      · next hr2 => exact hk.devRead hr2

theorem commMap (h : SameScript s t) (n hd : Nat) : SameScript s (Machine.commMap t n hd).1 := by
  unfold Machine.commMap
  dsimp only
  split
  · exact h
  split
  · exact h
  · next hr =>
    have hk := windowReach hr h
    exact SameScript.faultReport hk _ _
  · next s1 hr =>
    have hk := windowReach hr h
    split
    · next hr2 =>
      exact SameScript.devRead hk hr2
    · next hr2 =>
      exact SameScript.devRead hk hr2

theorem commPut (h : SameScript s t) (n hd i : Nat) (v : Word) : SameScript s (Machine.commPut t n hd i v) := by
  have hset := (h.fregSet n (0x3000 + 16 * hd + 4 * i) (v &&& commMask i)).commMap n hd
  unfold Machine.commPut
  dsimp only
  split
  · exact h
  split
  · exact h
  split
  · next hr => rw [hr] at hset; exact hset
  · next hr => rw [hr] at hset; exact hset

theorem keyPut (h : SameScript s t) (k : Nat) (v : Word) : SameScript s (Machine.keyPut t k v) := by
  unfold Machine.keyPut
  dsimp only
  split <;> exact h

theorem csrStore (h : SameScript s t) (n c : Nat) (w : Word) : SameScript s (Machine.csrStore t n c w) := by
  unfold Machine.csrStore
  dsimp only
  split <;> exact h

theorem csrPut (h : SameScript s t) (n c : Nat) (w : Word) : SameScript s (Machine.csrPut t n c w) := by
  unfold Machine.csrPut
  split
  · exact h
  split
  · exact h
  split
  · exact h
  · dsimp only
    generalize hx : (if 0x030 ≤ c ∧ c ≤ 0x032 then _ else t) = x
    have hk : SameScript s x := by
      rw [← hx]
      split <;> exact h
    have hstore := hk.csrStore n c w
    split
    · exact hstore
    split
    · exact hstore
    · exact hstore

theorem windowWrite (h : SameScript s t) (n c : Nat) (v : Word) : SameScript s (Machine.windowWrite t n c v) := by
  unfold Machine.windowWrite
  split
  · exact h
  unfold csrWrite
  split
  · next hr =>
    split at hr
    · cases hr
    split at hr
    · cases hr; exact h
    split at hr
    · cases hr
    split at hr
    · cases hr
    · cases hr; exact h.csrPut _ _ _
  · exact h
  · exact h

theorem fireWatch (h : SameScript s t) (n w : Nat) : SameScript s (Machine.fireWatch t n w) :=
  (h.kept ((Kept.refl [] t).cqPut n _)).fregSet _ _ _

theorem armWatch (h : SameScript s t) (n w : Nat) (v : Word) : SameScript s (Machine.armWatch t n w v) := by
  unfold Machine.armWatch
  dsimp only
  split
  · exact (h.fregSet _ _ _).fireWatch _ _
  · exact h

theorem cqDrain (m : Nat) (h : SameScript s t) (n : Nat) : SameScript s (Machine.cqDrain m t n) := by
  induction m generalizing t with
  | zero => exact h
  | succ m ih =>
    unfold Machine.cqDrain
    split
    · exact h
    split
    · exact h
    · refine ih ?_
      refine SameScript.kept ?_ ((Kept.refl [] _).cqWrite n _)
      exact h.modTenant _ _

theorem slotState (h : SameScript s t) (n c st : Nat) : SameScript s (Machine.slotState t n c st) := by
  have hput := h.served (served_slotPut t n c 0 [stateByte t n st])
  unfold Machine.slotState
  split
  all_goals next hr => rw [hr] at hput; exact hput

theorem dropSaves (h : SameScript s t) (n : Nat) : SameScript s (Machine.dropSaves t n) := by
  refine h.foldl (fun v p hv => ?_) _
  split
  · exact (hv.slotState n p.1 0).setCtx _ _ _
  · exact hv

theorem settledMarks (h : SameScript s t) (n : Nat) (set : List Nat) (st : CStat) :
    SameScript s (Machine.settleDeps (Machine.markEntries t n set st) n) :=
  h.tallied (((Tallied.refl t).markEntries n set st).settleDeps n)

theorem resetStart (h : SameScript s t) (n : Nat) (flr : Bool) : SameScript s (Machine.resetStart t n flr) := by
  unfold Machine.resetStart
  split
  · exact h
  extract_lets s0 set tids s1 s2 s3 s4
  have h3 : SameScript s s3 := h.dropSaves n
  clear_value s3
  have h4 : SameScript s s4 := h3.settledMarks n set .cancelled
  exact h4

theorem doorbell (h : SameScript s t) (n i : Nat) (v : Word) : SameScript s (Machine.doorbell t n i v) := by
  unfold Machine.doorbell
  dsimp only
  split <;> exact h

theorem queueConfig (h : SameScript s t) (n q : Nat) (v : Word) : SameScript s (Machine.queueConfig t n q v) := by
  unfold Machine.queueConfig
  dsimp only
  split <;> exact h

theorem ite {c : Prop} [Decidable c] (ht : SameScript s t) (hu : SameScript s u) : SameScript s (if c then t else u) := by
  split
  · exact ht
  · exact hu

theorem bar0Put (h : SameScript s t) (n o : Nat) (v : Word) : SameScript s (Machine.bar0Put t n o v) := by
  unfold Machine.bar0Put
  refine ite h (ite (ite (h.resetStart _ _) h) (ite h (ite (h.armWatch _ _ _) (ite (cqDrain _ (h.fregSet _ _ _) _) ?_))))
  refine ite (h.answerGroup _ _ _ _) (ite (h.doorbell _ _ _) (ite (h.queueConfig _ _ _) (ite (h.commPut _ _ _ _) ?_)))
  exact ite (h.windowWrite _ _ _) (ite (ite (h.keyPut _ _) h) (ite h (h.fregSet _ _ _)))

theorem hostWrite (h : SameScript s t) (n : Nat) (i : HostWrite) : SameScript s (Machine.hostWrite t n i) := by
  cases i with
  | reg o v => exact h.bar0Put _ _ _
  | mem o data => exact h.window _ _ _ _

theorem drainPosted (m : Nat) (h : SameScript s t) (n : Nat) : SameScript s (Machine.drainPosted m t n) := by
  induction m generalizing t with
  | zero => exact h
  | succ m ih =>
    unfold Machine.drainPosted
    split
    · exact h
    · next i is _ =>
      have hone : SameScript s (Machine.wakeAll (Machine.hostWrite (Machine.modTenant t n (fun x => { x with posted := [] })) n i)) :=
        (h.modTenant n _).hostWrite n i
      dsimp only
      split
      · exact ih (hone.modTenant _ _)
      · exact h

theorem drainHost (h : SameScript s t) : SameScript s (Machine.drainHost t) := h.foldl (fun _ _ hv => drainPosted _ hv _) _

/-! ### What every cycle brings -/

theorem spillHeld (h : SameScript s t) : SameScript s (Machine.spillHeld t) := by
  refine h.foldl (fun v p hv => hv.getD (fun w hw => ?_)) _
  unfold spillApply at hw
  split at hw
  · cases hw
  · cases hw
    exact hv.foldl (fun _ _ hx => hx.csrSet _ _ _) _

theorem ageQueues (h : SameScript s t) : SameScript s (Machine.ageQueues t) := by
  refine h.foldl (fun v p hv => hv.foldl (fun w q hw => hw.getD (fun x hx => ?_)) _) _
  unfold queueAging at hx
  dsimp only at hx
  split at hx
  · cases hx
  · cases hx
    exact hw.modTenant _ _

theorem chargeTask (h : SameScript s t) (tid : Nat) : SameScript s (Machine.chargeTask t tid) :=
  h.step ((Fewer.refl t).chargeTask tid).script

theorem chargeDue (h : SameScript s t) : SameScript s (Machine.chargeDue t) := by
  refine h.foldl (fun v c hv => hv.getD (fun w hw => ?_)) _
  unfold budgetCharge at hw
  dsimp only at hw
  split at hw
  · cases hw
  · cases hw
    refine SameScript.foldl (hv.foldl (fun _ _ hx => hx.chargeTask _) _) (fun x n hx => ?_) _
    exact hx.tallied ((Tallied.refl x).capBudgets n)

theorem evPut (h : SameScript s t) (tid g kind : Nat) (pc : VA) (before after : Word) (cnt aux : Nat) :
    SameScript s (Machine.evPut t tid g kind pc before after cnt aux) := by
  unfold Machine.evPut
  split
  · exact h
  split
  · exact h
  · next k _ _ =>
    have hput := fun us => h.kept ((Kept.refl [0x046, 0x07C, 0x07D] t).ringPut k.tenant 0x078 0x07A 0x07B 0x07C 32 us id (by decide)
      (by decide))
    dsimp only
    split
    · exact SameScript.kept (hput _) ((Kept.refl [0x07D] _).csrCount _ _ (by decide))
    · exact hput _

theorem regroupAll (h : SameScript s t) : SameScript s (Machine.regroupAll t) := by
  unfold Machine.regroupAll
  split
  · exact h
  refine h.foldl (fun v p hv => hv.foldl (fun w q hw => hw.getD (fun x hx => ?_)) _) _
  unfold regroup at hx
  split at hx
  · cases hx
  split at hx
  · cases hx
  dsimp only at hx
  split at hx
  · cases hx
  split at hx
  · cases hx
  · cases hx
    refine SameScript.modGroup ?_ _ _ _
    split
    · exact hw.foldl (fun _ _ hy => hy.evPut _ _ _ _ _ _ _ _) _
    · exact hw

theorem tick (s : State) : SameScript s (Machine.tick s) := by
  have hstart : SameScript s { s with cycle := s.cycle + 1, cur := none } := rfl
  exact ((((((hstart.hangTick.settle).sweepAll).genTick).drainHost).spillHeld).ageQueues).chargeDue.regroupAll

end SameScript

end Sys2Proof.Machine
end
section
/-! PROOFS. A step in which a group issues. -/

namespace Sys2Proof.Machine

open Host

/-! ### A step in which a group issues (R36, R165, R169, R183) -/

/-- What follows the fetch of a group's instruction. -/
def issued (s1 : State) (tid g : Nat) (bs : List Byte) : Outcome State Fault Refusal :=
  if (readInstr bs).any afterFork && !forksTaken s1 tid g then .next (modGroup s1 tid g (fun x => { x with stall := true }))
  else match (match readInstr bs with
    | some j => exec j s1
    | none => exec .illegalInstr s1) with
  | .next s2 => .next (afterIssue s1 s2 tid g bs (readInstr bs))
  | r => r

theorem issueAt_bytes {s s1 : State} {tid g : Nat} {t : Task} {x : Group} {e : Entry} {bs : List Byte}
    (hhead : headOf s tid g = some (t, x, e))
    (hfetch : fetchAt { noteRound (beforeIssue s tid g) t.core x.sched x.slot with cur := some (tid, g), last := (tid, g) } t
      e.pc.toNat x.trap.isNone = .bytes s1 bs) : issueAt s tid g = issued s1 tid g bs := by
  unfold issueAt issued
  rw [hhead]
  dsimp only
  rw [hfetch] <;> rfl

theorem issue_ready {s : State} {tid g : Nat} {t : Task} {x : Group} (ht : task s tid = some t) (hg : mget t.groups g = some x)
    (hready : groupReady s t tid g x = true) (hturn : inTurn s t x = true) : issue s tid g = issueAt s tid g := by
  unfold issue
  simp only [ht, hg, hready, hturn, Bool.and_self, if_true]

theorem act_cons (x : Turn) (r : List Turn) (s : State) : act (x :: r) s = takeTurn x { s with script := r } := rfl

theorem act_default {s : State} {x : Turn} (h : defaultTurn s = some x) : act [] s = takeTurn x s := by
  unfold act
  dsimp only
  rw [h]

theorem takeTurn_issue (tid g : Nat) (s : State) : takeTurn (.issue tid g) s = issue s tid g := rfl

/-- The turn that a step takes: the script's first, or the default one. -/
theorem step_issue {s s0 : State} {tid g : Nat} {rest : List Turn}
    (h : ((tick s).script = .issue tid g :: rest ∧ s0 = { tick s with script := rest }) ∨
      ((tick s).script = [] ∧ defaultTurn (tick s) = some (.issue tid g) ∧ s0 = tick s)) : step s = issue s0 tid g := by
  have hscript : (tick s).script = s.script := SameScript.tick s
  have hstep : step s = act (tick s).script (tick s) := by rw [hscript]; rfl
  rcases h with ⟨hfirst, hs0⟩ | ⟨hempty, hdefault, hs0⟩
  · rw [hstep, hfirst, act_cons, ← hs0, takeTurn_issue]
  · rw [hstep, hempty, act_default hdefault, ← hs0, takeTurn_issue]

/-- Settles O4: the turn is the group's, it issues, and what follows its fetch is the execution of the bytes fetched. -/
theorem stepRunsDecoded : Obligations.StepRunsDecoded := by
  intro s s0 s1 tid g rest t x e bs hscript ht hg hready hturn hhead hfetch
  have hstep : step s = issued s1 tid g bs := by
    rw [step_issue hscript, issue_ready ht hg hready hturn, issueAt_bytes hhead hfetch]
  rw [hstep]
  unfold issued
  refine ⟨fun i hi hafter htaken => ?_, fun i hi hfork => ?_, fun hi => ?_⟩
  · simp [hi, hafter, htaken]
  · have hgo : ((some i).any afterFork && !forksTaken s1 tid g) = false := by
      cases ha : afterFork i with
      | false => simp [ha]
      | true => simp [hfork ha]
    rw [hi, hgo]
    rfl
  · rw [hi]
    rfl

end Sys2Proof.Machine
end

section
/-! SUPPORT. The invariant that both memories are in canonical form (R86, R90): how folds, choices and the results of the
model's operations carry it. -/

namespace Sys2Proof.Machine

open Host

/-! ### Memories in canonical form -/

namespace MemoriesWf
variable {s t : State}

theorem congr (h : MemoriesWf s) (hm : t.mem = s.mem) (hh : t.hostMem = s.hostMem) : MemoriesWf t := by
  unfold MemoriesWf; rw [hm, hh]; exact h

theorem cacheOnly (h : MemoriesWf s) (k : CacheOnly s t) : MemoriesWf t := by
  have hm := congrArg State.mem k
  have hh := congrArg State.hostMem k
  exact h.congr hm hh

theorem foldl {α : Type} {f : State → α → State} (h : MemoriesWf s) (hf : ∀ v a, MemoriesWf v → MemoriesWf (f v a))
    (l : List α) : MemoriesWf (l.foldl f s) :=
  foldl_keeps (P := MemoriesWf) h hf l

theorem foldl_pair {α β : Type} {f : State × β → α → State × β} {p : State × β} (h : MemoriesWf p.1)
    (hf : ∀ q a, MemoriesWf q.1 → MemoriesWf (f q a).1) (l : List α) : MemoriesWf (l.foldl f p).1 :=
  foldl_keeps (P := fun q : State × β => MemoriesWf q.1) h hf l

theorem foldl_bind {α : Type} {f : State → α → Option State} (h : MemoriesWf s)
    (hf : ∀ v a w, MemoriesWf v → f v a = some w → MemoriesWf w) (l : List α)
    (hl : l.foldl (fun acc a => acc.bind (fun s => f s a)) (some s) = some t) : MemoriesWf t := by
  induction l generalizing s with
  | nil => cases hl; exact h
  | cons a l ih =>
    rw [List.foldl_cons, Option.bind_some] at hl
    cases ha : f s a with
    | none =>
      have hnone : ∀ l : List α, l.foldl (fun acc a => acc.bind (fun s => f s a)) (none : Option State) = none := by
        intro l
        induction l with
        | nil => rfl
        | cons b l ih => exact ih
      rw [ha, hnone] at hl
      cases hl
    | some v => rw [ha] at hl; exact ih (hf _ _ _ h ha) hl

theorem getD {o : Option State} (h : MemoriesWf s) (ho : ∀ u, o = some u → MemoriesWf u) : MemoriesWf (o.getD s) := by
  cases o with
  | none => exact h
  | some u => exact ho u rfl

end MemoriesWf

theorem MemoriesWf.closed : AccessClosed (fun s t => MemoriesWf s → MemoriesWf t) where
  refl := fun _ h => h
  trans := fun _ _ _ h k hs => k (h hs)
  writePa := fun s k a b => writePa_wf s k a b
  setDie := fun _ _ _ h => h
  setTlb := fun s v l h => by cases v <;> exact h

/-- The memories of a state that may be there are in canonical form. -/
def OptWf (o : Option State) : Prop := ∀ u, o = some u → MemoriesWf u

/-- The memories of every state in such a result are in canonical form. -/
def Res.Wf : Res → Prop
  | .ok s => MemoriesWf s
  | .done s => MemoriesWf s
  | .trap s _ _ _ => MemoriesWf s
  | .wait s => MemoriesWf s
  | .block s _ => MemoriesWf s

/-- The memories of every state in such a result are in canonical form. -/
def Reach.Wf : Reach → Prop
  | .ok s _ _ => MemoriesWf s
  | .wait s => MemoriesWf s
  | .need s _ => MemoriesWf s
  | .bad s _ => MemoriesWf s

/-- The memories of every state in such a result are in canonical form. -/
def EngPlan.Wf : EngPlan → Prop
  | .go s _ => MemoriesWf s
  | .serve s _ => MemoriesWf s
  | .bad s _ _ => MemoriesWf s
  | .hold s => MemoriesWf s

/-- The memories of every state in such a result are in canonical form. -/
def Plan.Wf : Plan → Prop
  | .ok s => MemoriesWf s
  | .wait s => MemoriesWf s
  | .bad s _ _ => MemoriesWf s

/-- The memories of every state in such a result are in canonical form. -/
def ForkOwn.Wf : ForkOwn → Prop
  | .ok s => MemoriesWf s
  | .wait s => MemoriesWf s
  | .need s _ => MemoriesWf s
  | .bad s _ => MemoriesWf s

/-- The memories of every state in such a result are in canonical form. -/
def SlotRes.Wf : SlotRes → Prop
  | .ok s => MemoriesWf s
  | .wait s => MemoriesWf s
  | .bad s _ => MemoriesWf s

/-- The memories of every state in such a result are in canonical form. -/
def FetchOut.Wf : FetchOut → Prop
  | .go s _ _ => MemoriesWf s
  | .serve s _ => MemoriesWf s
  | .bad s _ _ => MemoriesWf s
  | _ => True

/-- The memories of every state in such a result are in canonical form. -/
def LevOut.Wf : LevOut → Prop
  | .ok s _ => MemoriesWf s
  | .need s => MemoriesWf s
  | .fail s _ _ => MemoriesWf s
  | _ => True

/-- The memories of every state in such a result are in canonical form. -/
def NodeOut.Wf : NodeOut → Prop
  | .ok s _ _ _ => MemoriesWf s
  | .need s => MemoriesWf s
  | .fail s _ => MemoriesWf s
  | _ => True

/-- The memories of every state in such a result are in canonical form. -/
def CsrOut.Wf : CsrOut → Prop
  | .ok s => MemoriesWf s
  | _ => True

/-- The memories of every state in such a result are in canonical form. -/
def WindowRes.Wf : WindowRes → Prop
  | .ok s => MemoriesWf s
  | .bad s _ _ => MemoriesWf s
  | _ => True

/-- The memories of every state in such a result are in canonical form. -/
def Svc.Wf : Svc → Prop
  | .done s => MemoriesWf s
  | .again s => MemoriesWf s
  | _ => True

/-- The memories of every state in such a result are in canonical form. -/
def Fetched.Wf : Fetched → Prop
  | .bytes s _ => MemoriesWf s
  | .serve s _ => MemoriesWf s
  | .fail s _ => MemoriesWf s
  | _ => True

namespace MemoriesWf

variable {s : State}

theorem ite {c : Prop} [Decidable c] {a b : State} (ha : MemoriesWf a) (hb : MemoriesWf b) : MemoriesWf (if c then a else b) := by
  split
  · exact ha
  · exact hb

theorem fstIte {α : Type} {c : Prop} [Decidable c] {a b : State × α} (ha : MemoriesWf a.1) (hb : MemoriesWf b.1) :
    MemoriesWf (if c then a else b).1 := by
  split
  · exact ha
  · exact hb

theorem resIte {c : Prop} [Decidable c] {a b : Res} (ha : a.Wf) (hb : b.Wf) : (if c then a else b).Wf := by
  split
  · exact ha
  · exact hb

theorem someIte {c : Prop} [Decidable c] {a b : Option State} {u : State} (hf : (if c then a else b) = some u)
    (ha : a = some u → MemoriesWf u) (hb : b = some u → MemoriesWf u) : MemoriesWf u := by
  split at hf
  · exact ha hf
  · exact hb hf

theorem mapGetD {α : Type} {o : Option α} {f : α → State} (h : MemoriesWf s) (hf : ∀ a, MemoriesWf (f a)) :
    MemoriesWf ((o.map f).getD s) := by
  cases o with
  | none => exact h
  | some a => exact hf a

theorem foldl_bind_pair {α β : Type} {f : State × β → α → Option (State × β)} {p r : State × β} (h : MemoriesWf p.1)
    (hf : ∀ q a w, MemoriesWf q.1 → f q a = some w → MemoriesWf w.1) (l : List α)
    (hl : l.foldl (fun acc a => acc.bind (fun q => f q a)) (some p) = some r) : MemoriesWf r.1 := by
  induction l generalizing p with
  | nil => cases hl; exact h
  | cons a l ih =>
    rw [List.foldl_cons, Option.bind_some] at hl
    cases ha : f p a with
    | none =>
      have hnone : ∀ l : List α, l.foldl (fun acc a => acc.bind (fun q => f q a)) (none : Option (State × β)) = none := by
        intro l
        induction l with
        | nil => rfl
        | cons b l ih => exact ih
      rw [ha, hnone] at hl
      cases hl
    | some v => rw [ha] at hl; exact ih (hf _ _ _ h ha) hl

theorem optNone : OptWf none := fun _ hu => nomatch hu
theorem optSome {a : State} (h : MemoriesWf a) : OptWf (some a) := fun _ hu => Option.some.inj hu ▸ h

theorem optIte {c : Prop} [Decidable c] {a b : Option State} (ha : OptWf a) (hb : OptWf b) : OptWf (if c then a else b) := by
  split
  · exact ha
  · exact hb

end MemoriesWf

end Sys2Proof.Machine
end

section
/-! SUPPORT. Canonical memories (R86, R90) under what memory, translation and the caches do. -/

namespace Sys2Proof.Machine

open Host

/-! ### Memory, translation and caches -/

namespace MemoriesWf

variable {s : State}

theorem reset : MemoriesWf Machine.State.reset := reset_memoriesWf
theorem writeHost (h : MemoriesWf s) {a b} : MemoriesWf (Machine.writeHost s a b) := writeHost_wf s a b h
theorem writePas (h : MemoriesWf s) {k pa bs} : MemoriesWf (Machine.writePas s k pa bs) := writePas_wf k bs s pa h

theorem markBad (h : MemoriesWf s) {pa} : MemoriesWf (Machine.markBad s pa) := by
  unfold Machine.markBad
  grind [MemoriesWf]

theorem applyBytes (h : MemoriesWf s) {k bytes} : MemoriesWf (Machine.applyBytes s k bytes) := applyBytes_wf s k bytes h
theorem writeNum (h : MemoriesWf s) {k pa n w} : MemoriesWf (Machine.writeNum s k pa n w) := writeNum_wf s k pa n w h
theorem setTenant (h : MemoriesWf s) {t x} : MemoriesWf (Machine.setTenant s t x) := h
theorem modTenant (h : MemoriesWf s) {t f} : MemoriesWf (Machine.modTenant s t f) := h
theorem csrSet (h : MemoriesWf s) {t c w} : MemoriesWf (Machine.csrSet s t c w) := h
theorem fregSet (h : MemoriesWf s) {t o w} : MemoriesWf (Machine.fregSet s t o w) := h
theorem setCore (h : MemoriesWf s) {c x} : MemoriesWf (Machine.setCore s c x) := h
theorem setDie (h : MemoriesWf s) {d x} : MemoriesWf (Machine.setDie s d x) := h
theorem tableWord (h : MemoriesWf s) {t a w} : MemoriesWf (Machine.tableWord s t a w) := closed.tableWord s t a w h
theorem access (h : MemoriesWf s) {v t root va w} : MemoriesWf (Machine.access s v t root va w).1 := closed.access s v t root va w h
theorem shootRange (h : MemoriesWf s) {t lo n} : MemoriesWf (Machine.shootRange s t lo n) := h
theorem shootPage (h : MemoriesWf s) {t va} : MemoriesWf (Machine.shootPage s t va) := h
theorem shootAll (h : MemoriesWf s) {t} : MemoriesWf (Machine.shootAll s t) := h
theorem retagRoot (h : MemoriesWf s) {t old new} : MemoriesWf (Machine.retagRoot s t old new) := h
theorem setTask (h : MemoriesWf s) {tid t} : MemoriesWf (Machine.setTask s tid t) := h
theorem modTask (h : MemoriesWf s) {tid f} : MemoriesWf (Machine.modTask s tid f) := h
theorem modGroup (h : MemoriesWf s) {tid g f} : MemoriesWf (Machine.modGroup s tid g f) := h

theorem countReq (h : MemoriesWf s) {d pa} : MemoriesWf (Machine.countReq s d pa) := by
  unfold Machine.countReq
  grind [MemoriesWf]

theorem observe (h : MemoriesWf s) {d st} : MemoriesWf (Machine.observe s d st) := h

theorem sendWriteErr (h : MemoriesWf s) {d keyid t line bytes owner grans err} :
    MemoriesWf (Machine.sendWriteErr s d keyid t line bytes owner grans err) := h

theorem sendWrite (h : MemoriesWf s) {d keyid t line bytes owner grans} :
    MemoriesWf (Machine.sendWrite s d keyid t line bytes owner grans) := h

theorem queueMods (h : MemoriesWf s) {t grans} : MemoriesWf (Machine.queueMods s t grans) := by
  unfold Machine.queueMods
  grind [foldl, MemoriesWf]

theorem sendUpdates (h : MemoriesWf s) {line keyid origin bytes stamp} :
    MemoriesWf (Machine.sendUpdates s line keyid origin bytes stamp) := by
  unfold Machine.sendUpdates
  grind [foldl, setDie]

theorem storeAccepted (h : MemoriesWf s) {owner} : MemoriesWf (Machine.storeAccepted s owner) := by
  unfold Machine.storeAccepted
  grind [modGroup]

theorem applyAtHome (h : MemoriesWf s) {origin keyid t line bytes stamp grans} :
    MemoriesWf (Machine.applyAtHome s origin keyid t line bytes stamp grans) := by
  unfold Machine.applyAtHome
  grind [applyBytes, queueMods, sendUpdates, MemoriesWf]

theorem applyWrite (h : MemoriesWf s) {w} : MemoriesWf (Machine.applyWrite s w) := by
  unfold Machine.applyWrite
  grind [storeAccepted, applyAtHome, foldl, MemoriesWf, markBad]

theorem dieRead (h : MemoriesWf s) {d pa keyid far} : MemoriesWf (Machine.dieRead s d pa keyid far).1 := by
  unfold Machine.dieRead
  grind [observe, countReq, setDie]

theorem writeBack (h : MemoriesWf s) {c k} : MemoriesWf (Machine.writeBack s c k) := by
  unfold Machine.writeBack
  grind [MemoriesWf, countReq, sendWriteErr, setCore]

theorem dropLine (h : MemoriesWf s) {c k} : MemoriesWf (Machine.dropLine s c k) := h

theorem flushLine (h : MemoriesWf s) {c pa} : MemoriesWf (Machine.flushLine s c pa) := by
  unfold Machine.flushLine
  grind [foldl, dropLine, writeBack]

theorem writeBackAll (h : MemoriesWf s) {c} : MemoriesWf (Machine.writeBackAll s c) := by
  unfold Machine.writeBackAll
  grind [foldl, writeBack]

theorem invalidateL1 (h : MemoriesWf s) {c} : MemoriesWf (Machine.invalidateL1 s c) := h
theorem invalidateCC (h : MemoriesWf s) {c} : MemoriesWf (Machine.invalidateCC s c) := h

theorem l1Room (h : MemoriesWf s) {c k} : MemoriesWf (Machine.l1Room s c k) := by
  unfold Machine.l1Room
  grind [dropLine, writeBack]

theorem l1Store (h : MemoriesWf s) {c t pa keyid bytes gran} : MemoriesWf (Machine.l1Store s c t pa keyid bytes gran) := by
  unfold Machine.l1Store
  grind [l1Room, setCore]

theorem l1Read (h : MemoriesWf s) {c t pa keyid n} : MemoriesWf (Machine.l1Read s c t pa keyid n).1 := by
  unfold Machine.l1Read
  grind [MemoriesWf, dieRead, setCore, l1Room]

theorem ccRead (h : MemoriesWf s) {c pa keyid n} : MemoriesWf (Machine.ccRead s c pa keyid n).1 := by
  unfold Machine.ccRead
  grind [dieRead, setCore]

theorem homeRead (h : MemoriesWf s) {d pa keyid n} : MemoriesWf (Machine.homeRead s d pa keyid n).1 := by
  unfold Machine.homeRead
  grind [dieRead]

theorem engRead (h : MemoriesWf s) {d pa keyid n} : MemoriesWf (Machine.engRead s d pa keyid n).1 := by
  unfold Machine.engRead
  grind [dieRead]

theorem homeWrite (h : MemoriesWf s) {d keyid t pa bs gran} : MemoriesWf (Machine.homeWrite s d keyid t pa bs gran) := by
  unfold Machine.homeWrite
  grind [applyAtHome, setDie]

theorem dropCaches (h : MemoriesWf s) {c} : MemoriesWf (Machine.dropCaches s c) := by
  unfold Machine.dropCaches
  grind [invalidateCC, invalidateL1, writeBackAll]

theorem acqAct (h : MemoriesWf s) {c scope} : MemoriesWf (Machine.acqAct s c scope) := by
  unfold Machine.acqAct
  grind [dropCaches, setDie]

end MemoriesWf

end Sys2Proof.Machine
end

section
/-! SUPPORT. Canonical memories under the memory service, what the device writes of its own, and the distributor's counters. -/

namespace Sys2Proof.Machine

open Host

/-! ### The memory service, records, counters -/

namespace MemoriesWf

variable {s : State}

theorem tablePut (h : MemoriesWf s) {t a w0 w1} : MemoriesWf (Machine.tablePut s t a w0 w1) := by
  unfold Machine.tablePut
  grind [tableWord]

theorem putLeaf (h : MemoriesWf s) {t a ps w0 w1} : MemoriesWf (Machine.putLeaf s t a ps w0 w1) := by
  unfold Machine.putLeaf
  grind [foldl, tablePut]

theorem cfgErr (h : MemoriesWf s) {t} : MemoriesWf (Machine.cfgErr s t) := h

theorem poolEntry (h : MemoriesWf s) {t va} : MemoriesWf (Machine.poolEntry s t va).1 := by
  unfold Machine.poolEntry
  grind [access]

theorem refill {t} (n : Nat) (h : MemoriesWf s) : MemoriesWf (Machine.refill n s t) := by
  induction n generalizing s with
  | zero => exact h
  | succ n ih =>
    have hentry := fun va => poolEntry h (t := t) (va := va)
    unfold Machine.refill
    grind [modTenant, csrSet, cfgErr]

theorem takeFrame (h : MemoriesWf s) {t fits p} (hf : Machine.takeFrame s t fits = some p) : MemoriesWf p.1 := by
  obtain ⟨f, -, rfl⟩ := Option.map_eq_some_iff.mp hf
  exact (refill 70000 h).modTenant

theorem carve (h : MemoriesWf s) {t fits u} (hf : Machine.carve s t fits = some u) : MemoriesWf u := by
  obtain ⟨p, hp, rfl⟩ := Option.map_eq_some_iff.mp hf
  exact (h.takeFrame hp).modTenant

theorem takeWhere (h : MemoriesWf s) {t fits q p} (hf : Machine.takeWhere s t fits q = some p) : MemoriesWf p.1 := by
  unfold Machine.takeWhere at hf
  dsimp only at hf
  split at hf
  · cases hf; exact h
  · obtain ⟨s1, hcarve, hk⟩ := Option.bind_eq_some_iff.mp hf
    obtain ⟨k, -, rfl⟩ := Option.map_eq_some_iff.mp hk
    exact h.carve hcarve

theorem takePiece (h : MemoriesWf s) {t fits p} (hf : Machine.takePiece s t fits = some p) : MemoriesWf p.1 := by
  obtain ⟨q, hq, rfl⟩ := Option.map_eq_some_iff.mp hf
  exact (h.takeWhere hq).modTenant

theorem takeTable (h : MemoriesWf s) {t p} (hf : Machine.takeTable s t = some p) : MemoriesWf p.1 := by
  obtain ⟨q, hq, rfl⟩ := Option.map_eq_some_iff.mp hf
  dsimp only
  exact (h.takeWhere hq).modTenant.foldl (fun _ _ hv => hv.tablePut) _

theorem takePage (h : MemoriesWf s) {t ps w1 u} (hf : Machine.takePage s t ps w1 = some u) : MemoriesWf u.1 := by
  unfold Machine.takePage at hf
  grind [takePiece, takeFrame]

theorem freePage (h : MemoriesWf s) {t pa ps} : MemoriesWf (Machine.freePage s t pa ps) := by
  unfold Machine.freePage
  grind [MemoriesWf, modTenant]

theorem noteArena (h : MemoriesWf s) {t job old new} : MemoriesWf (Machine.noteArena s t job old new) := by
  unfold Machine.noteArena
  grind [modTenant]

theorem shareUp (h : MemoriesWf s) {t pa n} : MemoriesWf (Machine.shareUp s t pa n) := h
theorem shareDown (h : MemoriesWf s) {t pa n} : MemoriesWf (Machine.shareDown s t pa n) := h

theorem markSplit (h : MemoriesWf s) {t pa n} : MemoriesWf (Machine.markSplit s t pa n) := by
  unfold Machine.markSplit
  grind [modTenant]

theorem flushFrame (h : MemoriesWf s) {pa n} : MemoriesWf (Machine.flushFrame s pa n) := by
  unfold Machine.flushFrame
  grind [foldl, MemoriesWf, dropLine, writeBack]

theorem dropFrame (h : MemoriesWf s) {pa n} : MemoriesWf (Machine.dropFrame s pa n) := by
  unfold Machine.dropFrame
  grind [foldl, MemoriesWf, setCore, setDie]

theorem copyPage (h : MemoriesWf s) {key src dst n} : MemoriesWf (Machine.copyPage s key src dst n) := by
  have hput : MemoriesWf (Machine.dropFrame (Machine.writePas s key dst (readPas s key src n)) dst n) := h.writePas.dropFrame
  unfold Machine.copyPage
  exact hput.congr rfl rfl

theorem copyEntry (h : MemoriesWf s) {t src dst i} : MemoriesWf (Machine.copyEntry s t src dst i) := by
  unfold Machine.copyEntry
  grind [tablePut, shareUp]

theorem breakTable (h : MemoriesWf s) {t a u} (hf : Machine.breakTable s t a = some u) : MemoriesWf u := by
  unfold Machine.breakTable at hf
  dsimp only at hf
  split at hf
  · cases hf; exact h.tablePut
  · obtain ⟨p, hp, rfl⟩ := Option.map_eq_some_iff.mp hf
    exact ((h.takeTable hp).foldl (fun _ _ hv => hv.copyEntry) _).shareDown.tablePut

theorem splitTable (h : MemoriesWf s) {t w0 w1 p} (hf : Machine.splitTable s t w0 w1 = some p) : MemoriesWf p.1 := by
  obtain ⟨q, hq, rfl⟩ := Option.map_eq_some_iff.mp hf
  dsimp only
  exact (h.takeTable hq).foldl (fun _ _ hv => hv.tablePut) _

theorem splitLeaf (h : MemoriesWf s) {t a w0 w1 u} (hf : Machine.splitLeaf s t a w0 w1 = some u) : MemoriesWf u := by
  have hs := h.markSplit (t := t) (pa := pointed w0 w1) (n := pageBytes (nb w0 2 2))
  unfold Machine.splitLeaf at hf
  dsimp only at hf
  split at hf
  · obtain ⟨p, hp, rfl⟩ := Option.map_eq_some_iff.mp hf
    exact (hs.splitTable hp).tablePut
  · obtain ⟨p, hp, hrest⟩ := Option.bind_eq_some_iff.mp hf
    obtain ⟨s1, hs1, rfl⟩ := Option.map_eq_some_iff.mp hrest
    refine tablePut ((hs.takeTable hp).foldl_bind (fun v i w hv hw => ?_) _ hs1)
    obtain ⟨q, hq, rfl⟩ := Option.map_eq_some_iff.mp hw
    exact (hv.splitTable hq).tablePut

theorem moveReds (h : MemoriesWf s) {t root old new n} : MemoriesWf (Machine.moveReds s t root old new n) := by
  unfold Machine.moveReds
  grind [MemoriesWf]

theorem breakLeaf (h : MemoriesWf s) {t root va a} : (Machine.breakLeaf s t root va a).Wf := by
  unfold Machine.breakLeaf
  dsimp only
  split
  · exact h.putLeaf.shootPage
  split
  · exact h.flushFrame
  split
  · trivial
  · next s2 f hf => exact (h.flushFrame.takePage hf).copyPage.shareDown.moveReds.noteArena.putLeaf.shootPage

theorem breakFrom {t root va} (k : Nat) (h : MemoriesWf s) : (Machine.breakFrom k s t root va).Wf := by
  induction k generalizing s with
  | zero => exact h
  | succ k ih =>
    unfold Machine.breakFrom
    dsimp only
    split
    · split
      · trivial
      · next s1 hs1 => exact ih (h.breakTable hs1).shootPage
    split
    · exact h
    split
    · exact h.shootPage
    split
    · split
      · trivial
      · next s1 hs1 => exact ih (h.splitLeaf hs1).shootPage
    · exact h.breakLeaf

theorem breakShare (h : MemoriesWf s) {t root va} : (Machine.breakShare s t root va).Wf := by
  unfold Machine.breakShare
  grind [breakFrom]

theorem loosen (h : MemoriesWf s) {pa} : MemoriesWf (Machine.loosen s pa) :=
  have hdrop := h.dropFrame (pa := pa) (n := 2 ^ 16)
  ⟨filter_wf _ _ hdrop.1, hdrop.2⟩

theorem backArena (h : MemoriesWf s) {t a w1} : (Machine.backArena s t a w1).Wf := by
  unfold Machine.backArena
  split
  · trivial
  · next s1 f hf => exact (h.takeFrame hf).loosen.putLeaf.noteArena

theorem dropImage (h : MemoriesWf s) {t w0} : MemoriesWf (Machine.dropImage s t w0) := by
  unfold Machine.dropImage
  grind [MemoriesWf, shareDown]

theorem restorePage (h : MemoriesWf s) {t a w0 w1} : (Machine.restorePage s t a w0 w1).Wf := by
  unfold Machine.restorePage
  split
  · trivial
  next n _ =>
  dsimp only
  generalize tierBase + w0 / 2 ^ 12 * 2 ^ 12 = src
  split
  · trivial
  next s1 f hf =>
  have hcopy := (h.takePage hf).copyPage (key := nb w1 28 8) (src := src) (dst := f) (n := n)
  generalize Machine.copyPage s1 (nb w1 28 8) src f n = s2 at hcopy
  refine putLeaf (noteArena (dropImage ?_))
  split <;> exact hcopy

theorem serveOnce (h : MemoriesWf s) {t root va v} : (Machine.serveOnce s t root va v).Wf := by
  unfold Machine.serveOnce
  grind [breakShare, backArena, restorePage, Svc.Wf]

theorem reach {t root va want} (k : Nat) (h : MemoriesWf s) : (Machine.reach k s t root va want).Wf := by
  induction k generalizing s with
  | zero => exact h
  | succ k ih =>
    have haccess := h.access (v := .fresh) (t := t) (root := root) (va := va) (w := want)
    unfold Machine.reach
    grind [serveOnce, Svc.Wf, Reach.Wf]

theorem raiseMsi (h : MemoriesWf s) {t vec} : MemoriesWf (Machine.raiseMsi s t vec) := h

theorem devRead (h : MemoriesWf s) {t root va n user} : MemoriesWf (Machine.devRead s t root va n user).1 := by
  unfold Machine.devRead
  grind [foldl_pair, MemoriesWf, reach, Reach.Wf]

theorem devWrite (h : MemoriesWf s) {d t root va bs user own} : MemoriesWf (Machine.devWrite s d t root va bs user own).1 := by
  unfold Machine.devWrite
  grind [foldl_pair, MemoriesWf, reach, Reach.Wf, homeWrite]

theorem putFault (h : MemoriesWf s) {t f req prgi l} : MemoriesWf (Machine.putFault s t f req prgi l) := by
  unfold Machine.putFault
  grind [writeNum, raiseMsi, fregSet]

theorem faultReport (h : MemoriesWf s) {t f} : MemoriesWf (Machine.faultReport s t f) := by
  unfold Machine.faultReport
  grind [fregSet, putFault]

theorem ringPut (h : MemoriesWf s) {t base size head tail sz units trunc} :
    MemoriesWf (Machine.ringPut s t base size head tail sz units trunc).1 := by
  unfold Machine.ringPut
  grind [foldl_pair, devWrite, csrSet]

theorem dropNeeds (h : MemoriesWf s) {p} : MemoriesWf (Machine.dropNeeds s p) := h
theorem wakeAll (h : MemoriesWf s) : MemoriesWf (Machine.wakeAll s) := h

theorem writeToken (h : MemoriesWf s) {tid g tok w} : MemoriesWf (Machine.writeToken s tid g tok w) := by
  unfold Machine.writeToken
  grind [modGroup, acqAct]

theorem pendToken (h : MemoriesWf s) {tid g tok} : MemoriesWf (Machine.pendToken s tid g tok) := h
theorem takeFree (h : MemoriesWf s) : MemoriesWf (Machine.takeFree s).1 := h

theorem csrCount (h : MemoriesWf s) {t c} : MemoriesWf (Machine.csrCount s t c) := by
  unfold Machine.csrCount
  grind [csrSet]

theorem putSample (h : MemoriesWf s) {t r} : MemoriesWf (Machine.putSample s t r) := by
  unfold Machine.putSample
  grind [ringPut, csrCount]

theorem setTag (h : MemoriesWf s) {t key g} : MemoriesWf (Machine.setTag s t key g) := h

theorem slipTags (h : MemoriesWf s) {t p} : MemoriesWf (Machine.slipTags s t p) := by
  unfold Machine.slipTags
  grind [foldl, MemoriesWf, csrCount, setTag]

theorem cancelTags (h : MemoriesWf s) {tid t} : MemoriesWf (Machine.cancelTags s tid t) := by
  unfold Machine.cancelTags
  grind [foldl, MemoriesWf, setTag, putSample]

theorem cqWrite (h : MemoriesWf s) {t e} : MemoriesWf (Machine.cqWrite s t e) :=
  ((h.foldl (fun _ _ hv => hv.writeHost) _).modTenant).raiseMsi

theorem cqPut (h : MemoriesWf s) {t e} : MemoriesWf (Machine.cqPut s t e) := by
  unfold Machine.cqPut
  grind [modTenant, cqWrite]

theorem cqDrain {t} (n : Nat) (h : MemoriesWf s) : MemoriesWf (Machine.cqDrain n s t) := by
  induction n generalizing s with
  | zero => exact h
  | succ n ih =>
    unfold Machine.cqDrain
    split
    · exact h
    · split
      · exact h
      · exact ih h.modTenant.cqWrite

theorem postWrite (h : MemoriesWf s) {t i} : MemoriesWf (Machine.postWrite s t i) := h

theorem hostAct (h : MemoriesWf s) {t i f u} (hf : Machine.hostAct s t i f = .next u) (hact : ∀ {v}, MemoriesWf v → MemoriesWf (f v)) :
    MemoriesWf u := by
  cases hf
  split
  · exact h
  · split
    · exact (hact h).wakeAll
    · exact h.postWrite

theorem setCounter (h : MemoriesWf s) {t i c} : MemoriesWf (Machine.setCounter s t i c) := h

theorem fireWatch (h : MemoriesWf s) {t w} : MemoriesWf (Machine.fireWatch s t w) := by
  unfold Machine.fireWatch
  grind [fregSet, cqPut]

theorem fireWatches (h : MemoriesWf s) {t i} : MemoriesWf (Machine.fireWatches s t i) := by
  unfold Machine.fireWatches
  grind [foldl, fireWatch]

theorem countUpFrom {t i k bad} (n : Nat) (h : MemoriesWf s) : MemoriesWf (Machine.countUpFrom n s t i k bad) := by
  induction n generalizing s i k bad with
  | zero => exact h
  | succ n ih =>
    unfold Machine.countUpFrom
    grind [fireWatches, setCounter]

theorem unqueue (h : MemoriesWf s) {t i} : MemoriesWf (Machine.unqueue s t i) := h

theorem removeLaunch (h : MemoriesWf s) {t i} : MemoriesWf (Machine.removeLaunch s t i) := by
  unfold Machine.removeLaunch
  grind [MemoriesWf, setCounter, unqueue, modTenant, countUpFrom, fireWatches]

theorem sweepDeps {t} (n : Nat) (h : MemoriesWf s) : MemoriesWf (Machine.sweepDeps n s t) := by
  induction n generalizing s with
  | zero => exact h
  | succ n ih =>
    unfold Machine.sweepDeps
    dsimp only
    split
    · exact h.modTenant
    · exact ih h.modTenant.removeLaunch

theorem settleDeps (h : MemoriesWf s) {t} : MemoriesWf (Machine.settleDeps s t) := by
  unfold Machine.settleDeps
  grind [sweepDeps]

theorem countUp (h : MemoriesWf s) {t i k bad} : MemoriesWf (Machine.countUp s t i k bad) := by
  unfold Machine.countUp
  grind [wakeAll, settleDeps, countUpFrom]

theorem chargeTask (h : MemoriesWf s) {tid} : MemoriesWf (Machine.chargeTask s tid) := by
  unfold Machine.chargeTask
  grind [MemoriesWf, setTask, foldl, setCounter]

theorem markEntries (h : MemoriesWf s) {t set1 st} : MemoriesWf (Machine.markEntries s t set1 st) := by
  unfold Machine.markEntries
  grind [foldl, MemoriesWf, fireWatches, setCounter, modTenant, unqueue, countUpFrom]

theorem markJobs (h : MemoriesWf s) {t set1} : MemoriesWf (Machine.markJobs s t set1) := h

theorem startCancel (h : MemoriesWf s) {t set1 st tok} : MemoriesWf (Machine.startCancel s t set1 st tok) := by
  unfold Machine.startCancel
  grind [markJobs, settleDeps, markEntries, wakeAll, MemoriesWf]

theorem capBudgets (h : MemoriesWf s) {t} : MemoriesWf (Machine.capBudgets s t) := by
  unfold Machine.capBudgets
  grind [foldl, startCancel]

theorem dropColl (h : MemoriesWf s) {id op} : MemoriesWf (Machine.dropColl s id op) := by
  unfold Machine.dropColl
  grind [MemoriesWf, modTenant]

theorem dropOps (h : MemoriesWf s) {tid} : MemoriesWf (Machine.dropOps s tid) := by
  unfold Machine.dropOps
  grind [dropNeeds, foldl, MemoriesWf, dropColl]

theorem traceEnded (h : MemoriesWf s) {t hd} : MemoriesWf (Machine.traceEnded s t hd) := by
  unfold Machine.traceEnded
  grind [modTenant]

theorem countTaskEnd (h : MemoriesWf s) {t launch blk bad} : MemoriesWf (Machine.countTaskEnd s t launch blk bad) := by
  unfold Machine.countTaskEnd
  grind [MemoriesWf, modTenant, setCounter, countUp]

theorem dropContext (h : MemoriesWf s) {t c} : MemoriesWf (Machine.dropContext s t c) := by
  unfold Machine.dropContext
  grind [modTenant]

theorem endTask (h : MemoriesWf s) {tid bad} : MemoriesWf (Machine.endTask s tid bad) := by
  unfold Machine.endTask
  grind [MemoriesWf, capBudgets, wakeAll, dropOps, chargeTask, cancelTags, dropContext, traceEnded, countTaskEnd]

end MemoriesWf

end Sys2Proof.Machine
end

section
/-! SUPPORT. Canonical memories under an issue, traps, operands and the accesses of lanes. -/

namespace Sys2Proof.Machine

open Host

/-! ### Issue, traps, operands, accesses of lanes -/

namespace MemoriesWf

variable {s : State}

theorem move (h : MemoriesWf s) {c f} : MemoriesWf (Machine.Ctx.move c s f) := h
theorem advance (h : MemoriesWf s) {c} : MemoriesWf (Machine.Ctx.advance c s) := h
theorem blockOn (h : MemoriesWf s) {c w} : MemoriesWf (Machine.Ctx.blockOn c s w) := h
theorem stalled (h : MemoriesWf s) {c} : MemoriesWf (Machine.Ctx.stalled c s) := h

theorem report (h : MemoriesWf s) {tid kind cause infos edges} : MemoriesWf (Machine.report s tid kind cause infos edges) := by
  unfold Machine.report
  grind [MemoriesWf, ringPut, csrSet]

theorem finishTask (h : MemoriesWf s) {tid bad} : MemoriesWf (Machine.finishTask s tid bad) := by
  unfold Machine.finishTask
  grind [wakeAll, setTask, dropOps, cancelTags]

theorem endOrHold (h : MemoriesWf s) {tid trapped} : MemoriesWf (Machine.endOrHold s tid trapped) := by
  unfold Machine.endOrHold
  grind [MemoriesWf, setTask, finishTask]

theorem deliver (h : MemoriesWf s) {tid kind cause g info} : MemoriesWf (Machine.deliver s tid kind cause g info) := by
  unfold Machine.deliver
  grind [endOrHold, report]

theorem enterTrap (h : MemoriesWf s) {tid g pc bundle prio cause lanes addr logged} :
    MemoriesWf (Machine.enterTrap s tid g pc bundle prio cause lanes addr logged) := by
  unfold Machine.enterTrap
  grind [MemoriesWf, deliver, modGroup]

theorem takeTrap (h : MemoriesWf s) {c cause lanes addr} : MemoriesWf (Machine.Ctx.takeTrap c s cause lanes addr) := by
  unfold Machine.Ctx.takeTrap
  grind [enterTrap, move]

theorem endGroup (h : MemoriesWf s) {tid g} : MemoriesWf (Machine.endGroup s tid g) := by
  unfold Machine.endGroup
  grind [MemoriesWf, slipTags, modTask]

theorem leaveTrap (h : MemoriesWf s) {tid g} : MemoriesWf (Machine.leaveTrap s tid g) := by
  unfold Machine.leaveTrap
  grind [MemoriesWf, endGroup, modGroup]

theorem below {r : Res} (h : r.Wf) {k u} (hf : Machine.Res.below k r = some u) : MemoriesWf u.1 := by
  cases r <;> grind [Res.below, Res.Wf]

theorem runOn (h : MemoriesWf s) {c always reads writes body} (hb : (body c s).Wf) :
    MemoriesWf (Machine.runOn always reads writes body c s) := by
  unfold Machine.runOn
  dsimp only
  split
  · exact h.takeTrap
  split
  · exact h.advance
  split
  · split
    · next hbelow =>
      split at hbelow
      · cases hbelow
      · exact takeTrap (below hb hbelow)
    · exact h.takeTrap
  · split
    · exact h.stalled
    · generalize body c s = r at hb
      cases r with
      | ok s1 => exact advance hb
      | done s1 => exact hb
      | trap s1 cause lanes addr => exact takeTrap hb
      | wait s1 => exact hb
      | block s1 w => exact blockOn hb

theorem runGen (h : MemoriesWf s) {always hd n reads writes body u} (hf : Machine.runGen always hd n reads writes body s = .next u)
    (hb : ∀ c, (body c s).Wf) : MemoriesWf u := by
  unfold Machine.runGen at hf
  grind [runOn]

theorem run (h : MemoriesWf s) {hd n reads writes body u} (hf : Machine.run hd n reads writes body s = .next u)
    (hb : ∀ c, (body c s).Wf) : MemoriesWf u :=
  h.runGen hf hb

theorem event (h : MemoriesWf s) {u} (hf : Machine.event s = .next u) : MemoriesWf u := by
  unfold Machine.event at hf
  grind [wakeAll]

theorem evPut (h : MemoriesWf s) {tid g kind pc before after cnt aux} :
    MemoriesWf (Machine.evPut s tid g kind pc before after cnt aux) := by
  unfold Machine.evPut
  grind [MemoriesWf, ringPut, csrCount]

theorem addNeed (h : MemoriesWf s) {t who v write va src} : MemoriesWf (Machine.addNeed s t who v write va src) := by
  unfold Machine.addNeed
  grind [MemoriesWf]

theorem windowRead (h : MemoriesWf s) {c pa key} : MemoriesWf (Machine.windowRead s c pa key).1 := by
  unfold Machine.windowRead
  grind [engRead, setCore]

theorem fetchAt (h : MemoriesWf s) {t pc user} : (Machine.fetchAt s t pc user).Wf := by
  unfold Machine.fetchAt
  grind [access, Fetched.Wf, windowRead]

theorem dropCode (h : MemoriesWf s) {c} : MemoriesWf (Machine.dropCode s c) := h
theorem noteRound (h : MemoriesWf s) {c sched slot} : MemoriesWf (Machine.noteRound s c sched slot) := h

theorem fetchTrapNow (h : MemoriesWf s) {tid g cause} : MemoriesWf (Machine.fetchTrapNow s tid g cause) := by
  unfold Machine.fetchTrapNow
  grind [takeTrap]

theorem fetchTrap (h : MemoriesWf s) {tid g cause} : MemoriesWf (Machine.fetchTrap s tid g cause) := by
  unfold Machine.fetchTrap
  grind [MemoriesWf, fetchTrapNow, faultReport]

theorem fetchWait (h : MemoriesWf s) {t tid g v pc} : MemoriesWf (Machine.fetchWait s t tid g v pc) := by
  unfold Machine.fetchWait
  grind [modGroup, addNeed]

theorem execIllegalInstr (h : MemoriesWf s) {u} (hf : Machine.execIllegalInstr s = .next u) : MemoriesWf u := by
  unfold Machine.execIllegalInstr at hf
  grind [MemoriesWf, takeTrap]

theorem put (h : MemoriesWf s) {c d f} : MemoriesWf (Machine.Ctx.put c s d f) := h
theorem putSome (h : MemoriesWf s) {c d ls f} : MemoriesWf (Machine.Ctx.putSome c s d ls f) := h
theorem putAll (h : MemoriesWf s) {c d ws} : MemoriesWf (Machine.Ctx.putAll c s d ws) := h
theorem putScal (h : MemoriesWf s) {c d w} : MemoriesWf (Machine.Ctx.putScal c s d w) := h
theorem putPred (h : MemoriesWf s) {c p f} : MemoriesWf (Machine.Ctx.putPred c s p f) := h

theorem laneCheck (h : MemoriesWf s) {t user op la} : MemoriesWf (Machine.laneCheck s t user op la).1 := by
  unfold Machine.laneCheck
  grind [MemoriesWf, access]

theorem lanesCheck {t user op} (h : MemoriesWf s) {las} : MemoriesWf (Machine.lanesCheck s t user op las).1 := by
  induction las generalizing s with
  | nil => exact h
  | cons la las ih => exact ih h.laneCheck

theorem reportPages (h : MemoriesWf s) {t g src cause rd wr pages} : MemoriesWf (Machine.reportPages s t g src cause rd wr pages) := by
  unfold Machine.reportPages
  grind [foldl, faultReport]

theorem traceRead (h : MemoriesWf s) {t la va n} : MemoriesWf (Machine.traceRead s t la va n) := by
  unfold Machine.traceRead
  grind [MemoriesWf, modTenant]

theorem traceWrite (h : MemoriesWf s) {t la va n} : MemoriesWf (Machine.traceWrite s t la va n) := by
  unfold Machine.traceWrite
  grind [MemoriesWf, modTenant]

theorem flushLanes (h : MemoriesWf s) {c op las} : MemoriesWf (Machine.flushLanes s c op las) := by
  unfold Machine.flushLanes
  grind [foldl, MemoriesWf, flushLine]

theorem portRmw (h : MemoriesWf s) {t la n f} : MemoriesWf (Machine.portRmw s t la n f).1 := by
  unfold Machine.portRmw
  grind [dieRead, homeWrite]

theorem noteSeen (h : MemoriesWf s) {tid g st} : MemoriesWf (Machine.noteSeen s tid g st) := h

theorem storeLane (h : MemoriesWf s) {t own la bs} : MemoriesWf (Machine.storeLane s t own la bs) := by
  unfold Machine.storeLane
  grind [traceWrite, sendWrite, countReq, l1Store]

theorem padZero (h : MemoriesWf s) {t f g la} : MemoriesWf (Machine.padZero s t f g la) := by
  unfold Machine.padZero
  grind [homeWrite]

theorem stxPort (h : MemoriesWf s) {t f g sat la} : MemoriesWf (Machine.stxPort s t f g sat la) := by
  unfold Machine.stxPort
  grind [traceWrite, padZero, portRmw, traceRead]

theorem atomLane (h : MemoriesWf s) {t op la} : MemoriesWf (Machine.atomLane s t op la).1 := by
  unfold Machine.atomLane
  grind [traceWrite, traceRead, portRmw]

theorem perform (h : MemoriesWf s) {tid g t op id dst las} : MemoriesWf (Machine.perform s tid g t op id dst las) := by
  unfold Machine.perform
  grind [MemoriesWf, modGroup, foldl, storeLane, stxPort, atomLane, traceWrite, traceRead, foldl_pair, noteSeen]

theorem relAct (h : MemoriesWf s) {c scope} : MemoriesWf (Machine.relAct s c scope) := by
  unfold Machine.relAct
  grind [writeBackAll]

theorem relDone (h : MemoriesWf s) {c scope} : MemoriesWf (Machine.relDone s c scope) := by
  unfold Machine.relDone
  grind [invalidateL1]

theorem acqSeen (h : MemoriesWf s) {tid g c scope} : MemoriesWf (Machine.acqSeen s tid g c scope) := by
  unfold Machine.acqSeen
  grind [dropCaches, setDie]

theorem gmem (h : MemoriesWf s) {c op accs} : (Machine.gmem c s op accs).Wf := by
  have hcheck := h.lanesCheck (t := c.task) (user := c.user) (op := op) (las := accs)
  unfold Machine.gmem
  refine resIte h (resIte h ?_)
  generalize Machine.lanesCheck s c.task c.user op accs = r at hcheck ⊢
  obtain ⟨s1, os⟩ := r
  dsimp -zeta only at hcheck ⊢
  cases laneTrap os with
  | some tr => exact h.reportPages
  | none =>
    generalize opOrder op = so
    obtain ⟨scope, o⟩ := so
    dsimp -zeta only
    refine resIte h (resIte h (resIte h (resIte h (resIte h.relAct (resIte h (resIte h ?_))))))
    have hflush : MemoriesWf (Machine.flushLanes (if ordRel o then Machine.relDone (Machine.relAct s1 c.task.core scope) c.task.core scope
      else s1) c.task.core op (goLanes os)) := flushLanes (ite hcheck.relAct.relDone hcheck)
    generalize Machine.flushLanes (if ordRel o then Machine.relDone (Machine.relAct s1 c.task.core scope) c.task.core scope
      else s1) c.task.core op (goLanes os) = s2 at hflush ⊢
    have hserial : MemoriesWf { s2 with serial := s2.serial + 1 } := hflush
    refine resIte hflush (ite (c := ordAcq o = true) (acqSeen ?_) ?_)
    all_goals exact ite hserial.perform (hserial.perform.modGroup.foldl (fun _ _ hv => hv.addNeed) _)

end MemoriesWf

end Sys2Proof.Machine
end

section
/-! SUPPORT. Canonical memories under loads, stores, atomics, fences, barriers, queues and chains. -/

namespace Sys2Proof.Machine

open Host

/-! ### Memory and synchronisation instructions -/

namespace MemoriesWf

variable {s : State}

theorem execLd (h : MemoriesWf s) {hd d a off sz sx home u} (hf : Machine.execLd hd d a off sz sx home s = .next u) : MemoriesWf u := by
  unfold Machine.execLd at hf
  grind [run, gmem]

theorem execSt (h : MemoriesWf s) {hd a off x sz home u} (hf : Machine.execSt hd a off x sz home s = .next u) : MemoriesWf u := by
  unfold Machine.execSt at hf
  grind [run, gmem]

theorem execLdx (h : MemoriesWf s) {hd d a off idx fmt geom u} (hf : Machine.execLdx hd d a off idx fmt geom s = .next u) :
    MemoriesWf u := by
  unfold Machine.execLdx at hf
  grind [run, gmem]

theorem execStx (h : MemoriesWf s) {hd a off idx x fmt geom sat u} (hf : Machine.execStx hd a off idx x fmt geom sat s = .next u) :
    MemoriesWf u := by
  unfold Machine.execStx at hf
  grind [run, gmem]

theorem execLdc (h : MemoriesWf s) {hd d a off sz sx u} (hf : Machine.execLdc hd d a off sz sx s = .next u) : MemoriesWf u := by
  unfold Machine.execLdc at hf
  grind [run, gmem]

theorem prefetchLane (h : MemoriesWf s) {c far va} : MemoriesWf (Machine.prefetchLane c s far va) := by
  unfold Machine.prefetchLane
  grind [MemoriesWf, access, dieRead, l1Read]

theorem execPrefetch (h : MemoriesWf s) {hd a off far u} (hf : Machine.execPrefetch hd a off far s = .next u) : MemoriesWf u := by
  unfold Machine.execPrefetch at hf
  grind [run, MemoriesWf, Res.Wf, foldl, prefetchLane]

theorem execLds (h : MemoriesWf s) {hd d a off sz sx u} (hf : Machine.execLds hd d a off sz sx s = .next u) : MemoriesWf u := by
  unfold Machine.execLds at hf
  grind [run, Res.Wf, put]

theorem execSts (h : MemoriesWf s) {hd a off x sz u} (hf : Machine.execSts hd a off x sz s = .next u) : MemoriesWf u := by
  unfold Machine.execSts at hf
  grind [run, Res.Wf, modTask]

theorem loadBytes (h : MemoriesWf s) {t op la pa n} : MemoriesWf (Machine.loadBytes s t op la pa n).1 := by
  unfold Machine.loadBytes
  grind [homeRead, flushLine, ccRead, l1Read]

theorem loadLane (h : MemoriesWf s) {t op vals la} : MemoriesWf (Machine.loadLane s t op vals la).1 := by
  unfold Machine.loadLane
  grind [MemoriesWf, loadBytes, traceRead]

theorem loadReturn (h : MemoriesWf s) {tid g id u} (hf : Machine.loadReturn s tid g id = some u) : MemoriesWf u := by
  unfold Machine.loadReturn at hf
  grind [MemoriesWf, modGroup, foldl, loadLane, noteSeen]

theorem fire (h : MemoriesWf s) {o u} (hf : Machine.fire o s = .next u) (ho : ∀ v, o = some v → MemoriesWf v) : MemoriesWf u := by
  unfold Machine.fire at hf
  split at hf
  · cases hf; exact (ho _ rfl).wakeAll
  · cases hf; exact h

theorem execLoadDataReturn (h : MemoriesWf s) {tid g id u} (hf : Machine.execLoadDataReturn tid g id s = .next u) : MemoriesWf u := by
  unfold Machine.execLoadDataReturn at hf
  grind [fire, loadReturn]

theorem execAtom (h : MemoriesWf s) {hd d a off x op scope ord u} (hf : Machine.execAtom hd d a off x op scope ord s = .next u) :
    MemoriesWf u := by
  unfold Machine.execAtom at hf
  grind [run, gmem]

theorem execAtomcas (h : MemoriesWf s) {hd d a off x w64 scope ord u} (hf : Machine.execAtomcas hd d a off x w64 scope ord s = .next u) :
    MemoriesWf u := by
  unfold Machine.execAtomcas at hf
  grind [run, gmem]

theorem execRed (h : MemoriesWf s) {hd a off x op scope ord u} (hf : Machine.execRed hd a off x op scope ord s = .next u) :
    MemoriesWf u := by
  unfold Machine.execRed at hf
  grind [run, gmem]

theorem execReddet (h : MemoriesWf s) {hd a off x op u} (hf : Machine.execReddet hd a off x op s = .next u) : MemoriesWf u := by
  unfold Machine.execReddet at hf
  grind [run, gmem]

theorem scratchAtomic (h : MemoriesWf s) {c a off n d f} : (Machine.scratchAtomic c s a off n d f).Wf := by
  unfold Machine.scratchAtomic
  grind [Res.Wf, modTask, put]

theorem execAtoms (h : MemoriesWf s) {hd d a off x op u} (hf : Machine.execAtoms hd d a off x op s = .next u) : MemoriesWf u := by
  unfold Machine.execAtoms at hf
  grind [run, scratchAtomic]

theorem execAtomscas (h : MemoriesWf s) {hd d a off x w64 u} (hf : Machine.execAtomscas hd d a off x w64 s = .next u) : MemoriesWf u := by
  unfold Machine.execAtomscas at hf
  grind [run, scratchAtomic]

theorem execReds (h : MemoriesWf s) {hd a off x op u} (hf : Machine.execReds hd a off x op s = .next u) : MemoriesWf u := by
  unfold Machine.execReds at hf
  grind [run, scratchAtomic]

theorem execPmovR2p (h : MemoriesWf s) {hd a mask u} (hf : Machine.execPmovR2p hd a mask s = .next u) : MemoriesWf u := by
  unfold Machine.execPmovR2p at hf
  grind [run, MemoriesWf, Res.Wf, foldl, putPred]

theorem execMovs (h : MemoriesWf s) {hd d src u} (hf : Machine.execMovs hd d src s = .next u) : MemoriesWf u := by
  unfold Machine.execMovs at hf
  grind [run, Res.Wf, put, modGroup]

theorem execFence (h : MemoriesWf s) {hd kind scope u} (hf : Machine.execFence hd kind scope s = .next u) : MemoriesWf u := by
  unfold Machine.execFence at hf
  grind [run, MemoriesWf, Res.Wf, acqSeen, relAct, relDone, acqAct]

theorem execWait (h : MemoriesWf s) {hd ld st cp tl u} (hf : Machine.execWait hd ld st cp tl s = .next u) : MemoriesWf u := by
  unfold Machine.execWait at hf
  grind [run, Res.Wf]

theorem execBinit (h : MemoriesWf s) {hd n a off u} (hf : Machine.execBinit hd n a off s = .next u) : MemoriesWf u := by
  unfold Machine.execBinit at hf
  grind [run, Res.Wf, modTask]

theorem arriveRecords (h : MemoriesWf s) {c t01 bar done} : MemoriesWf (Machine.arriveRecords c s t01 bar done) := by
  unfold Machine.arriveRecords
  grind [modTask, evPut]

theorem arriveThen (h : MemoriesWf s) {c bar cnt k} (hk : ∀ {v p d}, MemoriesWf v → (k v p d).Wf) :
    (Machine.arriveThen c s bar cnt k).Wf := by
  unfold Machine.arriveThen
  split
  · exact h
  · exact h
  · split
    · exact h
    · exact hk h.setTask.arriveRecords

theorem execBarrive (h : MemoriesWf s) {hd n d cnt u} (hf : Machine.execBarrive hd n d cnt s = .next u) : MemoriesWf u := by
  unfold Machine.execBarrive at hf
  grind [run, MemoriesWf, arriveThen, putAll, Res.Wf]

theorem execBarsync (h : MemoriesWf s) {hd n cnt u} (hf : Machine.execBarsync hd n cnt s = .next u) : MemoriesWf u := by
  unfold Machine.execBarsync at hf
  grind [run, MemoriesWf, Res.Wf, arriveThen, modTask]

theorem execBarwait (h : MemoriesWf s) {hd n a u} (hf : Machine.execBarwait hd n a s = .next u) : MemoriesWf u := by
  unfold Machine.execBarwait at hf
  grind [run, MemoriesWf, Res.Wf, modTask]

theorem execQinit (h : MemoriesWf s) {hd n es a off entries allow u} (hf : Machine.execQinit hd n es a off entries allow s = .next u) :
    MemoriesWf u := by
  unfold Machine.execQinit at hf
  grind [run, Res.Wf, modTask]

theorem execQpush (h : MemoriesWf s) {hd n a u} (hf : Machine.execQpush hd n a s = .next u) : MemoriesWf u := by
  unfold Machine.execQpush at hf
  grind [run, MemoriesWf, Res.Wf, setTask]

theorem execQpop (h : MemoriesWf s) {hd n d u} (hf : Machine.execQpop hd n d s = .next u) : MemoriesWf u := by
  unfold Machine.execQpop at hf
  grind [run, MemoriesWf, Res.Wf, modGroup, setTask]

theorem execQtry (h : MemoriesWf s) {hd n d p u} (hf : Machine.execQtry hd n d p s = .next u) : MemoriesWf u := by
  unfold Machine.execQtry at hf
  grind [run, MemoriesWf, Res.Wf, setTask, putSome, putPred]

theorem chainAccess (h : MemoriesWf s) {c a off op k} (hk : ∀ {v la}, MemoriesWf v → (k v la).Wf) :
    (Machine.chainAccess c s a off op k).Wf := by
  have hcheck := fun {t user la} => h.laneCheck (t := t) (user := user) (op := op) (la := la)
  unfold Machine.chainAccess
  grind [reportPages, addNeed, Res.Wf]

theorem publish (h : MemoriesWf s) {t} : MemoriesWf (Machine.publish s t) := by
  unfold Machine.publish
  grind [modTenant]

theorem blockRelease (h : MemoriesWf s) {t} : MemoriesWf (Machine.blockRelease s t) := by
  unfold Machine.blockRelease
  grind [foldl, writeBackAll]

theorem execChainp (h : MemoriesWf s) {hd a off x scope u} (hf : Machine.execChainp hd a off x scope s = .next u) : MemoriesWf u := by
  unfold Machine.execChainp at hf
  grind [run, MemoriesWf, chainAccess, blockRelease, relAct, Res.Wf, traceWrite, flushLine, relDone, sendWrite, countReq,
    wakeAll, publish]

theorem chainRead (h : MemoriesWf s) {tid g t la u} (hf : Machine.chainRead s tid g t la = some u) : MemoriesWf u.1 := by
  unfold Machine.chainRead at hf
  grind [homeRead, flushLine, noteSeen, traceRead]

theorem execChainw (h : MemoriesWf s) {hd a off x scope ge u} (hf : Machine.execChainw hd a off x scope ge s = .next u) :
    MemoriesWf u := by
  refine h.run hf (fun c => h.chainAccess (fun {v la} hv => ?_))
  dsimp only
  split
  · exact hv.flushLine
  · split
    · next s3 w hread =>
      split
      · exact (hv.flushLine.chainRead hread).acqSeen
      · exact hv.flushLine
    · exact hv.flushLine

theorem execTokacq (h : MemoriesWf s) {hd u} (hf : Machine.execTokacq hd s = .next u) : MemoriesWf u := by
  unfold Machine.execTokacq at hf
  grind [run, MemoriesWf, Res.Wf, acqAct]

theorem tokenAcquire (h : MemoriesWf s) {t launch} : MemoriesWf (Machine.tokenAcquire s t launch) := by
  unfold Machine.tokenAcquire
  grind [MemoriesWf, foldl, acqAct]

theorem passToken (h : MemoriesWf s) {t launch blk} : MemoriesWf (Machine.passToken s t launch blk) := by
  unfold Machine.passToken
  grind [tokenAcquire, modTenant]

theorem execTokpass (h : MemoriesWf s) {hd u} (hf : Machine.execTokpass hd s = .next u) : MemoriesWf u := by
  unfold Machine.execTokpass at hf
  grind [run, MemoriesWf, Res.Wf, blockRelease, relAct, wakeAll, passToken, publish]

end MemoriesWf

end Sys2Proof.Machine
end

section
/-! SUPPORT. Canonical memories under tiles and copies. -/

namespace Sys2Proof.Machine

open Host

/-! ### Tiles and copies -/

namespace MemoriesWf

variable {s : State}

theorem refuse (h : MemoriesWf s) {c cause} : (Machine.Ctx.refuse c s cause).Wf := h

theorem firstCause (h : MemoriesWf s) {c cs k} (hk : Res.Wf k) : (Machine.firstCause c s cs k).Wf := by
  unfold Machine.firstCause
  split
  · exact h
  · exact hk

theorem engTouch (h : MemoriesWf s) {t user rd wr fmt gran} : MemoriesWf (Machine.engTouch s t user rd wr fmt gran).1 := by
  have haccess := h.access (v := .tile t.core) (t := t.tenant) (root := rootOf s t) (va := 32 * gran)
    (w := { r := rd, w := wr, x := false, user := user })
  unfold Machine.engTouch
  dsimp only
  split
  · exact h
  split
  · next hr => rw [hr] at haccess; exact haccess
  · next hr => rw [hr] at haccess; exact haccess
  · next s1 pa x hr =>
    rw [hr] at haccess
    repeat' split
    all_goals exact haccess

theorem engTouches {t user rd wr fmt gs} (h : MemoriesWf s) : MemoriesWf (Machine.engTouches s t user rd wr fmt gs).1 := by
  induction gs generalizing s with
  | nil => exact h
  | cons g gs ih => exact ih h.engTouch

theorem engPlan (h : MemoriesWf s) {t user rd wr fmt vas} : (Machine.engPlan s t user rd wr fmt vas).Wf := by
  unfold Machine.engPlan
  grind [engTouches, EngPlan.Wf]

theorem engLoad (h : MemoriesWf s) {t las} : MemoriesWf (Machine.engLoad s t las).1 := by
  unfold Machine.engLoad
  grind [foldl_pair, traceRead, homeRead, engRead]

theorem engStore (h : MemoriesWf s) {t own las bytes} : MemoriesWf (Machine.engStore s t own las bytes) := by
  unfold Machine.engStore
  grind [foldl, flushLine, traceWrite, sendWrite, countReq]

theorem homeWriteMap (h : MemoriesWf s) {d key t line b gran} : MemoriesWf (Machine.homeWriteMap s d key t line b gran) := by
  unfold Machine.homeWriteMap
  grind [applyAtHome, setDie]

theorem engApply (h : MemoriesWf s) {t las bytes} : MemoriesWf (Machine.engApply s t las bytes) := by
  unfold Machine.engApply
  grind [foldl, flushLine, traceWrite, homeWriteMap, countReq]

theorem needAll (h : MemoriesWf s) {t who wr src ps} : MemoriesWf (Machine.needAll s t who wr src ps) := by
  unfold Machine.needAll
  grind [foldl, addNeed]

theorem recordRead (h : MemoriesWf s) {c va n k} (hk : ∀ {v w}, MemoriesWf v → (k v w).Wf) : (Machine.recordRead c s va n k).Wf := by
  have hplan := (h.writeBackAll (c := c.task.core)).engPlan (t := c.task) (user := c.user) (rd := true) (wr := false) (fmt := none)
    (vas := (upTo (n / 32)).map (fun i => va + 32 * i))
  unfold Machine.recordRead
  grind [reportPages, needAll, engLoad, Res.Wf, EngPlan.Wf]

theorem execTdesc (h : MemoriesWf s) {hd td a len fmt geom pitch rows cols u}
    (hf : Machine.execTdesc hd td a len fmt geom pitch rows cols s = .next u) :
    MemoriesWf u := by
  unfold Machine.execTdesc at hf
  grind [run, refuse, modTask, Res.Wf]

theorem execTfree (h : MemoriesWf s) {hd td u} (hf : Machine.execTfree hd td s = .next u) : MemoriesWf u := by
  unfold Machine.execTfree at hf
  grind [run, MemoriesWf, refuse, modTask, Res.Wf]

theorem execChkwait (h : MemoriesWf s) {hd td mask first u} (hf : Machine.execChkwait hd td mask first s = .next u) : MemoriesWf u := by
  unfold Machine.execChkwait at hf
  grind [run, MemoriesWf, refuse, Res.Wf]

theorem execChktest (h : MemoriesWf s) {hd p td mask first u} (hf : Machine.execChktest hd p td mask first s = .next u) :
    MemoriesWf u := by
  unfold Machine.execChktest at hf
  grind [run, refuse, modGroup, Res.Wf]

theorem execTrec (h : MemoriesWf s) {hd tx a off u} (hf : Machine.execTrec hd tx a off s = .next u) : MemoriesWf u := by
  unfold Machine.execTrec at hf
  grind [run, MemoriesWf, recordRead, access, addNeed, Res.Wf, reportPages, refuse, modTask]

theorem startCopy (h : MemoriesWf s) {c t scope k} : (Machine.startCopy c s t scope k).Wf := by
  unfold Machine.startCopy
  grind [Res.Wf, writeBackAll, modTask, pendToken, MemoriesWf]

theorem execCpl (h : MemoriesWf s) {hd t a off so sz s2g scope u} (hf : Machine.execCpl hd t a off so sz s2g scope s = .next u) :
    MemoriesWf u := by
  unfold Machine.execCpl at hf
  grind [run, MemoriesWf, refuse, Res.Wf, startCopy]

theorem execCpt (h : MemoriesWf s) {hd t row col td tx s2g scope u} (hf : Machine.execCpt hd t row col td tx s2g scope s = .next u) :
    MemoriesWf u := by
  unfold Machine.execCpt at hf
  grind [run, refuse, startCopy]

theorem execCpr (h : MemoriesWf s) {hd t a td op first count scope u} (hf : Machine.execCpr hd t a td op first count scope s = .next u) :
    MemoriesWf u := by
  unfold Machine.execCpr at hf
  grind [run, MemoriesWf, firstCause, refuse, startCopy]

theorem unitDone (h : MemoriesWf s) {id u1 op} : MemoriesWf (Machine.unitDone s id u1 op) := h
theorem stopCopy (h : MemoriesWf s) {id status op} : MemoriesWf (Machine.stopCopy s id status op) := h

theorem failCopy (h : MemoriesWf s) {id op cause va rd wr} : MemoriesWf (Machine.failCopy s id op cause va rd wr) := by
  unfold Machine.failCopy
  grind [stopCopy, reportPages]

theorem putScratch (h : MemoriesWf s) {tid bs} : MemoriesWf (Machine.putScratch s tid bs) := h

theorem chunkLands (h : MemoriesWf s) {id n u} (hf : Machine.chunkLands s id n = some u) : MemoriesWf u := by
  unfold Machine.chunkLands at hf
  split at hf
  · cases hf
  split at hf
  · cases hf
  next op _ _ t _ =>
  split at hf
  · cases hf
  split at hf
  · have hplan := h.engPlan (t := t) (user := op.user) (rd := true) (wr := false) (fmt := copyFmt op.kind) (vas := inReads op.kind n)
    grind [failCopy, needAll, engLoad, unitDone, putScratch, EngPlan.Wf]
  split at hf
  · cases hf
  split at hf
  next whole nibs _ =>
  have hplan := h.engPlan (t := t) (user := op.user) (rd := !nibs.isEmpty) (wr := true) (fmt := copyFmt op.kind)
    (vas := whole.map (·.1) ++ nibs.map (·.1))
  split at hf
  · next hp => rw [hp] at hplan; cases hf; exact failCopy hplan
  · next hp => rw [hp] at hplan; cases hf; exact needAll hplan
  · cases hf
  next s1 las hp =>
  rw [hp] at hplan
  split at hf
  · cases hf; exact failCopy hplan
  split at hf
  · cases hf
  cases hf
  refine unitDone (engStore (foldl (s := s1) hplan (fun v q hv => ?_) _))
  dsimp only
  split
  · exact hv
  · exact hv.traceWrite.flushLine.portRmw

theorem execChunkLands (h : MemoriesWf s) {id chunk u} (hf : Machine.execChunkLands id chunk s = .next u) : MemoriesWf u := by
  unfold Machine.execChunkLands at hf
  grind [fire, chunkLands]

theorem cprApply (h : MemoriesWf s) {id u1 u} (hf : Machine.cprApply s id u1 = some u) : MemoriesWf u := by
  unfold Machine.cprApply at hf
  grind [MemoriesWf, engPlan, EngPlan.Wf, failCopy, needAll, unitDone, engApply, foldl, foldl_pair, homeRead, traceRead,
    flushLine]

theorem execCprChunkApply (h : MemoriesWf s) {id chunk u} (hf : Machine.execCprChunkApply id chunk s = .next u) : MemoriesWf u := by
  unfold Machine.execCprChunkApply at hf
  grind [fire, cprApply]

theorem copyComplete (h : MemoriesWf s) {id u} (hf : Machine.copyComplete s id = some u) : MemoriesWf u := by
  unfold Machine.copyComplete at hf
  grind [MemoriesWf, writeToken]

theorem execCopyComplete (h : MemoriesWf s) {id u} (hf : Machine.execCopyComplete id s = .next u) : MemoriesWf u := by
  unfold Machine.execCopyComplete at hf
  grind [fire, copyComplete]

theorem execCpcancel (h : MemoriesWf s) {hd t u} (hf : Machine.execCpcancel hd t s = .next u) : MemoriesWf u := by
  unfold Machine.execCpcancel at hf
  grind [run, MemoriesWf, Res.Wf, refuse, stopCopy]

end MemoriesWf

end Sys2Proof.Machine
end

section
/-! SUPPORT. Canonical memories under generators, the matrix engines and collectives. -/

namespace Sys2Proof.Machine

open Host

/-! ### Generators, matrix engines, collectives -/

namespace MemoriesWf

variable {s : State}

theorem execGset (h : MemoriesWf s) {hd n a off u} (hf : Machine.execGset hd n a off s = .next u) : MemoriesWf u := by
  unfold Machine.execGset at hf
  grind [run, MemoriesWf, recordRead, refuse, modTask, Res.Wf]

theorem execGseed (h : MemoriesWf s) {hd n a u} (hf : Machine.execGseed hd n a s = .next u) : MemoriesWf u := by
  unfold Machine.execGseed at hf
  grind [run, refuse, modTask, Res.Wf]

theorem execGeval (h : MemoriesWf s) {hd d n a b u} (hf : Machine.execGeval hd d n a b s = .next u) : MemoriesWf u := by
  unfold Machine.execGeval at hf
  grind [run, Res.Wf, put]

theorem rotaryBuilt (h : MemoriesWf s) {tid n u} (hf : Machine.rotaryBuilt s tid n = some u) : MemoriesWf u := by
  unfold Machine.rotaryBuilt at hf
  grind [MemoriesWf, modTask]

theorem execRotaryTableBuilt (h : MemoriesWf s) {tid g u} (hf : Machine.execRotaryTableBuilt tid g s = .next u) : MemoriesWf u := by
  unfold Machine.execRotaryTableBuilt at hf
  grind [fire, rotaryBuilt]

theorem setEngQueue (h : MemoriesWf s) {c e q} : MemoriesWf (Machine.setEngQueue s c e q) := h
theorem modMat (h : MemoriesWf s) {c e id f} : MemoriesWf (Machine.modMat s c e id f) := h
theorem noteProg (h : MemoriesWf s) {tid e id state kdone} : MemoriesWf (Machine.noteProg s tid e id state kdone) := h

theorem startMat (h : MemoriesWf s) {c e tok k kdone f} (hk : ∀ {n v}, MemoriesWf v → MemoriesWf (f n v)) :
    (Machine.startMat c s e tok k kdone f).Wf := by
  unfold Machine.startMat
  split
  · exact h
  · split
    · exact h
    · refine hk (setEngQueue ?_)
      have hback : MemoriesWf (Machine.writeBackAll { s with serial := s.serial + 1 } c.task.core) :=
        writeBackAll (s := { s with serial := s.serial + 1 }) h
      split
      · exact hback.modTask.pendToken
      · exact hback.modTask

theorem matIssue (h : MemoriesWf s) {vec c tok a off e res} : (Machine.matIssue vec c s tok a off e res).Wf := by
  unfold Machine.matIssue
  grind [Res.Wf, refuse, startMat, modTask]

theorem execMma (h : MemoriesWf s) {hd t a off eng res u} (hf : Machine.execMma hd t a off eng res s = .next u) : MemoriesWf u := by
  unfold Machine.execMma at hf
  grind [run, matIssue]

theorem execMmv (h : MemoriesWf s) {hd t a off eng res u} (hf : Machine.execMmv hd t a off eng res s = .next u) : MemoriesWf u := by
  unfold Machine.execMmv at hf
  grind [run, matIssue]

theorem execAccld (h : MemoriesWf s) {hd t eng td arow acol u} (hf : Machine.execAccld hd t eng td arow acol s = .next u) :
    MemoriesWf u := by
  unfold Machine.execAccld at hf
  grind [run, MemoriesWf, refuse, startMat]

theorem accstIssue (h : MemoriesWf s) {c t eng td arow acol md sat ty epi} :
    (Machine.accstIssue c s t eng td arow acol md sat ty epi).Wf := by
  unfold Machine.accstIssue
  grind [refuse, Res.Wf, startMat]

theorem execAccst (h : MemoriesWf s) {hd t eng td arow acol md sat ty epi u}
    (hf : Machine.execAccst hd t eng td arow acol md sat ty epi s = .next u) :
    MemoriesWf u := by
  unfold Machine.execAccst at hf
  grind [run, accstIssue]

theorem execAcczero (h : MemoriesWf s) {hd eng arow nrows u} (hf : Machine.execAcczero hd eng arow nrows s = .next u) : MemoriesWf u := by
  unfold Machine.execAcczero at hf
  grind [run, refuse, startMat]

theorem releaseMat (h : MemoriesWf s) {o} : MemoriesWf (Machine.releaseMat s o) := h

theorem abortOp (h : MemoriesWf s) {c e o running} : MemoriesWf (Machine.abortOp s c e o running) := by
  unfold Machine.abortOp
  grind [modMat, releaseMat, dropNeeds, modTask]

theorem execMabort (h : MemoriesWf s) {hd eng u} (hf : Machine.execMabort hd eng s = .next u) : MemoriesWf u := by
  unfold Machine.execMabort at hf
  grind [run, MemoriesWf, wakeAll, Res.Wf, foldl, abortOp]

theorem fetchBlock (h : MemoriesWf s) {t user a b m n kb} : (Machine.fetchBlock s t user a b m n kb).Wf := by
  unfold Machine.fetchBlock
  grind [engPlan, FetchOut.Wf, EngPlan.Wf, engLoad]

theorem fetchAll (h : MemoriesWf s) {t e o} : (Machine.fetchAll s t e o).Wf := by
  unfold Machine.fetchAll
  grind [FetchOut.Wf, fetchBlock]

theorem kblockComplete (h : MemoriesWf s) {c e u} (hf : Machine.kblockComplete s c e = some u) : MemoriesWf u := by
  unfold Machine.kblockComplete at hf
  grind [MemoriesWf, fetchAll, FetchOut.Wf, modTask, noteProg, modMat]

theorem execKblockComplete (h : MemoriesWf s) {core eng u} (hf : Machine.execKblockComplete core eng s = .next u) : MemoriesWf u := by
  unfold Machine.execKblockComplete at hf
  grind [fire, kblockComplete]

theorem endMat (h : MemoriesWf s) {c e o status} : MemoriesWf (Machine.endMat s c e o status) := h

theorem failMat (h : MemoriesWf s) {c e o cause va} : MemoriesWf (Machine.failMat s c e o cause va) := by
  unfold Machine.failMat
  grind [MemoriesWf, endMat, reportPages]

theorem matrixFetchFault (h : MemoriesWf s) {c e u} (hf : Machine.matrixFetchFault s c e = some u) : MemoriesWf u := by
  unfold Machine.matrixFetchFault at hf
  grind [MemoriesWf, fetchAll, FetchOut.Wf, failMat, noteProg, modMat, needAll]

theorem execMatrixFetchFault (h : MemoriesWf s) {core eng u} (hf : Machine.execMatrixFetchFault core eng s = .next u) : MemoriesWf u := by
  unfold Machine.execMatrixFetchFault at hf
  grind [fire, matrixFetchFault]

theorem matToken (h : MemoriesWf s) {o status count} : MemoriesWf (Machine.matToken s o status count) := by
  unfold Machine.matToken
  grind [writeToken]

theorem dropMat (h : MemoriesWf s) {c e id} : MemoriesWf (Machine.dropMat s c e id) := h

theorem matrixComplete (h : MemoriesWf s) {c e u} (hf : Machine.matrixComplete s c e = some u) : MemoriesWf u := by
  unfold Machine.matrixComplete at hf
  grind [MemoriesWf, matToken, dropMat, noteProg, releaseMat]

theorem execMatrixComplete (h : MemoriesWf s) {core eng u} (hf : Machine.execMatrixComplete core eng s = .next u) : MemoriesWf u := by
  unfold Machine.execMatrixComplete at hf
  grind [fire, matrixComplete]

theorem accComplete (h : MemoriesWf s) {c e u} (hf : Machine.accComplete s c e = some u) : MemoriesWf u := by
  unfold Machine.accComplete at hf
  grind [MemoriesWf, matToken, dropMat, releaseMat, modTask]

theorem execAccOpComplete (h : MemoriesWf s) {core eng u} (hf : Machine.execAccOpComplete core eng s = .next u) : MemoriesWf u := by
  unfold Machine.execAccOpComplete at hf
  grind [fire, accComplete]

theorem execColl (h : MemoriesWf s) {hd t a off slot u} (hf : Machine.execColl hd t a off slot s = .next u) : MemoriesWf u := by
  unfold Machine.execColl at hf
  grind [run, firstCause, Res.Wf, pendToken, writeBackAll, MemoriesWf]

theorem execCollwait (h : MemoriesWf s) {hd mask u} (hf : Machine.execCollwait hd mask s = .next u) : MemoriesWf u := by
  unfold Machine.execCollwait at hf
  grind [run, Res.Wf]

theorem collEnd (h : MemoriesWf s) {id op status} : MemoriesWf (Machine.collEnd s id op status) := by
  unfold Machine.collEnd
  grind [MemoriesWf, dropNeeds, writeToken, dropColl]

theorem collFault (h : MemoriesWf s) {t id op cause va rd wr} : MemoriesWf (Machine.collFault s t id op cause va rd wr) := by
  unfold Machine.collFault
  grind [collEnd, reportPages]

theorem collRead (h : MemoriesWf s) {t id op u} (hf : Machine.collRead s t id op = some u) : MemoriesWf u := by
  unfold Machine.collRead at hf
  grind [MemoriesWf, engPlan, EngPlan.Wf, collFault, needAll, engLoad, collEnd, modTenant]

theorem collContribute (h : MemoriesWf s) {t id op u} (hf : Machine.collContribute s t id op = some u) : MemoriesWf u := by
  unfold Machine.collContribute at hf
  grind [MemoriesWf, engPlan, EngPlan.Wf, collFault, needAll, engLoad, engApply]

theorem collFinish (h : MemoriesWf s) {t id op u} (hf : Machine.collFinish s t id op = some u) : MemoriesWf u := by
  unfold Machine.collFinish at hf
  grind [MemoriesWf, collEnd, engPlan, EngPlan.Wf, collFault, needAll, engApply]

theorem collectiveComplete (h : MemoriesWf s) {id u} (hf : Machine.collectiveComplete s id = some u) : MemoriesWf u := by
  unfold Machine.collectiveComplete at hf
  grind [MemoriesWf, collEnd, collFinish, collRead, collContribute]

theorem execCollectiveComplete (h : MemoriesWf s) {id u} (hf : Machine.execCollectiveComplete id s = .next u) : MemoriesWf u := by
  unfold Machine.execCollectiveComplete at hf
  grind [fire, collectiveComplete]

theorem collTimeout (h : MemoriesWf s) {id u} (hf : Machine.collTimeout s id = some u) : MemoriesWf u := by
  unfold Machine.collTimeout at hf
  grind [MemoriesWf, collEnd]

theorem execCollTimeout (h : MemoriesWf s) {id u} (hf : Machine.execCollTimeout id s = .next u) : MemoriesWf u := by
  unfold Machine.execCollTimeout at hf
  grind [fire, collTimeout]

theorem peerArrives (h : MemoriesWf s) {id rank fields elems} : MemoriesWf (Machine.peerArrives s id rank fields elems) := by
  unfold Machine.peerArrives
  grind [MemoriesWf, wakeAll]

end MemoriesWf

end Sys2Proof.Machine
end

section
/-! SUPPORT. Canonical memories under control, traces, and the tasks and counters of a job. -/

namespace Sys2Proof.Machine

open Host

/-! ### Control, traces, tasks -/

namespace MemoriesWf

variable {s : State}

theorem divergeRecords (h : MemoriesWf s) {c es} : MemoriesWf (Machine.divergeRecords c s es) := by
  unfold Machine.divergeRecords
  grind [foldl, evPut]

theorem splitTo (h : MemoriesWf s) {s2} (h1 : MemoriesWf s2) {c es} : (Machine.Ctx.splitTo c s s2 es).Wf := by
  unfold Machine.Ctx.splitTo
  grind [MemoriesWf, Res.Wf, move, divergeRecords]

theorem branch (h : MemoriesWf s) {s2} (h1 : MemoriesWf s2) {c tgt sent tp fp} : (Machine.Ctx.branch c s s2 tgt sent tp fp).Wf := by
  unfold Machine.Ctx.branch
  grind [splitTo]

theorem link (h : MemoriesWf s) {c d} : MemoriesWf (Machine.Ctx.link c s d) := h

theorem goIndirect (h : MemoriesWf s) {c : Ctx} {a off tp fp pre} (hp : ∀ {v}, MemoriesWf v → MemoriesWf (pre v)) :
    (c.goIndirect s a off tp fp pre).Wf := by
  unfold Ctx.goIndirect
  dsimp only
  generalize (if c.act == 0 then 0 else c.badTargets a off) = bad
  split
  · exact h
  split
  · exact h.branch h
  · exact h.branch (hp h)

theorem execBra (h : MemoriesWf s) {hd off tp fp u} (hf : Machine.execBra hd off tp fp s = .next u) : MemoriesWf u := by
  unfold Machine.execBra at hf
  grind [runGen, branch]

theorem execBrx (h : MemoriesWf s) {hd a off tp fp u} (hf : Machine.execBrx hd a off tp fp s = .next u) : MemoriesWf u := by
  unfold Machine.execBrx at hf
  grind [runGen, MemoriesWf, goIndirect]

theorem execCall (h : MemoriesWf s) {hd d off tp fp u} (hf : Machine.execCall hd d off tp fp s = .next u) : MemoriesWf u := by
  refine h.runGen hf (fun c => ?_)
  split
  · exact h.branch h
  · exact h.branch h.link

theorem execCallx (h : MemoriesWf s) {hd d a off tp fp u} (hf : Machine.execCallx hd d a off tp fp s = .next u) : MemoriesWf u := by
  unfold Machine.execCallx at hf
  grind [runGen, MemoriesWf, goIndirect, link]

theorem execRet (h : MemoriesWf s) {hd a tp fp u} (hf : Machine.execRet hd a tp fp s = .next u) : MemoriesWf u := by
  unfold Machine.execRet at hf
  grind [runGen, MemoriesWf, goIndirect]

theorem execLoopc (h : MemoriesWf s) {hd d off tp fp u} (hf : Machine.execLoopc hd d off tp fp s = .next u) : MemoriesWf u := by
  refine h.runGen hf (fun c => ?_)
  dsimp only
  split
  · exact h.branch h
  · exact h.branch h.put

theorem execExit (h : MemoriesWf s) {hd u} (hf : Machine.execExit hd s = .next u) : MemoriesWf u := by
  unfold Machine.execExit at hf
  grind [run, Res.Wf, leaveTrap, move, modGroup]

theorem execYield (h : MemoriesWf s) {hd u} (hf : Machine.execYield hd s = .next u) : MemoriesWf u := by
  unfold Machine.execYield at hf
  grind [run, MemoriesWf, move, Res.Wf]

theorem execSetprio (h : MemoriesWf s) {hd n u} (hf : Machine.execSetprio hd n s = .next u) : MemoriesWf u := by
  unfold Machine.execSetprio at hf
  grind [run, move, Res.Wf, splitTo]

theorem setTr (h : MemoriesWf s) {t hd tr} : MemoriesWf (Machine.setTr s t hd tr) := h

theorem reachFor (h : MemoriesWf s) {t hd root va} : (Machine.reachFor s t hd root va).Wf := by
  unfold Machine.reachFor
  grind [Plan.Wf, reach, Reach.Wf, addNeed]

theorem reachAll (h : MemoriesWf s) {t hd root vas} : (Machine.reachAll s t hd root vas).Wf := by
  refine foldl_keeps (P := Plan.Wf) (s := .ok s) h (fun p va hp => ?_) vas
  cases p with
  | ok v => exact reachFor hp
  | wait v => exact hp
  | bad v cause va => exact hp

theorem poke (h : MemoriesWf s) {t key pa bs} : MemoriesWf (Machine.poke s t key pa bs) := by
  unfold Machine.poke
  grind [applyAtHome]

theorem pokeVa (h : MemoriesWf s) {t root va bs} : MemoriesWf (Machine.pokeVa s t root va bs) := by
  unfold Machine.pokeVa
  grind [reach, Reach.Wf, poke]

theorem drainWrites (n : Nat) (h : MemoriesWf s) : MemoriesWf (Machine.drainWrites n s) := by
  induction n generalizing s with
  | zero => exact h
  | succ n ih =>
    unfold Machine.drainWrites
    split
    · exact h
    · exact ih h.applyWrite

theorem killTask (h : MemoriesWf s) {t hd r} : MemoriesWf (Machine.killTask s t hd r) := by
  unfold Machine.killTask
  grind [modTenant, writeBackAll, endTask, drainWrites]

theorem applyAct (h : MemoriesWf s) {t hd a} : (Machine.applyAct s t hd a).Wf := by
  unfold Machine.applyAct
  grind [reachAll, Plan.Wf, modTenant, setTr, foldl, killTask, pokeVa]

theorem reportEventide (h : MemoriesWf s) {t tr cause va} : MemoriesWf (Machine.reportEventide s t tr cause va) := by
  unfold Machine.reportEventide
  grind [faultReport]

theorem withRoom (h : MemoriesWf s) {t hd r tr a} : (Machine.withRoom s t hd r tr a).Wf := by
  unfold Machine.withRoom
  grind [applyAct, setTr, Plan.Wf, reachFor, reportEventide]

theorem writeTrace (h : MemoriesWf s) {t hd} : (Machine.writeTrace s t hd).Wf := by
  unfold Machine.writeTrace
  grind [Plan.Wf, reachAll, modTenant, foldl, pokeVa, takeFree]

theorem writeTraceOr (h : MemoriesWf s) {t hd} : (Machine.writeTraceOr s t hd).Wf := by
  unfold Machine.writeTraceOr
  grind [writeTrace, Plan.Wf, modTenant, reportEventide]

theorem launchMember (h : MemoriesWf s) {t hd r} : MemoriesWf (Machine.launchMember s t hd r) := by
  unfold Machine.launchMember
  grind [setTr, modTenant]

theorem memberStart (h : MemoriesWf s) {t hd r} : MemoriesWf (Machine.memberStart s t hd r) := by
  unfold Machine.memberStart
  grind [setTr]

theorem traceSpawn (h : MemoriesWf s) {t hd p site entry args prio} : (Machine.traceSpawn s t hd p site entry args prio).1.Wf := by
  unfold Machine.traceSpawn
  grind [Plan.Wf, setTr, launchMember, applyAct]

theorem enqueue (h : MemoriesWf s) {t q i} : MemoriesWf (Machine.enqueue s t q i) := h

theorem addTops (h : MemoriesWf s) {t hd launch r} : MemoriesWf (Machine.addTops s t hd launch r) := by
  unfold Machine.addTops
  grind [setTr]

theorem freeTrw (h : MemoriesWf s) {t launch} : MemoriesWf (Machine.freeTrw s t launch) := h

theorem acceptRec (h : MemoriesWf s) {t n q} : MemoriesWf (Machine.acceptRec s t n q).1 := by
  unfold Machine.acceptRec
  refine fstIte h (fstIte h (fstIte h (fstIte h ?_)))
  cases freeCounter s t with
  | none => exact h
  | some i =>
    refine fstIte h.setCounter (wakeAll (settleDeps ?_))
    have hset : ∀ {c}, MemoriesWf { Machine.setCounter s t i c with serial := s.serial + 1 } := h
    split
    · exact hset.modTenant.enqueue.freeTrw.addTops
    · exact hset.modTenant.enqueue

theorem handover (h : MemoriesWf s) {c k} (hk : ∀ {v}, MemoriesWf v → (k v).Wf) : (Machine.handover c s k).Wf := by
  unfold Machine.handover
  dsimp only
  split
  · exact hk h.relAct
  · exact h.relAct

theorem execEnq (h : MemoriesWf s) {hd r a off q u} (hf : Machine.execEnq hd r a off q s = .next u) : MemoriesWf u := by
  unfold Machine.execEnq at hf
  grind [run, MemoriesWf, Res.Wf, handover, acceptRec, putScal]

theorem storeChild (h : MemoriesWf s) {t entry args prio traced} : MemoriesWf (Machine.storeChild s t entry args prio traced) := by
  unfold Machine.storeChild
  grind [modTenant, setCounter]

theorem execSpawn (h : MemoriesWf s) {hd p a off prio u} (hf : Machine.execSpawn hd p a off prio s = .next u) : MemoriesWf u := by
  unfold Machine.execSpawn at hf
  grind [run, MemoriesWf, modGroup, Res.Wf, handover, wakeAll, storeChild, traceSpawn, Plan.Wf]

theorem destroyTrace (h : MemoriesWf s) {t hd} : MemoriesWf (Machine.destroyTrace s t hd) := by
  unfold Machine.destroyTrace
  grind [MemoriesWf, dropNeeds, modTenant, foldl, endTask, writeToken]

theorem clearGranule (h : MemoriesWf s) {t root va p} : MemoriesWf (Machine.clearGranule s t root va p) := by
  unfold Machine.clearGranule
  grind [MemoriesWf, foldl, tablePut]

theorem clearCarriers (h : MemoriesWf s) {t j v} : MemoriesWf (Machine.clearCarriers s t j v) := by
  unfold Machine.clearCarriers
  grind [foldl, MemoriesWf, clearGranule]

theorem broadcastGen (h : MemoriesWf s) {t j old} : MemoriesWf (Machine.broadcastGen s t j old) := by
  unfold Machine.broadcastGen
  grind [foldl, setCore]

theorem spliceArena (h : MemoriesWf s) {t j} : MemoriesWf (Machine.spliceArena s t j) := by
  unfold Machine.spliceArena
  grind [modTenant, clearCarriers, broadcastGen]

theorem dropJob (h : MemoriesWf s) {t j} : MemoriesWf (Machine.dropJob s t j) := by
  unfold Machine.dropJob
  grind [spliceArena, foldl, destroyTrace]

theorem freeEntry (h : MemoriesWf s) {t i} : MemoriesWf (Machine.freeEntry s t i) := by
  unfold Machine.freeEntry
  grind [modTenant, foldl, MemoriesWf, dropJob, unqueue]

theorem execCntrd (h : MemoriesWf s) {hd d a field free u} (hf : Machine.execCntrd hd d a field free s = .next u) : MemoriesWf u := by
  unfold Machine.execCntrd at hf
  grind [run, Res.Wf, acqAct, putAll, wakeAll, freeEntry]

theorem execCntwait (h : MemoriesWf s) {hd p a b u} (hf : Machine.execCntwait hd p a b s = .next u) : MemoriesWf u := by
  unfold Machine.execCntwait at hf
  grind [run, MemoriesWf, Res.Wf, modGroup, acqAct]

theorem startWait (h : MemoriesWf s) {t tok entries status} : MemoriesWf (Machine.startWait s t tok entries status) := h

theorem cancelTask (h : MemoriesWf s) {t i b tok} : MemoriesWf (Machine.cancelTask s t i b tok) := by
  unfold Machine.cancelTask
  grind [MemoriesWf, startWait, modTenant, countTaskEnd]

theorem execCancel (h : MemoriesWf s) {hd t a level b u} (hf : Machine.execCancel hd t a level b s = .next u) : MemoriesWf u := by
  unfold Machine.execCancel at hf
  grind [run, refuse, pendToken, startWait, cancelTask, startCancel, Res.Wf, foldl, foldl_pair, MemoriesWf]

theorem slotFor {t va n table p} (k : Nat) (h : MemoriesWf s) (hf : Machine.slotFor k s t va n table = some p) : MemoriesWf p.1 := by
  induction k generalizing s n table with
  | zero => cases hf
  | succ k ih =>
    unfold Machine.slotFor at hf
    dsimp only at hf
    split at hf
    · cases hf; exact h
    obtain ⟨s1, hmade, hrest⟩ := Option.bind_eq_some_iff.mp hf
    refine ih ?_ hrest
    split at hmade
    · obtain ⟨q, hq, rfl⟩ := Option.map_eq_some_iff.mp hmade
      exact (h.takeTable hq).tablePut
    split at hmade
    · cases hmade
    split at hmade
    · exact h.breakTable hmade
    · cases hmade; exact h

theorem arenaGranule (h : MemoriesWf s) {t root va w1 u} (hf : Machine.arenaGranule s t root va w1 = some u) : MemoriesWf u := by
  obtain ⟨p, hp, rfl⟩ := Option.map_eq_some_iff.mp hf
  exact shootPage ((slotFor 5 h hp).foldl (fun _ _ hv => hv.tablePut) _)

theorem arenaAlloc (h : MemoriesWf s) {t root j size fmt geom trk p} (hf : Machine.arenaAlloc s t root j size fmt geom trk = some p) :
    MemoriesWf p.1 := by
  unfold Machine.arenaAlloc at hf
  dsimp only at hf
  split at hf
  · cases hf
  · obtain ⟨g, -, hg⟩ := Option.bind_eq_some_iff.mp hf
    obtain ⟨s1, hs1, rfl⟩ := Option.map_eq_some_iff.mp hg
    exact (h.foldl_bind (fun _ _ _ hv hw => hv.arenaGranule hw) _ hs1).modTenant

theorem execArena (h : MemoriesWf s) {hd d a fmt geom trk u} (hf : Machine.execArena hd d a fmt geom trk s = .next u) : MemoriesWf u := by
  refine h.run hf (fun c => ?_)
  split
  · exact h
  split
  · exact h.putAll
  · next hp => exact (h.arenaAlloc hp).putAll

theorem execFork (h : MemoriesWf s) {hd t a off u} (hf : Machine.execFork hd t a off s = .next u) : MemoriesWf u := by
  unfold Machine.execFork at hf
  grind [run, MemoriesWf, firstCause, Res.Wf, handover, pendToken]

theorem rawEntry (h : MemoriesWf s) {t src dst i} : MemoriesWf (Machine.rawEntry s t src dst i) := by
  unfold Machine.rawEntry
  grind [tablePut, shareUp]

theorem rawTable (h : MemoriesWf s) {t src p} (hf : Machine.rawTable s t src = some p) : MemoriesWf p.1 := by
  obtain ⟨q, hq, rfl⟩ := Option.map_eq_some_iff.mp hf
  dsimp only
  exact (h.takeTable hq).foldl (fun _ _ hv => hv.rawEntry) _

theorem markEntry (h : MemoriesWf s) {t pa ca i} : MemoriesWf (Machine.markEntry s t pa ca i) := by
  unfold Machine.markEntry
  grind [tablePut, shareUp]

theorem shareSpan {t pt ct n base sp u} (k : Nat) (h : MemoriesWf s) (hf : Machine.shareSpan k s t pt ct n base sp = some u) :
    MemoriesWf u := by
  induction k generalizing s u pt ct n base with
  | zero => cases hf; exact h
  | succ k ih =>
    unfold Machine.shareSpan at hf
    refine h.foldl_bind (fun v i w hv hw => ?_) _ hf
    dsimp only at hw
    split at hw
    · cases hw; exact hv
    split at hw
    · cases hw
      refine hv.foldl (fun x j hx => ?_) _
      split
      · exact hx
      · exact hx.markEntry
    split at hw
    · cases hw; exact hv.markEntry
    obtain ⟨s1, hbroken, hrest⟩ := Option.bind_eq_some_iff.mp hw
    have hs1 : MemoriesWf s1 := by
      split at hbroken
      · exact hv.breakTable hbroken
      · cases hbroken; exact hv
    obtain ⟨q, hcopied, hq⟩ := Option.bind_eq_some_iff.mp hrest
    refine ih ?_ hq
    split at hcopied
    · obtain ⟨r, hr, rfl⟩ := Option.map_eq_some_iff.mp hcopied
      exact (hs1.rawTable hr).tablePut
    · cases hcopied; exact hs1

theorem shootSpans (h : MemoriesWf s) {t spans} : MemoriesWf (Machine.shootSpans s t spans) := by
  unfold Machine.shootSpans
  grind [foldl, shootRange]

theorem forkRoot (h : MemoriesWf s) {t root spans p} (hf : Machine.forkRoot s t root spans = some p) : MemoriesWf p.1 := by
  obtain ⟨q, hq, hrest⟩ := Option.bind_eq_some_iff.mp hf
  obtain ⟨s1, hs1, rfl⟩ := Option.map_eq_some_iff.mp hrest
  exact ((h.rawTable hq).foldl_bind (fun _ _ _ hv hw => shareSpan 5 hv hw) _ hs1).shootSpans

theorem forkEnd (h : MemoriesWf s) {id op status value} : MemoriesWf (Machine.forkEnd s id op status value) := by
  unfold Machine.forkEnd
  grind [writeToken, dropNeeds, MemoriesWf]

theorem forkRead (h : MemoriesWf s) {t id op va n wr k u} (hf : Machine.forkRead s t id op va n wr k = some u)
    (hk : ∀ {v w x}, MemoriesWf v → k v w = some x → MemoriesWf x) : MemoriesWf u := by
  have hplan := h.engPlan (t := t) (user := op.user) (rd := !wr) (wr := wr) (fmt := none) (vas := (upTo n).map (va + ·))
  unfold Machine.forkRead at hf
  split at hf
  · next hp => rw [hp] at hplan; cases hf; exact forkEnd (reportPages hplan)
  · next hp => rw [hp] at hplan; cases hf; exact needAll hplan
  · cases hf
  · next hp =>
    rw [hp] at hplan
    split at hf
    · exact hk hplan hf
    · exact hk (engLoad hplan) hf

theorem forkTrace (h : MemoriesWf s) {t hd root eventide job} : MemoriesWf (Machine.forkTrace s t hd root eventide job) := by
  unfold Machine.forkTrace
  grind [setTr]

theorem forkChildren (h : MemoriesWf s) {t op n spans root k p} (hf : Machine.forkChildren s t op n spans root k = some p) :
    MemoriesWf p.1 := by
  refine foldl_bind_pair (p := (s, [])) h (fun q i r hq hr => ?_) _ hf
  obtain ⟨⟨s1, root1⟩, hroot, hrest⟩ := Option.bind_eq_some_iff.mp hr
  obtain ⟨c, -, rfl⟩ := Option.map_eq_some_iff.mp hrest
  have hs1 : MemoriesWf s1 := forkRoot hq hroot
  dsimp only
  split
  · exact hs1.setCounter.modTenant.forkTrace
  · exact hs1.setCounter.modTenant

theorem forkOwn {t vas} (h : MemoriesWf s) : (Machine.forkOwn s t vas).Wf := by
  induction vas generalizing s with
  | nil => exact h
  | cons va vas ih =>
    have hreach := fun {root want} => reach 8 h (t := t.tenant) (root := root) (va := va) (want := want)
    unfold Machine.forkOwn
    grind [Reach.Wf, ForkOwn.Wf]

theorem forkComplete (h : MemoriesWf s) {id u} (hf : Machine.forkComplete s id = some u) : MemoriesWf u := by
  unfold Machine.forkComplete at hf
  split at hf
  · cases hf
  split at hf
  · cases hf; exact h
  next op _ _ t _ =>
  have hnone : (none : Option State) = some u → MemoriesWf u := fun hn => nomatch hn
  have hend : ∀ {v st w}, MemoriesWf v → some (Machine.forkEnd v id op st w) = some u → MemoriesWf u :=
    fun hv hw => by cases hw; exact hv.forkEnd
  refine someIte hf hnone (fun hf => someIte hf (hend h) (fun hf => someIte hf (hend h) (fun hf => ?_)))
  refine h.forkRead hf (fun {s1 n x} h1 hf => ?_)
  have hend : ∀ {v st w}, MemoriesWf v → some (Machine.forkEnd v id op st w) = some x → MemoriesWf x :=
    fun hv hw => by cases hw; exact hv.forkEnd
  refine someIte hf (hend h1) (fun hf => h1.forkRead hf (fun {s2 m y} h2 hf => ?_))
  have hnone : (none : Option State) = some y → MemoriesWf y := fun hn => nomatch hn
  have hend : ∀ {v st w}, MemoriesWf v → some (Machine.forkEnd v id op st w) = some y → MemoriesWf y :=
    fun hv hw => by cases hw; exact hv.forkEnd
  beta_reduce at hf
  extract_lets es spans k root tr free s3 all at hf
  refine someIte hf (hend h2) (fun hf => someIte hf (hend h2) (fun hf => someIte hf (hend h2) (fun hf =>
    someIte hf hnone (fun hf => someIte hf hnone (fun hf => ?_)))))
  have h3 : MemoriesWf s3 := h2.foldl (fun _ _ hv => hv.writeBackAll) _
  clear_value s3
  refine someIte hf (fun hf => someIte hf hnone (fun hw => by cases hw; exact h3)) (fun hf => h3.forkRead hf (fun {s4 _ z} h4 hf => ?_))
  beta_reduce at hf
  split at hf
  · cases hf; exact h4.forkEnd
  next s5 ids hchildren =>
  have h5 := forkChildren h4 hchildren
  extract_lets s6 bytes vas at hf
  have h6 : MemoriesWf s6 := by
    unfold s6
    split
    · exact h5
    · exact h5.setCounter
  clear_value s6
  have hown := h6.forkOwn (t := t) (vas := vas.map (32 * ·))
  split at hf
  · cases hf
  · cases hf; exact h4.needAll
  · cases hf; exact h4.reportPages.forkEnd
  next s7 hr =>
  rw [hr] at hown
  have hplan := hown.engPlan (t := t) (user := op.user) (rd := false) (wr := true) (fmt := none) (vas := vas.map (32 * ·))
  split at hf
  · next hp => rw [hp] at hplan; cases hf; exact (engApply hplan).forkEnd
  · cases hf; exact h4.needAll
  · cases hf; exact h4.reportPages.forkEnd
  · cases hf

theorem execForkComplete (h : MemoriesWf s) {id u} (hf : Machine.execForkComplete id s = .next u) : MemoriesWf u := by
  unfold Machine.execForkComplete at hf
  grind [fire, forkComplete]

end MemoriesWf

end Sys2Proof.Machine
end

section
/-! SUPPORT. Canonical memories under neighbour search and the events of traces. -/

namespace Sys2Proof.Machine

open Host

/-! ### Neighbour search and the Eventide -/

namespace MemoriesWf

variable {s : State}

theorem execNngraph (h : MemoriesWf s) {hd r n a off u} (hf : Machine.execNngraph hd r n a off s = .next u) : MemoriesWf u := by
  unfold Machine.execNngraph at hf
  grind [run, MemoriesWf, Res.Wf, engPlan, writeBackAll, EngPlan.Wf, putScal, reportPages, needAll, engLoad, modTenant]

theorem execNngraphBump (h : MemoriesWf s) {hd r n long u} (hf : Machine.execNngraphBump hd r n long s = .next u) : MemoriesWf u := by
  unfold Machine.execNngraphBump at hf
  grind [run, MemoriesWf, putScal, Res.Wf, laneCheck, reportPages, addNeed, handover, flushLine, atomLane, wakeAll]

theorem execNngraphDrop (h : MemoriesWf s) {hd r n long u} (hf : Machine.execNngraphDrop hd r n long s = .next u) : MemoriesWf u := by
  unfold Machine.execNngraphDrop at hf
  grind [run, putScal, Res.Wf, modTenant]

theorem versionRead (h : MemoriesWf s) {t user g} : MemoriesWf (Machine.versionRead s t user g).1 := by
  unfold Machine.versionRead
  grind [MemoriesWf, access, modTenant]

theorem versionAtIssue (h : MemoriesWf s) {t user va} : MemoriesWf (Machine.versionAtIssue s t user va).1 := by
  unfold Machine.versionAtIssue
  grind [MemoriesWf, access, versionRead]

theorem execNnq (h : MemoriesWf s) {hd t slot a off u} (hf : Machine.execNnq hd t slot a off s = .next u) : MemoriesWf u := by
  unfold Machine.execNnq at hf
  grind [run, MemoriesWf, refuse, Res.Wf, versionAtIssue, writeBackAll, pendToken]

theorem execNnwait (h : MemoriesWf s) {hd mask u} (hf : Machine.execNnwait hd mask s = .next u) : MemoriesWf u := by
  unfold Machine.execNnwait at hf
  grind [run, Res.Wf, acqAct]

theorem execNncancel (h : MemoriesWf s) {hd slot u} (hf : Machine.execNncancel hd slot s = .next u) : MemoriesWf u := by
  unfold Machine.execNncancel at hf
  grind [run, MemoriesWf, Res.Wf, wakeAll]

theorem uncounted {s1} (h : MemoriesWf s1) : MemoriesWf (Machine.uncounted s s1) := by
  unfold Machine.uncounted
  grind [MemoriesWf]

theorem handSeen (h : MemoriesWf s) {d e} : MemoriesWf (Machine.handSeen s d e) := by
  unfold Machine.handSeen
  grind [setDie]

theorem levRead (h : MemoriesWf s) {t id q e fmt data pages} : (Machine.levRead s t id q e fmt data pages).Wf := by
  unfold Machine.levRead
  grind [engTouches, handSeen, LevOut.Wf, reportPages, needAll, engLoad, uncounted, setDie]

theorem levRead_eq (h : MemoriesWf s) {t id q e fmt data pages r} (hr : Machine.levRead s t id q e fmt data pages = r) : r.Wf := by
  rw [← hr]
  exact levRead h

theorem setQuery (h : MemoriesWf s) {id q} : MemoriesWf (Machine.setQuery s id q) := h

theorem levWrite (h : MemoriesWf s) {t id q bytes} : (Machine.levWrite s t id q bytes).Wf := by
  unfold Machine.levWrite
  grind [LevOut.Wf, setQuery, engPlan, EngPlan.Wf, reportPages, needAll, uncounted, engApply]

theorem nodeStep (h : MemoriesWf s) {t id q e v nbrs} : (Machine.nodeStep s t id q e v nbrs).Wf := by
  unfold Machine.nodeStep
  grind [NodeOut.Wf, levRead, LevOut.Wf]

theorem spillPages (h : MemoriesWf s) {t q} : MemoriesWf (Machine.spillPages s t q).1 := by
  unfold Machine.spillPages
  grind [foldl_pair, MemoriesWf, access]

theorem startEntries {t id q es p} (h : MemoriesWf s) (hf : Machine.startEntries s t id q es = some p) : MemoriesWf p.1 := by
  induction es generalizing s q with
  | nil => cases hf; exact h
  | cons e es ih =>
    have hstep := h.nodeStep (t := t) (id := id) (q := q) (e := q.engine) (v := e) (nbrs := false)
    unfold Machine.startEntries at hf
    grind [NodeOut.Wf]

theorem queryStart_opt (h : MemoriesWf s) {id} : OptWf (Machine.queryStart s id) := by
  unfold Machine.queryStart
  split
  · exact optNone
  split
  · exact optSome h
  next q _ _ t _ =>
  refine optIte optNone ?_
  extract_lets q0 fin kept
  have hfin : ∀ {v q st}, MemoriesWf v → OptWf (fin v q st) := fun hv => optSome hv.setQuery
  have hkept : ∀ {v}, MemoriesWf v → OptWf (some (kept v)) := fun hv => optSome hv.setQuery
  clear_value fin kept
  refine optIte (hfin h) ?_
  generalize hl : Machine.levRead s t id q q.engine none (byteRange q.addr 64) [] = r
  have hread := levRead_eq h hl
  cases r with
  | hold => exact optNone
  | need s1 => exact optSome hread
  | fail s1 st va => exact hfin hread
  | ok s1 m =>
    dsimp -zeta only
    extract_lets hdr q1 q2
    clear_value q2 q1
    refine optIte (hfin hread) ?_
    have hspill := spillPages hread (t := t) (q := q1)
    generalize Machine.spillPages s1 t q1 = r at hspill ⊢
    obtain ⟨s2, frames, off, ps⟩ := r
    refine optIte (optSome (needAll hspill)) (optIte (hfin hspill) ?_)
    have hver : MemoriesWf (if q1.verSeen then (s2, none) else Machine.versionRead s2 t q.user (qGr q1)).1 :=
      fstIte hspill (versionRead hspill)
    generalize (if q1.verSeen then (s2, none) else Machine.versionRead s2 t q.user (qGr q1)) = r at hver ⊢
    obtain ⟨s3, v⟩ := r
    dsimp -zeta only at hver ⊢
    split
    · exact optSome (needAll hver)
    generalize hl : Machine.levRead s3 t id q q.engine none (byteRange (q.addr + 64) (4 * qDims q1)) [] = r
    have hread2 := levRead_eq hver hl
    cases r with
    | hold => exact optIte optNone (hkept hver)
    | need s4 => exact hkept hread2
    | fail s4 st va => exact hfin hread2
    | ok s4 m2 =>
      dsimp -zeta only
      extract_lets q3
      split
      · exact optIte optNone (hkept hver)
      · next hstart => exact optSome (startEntries hread2 hstart).setQuery
      · next hstart => exact hkept (startEntries hread2 hstart)

theorem queryStart (h : MemoriesWf s) {id u} (hf : Machine.queryStart s id = some u) : MemoriesWf u :=
  queryStart_opt h u hf

theorem execQueryStart (h : MemoriesWf s) {id u} (hf : Machine.execQueryStart id s = .next u) : MemoriesWf u := by
  unfold Machine.execQueryStart at hf
  grind [fire, queryStart]

theorem neighbours {t id q e vs acc} (h : MemoriesWf s) : (Machine.neighbours s t id q e vs acc).2.Wf := by
  induction vs generalizing s acc with
  | nil => exact h
  | cons v vs ih =>
    have hstep := h.nodeStep (t := t) (id := id) (q := q) (e := e) (v := v) (nbrs := false)
    unfold Machine.neighbours
    split
    · next hr => rw [hr] at hstep; exact ih hstep
    · exact hstep

theorem expand (h : MemoriesWf s) {t id q c} : (Machine.expand s t id q c).2.Wf := by
  unfold Machine.expand
  grind [nodeStep, NodeOut.Wf, neighbours]

theorem outstanding (h : MemoriesWf s) {l} : MemoriesWf (Machine.outstanding s l).1 := by
  unfold Machine.outstanding
  grind [takeFree]

theorem expansionRequest (h : MemoriesWf s) {id u} (hf : Machine.expansionRequest s id = some u) : MemoriesWf u := by
  unfold Machine.expansionRequest at hf
  grind [MemoriesWf, outstanding, expand, NodeOut.Wf, setQuery]

theorem execExpansionRequest (h : MemoriesWf s) {id u} (hf : Machine.execExpansionRequest id s = .next u) : MemoriesWf u := by
  unfold Machine.execExpansionRequest at hf
  grind [fire, expansionRequest]

theorem expansionReply (h : MemoriesWf s) {id u} (hf : Machine.expansionReply s id = some u) : MemoriesWf u := by
  unfold Machine.expansionReply at hf
  grind [MemoriesWf, outstanding, setQuery]

theorem execExpansionReply (h : MemoriesWf s) {id u} (hf : Machine.execExpansionReply id s = .next u) : MemoriesWf u := by
  unfold Machine.execExpansionReply at hf
  grind [fire, expansionReply]

theorem roundMerge (h : MemoriesWf s) {id u} (hf : Machine.roundMerge s id = some u) : MemoriesWf u := by
  unfold Machine.roundMerge at hf
  grind [MemoriesWf, levWrite, LevOut.Wf, setQuery]

theorem execRoundMerge (h : MemoriesWf s) {id u} (hf : Machine.execRoundMerge id s = .next u) : MemoriesWf u := by
  unfold Machine.execRoundMerge at hf
  grind [fire, roundMerge]

theorem queryToken (h : MemoriesWf s) {id q st} : MemoriesWf (Machine.queryToken s id q st) := by
  unfold Machine.queryToken
  grind [MemoriesWf, setQuery, writeToken]

theorem queryComplete (h : MemoriesWf s) {id u} (hf : Machine.queryComplete s id = some u) : MemoriesWf u := by
  unfold Machine.queryComplete at hf
  grind [MemoriesWf, queryToken, levRead, LevOut.Wf, setQuery, levWrite]

theorem execQueryComplete (h : MemoriesWf s) {id u} (hf : Machine.execQueryComplete id s = .next u) : MemoriesWf u := by
  unfold Machine.execQueryComplete at hf
  grind [fire, queryComplete]

theorem queryCancelArrival (h : MemoriesWf s) {id u} (hf : Machine.queryCancelArrival s id = some u) : MemoriesWf u := by
  unfold Machine.queryCancelArrival at hf
  grind [MemoriesWf, setQuery, dropNeeds]

theorem execQueryCancelArrival (h : MemoriesWf s) {id u} (hf : Machine.execQueryCancelArrival id s = .next u) : MemoriesWf u := by
  unfold Machine.execQueryCancelArrival at hf
  grind [fire, queryCancelArrival]

theorem queryFail (h : MemoriesWf s) {id pages} : MemoriesWf (Machine.queryFail s id pages) := h

theorem execTropen (h : MemoriesWf s) {hd r a e lg u} (hf : Machine.execTropen hd r a e lg s = .next u) : MemoriesWf u := by
  refine h.run hf (fun c => ?_)
  have hanswer : ∀ {v} {st w : Nat}, MemoriesWf v → Res.Wf (.ok (Machine.wakeAll (c.putScal v r (statusWord st w)))) :=
    fun hv => hv.putScal.wakeAll
  refine resIte h ?_
  split
  · exact hanswer h
  refine resIte (hanswer h) (resIte (hanswer h) (resIte (hanswer h) ?_))
  split
  · exact hanswer h
  next n _ =>
  refine resIte h ?_
  extract_lets tr s1
  have hs1 : MemoriesWf s1 := (setTr h).foldl (fun _ _ hv => hv.freeTrw) _
  have hwrite := writeTraceOr hs1 (t := c.ten) (hd := n)
  split
  all_goals next hw => rw [hw] at hwrite; exact hanswer hwrite

theorem execTrclose (h : MemoriesWf s) {hd r a free u} (hf : Machine.execTrclose hd r a free s = .next u) : MemoriesWf u := by
  unfold Machine.execTrclose at hf
  grind [run, MemoriesWf, putScal, Res.Wf, writeTraceOr, Plan.Wf, wakeAll, destroyTrace, setTr]

theorem markGranule (h : MemoriesWf s) {t va pa x} : MemoriesWf (Machine.markGranule s t va pa x) := by
  unfold Machine.markGranule
  grind [sendWrite, flushLine]

theorem execTrmark (h : MemoriesWf s) {hd a off u} (hf : Machine.execTrmark hd a off s = .next u) : MemoriesWf u := by
  unfold Machine.execTrmark at hf
  grind [run, MemoriesWf, Res.Wf, access, addNeed, reportPages, wakeAll, markGranule]

theorem execProp (h : MemoriesWf s) {hd t a u} (hf : Machine.execProp hd t a s = .next u) : MemoriesWf u := by
  unfold Machine.execProp at hf
  grind [run, MemoriesWf, refuse, handover, pendToken, writeToken, Res.Wf, wakeAll, setTr]

theorem shareTrace (h : MemoriesWf s) {t root child spans u} (hf : Machine.shareTrace s t root child spans = some u) : MemoriesWf u := by
  unfold Machine.shareTrace at hf
  split at hf
  · cases hf; exact h
  · obtain ⟨s1, hs1, rfl⟩ := Option.map_eq_some_iff.mp hf
    exact (h.foldl_bind (fun _ _ _ hv hw => shareSpan 5 hv hw) _ hs1).shootSpans

theorem execTrfork (h : MemoriesWf s) {hd r a b u} (hf : Machine.execTrfork hd r a b s = .next u) : MemoriesWf u := by
  unfold Machine.execTrfork at hf
  grind [run, MemoriesWf, wakeAll, putScal, Res.Wf, foldl, writeBackAll, forkTrace, shareTrace]

theorem closeProp (h : MemoriesWf s) {t hd status} : MemoriesWf (Machine.closeProp s t hd status) := by
  unfold Machine.closeProp
  grind [MemoriesWf, setTr, foldl, writeToken]

theorem stopProp (h : MemoriesWf s) {t hd status} : (Machine.stopProp s t hd status).Wf := by
  unfold Machine.stopProp
  grind [Plan.Wf, applyAct, closeProp, reportEventide]

theorem orFault {t hd u} {p : Plan} (h : p.Wf) (hf : Machine.orFault t hd p = some u) : MemoriesWf u := by
  cases p with
  | ok s => cases hf; exact h
  | wait s => cases hf; exact h
  | bad s cause va =>
    have hp : MemoriesWf s := h
    unfold Machine.orFault at hf
    grind [stopProp, reportEventide, Plan.Wf]

theorem traceRecord (h : MemoriesWf s) {t u} (hf : Machine.traceRecord s t = some u) : MemoriesWf u := by
  unfold Machine.traceRecord at hf
  grind [MemoriesWf, modTenant, withRoom, Plan.Wf, orFault, writeTraceOr]

theorem execTraceRecord (h : MemoriesWf s) {t u} (hf : Machine.execTraceRecord t s = .next u) : MemoriesWf u := by
  unfold Machine.execTraceRecord at hf
  grind [fire, traceRecord]

theorem modificationRecord (h : MemoriesWf s) {u} (hf : Machine.modificationRecord s = some u) : MemoriesWf u := by
  unfold Machine.modificationRecord at hf
  split at hf
  · cases hf
  split at hf
  · cases hf
  next m ms _ _ =>
  extract_lets t acts plan at hf
  have hplan : plan.Wf := by
    refine foldl_keeps (P := Plan.Wf) (s := .ok s) h (fun p a hp => ?_) acts
    cases p with
    | ok v => exact reachAll hp
    | wait v => exact hp
    | bad v cause va => exact hp
  cases hp : plan with
  | ok s1 =>
    rw [hp] at hf hplan
    cases hf
    refine foldl (s := { s1 with modq := ms }) hplan (fun v a hv => ?_) acts
    have hact := hv.applyAct (t := t) (hd := a.1) (a := a.2)
    split <;> next hr => rw [hr] at hact; exact hact
  | wait s1 => rw [hp] at hf hplan; cases hf; exact hplan
  | bad s1 cause va =>
    rw [hp] at hf hplan
    dsimp only at hf
    split at hf
    · exact orFault (p := .bad s1 cause va) hplan hf
    · cases hf; exact hplan

theorem execModificationRecord (h : MemoriesWf s) {u} (hf : Machine.execModificationRecord s = .next u) : MemoriesWf u := by
  unfold Machine.execModificationRecord at hf
  grind [fire, modificationRecord]

theorem windowForm (h : MemoriesWf s) {t hd u} (hf : Machine.windowForm s t hd = some u) : MemoriesWf u := by
  unfold Machine.windowForm at hf
  grind [MemoriesWf, stopProp, orFault, applyAct, foldl, launchMember, setTr, writeTraceOr, Plan.Wf, closeProp]

theorem execWindowForm (h : MemoriesWf s) {t hd u} (hf : Machine.execWindowForm t hd s = .next u) : MemoriesWf u := by
  unfold Machine.execWindowForm at hf
  grind [fire, windowForm]

theorem taskCommit (h : MemoriesWf s) {t hd u} (hf : Machine.taskCommit s t hd = some u) : MemoriesWf u := by
  unfold Machine.taskCommit at hf
  grind [MemoriesWf, drainWrites, applyAct, orFault]

theorem execTaskCommit (h : MemoriesWf s) {t hd u} (hf : Machine.execTaskCommit t hd s = .next u) : MemoriesWf u := by
  unfold Machine.execTaskCommit at hf
  grind [fire, taskCommit]

end MemoriesWf

end Sys2Proof.Machine
end

section
/-! SUPPORT. Canonical memories under the system instructions, waits that end, faults that are served, and the events of
the memory system. -/

namespace Sys2Proof.Machine

open Host

/-! ### System instructions, waits, faults, memory events -/

namespace MemoriesWf

variable {s : State}

theorem setQuantum (h : MemoriesWf s) {w} : MemoriesWf (Machine.setQuantum s w) := h

theorem csrStore (h : MemoriesWf s) {t c w} : MemoriesWf (Machine.csrStore s t c w) := by
  unfold Machine.csrStore
  grind [csrSet, retagRoot]

theorem clearStarve (h : MemoriesWf s) {t} : MemoriesWf (Machine.clearStarve s t) := h

theorem csrPut (h : MemoriesWf s) {t c w} : MemoriesWf (Machine.csrPut s t c w) := by
  unfold Machine.csrPut
  grind [setQuantum, modTenant, csrStore, clearStarve, csrSet]

theorem csrWrite (h : MemoriesWf s) {t c w super} : (Machine.csrWrite s t c w super).Wf := by
  unfold Machine.csrWrite
  grind [CsrOut.Wf, wakeAll, csrPut]

theorem execCsrrd (h : MemoriesWf s) {hd d csr u} (hf : Machine.execCsrrd hd d csr s = .next u) : MemoriesWf u := by
  unfold Machine.execCsrrd at hf
  grind [run, putAll, Res.Wf, acqAct]

theorem execCsrwr (h : MemoriesWf s) {hd csr a u} (hf : Machine.execCsrwr hd csr a s = .next u) : MemoriesWf u := by
  unfold Machine.execCsrwr at hf
  grind [run, MemoriesWf, refuse, modGroup, Res.Wf, csrWrite, CsrOut.Wf]

theorem execRti (h : MemoriesWf s) {hd u} (hf : Machine.execRti hd s = .next u) : MemoriesWf u := by
  unfold Machine.execRti at hf
  grind [run, Res.Wf, move, modGroup, leaveTrap]

theorem shootdown (h : MemoriesWf s) {c drop} (hd : ∀ {v}, MemoriesWf v → MemoriesWf (drop v)) : (Machine.shootdown c s drop).Wf := by
  unfold Machine.shootdown
  split
  · exact h.refuse
  · refine h.handover (fun {v} hv => ?_)
    have hback := (hd hv).foldl (f := fun s k => Machine.writeBackAll s k) (fun _ _ hw => hw.writeBackAll) (v.cores.map (·.1))
    dsimp only
    split
    · exact hback
    · exact hback.wakeAll

theorem execTlbinvPage (h : MemoriesWf s) {hd a off u} (hf : Machine.execTlbinvPage hd a off s = .next u) : MemoriesWf u := by
  unfold Machine.execTlbinvPage at hf
  grind [run, MemoriesWf, Res.Wf, shootdown, shootPage]

theorem execTlbinvAll (h : MemoriesWf s) {hd long u} (hf : Machine.execTlbinvAll hd long s = .next u) : MemoriesWf u := by
  unfold Machine.execTlbinvAll at hf
  grind [run, MemoriesWf, shootdown, shootAll]

theorem execStop (h : MemoriesWf s) {hd u} (hf : Machine.execStop hd s = .next u) : MemoriesWf u := by
  unfold Machine.execStop at hf
  grind [run, Res.Wf, modTask]

theorem execSmark (h : MemoriesWf s) {hd n a u} (hf : Machine.execSmark hd n a s = .next u) : MemoriesWf u := by
  unfold Machine.execSmark at hf
  grind [run, Res.Wf, evPut]

theorem unblock (h : MemoriesWf s) {tid g id len} : MemoriesWf (Machine.unblock s tid g id len) := by
  unfold Machine.unblock
  grind [modGroup]

theorem reissue (h : MemoriesWf s) {tid g id} : MemoriesWf (Machine.reissue s tid g id) := by
  unfold Machine.reissue
  grind [modGroup]

theorem wakeOne (h : MemoriesWf s) {tid t x u} (hf : Machine.wakeOne s tid t x = some u) : MemoriesWf u := by
  obtain ⟨g, id, w, len⟩ := x
  unfold Machine.wakeOne at hf
  cases w with
  | chain va w ge scope =>
    have hcheck := h.laneCheck (t := t) (user := groupUser t g) (op := .load 0 false .b32 false true false) (la := laneAcc 0 va va 0 [])
    dsimp only at hf
    split at hf
    · cases hf
    split at hf
    · next hr =>
      rw [hr] at hcheck
      split at hf
      · cases hf
      · next hread =>
        split at hf <;> cases hf
        exact (chainRead hcheck hread).acqSeen.unblock
    · cases hf; exact h.reissue
  | bar => grind [reissue, unblock]
  | push => grind [reissue, unblock, setTask]
  | pop => grind [reissue, unblock, setTask, modGroup]
  | tok => grind [unblock, acqAct]
  | cnt => grind [unblock, acqAct, modGroup]

theorem firstWake (h : MemoriesWf s) {u} (hf : Machine.firstWake s = some u) : MemoriesWf u := by
  obtain ⟨p, -, hp⟩ := List.exists_of_findSome?_eq_some hf
  split at hp
  · obtain ⟨x, -, hx⟩ := List.exists_of_findSome?_eq_some hp
    exact h.wakeOne hx
  · cases hp

theorem settleFrom (n : Nat) (h : MemoriesWf s) : MemoriesWf (Machine.settleFrom n s) := by
  induction n generalizing s with
  | zero => exact h
  | succ n ih =>
    unfold Machine.settleFrom
    split
    · exact h
    · next s1 hs1 => exact ih (h.firstWake hs1)

theorem settle (h : MemoriesWf s) : MemoriesWf (Machine.settle s) := by
  unfold Machine.settle
  grind [settleFrom]

theorem needOver (h : MemoriesWf s) {who} : MemoriesWf (Machine.needOver s who) := by
  unfold Machine.needOver
  grind [MemoriesWf, noteProg, modMat]

theorem putNeed (h : MemoriesWf s) {id n} : MemoriesWf (Machine.putNeed s id n) := by
  unfold Machine.putNeed
  grind [MemoriesWf, wakeAll, needOver]

theorem pageServed (h : MemoriesWf s) {id page} : MemoriesWf (Machine.pageServed s id page) := by
  unfold Machine.pageServed
  grind [putNeed]

theorem failGroup (h : MemoriesWf s) {tid g cause va} : MemoriesWf (Machine.failGroup s tid g cause va) := by
  unfold Machine.failGroup
  split
  · exact h
  next t gr e _ =>
  have hfetch := h.fetchAt (t := t) (pc := e.pc.toNat) (user := gr.trap.isNone)
  split
  · next hr =>
    rw [hr] at hfetch
    split
    · exact hfetch
    · split
      · exact hfetch
      · exact takeTrap hfetch
    · split
      · exact hfetch
      · exact (putScal hfetch).advance
  · exact h

theorem failFetch (h : MemoriesWf s) {n tid g cause} : MemoriesWf (Machine.failFetch s n tid g cause) := by
  unfold Machine.failFetch
  grind [MemoriesWf, fetchTrapNow]

theorem failEventide (h : MemoriesWf s) {t hd va} : MemoriesWf (Machine.failEventide s t hd va) := by
  unfold Machine.failEventide
  grind [MemoriesWf, stopProp, Plan.Wf, setTr, modTenant]

theorem failNeed (h : MemoriesWf s) {id cause pages} : MemoriesWf (Machine.failNeed s id cause pages) := by
  unfold Machine.failNeed
  split
  · exact h
  next n _ =>
  extract_lets page va s1 rep
  have hs1 : MemoriesWf s1 := h.dropNeeds
  have hrep : MemoriesWf rep := hs1.faultReport
  clear_value rep s1
  refine wakeAll ?_
  cases n.who with
  | log tid g i => exact hrep.modGroup
  | copy i => exact hrep.mapGetD (fun _ => hrep.stopCopy)
  | mat c e i => exact hrep.mapGetD (fun _ => hrep.endMat)
  | coll i => exact hrep.mapGetD (fun _ => hrep.collEnd)
  | query i => exact hrep.queryFail
  | fork i => exact hrep.mapGetD (fun _ => hrep.forkEnd)
  | fetch tid g => exact hrep.failFetch
  | group tid g => exact hrep.failGroup
  | eventide hd => exact hrep.failEventide
  | gone => exact hs1

theorem serveNeed (h : MemoriesWf s) {v id u} (hf : Machine.serveNeed s v id = some u) : MemoriesWf u := by
  unfold Machine.serveNeed at hf
  split at hf
  · cases hf
  next n _ =>
  split at hf
  · cases hf
  split at hf
  · next root p ps _ _ =>
    have haccess := h.access (v := .fresh) (t := n.tenant) (root := root) (va := 2 ^ 12 * p) (w := needWant n)
    dsimp only at hf
    generalize 2 ^ 12 * p = va at hf haccess
    grind [pageServed, serveOnce, addNeed, failNeed, Svc.Wf]
  · cases hf

theorem execSharingBreak (h : MemoriesWf s) {id u} (hf : Machine.execSharingBreak id s = .next u) : MemoriesWf u := by
  unfold Machine.execSharingBreak at hf
  grind [fire, serveNeed]

theorem execArenaPageBack (h : MemoriesWf s) {id u} (hf : Machine.execArenaPageBack id s = .next u) : MemoriesWf u := by
  unfold Machine.execArenaPageBack at hf
  grind [fire, serveNeed]

theorem execMigratedPageRestore (h : MemoriesWf s) {id u} (hf : Machine.execMigratedPageRestore id s = .next u) : MemoriesWf u := by
  unfold Machine.execMigratedPageRestore at hf
  grind [fire, serveNeed]

theorem poolRefill (h : MemoriesWf s) {t u} (hf : Machine.poolRefill s t = some u) : MemoriesWf u := by
  unfold Machine.poolRefill at hf
  grind [refill]

theorem execFramePoolRefill (h : MemoriesWf s) {t u} (hf : Machine.execFramePoolRefill t s = .next u) : MemoriesWf u := by
  unfold Machine.execFramePoolRefill at hf
  grind [fire, poolRefill]

theorem sweepWpw (h : MemoriesWf s) {t} : MemoriesWf (Machine.sweepWpw s t) := by
  unfold Machine.sweepWpw
  grind [foldl, putNeed]

theorem sendGroup (h : MemoriesWf s) {id n u} (hf : Machine.sendGroup s id n = some u) : MemoriesWf u := by
  unfold Machine.sendGroup at hf
  grind [MemoriesWf, failNeed, foldl, putFault]

theorem priSend (h : MemoriesWf s) {t u} (hf : Machine.priSend s t = some u) : MemoriesWf u := by
  obtain ⟨p, -, hp⟩ := List.exists_of_findSome?_eq_some hf
  split at hp
  · exact h.sendGroup hp
  · cases hp

theorem execPriGroupSend (h : MemoriesWf s) {t u} (hf : Machine.execPriGroupSend t s = .next u) : MemoriesWf u := by
  unfold Machine.execPriGroupSend at hf
  grind [fire, priSend]

theorem answerGroup (h : MemoriesWf s) {t v i code} : MemoriesWf (Machine.answerGroup s t v i code) := by
  unfold Machine.answerGroup
  grind [MemoriesWf, putNeed, fregSet, failNeed]

theorem execPriResponse (h : MemoriesWf s) {t grp code u} (hf : Machine.execPriResponse t grp code s = .next u) : MemoriesWf u := by
  unfold Machine.execPriResponse at hf
  grind [wakeAll, answerGroup]

theorem execFrrespWrite (h : MemoriesWf s) {t v u} (hf : Machine.execFrrespWrite t v s = .next u) : MemoriesWf u := by
  unfold Machine.execFrrespWrite at hf
  grind [hostAct, answerGroup]

theorem execPriReenable (h : MemoriesWf s) {t u} (hf : Machine.execPriReenable t s = .next u) : MemoriesWf u := by
  unfold Machine.execPriReenable at hf
  grind [wakeAll, fregSet]

theorem replayTrap (h : MemoriesWf s) {tid g o cause lanes addr} : MemoriesWf (Machine.replayTrap s tid g o cause lanes addr) := by
  unfold Machine.replayTrap
  grind [modGroup, enterTrap]

theorem replayBack (h : MemoriesWf s) {tid g o} : MemoriesWf (Machine.replayBack s tid g o) := by
  unfold Machine.replayBack
  grind [MemoriesWf, modGroup]

theorem replayLanes (h : MemoriesWf s) {tid g t o u} (hf : Machine.replayLanes s tid g t o = some u) : MemoriesWf u := by
  have hcheck := h.lanesCheck (t := t) (user := o.user) (op := o.op) (las := o.lanes)
  unfold Machine.replayLanes at hf
  grind [replayTrap, reportPages, flushLanes, perform, modGroup, addNeed, replayBack, writeBackAll, acqSeen, foldl]

theorem oplogReplay (h : MemoriesWf s) {tid g u} (hf : Machine.oplogReplay s tid g = some u) : MemoriesWf u := by
  unfold Machine.oplogReplay at hf
  split at hf
  · cases hf
  split at hf
  · cases hf
  split at hf
  · cases hf
  split at hf
  · cases hf
  split at hf
  · cases hf; exact h.replayTrap
  · split at hf
    · cases hf
    · exact h.replayLanes hf

theorem execOplogReplay (h : MemoriesWf s) {tid g u} (hf : Machine.execOplogReplay tid g s = .next u) : MemoriesWf u := by
  unfold Machine.execOplogReplay at hf
  grind [fire, oplogReplay]

theorem mgRead (h : MemoriesWf s) {t} : MemoriesWf (Machine.mgRead s t).1 := by
  unfold Machine.mgRead
  grind [devRead]

theorem migrationPoll (h : MemoriesWf s) {t u} (hf : Machine.migrationPoll s t = some u) : MemoriesWf u := by
  unfold Machine.migrationPoll at hf
  grind [MemoriesWf, mgRead, modTenant]

theorem execMigrationPoll (h : MemoriesWf s) {t u} (hf : Machine.execMigrationPoll t s = .next u) : MemoriesWf u := by
  unfold Machine.execMigrationPoll at hf
  grind [fire, migrationPoll]

theorem mgEnd (h : MemoriesWf s) {t n status} : MemoriesWf (Machine.mgEnd s t n status) := by
  unfold Machine.mgEnd
  grind [devWrite, csrSet, wakeAll, sweepWpw, modTenant]

theorem migDest (h : MemoriesWf s) {t n ps w1 p} (hf : Machine.migDest s t n ps w1 = some p) : MemoriesWf p.1 := by
  unfold Machine.migDest at hf
  dsimp only at hf
  split at hf
  · obtain ⟨a, -, rfl⟩ := Option.map_eq_some_iff.mp hf
    exact h
  · split at hf <;> cases hf
    exact h
  · split at hf
    · exact h.takePage hf
    · split at hf <;> cases hf
      exact h

theorem migCopy (h : MemoriesWf s) {t n a w0 w1} : MemoriesWf (Machine.migCopy s t n a w0 w1) := by
  unfold Machine.migCopy
  dsimp only
  split
  · exact h.putLeaf.mgEnd
  split
  · exact h.putLeaf.mgEnd
  next s1 pa hd =>
  have hmoved : ∀ {v0 v1}, MemoriesWf (Machine.noteArena (Machine.freePage (Machine.shootPage (Machine.putLeaf
      (Machine.copyPage s1 (nb w1 28 8) (pointed w0 w1) pa (pageBytes (nb w0 2 2))) t a (nb w0 2 2) v0 v1) t (cmdVa n)) t (pointed w0 w1)
      (nb w0 2 2)) t (nb w1 36 12) (some (pointed w0 w1)) (if cmdOp n = 3 then some pa else none)) :=
    (h.migDest hd).copyPage.putLeaf.shootPage.freePage.noteArena
  refine mgEnd ?_
  split
  · exact hmoved
  split
  · exact hmoved
  · exact hmoved

theorem migRun (h : MemoriesWf s) {t op u} (hf : Machine.migRun s t op = some u) : MemoriesWf u := by
  unfold Machine.migRun at hf
  grind [MemoriesWf, mgEnd, shootPage, putLeaf, flushFrame, modTenant, migCopy]

theorem execMigOut (h : MemoriesWf s) {t u} (hf : Machine.execMigOut t s = .next u) : MemoriesWf u := by
  unfold Machine.execMigOut at hf
  grind [fire, migRun]

theorem execMigMove (h : MemoriesWf s) {t u} (hf : Machine.execMigMove t s = .next u) : MemoriesWf u := by
  unfold Machine.execMigMove at hf
  grind [fire, migRun]

theorem execMigDirect (h : MemoriesWf s) {t u} (hf : Machine.execMigDirect t s = .next u) : MemoriesWf u := by
  unfold Machine.execMigDirect at hf
  grind [fire, migRun]

theorem migIn (h : MemoriesWf s) {t u} (hf : Machine.migIn s t = some u) : MemoriesWf u := by
  unfold Machine.migIn at hf
  grind [MemoriesWf, mgEnd, restorePage, Svc.Wf, shootPage]

theorem execMigIn (h : MemoriesWf s) {t u} (hf : Machine.execMigIn t s = .next u) : MemoriesWf u := by
  unfold Machine.execMigIn at hf
  grind [fire, migIn]

theorem migBadop (h : MemoriesWf s) {t u} (hf : Machine.migBadop s t = some u) : MemoriesWf u := by
  unfold Machine.migBadop at hf
  grind [MemoriesWf, mgEnd]

theorem execMigBadop (h : MemoriesWf s) {t u} (hf : Machine.execMigBadop t s = .next u) : MemoriesWf u := by
  unfold Machine.execMigBadop at hf
  grind [fire, migBadop]

theorem writeArrives (h : MemoriesWf s) {id u} (hf : Machine.writeArrives s id = some u) : MemoriesWf u := by
  unfold Machine.writeArrives at hf
  grind [MemoriesWf, applyWrite]

theorem execWriteApplyAtPort (h : MemoriesWf s) {id u} (hf : Machine.execWriteApplyAtPort id s = .next u) : MemoriesWf u := by
  unfold Machine.execWriteApplyAtPort at hf
  grind [fire, writeArrives]

theorem farlineUpdate (h : MemoriesWf s) {u1 u} (hf : Machine.farlineUpdate s u1 = some u) : MemoriesWf u := by
  unfold Machine.farlineUpdate at hf
  grind [setDie]

theorem execFarlineUpdate (h : MemoriesWf s) {u1 u} (hf : Machine.execFarlineUpdate u1 s = .next u) : MemoriesWf u := by
  unfold Machine.execFarlineUpdate at hf
  grind [fire, farlineUpdate]

theorem l1WritebackTimeout (h : MemoriesWf s) {c line u} (hf : Machine.l1WritebackTimeout s c line = some u) : MemoriesWf u := by
  unfold Machine.l1WritebackTimeout at hf
  grind [MemoriesWf, foldl, writeBack]

theorem execL1WritebackTimeout (h : MemoriesWf s) {c line u} (hf : Machine.execL1WritebackTimeout c line s = .next u) : MemoriesWf u := by
  unfold Machine.execL1WritebackTimeout at hf
  grind [fire, l1WritebackTimeout]

theorem l1InvalidateTimeout (h : MemoriesWf s) {c line u} (hf : Machine.l1InvalidateTimeout s c line = some u) : MemoriesWf u := by
  unfold Machine.l1InvalidateTimeout at hf
  grind [MemoriesWf, foldl, dropLine]

theorem execL1InvalidateTimeout (h : MemoriesWf s) {c line u} (hf : Machine.execL1InvalidateTimeout c line s = .next u) :
    MemoriesWf u := by
  unfold Machine.execL1InvalidateTimeout at hf
  grind [fire, l1InvalidateTimeout]

theorem constCacheDrop (h : MemoriesWf s) {c line u} (hf : Machine.constCacheDrop s c line = some u) : MemoriesWf u := by
  unfold Machine.constCacheDrop at hf
  grind [setCore]

theorem execConstCacheDrop (h : MemoriesWf s) {c line u} (hf : Machine.execConstCacheDrop c line s = .next u) : MemoriesWf u := by
  unfold Machine.execConstCacheDrop at hf
  grind [fire, constCacheDrop]

theorem applyRed (h : MemoriesWf s) {r} : MemoriesWf (Machine.applyRed s r) := by
  unfold Machine.applyRed
  grind [homeWrite, observe, MemoriesWf]

theorem writeRun (h : MemoriesWf s) {t n} : MemoriesWf (Machine.writeRun s t n).1 := by
  refine foldl_pair (p := (s, true)) h (fun q i hq => ?_) _
  obtain ⟨v, b⟩ := q
  cases b with
  | false => exact hq
  | true => exact (takeFree hq).devWrite

theorem countRun (h : MemoriesWf s) {t k} : MemoriesWf (Machine.countRun s t k) := h

theorem markRun (h : MemoriesWf s) {os run} : MemoriesWf (Machine.markRun s os run) := by
  unfold Machine.markRun
  grind [foldl, MemoriesWf, takeFree]

theorem spillRun (h : MemoriesWf s) {t line} : MemoriesWf (Machine.spillRun s t line) := by
  unfold Machine.spillRun
  grind [MemoriesWf, csrSet, markRun, foldl, setCounter, writeRun, countRun]

theorem reddetAccept (h : MemoriesWf s) {id u} (hf : Machine.reddetAccept s id = some u) : MemoriesWf u := by
  unfold Machine.reddetAccept at hf
  grind [MemoriesWf, spillRun, storeAccepted]

theorem execReddetAccept (h : MemoriesWf s) {id u} (hf : Machine.execReddetAccept id s = .next u) : MemoriesWf u := by
  unfold Machine.execReddetAccept at hf
  grind [fire, reddetAccept]

theorem blockRetire (h : MemoriesWf s) {t launch u} (hf : Machine.blockRetire s t launch = some u) : MemoriesWf u := by
  unfold Machine.blockRetire at hf
  grind [MemoriesWf, modTenant, tokenAcquire]

theorem execBlockRetire (h : MemoriesWf s) {t launch u} (hf : Machine.execBlockRetire t launch s = .next u) : MemoriesWf u := by
  unfold Machine.execBlockRetire at hf
  grind [fire, blockRetire]

theorem horizonApply (h : MemoriesWf s) {t launch u} (hf : Machine.horizonApply s t launch = some u) : MemoriesWf u := by
  unfold Machine.horizonApply at hf
  grind [MemoriesWf, foldl, modTenant, applyRed, countUp]

theorem execHorizonApply (h : MemoriesWf s) {t launch u} (hf : Machine.execHorizonApply t launch s = .next u) : MemoriesWf u := by
  unfold Machine.execHorizonApply at hf
  grind [fire, horizonApply]

theorem patrolScrub (h : MemoriesWf s) {line outcome} : MemoriesWf (Machine.patrolScrub s line outcome) := by
  unfold Machine.patrolScrub
  grind [MemoriesWf, markBad]

theorem execPatrolScrub (h : MemoriesWf s) {line outcome u} (hf : Machine.execPatrolScrub line outcome s = .next u) : MemoriesWf u := by
  unfold Machine.execPatrolScrub at hf
  grind [patrolScrub, event]

end MemoriesWf

end Sys2Proof.Machine
end

section
/-! SUPPORT. Canonical memories under the save pool, the distributor, pre-emption, debugging and the host. -/

namespace Sys2Proof.Machine

open Host

/-! ### Distributor, pre-emption, debugging, host -/

namespace MemoriesWf

variable {s : State}

theorem setCtx (h : MemoriesWf s) {t c f} : MemoriesWf (Machine.setCtx s t c f) := h

theorem slotReach {t want ps} (h : MemoriesWf s) : (Machine.slotReach t want ps s).Wf := by
  induction ps generalizing s with
  | nil => exact h
  | cons p ps ih =>
    have hreach := fun {root} => reach 4 h (t := t) (root := root) (va := p.1) (want := want)
    unfold Machine.slotReach
    grind [Reach.Wf, SlotRes.Wf]

theorem slotPut (h : MemoriesWf s) {t c off bs} : (Machine.slotPut s t c off bs).Wf := by
  unfold Machine.slotPut
  grind [slotReach, SlotRes.Wf, devWrite]

theorem slotState (h : MemoriesWf s) {t c st} : MemoriesWf (Machine.slotState s t c st) := by
  unfold Machine.slotState
  grind [slotPut, SlotRes.Wf, setCtx]

theorem mergeRecord (h : MemoriesWf s) {tid g es} : MemoriesWf (Machine.mergeRecord s tid g es) := by
  unfold Machine.mergeRecord
  grind [evPut]

theorem regroup (h : MemoriesWf s) {tid g u} (hf : Machine.regroup s tid g = some u) : MemoriesWf u := by
  unfold Machine.regroup at hf
  grind [MemoriesWf, modGroup, foldl, mergeRecord]

theorem execRegroupMerge (h : MemoriesWf s) {tid g u} (hf : Machine.execRegroupMerge tid g s = .next u) : MemoriesWf u := by
  unfold Machine.execRegroupMerge at hf
  grind [fire, regroup]

theorem regroupAll (h : MemoriesWf s) : MemoriesWf (Machine.regroupAll s) := by
  unfold Machine.regroupAll
  split
  · exact h
  · exact h.foldl (fun _ _ hv => hv.foldl (fun _ _ hw => hw.getD (fun _ hx => hw.regroup hx)) _) _

theorem markBegan (h : MemoriesWf s) {t i} : MemoriesWf (Machine.markBegan s t i) := by
  unfold Machine.markBegan
  grind [foldl, setCounter]

theorem startTask (h : MemoriesWf s) {t c launch blk entry prio args org traced prop spawned} :
    MemoriesWf (Machine.startTask s t c launch blk entry prio args org traced prop spawned) := by
  unfold Machine.startTask
  grind [MemoriesWf, dropCode, acqAct, modTenant, memberStart, markBegan]

theorem startBlock (h : MemoriesWf s) {t c i l b} : MemoriesWf (Machine.startBlock s t c i l b) := by
  unfold Machine.startBlock
  grind [startTask]

set_option maxRecDepth 1500 in
theorem streamMore_succ (n s t i l b) : Machine.streamMore (n + 1) s t i l b = (if l.trec.blocks ≤ b then (s, b)
    else if l.dropped.contains b then Machine.streamMore n s t i l (b + 1)
    else match (upTo 1152).find? (fun c => fitsOn s t c none l.trec) with
      | none => (s, b)
      | some c => Machine.streamMore n (Machine.startBlock s t c i l b) t i l (b + 1)) := rfl

theorem streamMore {t i l b} (n : Nat) (h : MemoriesWf s) : MemoriesWf (Machine.streamMore n s t i l b).1 := by
  induction n generalizing s b with
  | zero => exact h
  | succ n ih =>
    rw [streamMore_succ]
    split
    · exact h
    split
    · exact ih h
    split
    · exact h
    · exact ih h.startBlock

theorem startStream (h : MemoriesWf s) {t c i l b} : MemoriesWf (Machine.startStream s t c i l b) := by
  unfold Machine.startStream
  grind [streamMore, startBlock, modTenant, countUp, foldl, foldl_pair, MemoriesWf]

theorem queueFired (h : MemoriesWf s) {t q} : MemoriesWf (Machine.queueFired s t q) := h

theorem placeHead (h : MemoriesWf s) {t c q i l} : MemoriesWf (Machine.placeHead s t c q i l) := by
  unfold Machine.placeHead
  grind [MemoriesWf, queueFired, startStream, modTenant, startBlock]

theorem dispatch (h : MemoriesWf s) {t c u} (hf : Machine.dispatch s t c = some u) : MemoriesWf u := by
  unfold Machine.dispatch at hf
  grind [MemoriesWf, slotState, setCtx, modTenant, startTask, placeHead]

theorem execDispatchDecision (h : MemoriesWf s) {t c u} (hf : Machine.execDispatchDecision t c s = .next u) : MemoriesWf u := by
  unfold Machine.execDispatchDecision at hf
  grind [fire, dispatch]

theorem queueAging (h : MemoriesWf s) {t q u} (hf : Machine.queueAging s t q = some u) : MemoriesWf u := by
  unfold Machine.queueAging at hf
  grind [modTenant]

theorem ageQueues (h : MemoriesWf s) : MemoriesWf (Machine.ageQueues s) :=
  h.foldl (fun _ _ hv => hv.foldl (fun _ _ hw => hw.getD (fun _ hx => hw.queueAging hx)) _) _

theorem execQueueAging (h : MemoriesWf s) {t q u} (hf : Machine.execQueueAging t q s = .next u) : MemoriesWf u := by
  unfold Machine.execQueueAging at hf
  grind [fire, queueAging]

theorem taskOver (h : MemoriesWf s) {tid u} (hf : Machine.taskOver s tid = some u) : MemoriesWf u := by
  unfold Machine.taskOver at hf
  grind [MemoriesWf, endTask, writeBackAll]

theorem execTaskEnd (h : MemoriesWf s) {tid u} (hf : Machine.execTaskEnd tid s = .next u) : MemoriesWf u := by
  unfold Machine.execTaskEnd at hf
  grind [fire, taskOver]

theorem budgetCharge (h : MemoriesWf s) {c u} (hf : Machine.budgetCharge s c = some u) : MemoriesWf u := by
  unfold Machine.budgetCharge at hf
  grind [foldl, chargeTask, capBudgets]

theorem chargeDue (h : MemoriesWf s) : MemoriesWf (Machine.chargeDue s) :=
  h.foldl (fun _ _ hv => hv.getD (fun _ hx => hv.budgetCharge hx)) _

theorem execBudgetCharge (h : MemoriesWf s) {c u} (hf : Machine.execBudgetCharge c s = .next u) : MemoriesWf u := by
  unfold Machine.execBudgetCharge at hf
  grind [fire, budgetCharge]

theorem hangTick (h : MemoriesWf s) : MemoriesWf (Machine.hangTick s) := by
  unfold Machine.hangTick
  grind [foldl, MemoriesWf, setCtx]

theorem hangDetect (h : MemoriesWf s) {t c u} (hf : Machine.hangDetect s t c = some u) : MemoriesWf u := by
  unfold Machine.hangDetect at hf
  grind [MemoriesWf, setCtx, foldl, report, endOrHold]

theorem execHangDetect (h : MemoriesWf s) {t c u} (hf : Machine.execHangDetect t c s = .next u) : MemoriesWf u := by
  unfold Machine.execHangDetect at hf
  grind [fire, hangDetect]

theorem dropQueued (h : MemoriesWf s) {t i} : MemoriesWf (Machine.dropQueued s t i) := by
  unfold Machine.dropQueued
  grind [MemoriesWf, modTenant, unqueue, countUp]

theorem settleReds (h : MemoriesWf s) {t i} : MemoriesWf (Machine.settleReds s t i) := by
  unfold Machine.settleReds
  grind [MemoriesWf, foldl, applyRed]

theorem reclaimSet (h : MemoriesWf s) {t set1} : MemoriesWf (Machine.reclaimSet s t set1) := by
  unfold Machine.reclaimSet
  grind [foldl, MemoriesWf, settleReds, dropQueued, dropJob]

theorem cancelReclaim (h : MemoriesWf s) {id u} (hf : Machine.cancelReclaim s id = some u) : MemoriesWf u := by
  unfold Machine.cancelReclaim at hf
  grind [writeToken, writeBackAll, endTask, orFault, stopProp, reclaimSet, foldl, congr]

theorem execCancelReclaim (h : MemoriesWf s) {id u} (hf : Machine.execCancelReclaim id s = .next u) : MemoriesWf u := by
  unfold Machine.execCancelReclaim at hf
  grind [fire, cancelReclaim]

theorem slipCtx (h : MemoriesWf s) {t c} : MemoriesWf (Machine.slipCtx s t c) := by
  unfold Machine.slipCtx
  grind [slipTags]

theorem startSave (h : MemoriesWf s) {t c} : MemoriesWf (Machine.startSave s t c) := by
  unfold Machine.startSave
  grind [slotState, setCtx, slipCtx]

theorem quantumEnd (h : MemoriesWf s) {t c u} (hf : Machine.quantumEnd s t c = some u) : MemoriesWf u := by
  unfold Machine.quantumEnd at hf
  grind [startSave, setCtx, slipCtx]

theorem execQuantumExpiry (h : MemoriesWf s) {t c u} (hf : Machine.execQuantumExpiry t c s = .next u) : MemoriesWf u := by
  unfold Machine.execQuantumExpiry at hf
  grind [fire, quantumEnd]

theorem shadowBack (h : MemoriesWf s) {t c u} (hf : Machine.shadowBack s t c = some u) : MemoriesWf u := by
  unfold Machine.shadowBack at hf
  grind [setCtx]

theorem execShadowSwitch (h : MemoriesWf s) {t c u} (hf : Machine.execShadowSwitch t c s = .next u) : MemoriesWf u := by
  unfold Machine.execShadowSwitch at hf
  grind [fire, shadowBack]

theorem slotFail (h : MemoriesWf s) {t c kind cause} : MemoriesWf (Machine.slotFail s t c kind cause) := by
  unfold Machine.slotFail
  grind [slotState, foldl, MemoriesWf, report, endTask]

theorem leaveCore (h : MemoriesWf s) {t c} : MemoriesWf (Machine.leaveCore s t c) := by
  unfold Machine.leaveCore
  grind [capBudgets, foldl, modTask, chargeTask]

theorem saveDone (h : MemoriesWf s) {t c u} (hf : Machine.saveDone s t c = some u) : MemoriesWf u := by
  unfold Machine.saveDone at hf
  grind [MemoriesWf, writeBackAll, takeFree, slotPut, SlotRes.Wf, slotFail, leaveCore, invalidateCC, invalidateL1,
    modTenant, setCtx]

theorem execContextSaveComplete (h : MemoriesWf s) {t c u} (hf : Machine.execContextSaveComplete t c s = .next u) : MemoriesWf u := by
  unfold Machine.execContextSaveComplete at hf
  grind [fire, saveDone]

theorem backOnCore (h : MemoriesWf s) {tid c} : MemoriesWf (Machine.backOnCore s tid c) := h
theorem requeueMat (h : MemoriesWf s) {c tids} : MemoriesWf (Machine.requeueMat s c tids) := h

theorem restoreDone (h : MemoriesWf s) {t c u} (hf : Machine.restoreDone s t c = some u) : MemoriesWf u := by
  unfold Machine.restoreDone at hf
  grind [MemoriesWf, slotReach, SlotRes.Wf, slotFail, devRead, requeueMat, slotState, setCtx, foldl, backOnCore]

theorem execContextRestoreComplete (h : MemoriesWf s) {t c u} (hf : Machine.execContextRestoreComplete t c s = .next u) :
    MemoriesWf u := by
  unfold Machine.execContextRestoreComplete at hf
  grind [fire, restoreDone]

theorem bpStop (h : MemoriesWf s) {tid g u} (hf : Machine.bpStop s tid g = some u) : MemoriesWf u := by
  unfold Machine.bpStop at hf
  grind [MemoriesWf, setTask]

theorem execBreakpointMatch (h : MemoriesWf s) {tid g u} (hf : Machine.execBreakpointMatch tid g s = .next u) : MemoriesWf u := by
  unfold Machine.execBreakpointMatch at hf
  grind [fire, bpStop]

theorem writeDump (h : MemoriesWf s) {t cause bits} : MemoriesWf (Machine.writeDump s t cause bits) := by
  unfold Machine.writeDump
  grind [ringPut, csrSet]

theorem dbgDone (h : MemoriesWf s) {t res} : MemoriesWf (Machine.dbgDone s t res) := h

theorem dumpOut (h : MemoriesWf s) {t} : MemoriesWf (Machine.dumpOut s t) := by
  unfold Machine.dumpOut
  grind [dbgDone]

theorem preciseStop (h : MemoriesWf s) {tid u} (hf : Machine.preciseStop s tid = some u) : MemoriesWf u := by
  unfold Machine.preciseStop at hf
  grind [MemoriesWf, dumpOut, setTask, writeDump]

theorem execPreciseStop (h : MemoriesWf s) {tid u} (hf : Machine.execPreciseStop tid s = .next u) : MemoriesWf u := by
  unfold Machine.execPreciseStop at hf
  grind [fire, preciseStop]

theorem dbgGone (h : MemoriesWf s) {t u} (hf : Machine.dbgGone s t = some u) : MemoriesWf u := by
  unfold Machine.dbgGone at hf
  grind [MemoriesWf, dbgDone]

theorem dbgStopCmd (h : MemoriesWf s) {t u} (hf : Machine.dbgStopCmd s t = some u) : MemoriesWf u := by
  unfold Machine.dbgStopCmd at hf
  grind [MemoriesWf, dbgGone, dbgDone, modTenant, setTask]

theorem execDbgStop (h : MemoriesWf s) {t u} (hf : Machine.execDbgStop t s = .next u) : MemoriesWf u := by
  unfold Machine.execDbgStop at hf
  grind [fire, dbgStopCmd]

theorem dbgResumeCmd (h : MemoriesWf s) {t u} (hf : Machine.dbgResumeCmd s t = some u) : MemoriesWf u := by
  unfold Machine.dbgResumeCmd at hf
  grind [dbgDone, setCtx, setTask]

theorem execDbgResume (h : MemoriesWf s) {t u} (hf : Machine.execDbgResume t s = .next u) : MemoriesWf u := by
  unfold Machine.execDbgResume at hf
  grind [fire, dbgResumeCmd]

theorem dbgStepCmd (h : MemoriesWf s) {t u} (hf : Machine.dbgStepCmd s t = some u) : MemoriesWf u := by
  unfold Machine.dbgStepCmd at hf
  grind [MemoriesWf, dbgGone, dbgDone, modTenant, setTask]

theorem execDbgStep (h : MemoriesWf s) {t u} (hf : Machine.execDbgStep t s = .next u) : MemoriesWf u := by
  unfold Machine.execDbgStep at hf
  grind [fire, dbgStepCmd]

theorem dbgEndCmd (h : MemoriesWf s) {t u} (hf : Machine.dbgEndCmd s t = some u) : MemoriesWf u := by
  unfold Machine.dbgEndCmd at hf
  grind [dbgDone, finishTask]

theorem execDbgEnd (h : MemoriesWf s) {t u} (hf : Machine.execDbgEnd t s = .next u) : MemoriesWf u := by
  unfold Machine.execDbgEnd at hf
  grind [fire, dbgEndCmd]

theorem dbgReadCmd (h : MemoriesWf s) {t u} (hf : Machine.dbgReadCmd s t = some u) : MemoriesWf u := by
  unfold Machine.dbgReadCmd at hf
  grind [MemoriesWf, dbgDone, csrSet]

theorem execDbgRead (h : MemoriesWf s) {t u} (hf : Machine.execDbgRead t s = .next u) : MemoriesWf u := by
  unfold Machine.execDbgRead at hf
  grind [fire, dbgReadCmd]

theorem dbgWriteCmd (h : MemoriesWf s) {t u} (hf : Machine.dbgWriteCmd s t = some u) : MemoriesWf u := by
  unfold Machine.dbgWriteCmd at hf
  grind [MemoriesWf, dbgDone, modGroup]

theorem execDbgWrite (h : MemoriesWf s) {t u} (hf : Machine.execDbgWrite t s = .next u) : MemoriesWf u := by
  unfold Machine.execDbgWrite at hf
  grind [fire, dbgWriteCmd]

theorem dbgBad (h : MemoriesWf s) {t u} (hf : Machine.dbgBad s t = some u) : MemoriesWf u := by
  unfold Machine.dbgBad at hf
  grind [dbgDone]

theorem execDbgBadarg (h : MemoriesWf s) {t u} (hf : Machine.execDbgBadarg t s = .next u) : MemoriesWf u := by
  unfold Machine.execDbgBadarg at hf
  grind [fire, dbgBad]

theorem doorbell (h : MemoriesWf s) {t n v} : MemoriesWf (Machine.doorbell s t n v) := by
  unfold Machine.doorbell
  grind [cfgErr, modTenant]

theorem execHqDoorbell (h : MemoriesWf s) {t n v u} (hf : Machine.execHqDoorbell t n v s = .next u) : MemoriesWf u := by
  unfold Machine.execHqDoorbell at hf
  grind [hostAct, doorbell]

theorem ringTake (h : MemoriesWf s) {t n u} (hf : Machine.ringTake s t n = some u) : MemoriesWf u := by
  unfold Machine.ringTake at hf
  grind [acceptRec, modTenant, cqPut]

theorem execHostRingTake (h : MemoriesWf s) {t n u} (hf : Machine.execHostRingTake t n s = .next u) : MemoriesWf u := by
  unfold Machine.execHostRingTake at hf
  grind [fire, ringTake]

theorem execCqheadWrite (h : MemoriesWf s) {t v u} (hf : Machine.execCqheadWrite t v s = .next u) : MemoriesWf u := by
  unfold Machine.execCqheadWrite at hf
  grind [hostAct, cqDrain, fregSet]

theorem queueConfig (h : MemoriesWf s) {t q v} : MemoriesWf (Machine.queueConfig s t q v) := by
  unfold Machine.queueConfig
  grind [cfgErr, fregSet]

theorem execDqcfgWrite (h : MemoriesWf s) {t q v u} (hf : Machine.execDqcfgWrite t q v s = .next u) : MemoriesWf u := by
  unfold Machine.execDqcfgWrite at hf
  grind [hostAct, queueConfig]

theorem armWatch (h : MemoriesWf s) {t w v} : MemoriesWf (Machine.armWatch s t w v) := by
  unfold Machine.armWatch
  grind [fregSet, fireWatch]

theorem execWatchArm (h : MemoriesWf s) {t w v u} (hf : Machine.execWatchArm t w v s = .next u) : MemoriesWf u := by
  unfold Machine.execWatchArm at hf
  grind [hostAct, armWatch]

theorem windowWrite (h : MemoriesWf s) {t c v} : MemoriesWf (Machine.windowWrite s t c v) := by
  unfold Machine.windowWrite
  grind [MemoriesWf, csrWrite, CsrOut.Wf, cfgErr]

theorem execCsrWindowWrite (h : MemoriesWf s) {t c v u} (hf : Machine.execCsrWindowWrite t c v s = .next u) : MemoriesWf u := by
  unfold Machine.execCsrWindowWrite at hf
  grind [hostAct, windowWrite]

theorem execPqsetWrite (h : MemoriesWf s) {from_ v u} (hf : Machine.execPqsetWrite from_ v s = .next u) : MemoriesWf u := by
  unfold Machine.execPqsetWrite at hf
  grind [hostAct, setQuantum, cfgErr]

theorem spillApply (h : MemoriesWf s) {t u} (hf : Machine.spillApply s t = some u) : MemoriesWf u := by
  unfold Machine.spillApply at hf
  grind [modTenant, foldl, csrSet]

theorem execSpillPoolApply (h : MemoriesWf s) {t u} (hf : Machine.execSpillPoolApply t s = .next u) : MemoriesWf u := by
  unfold Machine.execSpillPoolApply at hf
  grind [fire, spillApply]

theorem windowReach {t want ps} (h : MemoriesWf s) : (Machine.windowReach t want ps s).Wf := by
  induction ps generalizing s with
  | nil => exact h
  | cons p ps ih =>
    have hreach := fun {root} => reach 4 h (t := t) (root := root) (va := p.1) (want := want)
    unfold Machine.windowReach
    grind [Reach.Wf, WindowRes.Wf]

theorem windowFault (h : MemoriesWf s) {t cause va wr} : MemoriesWf (Machine.windowFault s t cause va wr) := by
  unfold Machine.windowFault
  grind [faultReport]

theorem hostBytes (h : MemoriesWf s) {t va bs} : MemoriesWf (Machine.hostBytes s t va bs).1 := by
  unfold Machine.hostBytes
  grind [foldl_pair, MemoriesWf, takeFree]

theorem openBytes (n : Nat) (h : MemoriesWf s) : MemoriesWf (Machine.openBytes n s).1 := by
  induction n generalizing s with
  | zero => exact h
  | succ n ih => exact ih (s := (Machine.takeFree s).1) h

theorem window (h : MemoriesWf s) {t off wr data} : MemoriesWf (Machine.window s t off wr data) := by
  unfold Machine.window
  grind [windowReach, MemoriesWf, postWrite, WindowRes.Wf, windowFault, devWrite, devRead, hostBytes]

theorem execBar2Access (h : MemoriesWf s) {t off how data u} (hf : Machine.execBar2Access t off how data s = .next u) : MemoriesWf u := by
  unfold Machine.execBar2Access at hf
  grind [MemoriesWf, openBytes, wakeAll, window, hostAct]

theorem commMap (h : MemoriesWf s) {t hd} : MemoriesWf (Machine.commMap s t hd).1 := by
  unfold Machine.commMap
  grind [MemoriesWf, windowReach, WindowRes.Wf, faultReport, devRead]

theorem commPut (h : MemoriesWf s) {t hd i v} : MemoriesWf (Machine.commPut s t hd i v) := by
  unfold Machine.commPut
  grind [fregSet, modTenant, commMap, cfgErr]

theorem execCommWrite (h : MemoriesWf s) {t hd i v u} (hf : Machine.execCommWrite t hd i v s = .next u) : MemoriesWf u := by
  unfold Machine.execCommWrite at hf
  grind [hostAct, commPut]

theorem freshKey (h : MemoriesWf s) {k} : MemoriesWf (Machine.freshKey s k) := h

theorem keyPut (h : MemoriesWf s) {k v} : MemoriesWf (Machine.keyPut s k v) := by
  unfold Machine.keyPut
  grind [fregSet, freshKey]

theorem execKeyownWrite (h : MemoriesWf s) {k v u} (hf : Machine.execKeyownWrite k v s = .next u) : MemoriesWf u := by
  unfold Machine.execKeyownWrite at hf
  grind [hostAct, keyPut]

theorem dropSaves (h : MemoriesWf s) {t} : MemoriesWf (Machine.dropSaves s t) := by
  unfold Machine.dropSaves
  grind [foldl, setCtx, slotState]

theorem resetStart (h : MemoriesWf s) {t flr} : MemoriesWf (Machine.resetStart s t flr) := by
  unfold Machine.resetStart
  grind [dropSaves, modTenant, dropNeeds, settleDeps, markEntries, wakeAll, MemoriesWf]

theorem execTenantReset (h : MemoriesWf s) {t u} (hf : Machine.execTenantReset t s = .next u) : MemoriesWf u := by
  unfold Machine.execTenantReset at hf
  grind [hostAct, resetStart]

theorem flrOf (h : MemoriesWf s) {t} : MemoriesWf (Machine.flrOf s t) := by
  unfold Machine.flrOf
  grind [resetStart, foldl, modTenant]

theorem execFlr (h : MemoriesWf s) {t u} (hf : Machine.execFlr t s = .next u) : MemoriesWf u := by
  unfold Machine.execFlr at hf
  grind [flrOf]

theorem renewKeys (h : MemoriesWf s) {t} : MemoriesWf (Machine.renewKeys s t) := by
  unfold Machine.renewKeys
  grind [foldl, freshKey]

theorem resetDone (h : MemoriesWf s) {t u} (hf : Machine.resetDone s t = some u) : MemoriesWf u := by
  unfold Machine.resetDone at hf
  grind [MemoriesWf, renewKeys, shootAll, setTenant, raiseMsi]

theorem execTenantResetComplete (h : MemoriesWf s) {t u} (hf : Machine.execTenantResetComplete t s = .next u) : MemoriesWf u := by
  unfold Machine.execTenantResetComplete at hf
  grind [fire, resetDone]

theorem vfEnable (h : MemoriesWf s) {n} : MemoriesWf (Machine.vfEnable s n) := by
  unfold Machine.vfEnable
  grind [foldl, modTenant, setTenant, resetStart]

theorem execSriovVfEnable (h : MemoriesWf s) {n u} (hf : Machine.execSriovVfEnable n s = .next u) : MemoriesWf u := by
  unfold Machine.execSriovVfEnable at hf
  grind [wakeAll, vfEnable]

theorem bar0Put (h : MemoriesWf s) {t o v} : MemoriesWf (Machine.bar0Put s t o v) := by
  unfold Machine.bar0Put
  refine ite h (ite (ite h.resetStart h) (ite h.fregSet (ite h.armWatch (ite (cqDrain 70000 h.fregSet) (ite h.answerGroup (ite h.doorbell
    (ite h.queueConfig (ite h.commPut (ite h.windowWrite (ite (ite h.keyPut h) (ite h h.fregSet)))))))))))

theorem hostWrite (h : MemoriesWf s) {t y2} : MemoriesWf (Machine.hostWrite s t y2) := by
  unfold Machine.hostWrite
  grind [bar0Put, window]

end MemoriesWf

end Sys2Proof.Machine
end

section
/-! SUPPORT. Canonical memories under the management complex and sampling. -/

namespace Sys2Proof.Machine

open Host

/-! ### Management and sampling -/

namespace MemoriesWf

variable {s : State}

theorem execPoll (h : MemoriesWf s) {hd d p u} (hf : Machine.execPoll hd d p s = .next u) : MemoriesWf u := by
  unfold Machine.execPoll at hf
  grind [MemoriesWf, run, put, Res.Wf, putScal, putPred]

theorem execFold (h : MemoriesWf s) {hd d a op sc u} (hf : Machine.execFold hd d a op sc s = .next u) : MemoriesWf u := by
  unfold Machine.execFold at hf
  grind [run, Res.Wf, putScal, put]

theorem modMgmt (h : MemoriesWf s) {f} : MemoriesWf (Machine.modMgmt s f) := h
theorem mregSet (h : MemoriesWf s) {o w} : MemoriesWf (Machine.mregSet s o w) := h
theorem mboxSet (h : MemoriesWf s) {o w} : MemoriesWf (Machine.mboxSet s o w) := h
theorem mregField (h : MemoriesWf s) {o lo n v} : MemoriesWf (Machine.mregField s o lo n v) := h
theorem setStage (h : MemoriesWf s) {v} : MemoriesWf (Machine.setStage s v) := h
theorem setIsland (h : MemoriesWf s) {i st} : MemoriesWf (Machine.setIsland s i st) := h
theorem islandDone (h : MemoriesWf s) {i} : MemoriesWf (Machine.islandDone s i) := h.mregField
theorem setLevel (h : MemoriesWf s) {i l} : MemoriesWf (Machine.setLevel s i l) := h

theorem raiseSvn (h : MemoriesWf s) : MemoriesWf (Machine.raiseSvn s) := by
  unfold Machine.raiseSvn
  grind [MemoriesWf, modMgmt]

theorem powerLost (h : MemoriesWf s) : MemoriesWf (Machine.powerLost s) := by
  unfold Machine.powerLost
  grind [reset, MemoriesWf]

theorem execStandby (h : MemoriesWf s) {u} (hf : Machine.execStandby s = .next u) : MemoriesWf u := by
  unfold Machine.execStandby at hf
  grind [modMgmt, powerLost]

theorem coldReset (h : MemoriesWf s) : MemoriesWf (Machine.coldReset s) := by
  unfold Machine.coldReset
  grind [powerLost, MemoriesWf, setStage, modMgmt, foldl, freshKey]

theorem execColdReset (h : MemoriesWf s) {u} (hf : Machine.execColdReset s = .next u) : MemoriesWf u := by
  unfold Machine.execColdReset at hf
  grind [coldReset]

theorem bootAdvance (h : MemoriesWf s) : MemoriesWf (Machine.bootAdvance s) := by
  unfold Machine.bootAdvance
  grind [modMgmt, raiseSvn, setStage]

theorem rampStart (h : MemoriesWf s) {u} (hf : Machine.rampStart s = some u) : MemoriesWf u := by
  unfold Machine.rampStart at hf
  grind [MemoriesWf, modMgmt, setIsland]

theorem execIslandRampStart (h : MemoriesWf s) {u} (hf : Machine.execIslandRampStart s = .next u) : MemoriesWf u := by
  unfold Machine.execIslandRampStart at hf
  grind [fire, rampStart]

theorem islandOn (h : MemoriesWf s) {i} : MemoriesWf (Machine.islandOn s i) := by
  unfold Machine.islandOn
  grind [setIsland, modMgmt, bootAdvance, islandDone, setLevel]

theorem engineEnable (h : MemoriesWf s) {i u} (hf : Machine.engineEnable s i = some u) : MemoriesWf u := by
  unfold Machine.engineEnable at hf
  grind [MemoriesWf, islandOn, modMgmt]

theorem execMatrixEngineEnable (h : MemoriesWf s) {island u} (hf : Machine.execMatrixEngineEnable island s = .next u) : MemoriesWf u := by
  unfold Machine.execMatrixEngineEnable at hf
  grind [fire, engineEnable]

theorem islandFails (h : MemoriesWf s) {i} : MemoriesWf (Machine.islandFails s i) := by
  unfold Machine.islandFails
  grind [bootAdvance, islandDone, setIsland, modMgmt]

theorem islandRefuse (h : MemoriesWf s) {i} : MemoriesWf (Machine.islandRefuse s i) := h.islandDone.modMgmt

theorem saveIsland (h : MemoriesWf s) {i} : MemoriesWf (Machine.saveIsland s i) := by
  unfold Machine.saveIsland
  grind [foldl, startSave]

theorem islandOff (h : MemoriesWf s) {i u} (hf : Machine.islandOff s i = some u) : MemoriesWf u := by
  unfold Machine.islandOff at hf
  grind [MemoriesWf, islandRefuse, saveIsland, setIsland, modMgmt, islandDone]

theorem execIslandSetOff (h : MemoriesWf s) {island u} (hf : Machine.execIslandSetOff island s = .next u) : MemoriesWf u := by
  unfold Machine.execIslandSetOff at hf
  grind [fire, islandOff]

theorem islandLevel (h : MemoriesWf s) {i l u} (hf : Machine.islandLevel s i l = some u) : MemoriesWf u := by
  unfold Machine.islandLevel at hf
  grind [MemoriesWf, islandDone, setLevel, modMgmt]

theorem execIslandSetLow (h : MemoriesWf s) {island u} (hf : Machine.execIslandSetLow island s = .next u) : MemoriesWf u := by
  unfold Machine.execIslandSetLow at hf
  grind [fire, islandLevel]

theorem execIslandSetFull (h : MemoriesWf s) {island u} (hf : Machine.execIslandSetFull island s = .next u) : MemoriesWf u := by
  unfold Machine.execIslandSetFull at hf
  grind [fire, islandLevel]

theorem coreOff (h : MemoriesWf s) {c} : MemoriesWf (Machine.coreOff s c) := h

theorem drained (h : MemoriesWf s) {i u} (hf : Machine.drained s i = some u) : MemoriesWf u := by
  unfold Machine.drained at hf
  grind [saveIsland, islandDone, setIsland, foldl, coreOff]

theorem execIslandDrainComplete (h : MemoriesWf s) {island u} (hf : Machine.execIslandDrainComplete island s = .next u) :
    MemoriesWf u := by
  unfold Machine.execIslandDrainComplete at hf
  grind [fire, drained]

theorem measure (h : MemoriesWf s) {w} : MemoriesWf (Machine.measure s w) := by
  unfold Machine.measure
  grind [MemoriesWf, modMgmt, setLevel, islandDone]

theorem execPowerMeasure (h : MemoriesWf s) {watts u} (hf : Machine.execPowerMeasure watts s = .next u) : MemoriesWf u := by
  unfold Machine.execPowerMeasure at hf
  grind [measure]

theorem mapStart (h : MemoriesWf s) {u} (hf : Machine.mapStart s = some u) : MemoriesWf u := by
  unfold Machine.mapStart at hf
  grind [mregField]

theorem execMapLoad (h : MemoriesWf s) {u} (hf : Machine.execMapLoad s = .next u) : MemoriesWf u := by
  unfold Machine.execMapLoad at hf
  grind [fire, mapStart]

theorem mapIn (h : MemoriesWf s) {r kind rows} : MemoriesWf (Machine.mapIn s r kind rows) :=
  have hrows := (h.foldl (f := fun s p => Machine.mregSet s (0x100 + 128 * r + 4 * p.2) (BitVec.ofNat 32 p.1)) (fun _ _ hv => hv.mregSet)
    rows.zipIdx).mregSet (o := 0x900 + 4 * r) (w := BitVec.ofNat 32 kind)
  ⟨filter_wf _ _ hrows.1, hrows.2⟩

theorem mapDone (h : MemoriesWf s) {u} (hf : Machine.mapDone s = some u) : MemoriesWf u := by
  unfold Machine.mapDone at hf
  grind [mregSet, mregField, mapIn]

theorem execMapCheckComplete (h : MemoriesWf s) {u} (hf : Machine.execMapCheckComplete s = .next u) : MemoriesWf u := by
  unfold Machine.execMapCheckComplete at hf
  grind [fire, mapDone]

theorem trainStart (h : MemoriesWf s) {k} : MemoriesWf (Machine.trainStart s k) := h

theorem rateGo (h : MemoriesWf s) {k u} (hf : Machine.rateGo s k = some u) : MemoriesWf u := by
  unfold Machine.rateGo at hf
  grind [mregField, trainStart]

theorem execRateChange (h : MemoriesWf s) {stack u} (hf : Machine.execRateChange stack s = .next u) : MemoriesWf u := by
  unfold Machine.execRateChange at hf
  grind [fire, rateGo]

theorem rateLater (h : MemoriesWf s) {k u} (hf : Machine.rateLater s k = some u) : MemoriesWf u := by
  unfold Machine.rateLater at hf
  grind [trainStart]

theorem execRateChangeDeferredStart (h : MemoriesWf s) {stack u} (hf : Machine.execRateChangeDeferredStart stack s = .next u) :
    MemoriesWf u := by
  unfold Machine.execRateChangeDeferredStart at hf
  grind [fire, rateLater]

theorem trainDone (h : MemoriesWf s) {k ok u} (hf : Machine.trainDone s k ok = some u) : MemoriesWf u := by
  unfold Machine.trainDone at hf
  grind [MemoriesWf, modMgmt, bootAdvance, setStage, mregField]

theorem execRetrainComplete (h : MemoriesWf s) {stack ok u} (hf : Machine.execRetrainComplete stack ok s = .next u) : MemoriesWf u := by
  unfold Machine.execRetrainComplete at hf
  grind [fire, trainDone]

theorem islandPut (h : MemoriesWf s) {i v} : MemoriesWf (Machine.islandPut s i v) := by
  unfold Machine.islandPut
  grind [mregField, islandRefuse, modMgmt]

theorem ratePut (h : MemoriesWf s) {k v} : MemoriesWf (Machine.ratePut s k v) := by
  unfold Machine.ratePut
  grind [mregField]

theorem pwrseqPut (h : MemoriesWf s) {v} : MemoriesWf (Machine.pwrseqPut s v) := by
  unfold Machine.pwrseqPut
  grind [mregField]

theorem mregPut (h : MemoriesWf s) {o w} : MemoriesWf (Machine.mregPut s o w) := by
  unfold Machine.mregPut
  grind [mregSet, ratePut, pwrseqPut, islandPut]

theorem mailGo (h : MemoriesWf s) : MemoriesWf (Machine.mailGo s) := (h.foldl (fun _ _ hv => hv.mboxSet) _).mboxSet.mboxSet.mboxSet

theorem mailPut (h : MemoriesWf s) {o w} : MemoriesWf (Machine.mailPut s o w) := by
  unfold Machine.mailPut
  grind [mailGo, mboxSet]

theorem mailDone (h : MemoriesWf s) {res} : MemoriesWf (Machine.mailDone s res) := h.mboxSet.mboxSet

theorem mbRead (h : MemoriesWf s) {u} (hf : Machine.mbRead s = some u) : MemoriesWf u := by
  unfold Machine.mbRead at hf
  grind [mailDone, mboxSet]

theorem execMbRdreg (h : MemoriesWf s) {u} (hf : Machine.execMbRdreg s = .next u) : MemoriesWf u := by
  unfold Machine.execMbRdreg at hf
  grind [fire, mbRead]

theorem mbWrite (h : MemoriesWf s) {u} (hf : Machine.mbWrite s = some u) : MemoriesWf u := by
  unfold Machine.mbWrite at hf
  grind [mailDone, mregPut]

theorem execMbWrreg (h : MemoriesWf s) {u} (hf : Machine.execMbWrreg s = .next u) : MemoriesWf u := by
  unfold Machine.execMbWrreg at hf
  grind [fire, mbWrite]

theorem mbRoot (h : MemoriesWf s) {u} (hf : Machine.mbRoot s = some u) : MemoriesWf u := by
  unfold Machine.mbRoot at hf
  grind [mailDone, csrStore]

theorem execMbSetroot (h : MemoriesWf s) {u} (hf : Machine.execMbSetroot s = .next u) : MemoriesWf u := by
  unfold Machine.execMbSetroot at hf
  grind [fire, mbRoot]

theorem hostPut (h : MemoriesWf s) {a bs} : MemoriesWf (Machine.hostPut s a bs) := by
  unfold Machine.hostPut
  grind [foldl, writeHost]

theorem mbIdent (h : MemoriesWf s) {u} (hf : Machine.mbIdent s = some u) : MemoriesWf u := by
  unfold Machine.mbIdent at hf
  grind [mailDone, hostPut]

theorem execMbIdent (h : MemoriesWf s) {u} (hf : Machine.execMbIdent s = .next u) : MemoriesWf u := by
  unfold Machine.execMbIdent at hf
  grind [fire, mbIdent]

theorem mbAttest (h : MemoriesWf s) {u} (hf : Machine.mbAttest s = some u) : MemoriesWf u := by
  unfold Machine.mbAttest at hf
  grind [mailDone, hostPut]

theorem execMbAttest (h : MemoriesWf s) {u} (hf : Machine.execMbAttest s = .next u) : MemoriesWf u := by
  unfold Machine.execMbAttest at hf
  grind [fire, mbAttest]

theorem mbStage (h : MemoriesWf s) {u} (hf : Machine.mbStage s = some u) : MemoriesWf u := by
  unfold Machine.mbStage at hf
  grind [mailDone, modMgmt]

theorem execMbStageimg (h : MemoriesWf s) {u} (hf : Machine.execMbStageimg s = .next u) : MemoriesWf u := by
  unfold Machine.execMbStageimg at hf
  grind [fire, mbStage]

theorem mbBad (h : MemoriesWf s) {u} (hf : Machine.mbBad s = some u) : MemoriesWf u := by
  unfold Machine.mbBad at hf
  grind [mailDone]

theorem execMbBadop (h : MemoriesWf s) {u} (hf : Machine.execMbBadop s = .next u) : MemoriesWf u := by
  unfold Machine.execMbBadop at hf
  grind [fire, mbBad]

theorem execRegisterWrite (h : MemoriesWf s) {sp off v u} (hf : Machine.execRegisterWrite sp off v s = .next u) : MemoriesWf u := by
  unfold Machine.execRegisterWrite at hf
  grind [MemoriesWf, hostAct, bar0Put, wakeAll, mregPut, mailPut]

theorem hostLoad (h : MemoriesWf s) {sp o n} : MemoriesWf (Machine.hostLoad s sp o n) := by
  unfold Machine.hostLoad
  grind [MemoriesWf]

theorem nextSample (h : MemoriesWf s) {t} : MemoriesWf (Machine.nextSample s t).1 := h
theorem setSampler (h : MemoriesWf s) {t key y} : MemoriesWf (Machine.setSampler s t key y) := h

theorem takeSample (h : MemoriesWf s) {t key y} : MemoriesWf (Machine.takeSample s t key y) := by
  unfold Machine.takeSample
  grind [MemoriesWf, setSampler, putSample]

theorem samplerAct (h : MemoriesWf s) {t key u} (hf : Machine.samplerAct s t key = some u) : MemoriesWf u := by
  unfold Machine.samplerAct at hf
  grind [MemoriesWf, nextSample, setSampler, modTenant, takeSample]

theorem samplePoint (h : MemoriesWf s) {c k u} (hf : Machine.samplePoint s c k = some u) : MemoriesWf u := by
  obtain ⟨p, -, hp⟩ := List.exists_of_findSome?_eq_some hf
  exact h.samplerAct hp

theorem execSamplePoint (h : MemoriesWf s) {core sched u} (hf : Machine.execSamplePoint core sched s = .next u) : MemoriesWf u := by
  unfold Machine.execSamplePoint at hf
  grind [fire, samplePoint]

theorem beforeIssue (h : MemoriesWf s) {tid g} : MemoriesWf (Machine.beforeIssue s tid g) := by
  unfold Machine.beforeIssue
  grind [foldl, MemoriesWf, putSample, setTag]

theorem afterIssue {s1} (h : MemoriesWf s1) {tid g bs i} : MemoriesWf (Machine.afterIssue s s1 tid g bs i) := by
  unfold Machine.afterIssue
  grind [MemoriesWf, foldl, setTag, putSample]

theorem followEnd (h : MemoriesWf s) {t key u} (hf : Machine.followEnd s t key = some u) : MemoriesWf u := by
  unfold Machine.followEnd at hf
  grind [MemoriesWf, putSample, setTag]

theorem sampleRecord (h : MemoriesWf s) {c k u} (hf : Machine.sampleRecord s c k = some u) : MemoriesWf u := by
  obtain ⟨p, -, hp⟩ := List.exists_of_findSome?_eq_some hf
  exact h.followEnd hp

theorem execSampleRecord (h : MemoriesWf s) {core sched u} (hf : Machine.execSampleRecord core sched s = .next u) : MemoriesWf u := by
  unfold Machine.execSampleRecord at hf
  grind [fire, sampleRecord]

end MemoriesWf

end Sys2Proof.Machine
end

section
/-! PROOFS. Canonical memories under every instruction and every step (R86, R90), and the statement about them. -/

namespace Sys2Proof.Machine

open Host

/-! ### Instructions and steps -/

namespace MemoriesWf

variable {s : State}

theorem exec (h : MemoriesWf s) {i u} (hf : Machine.exec i s = .next u) : MemoriesWf u := by
  cases i with
  | bra => exact h.execBra hf
  | brx => exact h.execBrx hf
  | call => exact h.execCall hf
  | callx => exact h.execCallx hf
  | ret => exact h.execRet hf
  | exit => exact h.execExit hf
  | yield => exact h.execYield hf
  | setprio => exact h.execSetprio hf
  | loopc => exact h.execLoopc hf
  | brk => exact h.run hf (fun _ => h)
  | iadd => exact h.run hf (fun _ => h)
  | isub => exact h.run hf (fun _ => h)
  | imul => exact h.run hf (fun _ => h)
  | imulhi => exact h.run hf (fun _ => h)
  | imad => exact h.run hf (fun _ => h)
  | iaddc => exact h.run hf (fun _ => h)
  | imin => exact h.run hf (fun _ => h)
  | imax => exact h.run hf (fun _ => h)
  | iabs => exact h.run hf (fun _ => h)
  | lea => exact h.run hf (fun _ => h)
  | idot4 => exact h.run hf (fun _ => h)
  | idot8 => exact h.run hf (fun _ => h)
  | iclamp => exact h.run hf (fun _ => h)
  | and => exact h.run hf (fun _ => h)
  | or => exact h.run hf (fun _ => h)
  | xor => exact h.run hf (fun _ => h)
  | bool3 => exact h.run hf (fun _ => h)
  | shl => exact h.run hf (fun _ => h)
  | shr => exact h.run hf (fun _ => h)
  | sar => exact h.run hf (fun _ => h)
  | rot => exact h.run hf (fun _ => h)
  | bfe => exact h.run hf (fun _ => h)
  | bfi => exact h.run hf (fun _ => h)
  | popc => exact h.run hf (fun _ => h)
  | clz => exact h.run hf (fun _ => h)
  | brev => exact h.run hf (fun _ => h)
  | bsel => exact h.run hf (fun _ => h)
  | fadd => exact h.run hf (fun _ => h)
  | fsub => exact h.run hf (fun _ => h)
  | fmul => exact h.run hf (fun _ => h)
  | ffma => exact h.run hf (fun _ => h)
  | fmin => exact h.run hf (fun _ => h)
  | fmax => exact h.run hf (fun _ => h)
  | fclamp => exact h.run hf (fun _ => h)
  | fround => exact h.run hf (fun _ => h)
  | fdot2 => exact h.run hf (fun _ => h)
  | hadd2 => exact h.run hf (fun _ => h)
  | hmul2 => exact h.run hf (fun _ => h)
  | hfma2 => exact h.run hf (fun _ => h)
  | hmin2 => exact h.run hf (fun _ => h)
  | hmax2 => exact h.run hf (fun _ => h)
  | cvt => exact h.run hf (fun _ => h)
  | cvtq => exact h.run hf (fun _ => h)
  | cvtd => exact h.run hf (fun _ => h)
  | pack => exact h.run hf (fun _ => h)
  | unpack => exact h.run hf (fun _ => h)
  | rcp => exact h.run hf (fun _ => h)
  | rsq => exact h.run hf (fun _ => h)
  | sqrt => exact h.run hf (fun _ => h)
  | ex2 => exact h.run hf (fun _ => h)
  | lg2 => exact h.run hf (fun _ => h)
  | sin => exact h.run hf (fun _ => h)
  | cos => exact h.run hf (fun _ => h)
  | sincos => exact h.run hf (fun _ => h)
  | tanh => exact h.run hf (fun _ => h)
  | lanex => exact h.run hf (fun _ => h)
  | poll => exact h.execPoll hf
  | kin => exact h.run hf (fun _ => h)
  | fold => exact h.execFold hf
  | scan => exact h.run hf (fun _ => h)
  | icmp => exact h.run hf (fun _ => h)
  | fcmp => exact h.run hf (fun _ => h)
  | plop => exact h.run hf (fun _ => h)
  | sel => exact h.run hf (fun _ => h)
  | mov => exact h.run hf (fun _ => h)
  | movi => exact h.run hf (fun _ => h)
  | movs => exact h.execMovs hf
  | pmovP2r => exact h.run hf (fun _ => h)
  | pmovR2p => exact h.execPmovR2p hf
  | fclass => exact h.run hf (fun _ => h)
  | ld => exact h.execLd hf
  | st => exact h.execSt hf
  | ldx => exact h.execLdx hf
  | stx => exact h.execStx hf
  | lds => exact h.execLds hf
  | sts => exact h.execSts hf
  | ldc => exact h.execLdc hf
  | prefetch => exact h.execPrefetch hf
  | atom => exact h.execAtom hf
  | atomcas => exact h.execAtomcas hf
  | red => exact h.execRed hf
  | reddet => exact h.execReddet hf
  | atoms => exact h.execAtoms hf
  | atomscas => exact h.execAtomscas hf
  | reds => exact h.execReds hf
  | redmark => exact h.run hf (fun _ => h)
  | fence => exact h.execFence hf
  | wait => exact h.execWait hf
  | binit => exact h.execBinit hf
  | barrive => exact h.execBarrive hf
  | barwait => exact h.execBarwait hf
  | barsync => exact h.execBarsync hf
  | qinit => exact h.execQinit hf
  | qpush => exact h.execQpush hf
  | qpop => exact h.execQpop hf
  | qtry => exact h.execQtry hf
  | chainw => exact h.execChainw hf
  | chainp => exact h.execChainp hf
  | tokacq => exact h.execTokacq hf
  | tokpass => exact h.execTokpass hf
  | cpl => exact h.execCpl hf
  | cpt => exact h.execCpt hf
  | cpr => exact h.execCpr hf
  | chkwait => exact h.execChkwait hf
  | chktest => exact h.execChktest hf
  | tdesc => exact h.execTdesc hf
  | tfree => exact h.execTfree hf
  | trec => exact h.execTrec hf
  | cpcancel => exact h.execCpcancel hf
  | mma => exact h.execMma hf
  | mmv => exact h.execMmv hf
  | mprog => exact h.run hf (fun _ => h)
  | accld => exact h.execAccld hf
  | accst => exact h.execAccst hf
  | acczero => exact h.execAcczero hf
  | mabort => exact h.execMabort hf
  | gset => exact h.execGset hf
  | gseed => exact h.execGseed hf
  | geval => exact h.execGeval hf
  | coll => exact h.execColl hf
  | collwait => exact h.execCollwait hf
  | enq => exact h.execEnq hf
  | spawn => exact h.execSpawn hf
  | fork => exact h.execFork hf
  | cancel => exact h.execCancel hf
  | cntrd => exact h.execCntrd hf
  | cntwait => exact h.execCntwait hf
  | arena => exact h.execArena hf
  | tropen => exact h.execTropen hf
  | trclose => exact h.execTrclose hf
  | prop => exact h.execProp hf
  | trfork => exact h.execTrfork hf
  | trstat => exact h.run hf (fun _ => h)
  | trmark => exact h.execTrmark hf
  | nnq => exact h.execNnq hf
  | nnwait => exact h.execNnwait hf
  | nncancel => exact h.execNncancel hf
  | nngraph => exact h.execNngraph hf
  | nngraphBump => exact h.execNngraphBump hf
  | nngraphDrop => exact h.execNngraphDrop hf
  | trap => exact h.run hf (fun _ => h)
  | rti => exact h.execRti hf
  | csrrd => exact h.execCsrrd hf
  | csrwr => exact h.execCsrwr hf
  | tlbinvPage => exact h.execTlbinvPage hf
  | tlbinvAll => exact h.execTlbinvAll hf
  | stop => exact h.execStop hf
  | smark => exact h.execSmark hf
  | regroupMerge => exact h.execRegroupMerge hf
  | dispatchDecision => exact h.execDispatchDecision hf
  | queueAging => exact h.execQueueAging hf
  | taskEnd => exact h.execTaskEnd hf
  | budgetCharge => exact h.execBudgetCharge hf
  | hangDetect => exact h.execHangDetect hf
  | oplogReplay => exact h.execOplogReplay hf
  | cancelReclaim => exact h.execCancelReclaim hf
  | forkComplete => exact h.execForkComplete hf
  | chunkLands => exact h.execChunkLands hf
  | cprChunkApply => exact h.execCprChunkApply hf
  | copyComplete => exact h.execCopyComplete hf
  | kblockComplete => exact h.execKblockComplete hf
  | matrixFetchFault => exact h.execMatrixFetchFault hf
  | matrixComplete => exact h.execMatrixComplete hf
  | accOpComplete => exact h.execAccOpComplete hf
  | rotaryTableBuilt => exact h.execRotaryTableBuilt hf
  | collectiveComplete => exact h.execCollectiveComplete hf
  | collTimeout => exact h.execCollTimeout hf
  | queryStart => exact h.execQueryStart hf
  | expansionRequest => exact h.execExpansionRequest hf
  | expansionReply => exact h.execExpansionReply hf
  | roundMerge => exact h.execRoundMerge hf
  | queryComplete => exact h.execQueryComplete hf
  | queryCancelArrival => exact h.execQueryCancelArrival hf
  | writeApplyAtPort => exact h.execWriteApplyAtPort hf
  | farlineUpdate => exact h.execFarlineUpdate hf
  | l1WritebackTimeout => exact h.execL1WritebackTimeout hf
  | l1InvalidateTimeout => exact h.execL1InvalidateTimeout hf
  | reddetAccept => exact h.execReddetAccept hf
  | blockRetire => exact h.execBlockRetire hf
  | horizonApply => exact h.execHorizonApply hf
  | traceRecord => exact h.execTraceRecord hf
  | windowForm => exact h.execWindowForm hf
  | taskCommit => exact h.execTaskCommit hf
  | sharingBreak => exact h.execSharingBreak hf
  | arenaPageBack => exact h.execArenaPageBack hf
  | migratedPageRestore => exact h.execMigratedPageRestore hf
  | framePoolRefill => exact h.execFramePoolRefill hf
  | migrationPoll => exact h.execMigrationPoll hf
  | migOut => exact h.execMigOut hf
  | migIn => exact h.execMigIn hf
  | migMove => exact h.execMigMove hf
  | migDirect => exact h.execMigDirect hf
  | migBadop => exact h.execMigBadop hf
  | quantumExpiry => exact h.execQuantumExpiry hf
  | contextSaveComplete => exact h.execContextSaveComplete hf
  | shadowSwitch => exact h.execShadowSwitch hf
  | contextRestoreComplete => exact h.execContextRestoreComplete hf
  | breakpointMatch => exact h.execBreakpointMatch hf
  | preciseStop => exact h.execPreciseStop hf
  | samplePoint => exact h.execSamplePoint hf
  | sampleRecord => exact h.execSampleRecord hf
  | dbgStop => exact h.execDbgStop hf
  | dbgResume => exact h.execDbgResume hf
  | dbgStep => exact h.execDbgStep hf
  | dbgEnd => exact h.execDbgEnd hf
  | dbgRead => exact h.execDbgRead hf
  | dbgWrite => exact h.execDbgWrite hf
  | dbgBadarg => exact h.execDbgBadarg hf
  | spillPoolApply => exact h.execSpillPoolApply hf
  | hostRingTake => exact h.execHostRingTake hf
  | priGroupSend => exact h.execPriGroupSend hf
  | tenantResetComplete => exact h.execTenantResetComplete hf
  | matrixEngineEnable => exact h.execMatrixEngineEnable hf
  | islandSetOff => exact h.execIslandSetOff hf
  | islandSetLow => exact h.execIslandSetLow hf
  | islandSetFull => exact h.execIslandSetFull hf
  | islandDrainComplete => exact h.execIslandDrainComplete hf
  | rateChange => exact h.execRateChange hf
  | rateChangeDeferredStart => exact h.execRateChangeDeferredStart hf
  | retrainComplete => exact h.execRetrainComplete hf
  | loadDataReturn => exact h.execLoadDataReturn hf
  | constCacheDrop => exact h.execConstCacheDrop hf
  | keyownWrite => exact h.execKeyownWrite hf
  | registerWrite => exact h.execRegisterWrite hf
  | sriovVfEnable => exact h.execSriovVfEnable hf
  | pqsetWrite => exact h.execPqsetWrite hf
  | hqDoorbell => exact h.execHqDoorbell hf
  | cqheadWrite => exact h.execCqheadWrite hf
  | dqcfgWrite => exact h.execDqcfgWrite hf
  | watchArm => exact h.execWatchArm hf
  | csrWindowWrite => exact h.execCsrWindowWrite hf
  | bar2Access => exact h.execBar2Access hf
  | commWrite => exact h.execCommWrite hf
  | frrespWrite => exact h.execFrrespWrite hf
  | priResponse => exact h.execPriResponse hf
  | tenantReset => exact h.execTenantReset hf
  | flr => exact h.execFlr hf
  | powerMeasure => exact h.execPowerMeasure hf
  | patrolScrub => exact h.execPatrolScrub hf
  | selfRefreshEntry => cases hf; exact h
  | priReenable => exact h.execPriReenable hf
  | nop => exact h.run hf (fun _ => h)
  | nop96 => exact h.run hf (fun _ => h)
  | nop128 => exact h.run hf (fun _ => h)
  | fillWord => exact h.run hf (fun _ => h)
  | coldReset => exact h.execColdReset hf
  | standby => exact h.execStandby hf
  | islandRampStart => exact h.execIslandRampStart hf
  | mapLoad => exact h.execMapLoad hf
  | mapCheckComplete => exact h.execMapCheckComplete hf
  | modificationRecord => exact h.execModificationRecord hf
  | illegalInstr => exact h.execIllegalInstr hf
  | mbRdreg => exact h.execMbRdreg hf
  | mbWrreg => exact h.execMbWrreg hf
  | mbSetroot => exact h.execMbSetroot hf
  | mbIdent => exact h.execMbIdent hf
  | mbAttest => exact h.execMbAttest hf
  | mbStageimg => exact h.execMbStageimg hf
  | mbBadop => exact h.execMbBadop hf

theorem sweepAll (h : MemoriesWf s) : MemoriesWf (Machine.sweepAll s) := by
  unfold Machine.sweepAll
  grind [foldl, sweepWpw]

theorem genTick (h : MemoriesWf s) : MemoriesWf (Machine.genTick s) := by
  unfold Machine.genTick
  grind [MemoriesWf]

theorem drainPosted {t} (n : Nat) (h : MemoriesWf s) : MemoriesWf (Machine.drainPosted n s t) := by
  induction n generalizing s with
  | zero => exact h
  | succ n ih =>
    unfold Machine.drainPosted
    split
    · exact h
    · dsimp only
      split
      · exact ih h.modTenant.hostWrite.wakeAll.modTenant
      · exact h

theorem drainHost (h : MemoriesWf s) : MemoriesWf (Machine.drainHost s) := by
  unfold Machine.drainHost
  grind [foldl, drainPosted]

theorem spillHeld (h : MemoriesWf s) : MemoriesWf (Machine.spillHeld s) :=
  h.foldl (fun _ _ hv => hv.getD (fun _ hx => hv.spillApply hx)) _

theorem tick (h : MemoriesWf s) : MemoriesWf (Machine.tick s) :=
  have hstart : MemoriesWf { s with cycle := s.cycle + 1, cur := none } := h
  hstart.hangTick.settle.sweepAll.genTick.drainHost.spillHeld.ageQueues.chargeDue.regroupAll

theorem issueAt (h : MemoriesWf s) {tid g u} (hf : Machine.issueAt s tid g = .next u) : MemoriesWf u := by
  unfold Machine.issueAt at hf
  grind [MemoriesWf, fetchAt, noteRound, beforeIssue, Fetched.Wf, modGroup, exec, afterIssue, fetchWait, fetchTrap]

theorem issue (h : MemoriesWf s) {tid g u} (hf : Machine.issue s tid g = .next u) : MemoriesWf u := by
  unfold Machine.issue at hf
  grind [MemoriesWf, issueAt]

theorem lateResult (h : MemoriesWf s) {tid g} : MemoriesWf (Machine.lateResult s tid g) := by
  unfold Machine.lateResult
  grind [modGroup]

theorem setAts (h : MemoriesWf s) {t pasid vpage page} : MemoriesWf (Machine.setAts s t pasid vpage page) := h

theorem upsetAt (h : MemoriesWf s) {u1} : MemoriesWf (Machine.upsetAt s u1) := by
  unfold Machine.upsetAt
  grind [MemoriesWf, modTask, modGroup, setCore]

theorem evictTlb (h : MemoriesWf s) {c tile n} : MemoriesWf (Machine.evictTlb s c tile n) := closed.setTlb s _ _ h
theorem evictWalk (h : MemoriesWf s) {d n} : MemoriesWf (Machine.evictWalk s d n) := h

theorem genArrives (h : MemoriesWf s) {c t job} : MemoriesWf (Machine.genArrives s c t job) := by
  unfold Machine.genArrives
  grind [setCore]

theorem takeTurn (h : MemoriesWf s) {x u} (hf : Machine.takeTurn x s = .next u) : MemoriesWf u := by
  unfold Machine.takeTurn at hf
  grind [MemoriesWf, exec, issue, lateResult, wakeAll, hostPut, setAts, modTenant, islandFails, peerArrives, hostLoad,
    upsetAt, evictTlb, evictWalk, genArrives, clearGranule]

theorem act (h : MemoriesWf s) {script u} (hf : Machine.act script s = .next u) : MemoriesWf u := by
  cases script with
  | cons x r => exact takeTurn (s := { s with script := r }) h hf
  | nil =>
    unfold Machine.act at hf
    dsimp only at hf
    split at hf
    · exact h.takeTurn hf
    · cases hf; exact h

theorem step (h : MemoriesWf s) {u} (hf : Machine.step s = .next u) : MemoriesWf u :=
  h.tick.act hf

end MemoriesWf

/-- Settles O59: every operation that a step is made of keeps both memories in canonical form, since all of them write memory
through `writeByte` and `writeHost`. -/
theorem memoryStaysCanonical : Obligations.MemoryStaysCanonical := by
  unfold Obligations.MemoryStaysCanonical
  intro s t hmem hhost hstep
  exact MemoriesWf.step ⟨hmem, hhost⟩ hstep

end Sys2Proof.Machine
end

section
/-! SUPPORT. The accesses of stores and atomics, and the causes that a lane's access can raise (R57, R60, R65, R384). -/

namespace Sys2Proof.Machine

open Host

/-! ### Stores and atomics are accesses of their lanes (R223, R230, R237 to R241) -/

theorem exec_st (h : Hdr) (a : Reg) (off : SrcB) (x : SrcC) (sz : Size) (home : Bool) (s : State) :
    exec (.st h a off x sz home) s = execSt h a off x sz home s := rfl
theorem exec_stx (h : Hdr) (a : Reg) (off : SrcB) (idx : Reg) (x : SrcC) (f : Fmt) (g : Geom) (sat : Bool) (s : State) :
    exec (.stx h a off idx x f g sat) s = execStx h a off idx x f g sat s := rfl
theorem exec_atom (h : Hdr) (d a : Reg) (off : SrcB) (x : SrcC) (op : AOp) (scope : Scope) (ord : AOrd) (s : State) :
    exec (.atom h d a off x op scope ord) s = execAtom h d a off x op scope ord s := rfl
theorem exec_atomcas (h : Hdr) (d a : Reg) (off : SrcB) (x : Reg) (w64 : Bool) (scope : Scope) (ord : AOrd) (s : State) :
    exec (.atomcas h d a off x w64 scope ord) s = execAtomcas h d a off x w64 scope ord s := rfl
theorem exec_red (h : Hdr) (a : Reg) (off : SrcB) (x : SrcC) (op : AOp) (scope : Scope) (ord : AOrd) (s : State) :
    exec (.red h a off x op scope ord) s = execRed h a off x op scope ord s := rfl
theorem exec_reddet (h : Hdr) (a : Reg) (off : SrcB) (x : SrcC) (op : AOp) (s : State) :
    exec (.reddet h a off x op) s = execReddet h a off x op s := rfl

theorem stxData_eq (c : Ctx) (v : SrcC) (f : Fmt) (i : Nat) :
    c.stxData v f i = if f = .int8 ∨ f = .int4 ∨ f = .int32 then c.c v i else c.cf v i := by
  cases f <;> simp [Ctx.stxData, fmtInt]

/-- Every store is an access of its lanes at their addresses. -/
theorem exec_store {i : Instr} {q : Access} (h : storeOf i = some q) (s : State) :
    exec i s = run q.h q.len q.reads q.writes (fun c s => gmem c s q.op (q.accs c)) s := by
  unfold storeOf at h
  split at h
  case h_3 => cases h
  all_goals
    cases h
    simp only [exec_st, exec_stx, execSt, execStx, elemAcc, plainAccs, elemAccs, gaddr_eq_address, stxData_eq]

theorem atomAccs_eq (c : Ctx) (a : Reg) (off : SrcB) (data : Ctx → Nat → List Word) :
    atomAccs c a off (data c) = plainAccs a off data c := by
  simp only [atomAccs, plainAccs, gaddr_eq_address]

/-- Every atomic is an access of its lanes at their addresses; `reddet` as it acts outside DET launches. -/
theorem exec_atomic {i : Instr} {q : Atomic} {s : State} {c : Ctx} (h : atomicOf i = some q)
    (hdet : (∃ h a off v op, i = .reddet h a off v op) → detLaunch s c.task = none) :
    ∃ body, exec i s = run q.h q.len q.reads q.writes body s ∧ body c s = gmem c s q.op (q.accs c) := by
  unfold atomicOf at h
  split at h
  case h_5 => cases h
  case h_3 h a off v op =>
    cases h
    refine ⟨_, (exec_reddet h a off v op s).trans rfl, ?_⟩
    rw [hdet ⟨h, a, off, v, op, rfl⟩]
    exact congrArg (gmem c s _) (atomAccs_eq c a off fun c i => c.aopData op v i)
  case h_1 h d a off v op sc o =>
    cases h
    exact ⟨_, (exec_atom h d a off v op sc o s).trans rfl, congrArg (gmem c s _) (atomAccs_eq c a off fun c i => c.aopData op v i)⟩
  case h_2 h a off v op sc o =>
    cases h
    exact ⟨_, (exec_red h a off v op sc o s).trans rfl, congrArg (gmem c s _) (atomAccs_eq c a off fun c i => c.aopData op v i)⟩
  case h_4 h d a off x w64 sc o =>
    cases h
    exact ⟨_, (exec_atomcas h d a off x w64 sc o s).trans rfl, congrArg (gmem c s _)
      (atomAccs_eq c a off fun c i => (List.range (if w64 then 4 else 2)).map (fun k => c.ra x k i))⟩

/-! ### The causes of a page (R384, R391) -/

/-- A translation that fails raises PAGE_FAULT or PROTECTION. -/
def Acc.PageCause (a : Acc) : Prop := ∀ k, a = .fail k → k = causePage ∨ k = causeProt

theorem pageCause_judgeLeaf (s : State) (v : Via) (t va : Nat) (w : Want) (x : Xl) : (judgeLeaf s v t va w x).PageCause := by
  intro k hk
  unfold judgeLeaf at hk
  grind

theorem pageCause_judgeHost (s : State) (v : Via) (t va : Nat) (w : Want) (w0 w1 : Nat) :
    (judgeHost s v t va w w0 w1).PageCause := by
  intro k hk
  have hleaf := fun x => pageCause_judgeLeaf s v t va w x k
  unfold judgeHost at hk
  grind

theorem pageCause_judge (s : State) (v : Via) (t va : Nat) (w : Want) (wk : Walk) : (judge s v t va w wk).PageCause := by
  cases wk with
  | leaf x => exact pageCause_judgeLeaf s v t va w x
  | host w0 w1 => exact pageCause_judgeHost s v t va w w0 w1
  | malformed => exact fun k hk => .inl (Acc.fail.inj hk).symm
  | denied => exact fun k hk => .inr (Acc.fail.inj hk).symm
  | absent npk w0 w1 e lv =>
    intro k hk
    unfold judge at hk
    grind

theorem walked_ok {s : State} {v : Via} {t root va : Nat} {w : Want} {look : Nat → Nat × Nat} {wk : Walk} {r : State × Acc}
    (h : walked s v t root va w look wk = some r) : ∃ pa x, r.2 = .ok pa x := by
  unfold walked at h
  split at h
  · cases h; exact ⟨_, _, rfl⟩
  · cases h

theorem seeTlb_ok {s : State} {v : Via} {t va : Nat} {w : Want} {e : TlbEntry} {a : Acc} (h : seeTlb s v t va w e = some a) :
    ∃ pa x, a = .ok pa x := by
  unfold seeTlb at h
  split at h
  · split at h
    · cases h
    · cases h; exact ⟨_, _, rfl⟩
  · cases h

theorem lookTlb_ok {s : State} {v : Via} {t root va : Nat} {w : Want} {a : Acc} (h : lookTlb s v t root va w = some a) :
    ∃ pa x, a = .ok pa x := by
  unfold lookTlb at h
  split at h
  · obtain ⟨e, -, he⟩ := Option.bind_eq_some_iff.mp h
    exact seeTlb_ok he
  · cases h

theorem walkStale_ok {s : State} {v : Via} {t root va : Nat} {w : Want} {r : State × Acc} (h : walkStale s v t root va w = some r) :
    ∃ pa x, r.2 = .ok pa x := by
  unfold walkStale at h
  split at h
  · cases h
  · split at h
    · cases h
    · exact walked_ok h

theorem pageCause_of_ok {a : Acc} (h : ∃ pa x, a = .ok pa x) : a.PageCause := by
  obtain ⟨pa, x, rfl⟩ := h
  exact fun _ hk => nomatch hk

theorem pageCause_access (s : State) (v : Via) (t root va : Nat) (w : Want) : (access s v t root va w).2.PageCause := by
  unfold access
  split
  · next hlook => exact pageCause_of_ok (lookTlb_ok hlook)
  · dsimp only
    split
    · next hstale => exact pageCause_of_ok (walkStale_ok hstale)
    · cases hwalk : walked (tlbOne s v t root va) v t root va w
          (entryWords (tlbOne s v t root va) (tableKey (tlbOne s v t root va) t)) (walk (tlbOne s v t root va) t root va) with
      | some r => exact pageCause_of_ok (walked_ok hwalk)
      | none => exact pageCause_judge _ _ _ _ _ _

/-! ### The causes of a lane (R57, R60, R65) -/

theorem pageCheck_causes {s : State} {t : Task} {op : MemOp} {la : LaneAcc} {pa : Nat} {x : Xl} {k : Byte}
    (h : pageCheck s t op la pa x = some k) : k = causeProt ∨ k = causeFmt ∨ k = causeData ∨ k = causeToken := by
  unfold pageCheck at h
  grind

/-- A lane whose address is misaligned raises MISALIGNED there, and is not translated. -/
theorem laneCheck_misaligned {op : MemOp} {la : LaneAcc} (h : (la.base % opAlign op != 0) = true) (s : State) (t : Task) (user : Bool) :
    laneCheck s t user op la = (s, .bad causeMisaligned la.base false) :=
  if_pos h

/-- A lane whose address is aligned raises no cause but a higher one. -/
theorem laneCheck_aligned {op : MemOp} {la : LaneAcc} (h : (la.base % opAlign op != 0) = false) (s : State) (t : Task) (user : Bool)
    {k : Byte} {a : Nat} {r : Bool} (hbad : (laneCheck s t user op la).2 = .bad k a r) : causeMisaligned.toNat < k.toNat := by
  have hpage := pageCause_access s (.core t.core) t.tenant (rootOf s t) la.addr ⟨opReads op, opWrites op, false, user⟩
  unfold laneCheck at hbad
  rw [h, if_neg Bool.false_ne_true] at hbad
  split at hbad
  · cases hbad; decide
  split at hbad
  · cases hbad; decide
  split at hbad
  · cases hbad
  · next s1 cause hacc =>
    cases hbad
    rw [hacc] at hpage
    obtain rfl | rfl := hpage _ rfl <;> decide
  · split at hbad
    · next cause hcheck =>
      cases hbad
      obtain rfl | rfl | rfl | rfl := pageCheck_causes hcheck <;> decide
    · cases hbad

/-! ### The trap of the lanes (R60, R63) -/

/-- The lanes that raise a cause, with it, its address, and whether it goes to the fault region. -/
def raised : List (LaneAcc × LaneOut) → List (Nat × Byte × Nat × Bool)
  | [] => []
  | (la, .bad k a r) :: os => (la.lane, k, a, r) :: raised os
  | _ :: os => raised os

theorem filterMap_eq_raised {f : LaneAcc × LaneOut → Option (Nat × Byte × Nat × Bool)}
    (hbad : ∀ la k a r, f (la, .bad k a r) = some (la.lane, k, a, r)) (hgo : ∀ la lb, f (la, .go lb) = none)
    (hserve : ∀ la lb v, f (la, .serve lb v) = none) (os : List (LaneAcc × LaneOut)) : os.filterMap f = raised os := by
  induction os with
  | nil => rfl
  | cons p os ih =>
    obtain ⟨la, o⟩ := p
    cases o with
    | bad k a r => rw [List.filterMap_cons_some (hbad la k a r), ih, raised]
    | go lb => rw [List.filterMap_cons_none (hgo la lb), ih]; rfl
    | serve lb v => rw [List.filterMap_cons_none (hserve la lb v), ih]; rfl

theorem foldl_lowest {l : List (Nat × Byte × Nat × Bool)} {m k : Byte} (hle : ∀ x ∈ l, k.toNat ≤ x.2.1.toNat) (hm : k.toNat ≤ m.toNat)
    (hex : m = k ∨ ∃ x ∈ l, x.2.1 = k) : l.foldl (fun m x => if x.2.1.toNat < m.toNat then x.2.1 else m) m = k := by
  induction l generalizing m with
  | nil => simpa using hex
  | cons x l ih =>
    rw [List.foldl_cons]
    have hx := hle x List.mem_cons_self
    refine ih (fun y hy => hle y (List.mem_cons_of_mem _ hy)) (by split <;> assumption) ?_
    obtain rfl | ⟨y, hy, hyk⟩ := hex
    · exact .inl (if_neg (Nat.not_lt.mpr hx))
    · obtain rfl | hmem := List.mem_cons.mp hy
      · left
        split
        · exact hyk
        · next hlt => exact BitVec.eq_of_toNat_eq (by rw [hyk] at hlt; omega)
      · exact .inr ⟨y, hmem, hyk⟩

/-- The lowest cause that is raised is the trap's, with the lanes that raise it. -/
theorem laneTrap_of_lowest {os : List (LaneAcc × LaneOut)} {k : Byte} (hle : ∀ x ∈ raised os, k.toNat ≤ x.2.1.toNat)
    (hex : ∃ x ∈ raised os, x.2.1 = k) :
    laneTrap os = some
      { cause := k, lanes := maskOf (fun i => ((raised os).filter (fun x => x.2.1 == k)).any (fun x => x.1 == i)),
        addr := ((((raised os).filter (fun x => x.2.1 == k)).head?).map (fun x => x.2.2.1)).getD 0 % 2 ^ 57,
        reps := (((raised os).filter (fun x => x.2.1 == k)).filter (fun x => x.2.2.2)).foldl
          (fun l x => insertNat (x.2.2.1 / 2 ^ 12) l) [] } := by
  unfold laneTrap
  rw [filterMap_eq_raised (fun _ _ _ _ => rfl) (fun _ _ => rfl) (fun _ _ _ => rfl)]
  cases hb : raised os with
  | nil => rw [hb] at hex; obtain ⟨x, hx, -⟩ := hex; cases hx
  | cons b bs =>
    rw [hb] at hle hex
    have hlow : bs.foldl (fun m x => if x.2.1.toNat < m.toNat then x.2.1 else m) b.2.1 = k := by
      refine foldl_lowest (fun x hx => hle x (List.mem_cons_of_mem _ hx)) (hle b List.mem_cons_self) ?_
      obtain ⟨x, hx, hxk⟩ := hex
      obtain rfl | hmem := List.mem_cons.mp hx
      · exact .inl hxk
      · exact .inr ⟨x, hmem, hxk⟩
    dsimp only
    rw [hlow]

/-- The lanes at misaligned addresses raise MISALIGNED there, and no other lane raises a cause as low. -/
theorem raised_lanesCheck (t : Task) (user : Bool) (op : MemOp) (accs : List LaneAcc) (s : State) :
    (raised (lanesCheck s t user op accs).2).filter (fun x => x.2.1 == causeMisaligned) =
      (accs.filter (fun la => la.base % opAlign op != 0)).map (fun la => (la.lane, causeMisaligned, la.base, false)) ∧
    ∀ x ∈ raised (lanesCheck s t user op accs).2, causeMisaligned.toNat ≤ x.2.1.toNat := by
  induction accs generalizing s with
  | nil => exact ⟨rfl, fun x hx => nomatch hx⟩
  | cons la accs ih =>
    obtain ⟨ihf, ihle⟩ := ih (laneCheck s t user op la).1
    have hcons : (lanesCheck s t user op (la :: accs)).2 =
        (la, (laneCheck s t user op la).2) :: (lanesCheck (laneCheck s t user op la).1 t user op accs).2 := rfl
    rw [hcons]
    cases hmis : la.base % opAlign op != 0 with
    | true =>
      rw [laneCheck_misaligned hmis] at ihf ihle ⊢
      refine ⟨?_, fun x hx => ?_⟩
      · rw [List.filter_cons_of_pos (p := fun la : LaneAcc => la.base % opAlign op != 0) hmis, List.map_cons, ← ihf]
        rfl
      · obtain rfl | hx := List.mem_cons.mp hx
        · exact Nat.le_refl _
        · exact ihle x hx
    | false =>
      have hhigh := fun k a r => laneCheck_aligned (k := k) (a := a) (r := r) hmis s t user
      generalize (laneCheck s t user op la).1 = s1 at ihf ihle ⊢
      generalize (laneCheck s t user op la).2 = o at hhigh ⊢
      rw [List.filter_cons_of_neg (p := fun la : LaneAcc => la.base % opAlign op != 0) (by rw [hmis]; exact Bool.false_ne_true), ← ihf]
      cases o with
      | go lb => exact ⟨rfl, ihle⟩
      | serve lb v => exact ⟨rfl, ihle⟩
      | bad k a r =>
        have hlt := hhigh k a r rfl
        refine ⟨List.filter_cons_of_neg ?_, fun x hx => ?_⟩
        · intro heq
          have heq : k = causeMisaligned := eq_of_beq heq
          rw [heq] at hlt
          exact Nat.lt_irrefl _ hlt
        · obtain rfl | hx := List.mem_cons.mp hx
          · exact Nat.le_of_lt hlt
          · exact ihle x hx

/-- An access of a quiet group of which some lane is misaligned traps for those lanes, before anything is translated. -/
theorem gmem_misaligned {c : Ctx} {s : State} {op : MemOp} {accs : List LaneAcc} (hq : Quiet c.grp)
    (hbad : accs.filter (fun la => la.base % opAlign op != 0) ≠ []) :
    gmem c s op accs = .trap s causeMisaligned (laneSet ((accs.filter (fun la => la.base % opAlign op != 0)).map (·.lane)))
      (((accs.filter (fun la => la.base % opAlign op != 0)).head?.map (·.base)).getD 0 % 2 ^ 57) := by
  obtain ⟨hf, hle⟩ := raised_lanesCheck c.task c.user op accs s
  have hlog : logHolds c.grp (accs.map (fun la => la.addr / 2 ^ 12)) = false := by simp [logHolds, oplog_of_quiet hq]
  have hcount : ¬ (if opCountsLd op then ldCount c.grp else stCount c.grp) ≥ 63 := by
    simp [ldCount, stCount, hq.1, hq.2.1, oplog_of_quiet hq]
  generalize accs.filter (fun la => la.base % opAlign op != 0) = bad at hf hbad ⊢
  have hex : ∃ x ∈ raised (lanesCheck s c.task c.user op accs).2, x.2.1 = causeMisaligned := by
    obtain ⟨la, hla⟩ := List.exists_mem_of_ne_nil _ hbad
    refine ⟨(la.lane, causeMisaligned, la.base, false), List.mem_of_mem_filter (p := fun x => x.2.1 == causeMisaligned) ?_, rfl⟩
    rw [hf]
    exact List.mem_map_of_mem hla
  have htrap := laneTrap_of_lowest hle hex
  rw [hf] at htrap
  unfold gmem
  rw [if_neg hcount, hlog, if_neg Bool.false_ne_true]
  dsimp only
  rw [htrap]
  have hlanes : maskOf (fun i => (bad.map (fun la => (la.lane, causeMisaligned, la.base, false))).any (fun x => x.1 == i)) =
      laneSet (bad.map (·.lane)) := by
    unfold laneSet
    congr 1
    funext i
    rw [List.any_map, List.contains_eq_any_beq, List.any_map]
    exact congrArg (fun p => bad.any p) (funext fun la => Bool.beq_comm)
  have hnoreps : (bad.map (fun la => (la.lane, causeMisaligned, la.base, false))).filter (fun x => x.2.2.2) = [] := by simp
  rw [hlanes, hnoreps]
  simp [reportPages, List.head?_map, Option.map_map, Function.comp_def]

end Sys2Proof.Machine
end

section
/-! PROOFS. A misaligned access to global memory traps (R65, R230). -/

namespace Sys2Proof.Machine

open Host

/-- A load, a store or an atomic accesses memory as its lanes say; `reddet` where no DET launch governs the block. -/
theorem exec_access {i : Instr} {q : Access} {s : State} {c : Ctx}
    (h : loadOf i = some q ∨ storeOf i = some q ∨ ((∃ p, atomicOf i = some p ∧ p.toAccess = q) ∧
      ((∃ h a off v op, i = .reddet h a off v op) → detLaunch s c.task = none))) :
    ∃ body, exec i s = run q.h q.len q.reads q.writes body s ∧ body c s = gmem c s q.op (q.accs c) := by
  obtain h | h | ⟨⟨p, h, rfl⟩, hdet⟩ := h
  · exact ⟨_, exec_load h s, rfl⟩
  · exact ⟨_, exec_store h s, rfl⟩
  · exact exec_atomic h hdet

theorem ofNat57_mod (n : Nat) : BitVec.ofNat 57 (n % 2 ^ 57) = BitVec.ofNat 57 n :=
  BitVec.eq_of_toNat_eq (by simp)

/-- Settles O27: MISALIGNED is the lowest cause that an access can raise, and exactly the misaligned lanes raise it. -/
theorem misalignedAccessTraps : Obligations.MisalignedAccessTraps := by
  unfold Obligations.MisalignedAccessTraps
  intro i q s c hi he hq hm hv bad hbad
  obtain ⟨body, hexec, hbody⟩ := exec_access hi
  rw [hexec, ← ofNat57_mod]
  exact traps_of_body he hm hv (hbody.trans (gmem_misaligned hq hbad))

end Sys2Proof.Machine
end

section
/-! PROOFS. Ring-tail reads, `tlbinv`, `stop` and `smark` (R302, R329 to R331, R421, R429, R434, R436). -/

namespace Sys2Proof.Machine

open Host

theorem exec_tlbinvPage (h : Hdr) (a : Reg) (off : SrcB) (s : State) :
    exec (.tlbinvPage h a off) s = execTlbinvPage h a off s := rfl
theorem exec_tlbinvAll (h : Hdr) (long : Bool) (s : State) : exec (.tlbinvAll h long) s = execTlbinvAll h long s := rfl
theorem exec_stop (h : Hdr) (s : State) : exec (.stop h) s = execStop h s := rfl
theorem exec_smark (h : Hdr) (n : Byte) (a : Reg) (s : State) : exec (.smark h n a) s = execSmark h n a s := rfl

/-! ### The tail of a ring (R329, R421, R434) -/

theorem csr_of_tail {n : Nat} (h : n ∈ [0x059, 0x07C, 0x084, 0x08C]) (s : State) (t : Nat) :
    csrOfGroup n = false ∧ (csrMask n).isNone = false ∧ csrTail n = true ∧ csrValue s t n = csrGet s t n := by
  simp only [List.mem_cons, List.not_mem_nil, or_false] at h
  obtain rfl | rfl | rfl | rfl := h <;> exact ⟨rfl, rfl, rfl, rfl⟩

theorem csrrd_tail {h : Hdr} {d : Reg} {n : BitVec 12} {s : State} {c : Ctx} (he : Executes s c h 12 [⟨h.u, d, 1⟩])
    (hq : Quiet c.grp) (hn : n.toNat ∈ [0x059, 0x07C, 0x084, 0x08C]) :
    ∃ t x, exec (.csrrd h d n) s = .next t ∧ OnlyGroupIn s t c ∧ SameMemory s t ∧ group t c.tid c.g = some x ∧ Advanced c x ∧
      Writes c h.u d 1 (fun _ _ => csrGet s c.task.tenant n.toNat) x ∧ SamePreds c x ∧ Acquired t c.task.core .package := by
  obtain ⟨-, -, rfl, -, -, hg, -⟩ := group_of_bundle he.1.2
  obtain ⟨hgroup, hmask, htail, hvalue⟩ := csr_of_tail hn s c.ten
  let w := csrGet s c.task.tenant n.toNat
  let y := c.grp.putWords c.h.u d (lanesOf c.act) [w]
  have hcache : CacheOnly (c.putAll s d [w]) (acqAct (c.putAll s d [w]) c.task.core .package) := cacheOnly_acqAct _ _ _
  have hbody : exec (.csrrd c.h d n) s = .next (modGroup (acqAct (c.putAll s d [w]) c.task.core .package) c.tid c.g
      (c.stepped (fairOn (acqAct (c.putAll s d [w]) c.task.core .package) c.ten))) := by
    rw [exec_csrrd]
    refine run_ok (reads := []) he ?_
    simp only [hgroup, hmask, htail, acqReady_of_quiet hq, hvalue, Bool.not_true, Bool.false_eq_true, if_false, if_true]
    rfl
  have hy : group (acqAct (c.putAll s d [w]) c.task.core .package) c.tid c.g = some y :=
    (hcache.group _ _).trans (group_modGroup_some _ hg)
  refine ⟨_, _, hbody, (onlyGroupIn_modGroup s c _).trans (hcache.onlyGroupIn c _), hcache.memory, group_modGroup_some _ hy,
    stepped_advanced c _ _ (putWords_keeps Group.live live_setReg _ d _ [w] _) (putWords_keeps Group.rest rest_setReg _ d _ [w] _)
      (errors_putWords _ d _ [w] _), ?_, fun p => ?_, acquired_acqAct _ _ _⟩
  · refine (putWords_writes c d [w]).congr (fun _ k hk => ?_) (stepped_reg c _ _)
    obtain rfl : k = 0 := Nat.lt_one_iff.mp hk
    rfl
  · rw [stepped_pred]
    exact putWords_keeps (fun x => x.pred p) (fun x r l w => pred_setReg x r l w p) _ d _ [w] _

/-! ### Translations dropped (R330) -/

/-- A core, and a die, without the translations of a shootdown. -/
def Core.dropped (p : TlbEntry → Bool) (x : Core) : Core :=
  { x with tlb := x.tlb.filter (fun e => !p e), wtlb := x.wtlb.filter (fun e => !p e) }
def Die.dropped (q : NonLeaf → Bool) (x : Die) : Die := { x with walks := x.walks.filter (fun e => !q e) }

theorem core_dropTlb (s : State) (p : TlbEntry → Bool) (q : NonLeaf → Bool) (k : Nat) :
    core (dropTlb s p q) k = (core s k).dropped p := by
  have hcores : (dropTlb s p q).cores = s.cores.map (fun x => (x.1, x.2.dropped p)) := rfl
  rw [core, mgetD, hcores, mget_map_values, core, mgetD]
  cases mget s.cores k <;> rfl

theorem die_dropTlb (s : State) (p : TlbEntry → Bool) (q : NonLeaf → Bool) (k : Nat) :
    die (dropTlb s p q) k = (die s k).dropped q := by
  have hdies : (dropTlb s p q).dies = s.dies.map (fun x => (x.1, x.2.dropped q)) := rfl
  rw [die, mgetD, hdies, mget_map_values, die, mgetD]
  cases mget s.dies k <;> rfl

theorem oldAccesses_eq_false {s : State} {n : Nat} (hwq : s.wq = []) (hreds : s.reds = [])
    (hloads : ∀ p ∈ s.tasks, ∀ q ∈ p.2.groups, q.2.loads = []) : oldAccesses s n = false := by
  unfold oldAccesses
  rw [hwq, hreds, List.any_nil, List.any_nil, Bool.false_or, Bool.false_or, List.any_eq_false]
  intro p hp
  have hgroups : p.2.groups.any (fun q => !q.2.loads.isEmpty) = false :=
    List.any_eq_false.mpr (fun q hq => by simp [hloads p hp q hq])
  simp [hgroups]

/-- In trap mode, with nothing left of what was translated before, a shootdown drops its translations at once. -/
theorem shootdown_eq {c : Ctx} {s : State} {p : TlbEntry → Bool} {q : NonLeaf → Bool} (hq : Quiet c.grp) (htrap : c.grp.trap ≠ none)
    (hwq : s.wq = []) (hreds : s.reds = []) (hl1 : ∀ k, Clean s k) (hloads : ∀ p ∈ s.tasks, ∀ q ∈ p.2.groups, q.2.loads = []) :
    shootdown c s (fun s => dropTlb s p q) = .ok (wakeAll (dropTlb s p q)) := by
  have hclean : ∀ k, Clean (dropTlb s p q) k := fun k => by
    unfold Clean
    rw [core_dropTlb]
    exact hl1 k
  have hold : oldAccesses (dropTlb s p q) c.ten = false := oldAccesses_eq_false hwq hreds hloads
  unfold shootdown handover
  rw [user_eq_false htrap, if_neg Bool.false_ne_true]
  simp only [relAct_of_clean (hl1 _), relReady_of_quiet hq hwq, if_true]
  rw [foldl_of_forall_eq _ (fun k _ => writeBackAll_of_clean (hclean k)), hold, if_neg Bool.false_ne_true]

theorem mem_filter_not {α : Type} {p : α → Bool} {P : α → Prop} (h : ∀ e, p e = true ↔ P e) (l : List α) (e : α) :
    e ∈ l.filter (fun e => !p e) ↔ e ∈ l ∧ ¬ P e := by
  rw [List.mem_filter, Bool.not_eq_true', ← Bool.not_eq_true, h]

/-- A bundle that drops translations advances, and nothing but them is gone. -/
theorem shootdown_completes {s : State} {c : Ctx} {h : Hdr} {n : Nat} {reads : List Use} {body : Ctx → State → Res}
    {p : TlbEntry → Bool} {q : NonLeaf → Bool} {hit : Nat → Nat → Nat → Prop} (he : Executes s c h n reads)
    (hbody : body c s = .ok (wakeAll (dropTlb s p q))) (hp : ∀ e, p e = true ↔ hit e.tenant (e.vpage * e.bytes) e.bytes)
    (hq : ∀ e, q e = true ↔ hit e.tenant e.lo e.size) :
    ∃ t x, run h n reads [] body s = .next t ∧ SameMemory s t ∧ SameCsrs s t ∧ group t c.tid c.g = some x ∧ Advanced c x ∧
      SameRegs c x ∧ SamePreds c x ∧
      (∀ k e, (e ∈ (core t k).tlb ↔ e ∈ (core s k).tlb ∧ ¬ hit e.tenant (e.vpage * e.bytes) e.bytes) ∧
        (e ∈ (core t k).wtlb ↔ e ∈ (core s k).wtlb ∧ ¬ hit e.tenant (e.vpage * e.bytes) e.bytes)) ∧
      ∀ k e, e ∈ (die t k).walks ↔ e ∈ (die s k).walks ∧ ¬ hit e.tenant e.lo e.size := by
  obtain ⟨-, -, -, -, -, hg, -⟩ := group_of_bundle he.1.2
  let s2 := wakeAll (dropTlb s p q)
  have hx : group s2 c.tid c.g = some c.grp.woken := by
    have hdrop : group (dropTlb s p q) c.tid c.g = some c.grp := hg
    rw [group_wakeAll, hdrop]
    rfl
  have hcore : ∀ k, core (modGroup s2 c.tid c.g (c.stepped (fairOn s2 c.ten))) k = (core s k).dropped p :=
    core_dropTlb s p q
  have hdie : ∀ k, die (modGroup s2 c.tid c.g (c.stepped (fairOn s2 c.ten))) k = (die s k).dropped q := die_dropTlb s p q
  refine ⟨_, c.stepped (fairOn s2 c.ten) c.grp.woken, run_ok (by rwa [List.append_nil]) hbody, fun _ _ => rfl, fun _ _ => rfl,
    group_modGroup_some _ hx, stepped_advanced c _ _ rfl rfl (fun _ hn => hn), fun r i _ => ?_, fun r => stepped_pred c _ _ r,
    fun k e => ?_, fun k e => ?_⟩
  · rw [stepped_reg]
    cases r <;> rfl
  · rw [hcore]
    exact ⟨mem_filter_not hp _ e, mem_filter_not hp _ e⟩
  · rw [hdie]
    exact mem_filter_not hq _ e

theorem tlbinvPage_out {h : Hdr} {a : Reg} {off : SrcB} {s : State} {c : Ctx}
    (he : Executes s c h off.len (⟨h.u, a, 2⟩ :: useB h.u off 1)) (htrap : c.grp.trap ≠ none)
    (hva : 2 ^ 57 ≤ address c a off (lowest c.act)) :
    exec (.tlbinvPage h a off) s =
      .next (c.takeTrap s 0x0A (oneLane (lowest c.act)) (address c a off (lowest c.act) % 2 ^ 57)) := by
  rw [exec_tlbinvPage, execTlbinvPage, run, runGen_executes false _ [] _ (by rwa [List.append_nil])]
  simp only [gaddr_eq_address, Ctx.lead, user_eq_false htrap, Bool.not_false, Bool.true_and, decide_eq_true hva, if_true]
  rfl

/-! ### `stop` (R331, R429) -/

theorem bit0_eq (w : Word) : nb w.toNat 0 1 = if w.getLsbD 0 then 1 else 0 := by
  have hbit : w.getLsbD 0 = w.toNat.testBit 0 := rfl
  rw [hbit, Nat.testBit_zero, nb]
  have := Nat.mod_two_eq_zero_or_one w.toNat
  grind

theorem stop_passes {h : Hdr} {s : State} {c : Ctx} (he : Executes s c h 8 [])
    (hoff : (csrGet s c.task.tenant 0x060).getLsbD 0 = false) :
    Leaves s c (exec (.stop h) s) (fun x => SameRegs c x ∧ SamePreds c x) := by
  rw [exec_stop]
  refine leaves_unchanged (writes := []) he ?_
  have hbit : nb (csrGet s c.ten 0x060).toNat 0 1 = 0 := by rw [bit0_eq]; exact if_neg (by rw [Ctx.ten, hoff]; exact Bool.false_ne_true)
  exact if_pos hbit

/-- A task of which a precise stop is asked, unless one is asked already. -/
def Task.stopAsked (t : Task) : Task := { t with stopReq := some (t.stopReq.getD (1, 0)) }

theorem stop_asks {h : Hdr} {s : State} {c : Ctx} (he : Executes s c h 8 [])
    (hon : (csrGet s c.task.tenant 0x060).getLsbD 0 = true) (hnone : c.task.stopReq = none) :
    ∃ t x tk, exec (.stop h) s = .next t ∧ SameMemory s t ∧ SameCsrs s t ∧ group t c.tid c.g = some x ∧ Advanced c x ∧
      SameRegs c x ∧ SamePreds c x ∧ task t c.tid = some tk ∧ tk.stopReq = some (1, 0) ∧
      { tk with stopReq := none }.rest = c.task.rest := by
  obtain ⟨-, -, -, -, ht, hg, -⟩ := group_of_bundle he.1.2
  let s1 := modTask s c.tid Task.stopAsked
  have hbody : exec (.stop h) s = .next (modGroup s1 c.tid c.g (c.stepped (fairOn s1 c.ten))) := by
    rw [exec_stop]
    refine run_ok (writes := []) he ?_
    have hbit : nb (csrGet s c.ten 0x060).toNat 0 1 = 1 := by rw [bit0_eq]; exact if_pos hon
    exact if_neg (by rw [hbit]; exact Nat.one_ne_zero)
  have ht1 : task s1 c.tid = some c.task.stopAsked := by
    rw [task_modTask, if_pos rfl, ht]; rfl
  have hg1 : group s1 c.tid c.g = some c.grp := by
    have hgroups : mget c.task.groups c.g = some c.grp := by rw [← hg, group, ht]; rfl
    rw [group, ht1]
    exact hgroups
  refine ⟨_, _, _, hbody, fun _ _ => rfl, fun _ _ => rfl, group_modGroup_some _ hg1, stepped_advanced c _ _ rfl rfl (fun _ hn => hn),
    fun r i _ => stepped_reg c _ _ r i, fun p => stepped_pred c _ _ p, task_modGroup_some _ ht1, ?_, ?_⟩
  · show some (c.task.stopReq.getD (1, 0)) = some (1, 0)
    rw [hnone]
    rfl
  · show { c.task.rest with stopReq := none } = c.task.rest
    rw [← hnone]
    rfl

/-- Settles O34: a tail's read acquires, `tlbinv` drops what its operand covers where nothing older is left, `stop` asks for its
stop where debugging is enabled, and `smark` passes without records. -/
theorem systemInstructions : Obligations.SystemInstructions := by
  unfold Obligations.SystemInstructions
  refine ⟨fun h d n s c he hq hn => csrrd_tail he hq hn, fun h a off s c he htrap hva => tlbinvPage_out he htrap hva, ?_,
    fun h s c he => ⟨stop_passes he, stop_asks he⟩, fun h n a s c he hoff => ?_⟩
  · intro i h n reads hit s c hi he hq htrap hwq hreds hl1 hloads
    obtain ⟨long, rfl, rfl, rfl, rfl⟩ | ⟨a, off, rfl, rfl, rfl, hva, rfl⟩ := hi
    · rw [exec_tlbinvAll]
      exact shootdown_completes (hit := fun k _ _ => k = c.task.tenant) he (shootdown_eq hq htrap hwq hreds hl1 hloads)
        (fun e => beq_iff_eq) (fun e => beq_iff_eq)
    · rw [exec_tlbinvPage]
      refine shootdown_completes (n := off.len) (hit := fun k lo len => k = c.task.tenant ∧
          lo < address c a off (lowest c.act) / 2 ^ 12 * 2 ^ 12 + 2 ^ 12 ∧ address c a off (lowest c.act) / 2 ^ 12 * 2 ^ 12 < lo + len)
        he ?_ (p := fun e => e.tenant == c.ten &&
          overlaps (e.vpage * e.bytes) e.bytes (address c a off (lowest c.act) / 2 ^ 12 * 2 ^ 12) (2 ^ 12))
        (q := fun e => e.tenant == c.ten && overlaps e.lo e.size (address c a off (lowest c.act) / 2 ^ 12 * 2 ^ 12) (2 ^ 12))
        (fun e => ?_) (fun e => ?_)
      · simp only [gaddr_eq_address, Ctx.lead, user_eq_false htrap, Bool.not_false, Bool.true_and,
          decide_eq_false (Nat.not_le.mpr hva), Bool.false_eq_true, if_false]
        exact shootdown_eq hq htrap hwq hreds hl1 hloads
      · simp [overlaps, Ctx.ten]
      · simp [overlaps, Ctx.ten]
  · rw [exec_smark]
    refine leaves_unchanged (writes := []) he ?_
    show (if !evOn s c.ten 5 c.user then Res.ok s else _) = Res.ok s
    rw [Ctx.ten, hoff]
    rfl

end Sys2Proof.Machine
end

section
/-! PROOFS. The return of load data (R244): a record that no translation makes, and that the statement does not exclude. -/

namespace Sys2Proof.Machine

open Host

/-! ### Two lines with one place in the L1

A cache keeps a line at 256 times its number plus its key. Keys of pages are below 256 (R86), so that no two lines share a
place, but the statement lets a load's record name any key: line n + 1 under key 0 and line n under key 256 then share one. -/

/-- A load of two lanes, from lines n + 1 and n of host memory under keys 0 and 256. -/
def clashRec : LoadRec :=
  { op := .load 4 false .b32 false false false, act := 3, vals := [],
    lanes := [{ laneAcc 0 (2 ^ 48 + 128) (2 ^ 48 + 128) 0 [] with pa := 2 ^ 48 + 128, key := 0 },
              { laneAcc 1 (2 ^ 48) (2 ^ 48) 0 [] with pa := 2 ^ 48, key := 256 }] }

/-- The group that awaits its data, and its task. -/
def clashGroup : Group := { Group.start 0 0 1 0x1000 0 with loads := [(0, clashRec)] }
def clashTask : Task := { Task.start 0 0 1 0 0x1000 0 [1, 2, 3, 4] Origin.blank 1 16 1024 512 with groups := [(0, clashGroup)] }

/-- Host memory holds a 1 in the higher line only, and no cache holds anything. -/
def clashState : State := { State.reset with hostMem := [(128, 1)], tasks := [(0, clashTask)] }

theorem clash_ready : loadReady clashState clashTask clashGroup 0 clashRec = true := by decide +kernel

theorem clash_uncached : ∀ la ∈ clashRec.lanes, ∀ ln ∈ loadLines clashRec.op la, Uncached clashState clashTask clashRec.op la ln := by
  unfold Uncached
  decide +kernel

theorem clash_fits : ∀ la ∈ clashRec.lanes, la.lane < 32 ∧ la.pa % 128 + opBytes clashRec.op ≤ 128 := by decide +kernel

/-- Lane 1 takes the bytes that lane 0 has brought into the L1. -/
theorem clash_reads : ((loadReturn clashState 0 0 0).bind (fun s => group (wakeAll s) 0 0)).map (fun x => x.reg (.v 4) 1) = some 1 := by
  decide +kernel

/-- Memory holds a 0 at lane 1's address. -/
theorem clash_holds : sizedWord .b32 false (numAt clashState 256 (2 ^ 48) (sizeBytes .b32)) 0 = 0 := by decide +kernel

theorem exec_loadDataReturn (tid g id : Nat) (s : State) :
    exec (.loadDataReturn tid g id) s = fire (loadReturn s tid g id) s := rfl

theorem fire_next {o : Option State} {s t : State} (h : fire o s = .next t) (ho : o ≠ none) : ∃ u, o = some u ∧ t = wakeAll u := by
  cases o with
  | none => exact absurd rfl ho
  | some u => cases h; exact ⟨u, rfl, rfl⟩

/-- Refutes O30: a record with a key of 256 or more may name two lines with one place in the L1, and its second lane then reads
the first one's line. -/
theorem not_loadDataReturns : ¬ Obligations.LoadDataReturns := by
  unfold Obligations.LoadDataReturns
  intro h
  obtain ⟨t, x, hexec, -, -, hx, -, -, hload, -⟩ := h clashState 0 0 0 clashTask clashGroup clashRec rfl rfl rfl clash_ready
    (fun p hp => nomatch hp) clash_uncached clash_fits
  have hreads := clash_reads
  rw [exec_loadDataReturn] at hexec
  obtain ⟨u, hu, rfl⟩ := fire_next hexec (fun hnone => by rw [hnone] at hreads; cases hreads)
  rw [hu] at hreads
  change (group (wakeAll u) 0 0).map _ = _ at hreads
  rw [hx] at hreads
  have hgot : x.reg (.v 4) 1 = sizedWord .b32 false (numAt clashState 256 (2 ^ 48) (sizeBytes .b32)) 0 :=
    hload 4 false .b32 false false false rfl (.v 4) 1 (by decide)
  rw [clash_holds] at hgot
  rw [Option.map_some, hgot] at hreads
  exact absurd hreads (by decide)

end Sys2Proof.Machine
end

section
/-! SUPPORT. The values of an atomic (R238 Table 6): the words of its operands as a number, and its operation. -/

namespace Sys2Proof.Machine

open Host

/-! ### Words as a number -/

theorem wordsNat_eq_ofWords (ws : List Word) : wordsNat ws = ofWords ws := by
  induction ws with
  | nil => rfl
  | cons w ws ih =>
    rw [wordsNat, ih]
    unfold ofWords
    rw [List.length_cons, List.range_succ_eq_map, List.map_cons, List.map_map, List.sum_cons, ← List.sum_map_mul_left]
    simp only [Function.comp_def, Nat.succ_eq_add_one, List.getD_cons_succ, List.getD_cons_zero, Nat.mul_zero, pow_zero, mul_one]
    refine congrArg (w.toNat + ·) (congrArg List.sum (List.map_congr_left fun k _ => ?_))
    rw [Nat.mul_succ, pow_add]
    ac_rfl

theorem wordsNat_lt (ws : List Word) : wordsNat ws < 2 ^ (32 * ws.length) := by
  induction ws with
  | nil => simp [wordsNat]
  | cons w ws ih =>
    have hw := w.isLt
    have hpow : 2 ^ (32 * (ws.length + 1)) = 2 ^ 32 * 2 ^ (32 * ws.length) := by rw [← Nat.pow_add, Nat.mul_succ, Nat.add_comm]
    rw [wordsNat, List.length_cons, hpow]
    calc w.toNat + 2 ^ 32 * wordsNat ws
      _ < 2 ^ 32 * (wordsNat ws + 1) := by omega
      _ ≤ 2 ^ 32 * 2 ^ (32 * ws.length) := Nat.mul_le_mul_left _ ih

/-! ### The operations of Table 6 -/

theorem cmpV_swap (x y : FV) : cmpV y x = (cmpV x y).swap := by
  have hint : ∀ a b : FV, compare (a.units (min a.expo b.expo)) (b.units (min a.expo b.expo)) =
      (compare (b.units (min b.expo a.expo)) (a.units (min b.expo a.expo))).swap := fun a b => by
    rw [min_comm, Std.OrientedCmp.eq_swap (cmp := compare)]
  cases x with
  | inf s =>
    cases y with
    | inf t => cases s <;> cases t <;> rfl
    | nan => cases s <;> rfl
    | fin t m e => cases s <;> rfl
  | nan =>
    cases y with
    | inf t => cases t <;> rfl
    | nan => exact hint _ _
    | fin t m e => exact hint _ _
  | fin s m e =>
    cases y with
    | inf t => cases t <;> rfl
    | nan => exact hint _ _
    | fin t m e => exact hint _ _

theorem cmpZ_swap (x y : FV) : cmpZ y x = (cmpZ x y).swap := by
  unfold cmpZ
  rw [cmpV_swap]
  cases x.isZero <;> cases y.isZero <;> cases x.sign <;> cases y.sign <;> rfl

/-- The smaller and the larger code, as the model and as the statements write them. -/
theorem minMaxF_eq_pick (f : FloatFmt) (max : Bool) (a b : Nat) : minMaxF f max a b = pick f max a b := by
  have hnan : ∀ v : FV, v.isNan = decide (v = .nan) := fun v => by cases v <;> simp [FV.isNan]
  unfold minMaxF pick
  rw [cmpZ_swap, hnan, hnan]
  by_cases ha : decodeF f a = .nan <;> by_cases hb : decodeF f b = .nan <;> simp only [ha, hb, decide_true, decide_false, if_true, if_false]
  generalize cmpZ (decodeF f b) (decodeF f a) = o
  cases o <;> cases max <;> rfl

/-- The new value of an atomic operation, as the model and as the statements write it, from operands of the operation's width. -/
theorem aopNew_eq_atomicResult {op : AOp} {o d : Nat} (ho : o < 2 ^ (32 * aopRegs op)) (hd : d < 2 ^ (32 * aopRegs op)) :
    aopNew op o d = atomicResult op o d := by
  have hword {n : Nat} (hn : n < 2 ^ 32) : (BitVec.ofNat 32 n).toNat = n := by rw [BitVec.toNat_ofNat, Nat.mod_eq_of_lt hn]
  have hpick (max : Bool) (a b : Word) : BitVec.ofNat 32 (minMaxF fp32 max a.toNat b.toNat) = pickW max a b := by
    rw [minMaxF_eq_pick]; rfl
  cases op with
  | addN32 => simp [aopNew, atomicResult]
  | addN64 => simp [aopNew, atomicResult]
  | minI32 | minN32 =>
    simp only [aopNew, atomicResult, lesser, intOf, Bool.false_eq_true, if_false, if_true, apply_ite BitVec.toNat, hword ho,
      hword hd, Nat.cast_lt, ← not_lt, ite_not]
  | maxI32 =>
    simp only [aopNew, atomicResult, larger, intOf, Bool.false_eq_true, if_false, apply_ite BitVec.toNat, hword ho, hword hd]
    rcases lt_trichotomy (BitVec.ofNat 32 o).toInt (BitVec.ofNat 32 d).toInt with hlt | heq | hgt
    · rw [if_pos hlt.le, if_pos hlt]
    · rw [if_pos heq.le, if_neg heq.not_lt, ← hword ho, ← hword hd, BitVec.toInt_inj.mp heq]
    · rw [if_neg hgt.not_ge, if_neg hgt.not_gt]
  | maxN32 =>
    simp only [aopNew, atomicResult, larger, intOf, if_true, apply_ite BitVec.toNat, hword ho, hword hd, Nat.cast_lt]
    rcases lt_trichotomy o d with hlt | heq | hgt
    · rw [if_pos hlt.le, if_pos hlt]
    · rw [if_pos heq.le, if_neg heq.not_lt, heq]
    · rw [if_neg hgt.not_ge, if_neg hgt.not_gt]
  | andB32 | orB32 | xorB32 | exchB32 | exchB64 | incN32 | decN32 | addF32 => rfl
  | minF32 => exact congrArg BitVec.toNat (hpick false _ _)
  | maxF32 => exact congrArg BitVec.toNat (hpick true _ _)

end Sys2Proof.Machine
end

section
/-! SUPPORT. Writes at the home of a line (R81, R232): the bytes that memory reads after them, and what they leave unchanged. -/

namespace Sys2Proof.Machine

open Host

/-! ### What a write at home leaves -/

/-- Tasks and CSRs stay, and no byte becomes uncorrectable; bytes of memory, caches and queues may change. -/
structure HomeOnly (s t : State) : Prop where
  tasks : t.tasks = s.tasks
  csrs : SameCsrs s t
  bad : ∀ pa, blockBad s pa = false → blockBad t pa = false

namespace HomeOnly
variable {s t u : State}

theorem refl (s : State) : HomeOnly s s := ⟨rfl, fun _ _ => rfl, fun _ h => h⟩

theorem trans (h : HomeOnly s t) (k : HomeOnly t u) : HomeOnly s u :=
  ⟨k.tasks.trans h.tasks, fun n r => (k.csrs n r).trans (h.csrs n r), fun pa hpa => k.bad pa (h.bad pa hpa)⟩

theorem foldl {α : Type} {f : State → α → State} (hf : ∀ v a, HomeOnly v (f v a)) (l : List α) (s : State) :
    HomeOnly s (l.foldl f s) := by
  induction l generalizing s with
  | nil => exact refl s
  | cons a l ih => exact (hf s a).trans (ih _)

theorem group (h : HomeOnly s t) (tid g : Nat) : Machine.group t tid g = Machine.group s tid g := by
  unfold Machine.group; rw [task_eq_of_tasks h.tasks]

theorem onlyGroupIn (h : HomeOnly s t) (c : Ctx) : OnlyGroupIn s t c :=
  ⟨h.csrs, ⟨fun u _ => task_eq_of_tasks h.tasks u, fun j _ => h.group _ j⟩, by rw [task_eq_of_tasks h.tasks]⟩

end HomeOnly

theorem CacheOnly.homeOnly {s t : State} (h : CacheOnly s t) : HomeOnly s t := by
  refine ⟨h.tasks, h.csrs, fun pa hpa => ?_⟩
  have hbad : blockBad t pa = blockBad s pa := by
    have := congrArg (fun x : State => blockBad x pa) h
    exact this
  rw [hbad, hpa]

theorem homeOnly_writePa (s : State) (k pa : Nat) (b : Byte) : HomeOnly s (writePa s k pa b) := by
  unfold writePa writeByte
  dsimp only
  split
  · exact ⟨rfl, fun _ _ => rfl, fun _ h => h⟩
  split
  · exact ⟨rfl, fun _ _ => rfl, fun _ h => h⟩
  · exact ⟨rfl, fun _ _ => rfl, fun _ h => h⟩

theorem blockBad_writePa (s : State) (k pa x : Nat) (b : Byte) : blockBad (writePa s k pa b) x = blockBad s x := by
  unfold writePa writeByte
  dsimp only
  split
  · rfl
  split <;> rfl

theorem homeOnly_applyBytes (s : State) (k : Nat) (bytes : Map Byte) : HomeOnly s (applyBytes s k bytes) := by
  unfold applyBytes
  refine HomeOnly.trans (HomeOnly.foldl (fun v p => ?_) bytes s) ⟨rfl, fun _ _ => rfl, fun pa hpa => ?_⟩
  · split
    · exact HomeOnly.refl v
    · exact homeOnly_writePa v k p.1 p.2
  · simp only [blockBad, List.contains_eq_mem, decide_eq_false_iff_not] at hpa ⊢
    exact fun hmem => hpa (List.mem_filter.mp hmem).1

theorem homeOnly_queueMods (s : State) (t : Nat) (gs : List Gran) : HomeOnly s (queueMods s t gs) := by
  refine HomeOnly.foldl (fun v g => ?_) gs s
  dsimp only
  split <;> exact ⟨rfl, fun _ _ => rfl, fun _ h => h⟩

theorem sameMemory_queueMods (s : State) (t : Nat) (gs : List Gran) : SameMemory s (queueMods s t gs) := by
  unfold queueMods
  induction gs generalizing s with
  | nil => exact fun _ _ => rfl
  | cons g gs ih =>
    rw [List.foldl_cons]
    intro k a
    rw [ih]
    dsimp only
    split <;> rfl

theorem cacheOnly_sendUpdates (s : State) (line k o : Nat) (bytes : Map Byte) (stamp : List Nat) :
    CacheOnly s (sendUpdates s line k o bytes stamp) := by
  refine CacheOnly.foldl (fun v d => ?_) _ s
  dsimp only
  split
  · exact CacheOnly.refl v
  split
  · exact cacheOnly_setDie v _ _
  · exact CacheOnly.refl v

theorem homeOnly_applyAtHome (s : State) (o k t line : Nat) (bytes : Map Byte) (stamp : List Nat) (gs : List Gran) :
    HomeOnly s (applyAtHome s o k t line bytes stamp gs) := by
  unfold applyAtHome
  have hstamp : ∀ v : State, ∀ m, HomeOnly v { v with lstamp := m } := fun v m => ⟨rfl, fun _ _ => rfl, fun _ h => h⟩
  exact (homeOnly_applyBytes s k bytes).trans ((hstamp _ _).trans
    ((cacheOnly_sendUpdates _ _ _ _ _ _).homeOnly.trans (homeOnly_queueMods _ _ _)))

theorem homeOnly_homeWrite (s : State) (d k t pa : Nat) (bs : List Byte) (gs : List Gran) :
    HomeOnly s (homeWrite s d k t pa bs gs) := by
  unfold homeWrite
  exact (cacheOnly_setDie s _ _).homeOnly.trans (homeOnly_applyAtHome _ _ _ _ _ _ _ _)

/-! ### What memory reads after a write at home -/

/-- Bytes put one after another at different places: each place holds what the list names for it, or what it held. -/
theorem get_foldl_puts {σ α : Type} {put : σ → Nat → Byte → σ} {get : σ → Nat → α} {val : Byte → α}
    (h : ∀ s k v x, get (put s k v) x = if x = k then val v else get s x) (ws : Map Byte) (s : σ)
    (hnd : (ws.map Prod.fst).Nodup) (x : Nat) :
    get (ws.foldl (fun s p => put s p.1 p.2) s) x = ((mget ws x).map val).getD (get s x) := by
  induction ws generalizing s with
  | nil => rfl
  | cons p ws ih =>
    obtain ⟨k, v⟩ := p
    obtain ⟨hk, hnd⟩ := List.nodup_cons.mp (List.map_cons ▸ hnd)
    rw [List.foldl_cons, ih _ hnd, h, mget]
    by_cases hx : x = k
    · have hnone : mget ws x = none := by
        cases hget : mget ws x with
        | none => rfl
        | some w => exact absurd (List.mem_map_of_mem (f := Prod.fst) (mem_of_mget hget)) (hx ▸ hk)
      rw [if_pos hx, if_pos hx, hnone]
      rfl
    · rw [if_neg hx, if_neg hx]

theorem mget_bytes (pa n : Nat) (b : Nat → Byte) (x : Nat) :
    mget ((List.range n).map (fun j => (pa + j, b j))) x = if pa ≤ x ∧ x < pa + n then some (b (x - pa)) else none := by
  have hlist : ∀ l : List Nat, mget (l.map (fun j => (pa + j, b j))) x = if pa ≤ x ∧ x - pa ∈ l then some (b (x - pa)) else none := by
    intro l
    induction l with
    | nil => rw [if_neg (by simp)]; rfl
    | cons j l ih =>
      rw [List.map_cons, mget, ih]
      by_cases hx : x = pa + j
      · rw [if_pos hx, if_pos (by simp [hx]), hx, Nat.add_sub_cancel_left]
      · rw [if_neg hx]
        refine if_congr ⟨fun h => ⟨h.1, List.mem_cons_of_mem j h.2⟩, fun h => ⟨h.1, ?_⟩⟩ rfl rfl
        rcases List.mem_cons.mp h.2 with hj | hmem
        · exact absurd (by omega) hx
        · exact hmem
  rw [hlist]
  refine if_congr ?_ rfl rfl
  rw [List.mem_range]
  omega

theorem nodup_bytes (pa n : Nat) (b : Nat → Byte) : (((List.range n).map (fun j => (pa + j, b j))).map Prod.fst).Nodup := by
  rw [List.map_map]
  exact List.nodup_range.map fun i j hij => Nat.add_left_cancel hij

/-- The unmarked bytes of a write are put one after another. -/
theorem writes_of_unmarked {s : State} {k : Nat} (P : Nat → Bool) (ws : Map Byte) (h : ∀ p ∈ ws, blockBad s p.1 = false) :
    ws.foldl (fun s p => if blockBad s p.1 && P p.1 then s else writePa s k p.1 p.2) s =
      ws.foldl (fun s p => writePa s k p.1 p.2) s := by
  induction ws generalizing s with
  | nil => rfl
  | cons p ws ih =>
    have hp : (blockBad s p.1 && P p.1) = false := by rw [h p List.mem_cons_self, Bool.false_and]
    simp only [List.foldl_cons, hp, Bool.false_eq_true, if_false]
    exact ih fun q hq => (blockBad_writePa _ _ _ _ _).trans (h q (List.mem_cons_of_mem p hq))

theorem readPa_applyBytes {s : State} {ws : Map Byte} (hbad : ∀ p ∈ ws, blockBad s p.1 = false) (hnd : (ws.map Prod.fst).Nodup)
    (k x : Nat) : readPa (applyBytes s k ws) k x = (mget ws x).getD (readPa s k x) := by
  have hwrites := writes_of_unmarked (s := s) (k := k) (fun a => !coversUnit ws a) ws hbad
  unfold applyBytes
  dsimp only at hwrites ⊢
  rw [hwrites]
  refine (get_foldl_puts (put := fun s a b => writePa s k a b) (get := fun s a => readPa s k a) (val := id)
    (fun s a b x => readPa_writePa s k a x b) ws s hnd x).trans ?_
  rw [Option.map_id]
  rfl

theorem readPa_applyAtHome {s : State} {ws : Map Byte} (hbad : ∀ p ∈ ws, blockBad s p.1 = false)
    (hnd : (ws.map Prod.fst).Nodup) (o k t line : Nat) (stamp : List Nat) (gs : List Gran) (x : Nat) :
    readPa (applyAtHome s o k t line ws stamp gs) k x = (mget ws x).getD (readPa s k x) := by
  unfold applyAtHome
  rw [sameMemory_queueMods _ _ _ k x, (cacheOnly_sendUpdates _ _ _ _ _ _).memory k x]
  exact readPa_applyBytes hbad hnd k x

theorem bytesAt_leBytes_nat (pa n v : Nat) :
    bytesAt pa (leBytes n v) = (List.range n).map (fun j => (pa + j, BitVec.ofNat 8 (v / 256 ^ j))) := by
  unfold bytesAt
  refine List.ext_getElem (by simp [leBytes_eq_map]) (fun j _ _ => ?_)
  simp [leBytes_eq_map]

theorem readPa_homeWrite {s : State} {k pa n : Nat} (h : ∀ j, j < n → blockBad s (pa + j) = false) (d t v : Nat)
    (gs : List Gran) (x : Nat) : readPa (homeWrite s d k t pa (leBytes n v) gs) k x =
      if pa ≤ x ∧ x < pa + n then BitVec.ofNat 8 (v / 256 ^ (x - pa)) else readPa s k x := by
  have hdie := cacheOnly_setDie s d { die s d with clock := (die s d).clock.set d (stampAt (die s d).clock d + 1) }
  unfold homeWrite
  simp only [bytesAt_leBytes_nat]
  rw [readPa_applyAtHome (fun p hp => ?_) (nodup_bytes pa n _), mget_bytes, hdie.memory k x]
  · split <;> rfl
  · obtain ⟨j, hj, rfl⟩ := List.mem_map.mp hp
    exact hdie.homeOnly.bad _ (h j (List.mem_range.mp hj))

/-! ### The number that stands in the bytes of a word -/

theorem leNat_lt (bs : List Byte) : leNat bs < 256 ^ bs.length := by
  induction bs with
  | nil => simp [leNat]
  | cons b bs ih =>
    have hb := b.isLt
    rw [leNat, List.length_cons, Nat.pow_succ']
    calc b.toNat + 256 * leNat bs
      _ < 256 * (leNat bs + 1) := by omega
      _ ≤ 256 * 256 ^ bs.length := Nat.mul_le_mul_left _ ih

theorem byte_of_leNat (bs : List Byte) (j : Nat) : BitVec.ofNat 8 (leNat bs / 256 ^ j) = bs.getD j 0 := by
  induction bs generalizing j with
  | nil => simp [leNat]
  | cons b bs ih =>
    have hb : b.toNat < 256 := b.isLt
    cases j with
    | zero =>
      refine BitVec.eq_of_toNat_eq ?_
      rw [BitVec.toNat_ofNat, leNat, pow_zero, Nat.div_one, List.getD_cons_zero]
      show (b.toNat + 256 * leNat bs) % 256 = b.toNat
      omega
    | succ j =>
      rw [List.getD_cons_succ, ← ih, leNat, Nat.pow_succ', ← Nat.div_div_eq_div_mul]
      have hhigh : (b.toNat + 256 * leNat bs) / 256 = leNat bs := by omega
      rw [hhigh]

theorem numAt_lt (s : State) (k pa n : Nat) : numAt s k pa n < 256 ^ n := by
  have := leNat_lt (readPas s k pa n)
  rwa [leNat_readPas, readPas, List.length_map, List.length_range] at this

theorem byte_of_numAt (s : State) (k pa : Nat) {n j : Nat} (hj : j < n) :
    BitVec.ofNat 8 (numAt s k pa n / 256 ^ j) = readPa s k (pa + j) := by
  rw [← leNat_readPas, byte_of_leNat, readPas, List.getD_eq_getElem?_getD, List.getElem?_map, List.getElem?_range hj]
  rfl

end Sys2Proof.Machine
end

section
/-! PROOFS. Atomics and reductions at the port (R81, R232, R237 to R240). -/

namespace Sys2Proof.Machine

open Host

/-! ### One lane at the port -/

theorem homeOnly_traced {s t : State} {n : Nat} (h : t = s ∨ ∃ evs, t = modTenant s n (tracedTenant evs)) : HomeOnly s t := by
  rcases h with rfl | ⟨evs, rfl⟩
  · exact HomeOnly.refl t
  · exact ⟨rfl, (beside_tracedTenant s n evs).csrs, fun _ h => h⟩

theorem portRmw_spec {s : State} {la : LaneAcc} {n : Nat} (hbad : ∀ j, j < n → blockBad s (la.pa + j) = false) (t : Task)
    (f : Nat → Option Nat) : (portRmw s t la n f).2 = numAt s la.key la.pa n ∧ HomeOnly s (portRmw s t la n f).1 ∧
      ∀ x, readPa (portRmw s t la n f).1 la.key x = if la.pa ≤ x ∧ x < la.pa + n then
        BitVec.ofNat 8 ((f (numAt s la.key la.pa n)).getD (numAt s la.key la.pa n) / 256 ^ (x - la.pa)) else readPa s la.key x := by
  have hread := cacheOnly_dieRead s (dieOf t.core) la.pa la.key
  have hold : readNum (dieRead s (dieOf t.core) la.pa la.key false).1 la.key la.pa n = numAt s la.key la.pa n := by
    rw [readNum, readPas_of_memory hread.memory, leNat_readPas]
  unfold portRmw
  simp only [hold]
  cases hf : f (numAt s la.key la.pa n) with
  | none =>
    refine ⟨rfl, hread.homeOnly, fun x => (hread.memory _ x).trans ?_⟩
    split
    · next hx =>
      have hbyte := byte_of_numAt s la.key la.pa (n := n) (j := x - la.pa) (by omega)
      rw [Nat.add_sub_cancel' hx.1] at hbyte
      exact hbyte.symm
    · rfl
  | some v =>
    refine ⟨rfl, hread.homeOnly.trans (homeOnly_homeWrite _ _ _ _ _ _ _), fun x => ?_⟩
    rw [readPa_homeWrite fun j hj => hread.homeOnly.bad _ (hbad j hj)]
    exact if_congr Iff.rfl rfl (hread.memory _ x)

/-- The form of an access that reads and writes a word as one. -/
def MemOp.isRmw : MemOp → Bool
  | .atom _ _ _ _ _ => true
  | .cas _ _ _ _ _ => true
  | .red _ _ _ => true
  | _ => false

/-- What an atomic writes, if it writes, by its operands and the old value (R238, R239). -/
def MemOp.rmwNew (op : MemOp) (data : List Word) (old : Nat) : Option Nat :=
  match op with
  | .atom _ _ a _ _ => some (aopNew a old (wordsNat data))
  | .red a _ _ => some (aopNew a old (wordsNat data))
  | .cas _ _ w _ _ => if old = wordsNat (data.take (if w then 2 else 1)) then some (wordsNat (data.drop (if w then 2 else 1))) else none
  | _ => none

theorem atomLane_eq {op : MemOp} (h : op.isRmw = true) (s : State) (t : Task) (la : LaneAcc) : atomLane s t op la =
    portRmw (traceWrite (traceRead s t la la.addr (opBytes op)) t la la.addr (opBytes op)) t la (opBytes op) (op.rmwNew la.data) := by
  cases op with
  | atom d u a sc o => rfl
  | red a sc o => rfl
  | cas d u w sc o => rfl
  | _ => cases h

theorem atomLane_spec {op : MemOp} (h : op.isRmw = true) {s : State} {la : LaneAcc}
    (hbad : ∀ j, j < opBytes op → blockBad s (la.pa + j) = false) (t : Task) :
    (atomLane s t op la).2 = numAt s la.key la.pa (opBytes op) ∧ HomeOnly s (atomLane s t op la).1 ∧
      ∀ x, readPa (atomLane s t op la).1 la.key x = if la.pa ≤ x ∧ x < la.pa + opBytes op then
        BitVec.ofNat 8 ((op.rmwNew la.data (numAt s la.key la.pa (opBytes op))).getD (numAt s la.key la.pa (opBytes op)) /
          256 ^ (x - la.pa)) else readPa s la.key x := by
  have hr := traceRead_eq s t la la.addr (opBytes op)
  have hw := traceWrite_eq (traceRead s t la la.addr (opBytes op)) t la la.addr (opBytes op)
  have hhome := (homeOnly_traced hr).trans (homeOnly_traced hw)
  have hmem := ((beside_traceRead s t la la.addr (opBytes op)).trans
    (beside_traceWrite (traceRead s t la la.addr (opBytes op)) t la la.addr (opBytes op))).memory
  have hnum := (congrArg leNat (readPas_of_memory hmem la.key la.pa (opBytes op))).trans (leNat_readPas s la.key la.pa _)
  obtain ⟨hold, hport, hbytes⟩ := portRmw_spec (fun j hj => hhome.bad _ (hbad j hj)) t (op.rmwNew la.data)
  rw [leNat_readPas] at hnum
  rw [atomLane_eq h]
  refine ⟨hold.trans hnum, hhome.trans hport, fun x => ?_⟩
  rw [hbytes, hnum, hmem la.key x]

/-! ### The lanes in turn -/

/-- Beside a group's view of writes, tasks and CSRs stay, and no byte becomes uncorrectable. -/
structure SeenOnly (c : Ctx) (s t : State) : Prop where
  only : OnlyGroupIn s t c
  seen : ∀ x, group s c.tid c.g = some x → ∃ st, group t c.tid c.g = some { x with seen := st }
  bad : ∀ pa, blockBad s pa = false → blockBad t pa = false

namespace SeenOnly
variable {c : Ctx} {s t u : State}

theorem refl (c : Ctx) (s : State) : SeenOnly c s s :=
  ⟨(HomeOnly.refl s).onlyGroupIn c, fun x hx => ⟨x.seen, hx⟩, fun _ h => h⟩

theorem trans (h : SeenOnly c s t) (k : SeenOnly c t u) : SeenOnly c s u := by
  refine ⟨h.only.trans k.only, fun x hx => ?_, fun pa hpa => k.bad pa (h.bad pa hpa)⟩
  obtain ⟨st, ht⟩ := h.seen x hx
  obtain ⟨st', hu⟩ := k.seen _ ht
  exact ⟨st', hu⟩

end SeenOnly

theorem HomeOnly.seenOnly {s t : State} (h : HomeOnly s t) (c : Ctx) : SeenOnly c s t :=
  ⟨h.onlyGroupIn c, fun x hx => ⟨x.seen, (h.group _ _).trans hx⟩, h.bad⟩

theorem seenOnly_noteSeen (s : State) (c : Ctx) (st : List Nat) : SeenOnly c s (noteSeen s c.tid c.g st) :=
  ⟨onlyGroupIn_modGroup s c _, fun x hx => ⟨maxStamp x.seen st, group_modGroup_some _ hx⟩, fun _ h => h⟩

/-- One lane of an atomic: its word is changed, its group has seen the line, and its old value is kept. -/
def rmwStep (c : Ctx) (op : MemOp) (acc : State × List (Nat × List Word)) (la : LaneAcc) : State × List (Nat × List Word) :=
  let r := atomLane acc.1 c.task op la
  (noteSeen r.1 c.tid c.g (lineStamp r.1 (la.pa / lineBytes)), acc.2 ++ [(la.lane, natWords (if opBytes op = 8 then 2 else 1) r.2)])

/-- A lane meets the key, finds no uncorrectable byte, and its operation gives what the statement's function gives. -/
def RmwLane (op : MemOp) (key : Nat) (at_ : Nat → Nat) (f : Nat → Nat → Nat) (s : State) (la : LaneAcc) : Prop :=
  la.key = key ∧ (∀ j, j < opBytes op → blockBad s (la.pa + j) = false) ∧ at_ la.lane = la.pa ∧
    ∀ old, old < 256 ^ opBytes op → (op.rmwNew la.data old).getD old = f la.lane old

theorem rmwStep_foldl {c : Ctx} {op : MemOp} (h : op.isRmw = true) {key : Nat} {at_ : Nat → Nat} {f : Nat → Nat → Nat}
    (las : List LaneAcc) : ∀ (s : State) (vals : List (Nat × List Word)), (∀ la ∈ las, RmwLane op key at_ f s la) →
      (las.map LaneAcc.lane).Nodup →
      let w := rmwLanes (opBytes op) at_ f (las.map LaneAcc.lane) (readPa s key)
      SeenOnly c s (las.foldl (rmwStep c op) (s, vals)).1 ∧ (∀ x, readPa (las.foldl (rmwStep c op) (s, vals)).1 key x = w.1 x) ∧
        (las.foldl (rmwStep c op) (s, vals)).2 =
          vals ++ las.map (fun la => (la.lane, natWords (if opBytes op = 8 then 2 else 1) (w.2 la.lane))) := by
  induction las with
  | nil => exact fun s vals _ _ => ⟨SeenOnly.refl c s, fun _ => rfl, (List.append_nil _).symm⟩
  | cons la las ih =>
    intro s vals hlas hnd
    obtain ⟨hkey, hbad, hat, hf⟩ := hlas la List.mem_cons_self
    obtain ⟨hold, hhome, hbytes⟩ := atomLane_spec h hbad c.task
    obtain ⟨hla, hnd⟩ := List.nodup_cons.mp (List.map_cons ▸ hnd)
    obtain ⟨s1, hs1⟩ : ∃ s1, s1 = (rmwStep c op (s, vals) la).1 := ⟨_, rfl⟩
    obtain ⟨v1, hv1⟩ : ∃ v1, v1 = (rmwStep c op (s, vals) la).2 := ⟨_, rfl⟩
    have hstep : rmwStep c op (s, vals) la = (s1, v1) := by rw [hs1, hv1]
    have hseen : SeenOnly c s s1 := by rw [hs1]; exact (hhome.seenOnly c).trans (seenOnly_noteSeen _ c _)
    obtain ⟨hsome, hmem, hvals⟩ := ih s1 v1 (fun lb hlb => by
      obtain ⟨hk, hb, ha, hg⟩ := hlas lb (List.mem_cons_of_mem la hlb)
      exact ⟨hk, fun j hj => hseen.bad _ (hb j hj), ha, hg⟩) hnd
    have hm1 : readPa s1 key = fun b => if at_ la.lane ≤ b ∧ b < at_ la.lane + opBytes op then
        BitVec.ofNat 8 (f la.lane (numAt s key (at_ la.lane) (opBytes op)) / 256 ^ (b - at_ la.lane)) else readPa s key b := by
      funext b
      rw [hs1, hat, ← hf _ (numAt_lt s key la.pa _), ← hkey]
      exact hbytes b
    rw [List.foldl_cons, hstep]
    refine ⟨hseen.trans hsome, fun x => ?_, ?_⟩
    · rw [hmem, hm1]; rfl
    · rw [hvals, hm1, hv1]
      show (vals ++ [_]) ++ _ = vals ++ _ :: _
      rw [List.append_assoc, List.singleton_append, hold, hkey, ← hat]
      refine congrArg (vals ++ ·) (congrArg₂ List.cons ?_ (List.map_congr_left fun lb hlb => ?_))
      · simp [rmwLanes, numAt]
      · have hne : lb.lane ≠ la.lane := fun he => hla (he ▸ List.mem_map_of_mem hlb)
        simp [rmwLanes, numAt, hne]

end Sys2Proof.Machine
end

section
/-! PROOFS. Atomics and reductions: their lanes, and the whole instruction (R81, R232, R237 to R240). -/

namespace Sys2Proof.Machine

open Host

/-! ### Lanes whose checks all pass, each by its own check -/

theorem forall₂_of_lanesCheck {t : Task} {user : Bool} {op : MemOp} {accs las : List LaneAcc} : ∀ {s s1 : State},
    lanesCheck s t user op accs = (s1, accs.zip (las.map LaneOut.go)) → las.length = accs.length →
      List.Forall₂ (fun acc la => ∃ u v, laneCheck u t user op acc = (v, .go la)) accs las := by
  induction accs generalizing las with
  | nil =>
    intro s s1 _ hlen
    rw [List.length_eq_zero_iff.mp hlen]
    exact .nil
  | cons acc accs ih =>
    intro s s1 h hlen
    cases las with
    | nil => cases hlen
    | cons la las =>
      rw [lanesCheck, List.map_cons, List.zip_cons_cons] at h
      obtain ⟨-, hcons⟩ := Prod.mk.inj h
      obtain ⟨hla, hrest⟩ := List.cons.inj hcons
      have ho : (laneCheck s t user op acc).2 = .go la := (Prod.mk.inj hla).2
      exact .cons ⟨s, _, Prod.ext rfl ho⟩ (ih (Prod.ext rfl hrest) (Nat.succ.inj hlen))

/-- A lane that goes on keeps all that the instruction gave it. -/
theorem laneCheck_keeps {s s1 : State} {t : Task} {user : Bool} {op : MemOp} {acc la : LaneAcc}
    (h : laneCheck s t user op acc = (s1, .go la)) :
    la = { acc with pa := la.pa, key := la.key, port := la.port, tso := la.tso, ordsh := la.ordsh, trk := la.trk } := by
  unfold laneCheck at h
  repeat' (split at h <;> try (cases h; rfl))
  all_goals cases h

section
variable {s s1 : State} {c : Ctx} {op : MemOp} {accs las : List LaneAcc}

theorem Granted.forall₂ (h : Granted s c op accs s1 las) :
    List.Forall₂ (fun acc la => ∃ u v, laneCheck u c.task c.user op acc = (v, .go la)) accs las :=
  forall₂_of_lanesCheck h.1 h.2

theorem Granted.lanes (h : Granted s c op accs s1 las) : las.map LaneAcc.lane = accs.map LaneAcc.lane := by
  have hkeep := h.forall₂
  clear h
  induction hkeep with
  | nil => rfl
  | cons hla _ ih =>
    obtain ⟨u, v, hla⟩ := hla
    rw [List.map_cons, List.map_cons, ih, laneCheck_keeps hla]

theorem Granted.acc_of_mem (h : Granted s c op accs s1 las) {la : LaneAcc} (hla : la ∈ las) :
    ∃ acc ∈ accs, ∃ u v, laneCheck u c.task c.user op acc = (v, .go la) := by
  have hkeep := h.forall₂
  clear h
  induction hkeep with
  | nil => cases hla
  | cons hhead _ ih =>
    rcases List.mem_cons.mp hla with rfl | hla
    · exact ⟨_, List.mem_cons_self, hhead⟩
    · obtain ⟨acc, hacc, hgo⟩ := ih hla
      exact ⟨acc, List.mem_cons_of_mem _ hacc, hgo⟩

theorem Granted.translates (h : Granted s c op accs s1 las) : Translates s s1 := by
  have := translates_lanesCheck c.task c.user op accs s
  rwa [h.1] at this

end

theorem lanes_plainAccs (a : Reg) (off : SrcB) (data : Ctx → Nat → List Word) (c : Ctx) :
    (plainAccs a off data c).map LaneAcc.lane = c.lanes := by
  rw [plainAccs, List.map_map]
  exact List.map_id c.lanes

theorem nodup_lanes (c : Ctx) : c.lanes.Nodup := by
  unfold Ctx.lanes
  split
  · exact List.nodup_singleton _
  · exact List.nodup_range.filter _

/-- The place that the statement looks up for a lane is the lane's own. -/
theorem find_lane {las : List LaneAcc} (h : (las.map LaneAcc.lane).Nodup) {la : LaneAcc} (hla : la ∈ las) :
    las.find? (fun x => x.lane == la.lane) = some la := by
  induction las with
  | nil => cases hla
  | cons x las ih =>
    obtain ⟨hx, hnd⟩ := List.nodup_cons.mp (List.map_cons ▸ h)
    rcases List.mem_cons.mp hla with rfl | hla
    · simp
    · have hne : x.lane ≠ la.lane := fun he => hx (he ▸ List.mem_map_of_mem hla)
      rw [List.find?_cons_of_neg (by simpa using hne)]
      exact ih hnd hla

/-! ### The function of each atomic (R238, R239) -/

theorem pow_opBytes (op : AOp) : 256 ^ (if aopWide op then 8 else 4) = 2 ^ (32 * aopRegs op) := by
  unfold aopRegs
  cases aopWide op <;> norm_num

theorem length_aopData (c : Ctx) (op : AOp) (v : SrcC) (i : Nat) : (c.aopData op v i).length = aopRegs op := by
  have hcs : ∀ n, (c.cs v n i).length = n := fun n => by cases v <;> simp [Ctx.cs]
  cases op <;> simp [Ctx.aopData, hcs] <;> rfl

theorem aopNew_aopData (c : Ctx) (op : AOp) (v : SrcC) (i : Nat) {old : Nat} (h : old < 256 ^ (if aopWide op then 8 else 4)) :
    aopNew op old (wordsNat (c.aopData op v i)) = atomicResult op old (ofWords (c.aopData op v i)) := by
  rw [pow_opBytes] at h
  have hd := wordsNat_lt (c.aopData op v i)
  rw [length_aopData] at hd
  rw [aopNew_eq_atomicResult h hd, wordsNat_eq_ofWords]

theorem ofWords_singleton (w : Word) : ofWords [w] = w.toNat := by simp [ofWords]

/-- A compare-and-swap writes where the old value is that of its first operand. -/
theorem rmwNew_cas (d : Reg) (u w : Bool) (sc : Scope) (o : AOrd) (data : List Word) (old : Nat) :
    ((MemOp.cas d u w sc o).rmwNew data old).getD old =
      if old = ofWords (data.take (if w then 2 else 1)) then ofWords (data.drop (if w then 2 else 1)) else old := by
  rw [← wordsNat_eq_ofWords, ← wordsNat_eq_ofWords]
  exact apply_ite (fun x : Option Nat => x.getD old) _ _ _

/-- The operands of `atomcas` are the old and the new value, low word first. -/
theorem ofWords_casData (c : Ctx) (x : Reg) (w : Bool) (lane old : Nat) :
    let data := (List.range (if w then 4 else 2)).map (fun k => c.ra x k lane)
    (if old = ofWords (data.take (if w then 2 else 1)) then ofWords (data.drop (if w then 2 else 1)) else old) =
      (if w then (if old = ofWords [c.ra x 0 lane, c.ra x 1 lane] then ofWords [c.ra x 2 lane, c.ra x 3 lane] else old)
        else (if old = (c.ra x 0 lane).toNat then (c.ra x 1 lane).toNat else old)) := by
  cases w
  · simp only [Bool.false_eq_true, if_false, ← ofWords_singleton]
    rfl
  · rfl

theorem isRmw_of_atomicOf {i : Instr} {q : Atomic} (h : atomicOf i = some q) : q.op.isRmw = true := by
  unfold atomicOf at h
  split at h
  case h_5 => cases h
  all_goals
    cases h
    rfl

theorem lanes_of_atomicOf {i : Instr} {q : Atomic} (h : atomicOf i = some q) (c : Ctx) : (q.accs c).map LaneAcc.lane = c.lanes := by
  unfold atomicOf at h
  split at h
  case h_5 => cases h
  all_goals
    cases h
    simp only [lanes_plainAccs]

theorem loads_of_atomicOf {i : Instr} {q : Atomic} (h : atomicOf i = some q) : opCountsLd q.op = decide (q.writes ≠ []) := by
  unfold atomicOf at h
  split at h
  case h_5 => cases h
  all_goals
    cases h
    rfl

/-- What the model computes from a lane's operands is what the statement computes from the lane's registers. -/
theorem rmwNew_of_atomicOf {i : Instr} {q : Atomic} (h : atomicOf i = some q) (c : Ctx) {acc : LaneAcc} (hacc : acc ∈ q.accs c)
    {old : Nat} (hold : old < 256 ^ opBytes q.op) : (q.op.rmwNew acc.data old).getD old = q.f c acc.lane old := by
  unfold atomicOf at h
  split at h
  case h_5 => cases h
  case h_4 h d a off x w64 sc o =>
    cases h
    obtain ⟨lane, -, rfl⟩ := List.mem_map.mp hacc
    exact (rmwNew_cas d _ w64 sc o _ old).trans (ofWords_casData c x w64 lane old)
  all_goals
    cases h
    obtain ⟨lane, -, rfl⟩ := List.mem_map.mp hacc
    exact aopNew_aopData c _ _ lane hold

/-! ### The instruction -/

theorem laneSpans_of_rmw {op : MemOp} (h : op.isRmw = true) (la : LaneAcc) : laneSpans op la = [(la.pa, opBytes op)] := by
  cases op with
  | atom d u a sc o => rfl
  | red a sc o => rfl
  | cas d u w sc o => rfl
  | _ => cases h

theorem opBytes_of_rmw {op : MemOp} (h : op.isRmw = true) : (if opBytes op = 8 then 2 else 1) = opBytes op / 4 := by
  have hwide : ∀ w : Bool, (if (if w then 8 else 4) = 8 then 2 else 1) = (if w then 8 else 4) / 4 := by decide
  cases op with
  | atom d u a sc o => exact hwide (aopWide a)
  | red a sc o => exact hwide (aopWide a)
  | cas d u w sc o => exact hwide w
  | _ => cases h

theorem opReady_of_rmw {op : MemOp} (h : op.isRmw = true) {s : State} {c : Nat} {las : List LaneAcc}
    (hp : portReady s c las = true) : opReady s c op las = true := by
  have hreds : ∀ la ∈ las, redsDue s (la.pa / lineBytes) = false := fun la hla => by
    unfold portReady at hp
    simp only [Bool.and_eq_true, List.all_eq_true] at hp
    simpa using (hp.1.2 la hla).1
  unfold opReady
  rw [hp, Bool.true_and, List.all_eq_true]
  intro la hla
  rw [laneSpans_of_rmw h]
  simp [hreds la hla]

/-- The state in which an atomic's lanes have acted: what they read, wrote and saw, and the old values that they keep. -/
def rmwActed (s : State) (c : Ctx) (op : MemOp) (las : List LaneAcc) : State × List (Nat × List Word) :=
  las.foldl (rmwStep c op) ({ s with serial := s.serial + 1 }, [])

def rmwIssued (s : State) (c : Ctx) (op : MemOp) (las : List LaneAcc) : State :=
  if opCountsLd op then
    modGroup (rmwActed s c op las).1 c.tid c.g
      (Group.loading s.serial { op := op, act := c.act, lanes := las, vals := (rmwActed s c op las).2 })
  else (rmwActed s c op las).1

theorem perform_rmw {op : MemOp} (h : op.isRmw = true) {las : List LaneAcc} (hne : las ≠ []) (s : State) (c : Ctx) :
    perform { s with serial := s.serial + 1 } c.tid c.g c.task op s.serial c.act las = rmwIssued s c op las := by
  unfold perform
  rw [if_neg (by simpa using hne)]
  cases op with
  | atom d u a sc o => rfl
  | red a sc o => rfl
  | cas d u w sc o => rfl
  | _ => cases h

theorem flags_of_rmw {op : MemOp} (h : op.isRmw = true) : opWrites op = true ∧ opOrdWrites op = true ∧ opAtPort op = true := by
  cases op with
  | atom d u a sc o => exact ⟨rfl, rfl, rfl⟩
  | red a sc o => exact ⟨rfl, rfl, rfl⟩
  | cas d u w sc o => exact ⟨rfl, rfl, rfl⟩
  | _ => cases h

/-- An atomic whose lanes all pass their checks acts, where nothing of its group is outstanding and the port is ready. -/
theorem gmem_rmw {c : Ctx} {s s1 : State} {op : MemOp} {accs las : List LaneAcc} (hop : op.isRmw = true) (hq : Quiet c.grp)
    (hgo : Granted s c op accs s1 las) (hmap : ∀ la ∈ las, mapHolds s la.pa = false)
    (hord : (∃ la ∈ las, la.ordsh = true) → lowerPublished s c.task = true ∧ tokenPos s c.task ≠ .before)
    (hrel : ordRel (opOrder op).2 = true → relReady (relAct s c.task.core (opOrder op).1) c (opOrder op).1 = true)
    (hport : portReady (atPorts s1 c op las) c.task.core las = true) (hne : las ≠ []) :
    gmem c s op accs = .ok (if ordAcq (opOrder op).2 then
      acqSeen (rmwIssued (atPorts s1 c op las) c op las) c.tid c.g c.task.core (opOrder op).1
      else rmwIssued (atPorts s1 c op las) c op las) := by
  obtain ⟨hcheck, hlen⟩ := hgo
  have hlog : logHolds c.grp (accs.map (fun la => la.addr / 2 ^ 12)) = false := by simp [logHolds, oplog_of_quiet hq]
  have hld : ldCount c.grp = 0 := by simp [ldCount, hq.1, oplog_of_quiet hq]
  have hst : stCount c.grp = 0 := by simp [stCount, hq.2.1, oplog_of_quiet hq]
  have hmaps : las.any (fun la => mapHolds s la.pa) = false := List.any_eq_false.mpr (fun la hla => by simp [hmap la hla])
  have hlower : (las.any (·.ordsh) && opOrdReads op && !lowerPublished s c.task) = false := by
    by_cases hany : las.any (·.ordsh) = true
    · simp [(hord (List.any_eq_true.mp hany)).1]
    · simp [hany]
  have htok : (las.any (·.ordsh) && opOrdWrites op && tokenPos s c.task == .before) = false := by
    by_cases hany : las.any (·.ordsh) = true
    · simp [(hord (List.any_eq_true.mp hany)).2]
    · simp [hany]
  have hfence : (ordRel (opOrder op).2 && !relReady (relAct s c.task.core (opOrder op).1) c (opOrder op).1) = false := by
    by_cases ho : ordRel (opOrder op).2 = true
    · simp [hrel ho]
    · simp [ho]
  have hahead : (loadAhead c.grp (las.flatMap (laneSpans op)) || tsoAhead c.grp las) = false := by simp [loadAhead, tsoAhead, hq.1]
  obtain ⟨hwrites, hordw, hatport⟩ := flags_of_rmw hop
  have hready : (opAtPort op && !las.isEmpty && !opReady (atPorts s1 c op las) c.task.core op las) = false := by
    simp [opReady_of_rmw hop hport]
  unfold gmem
  simp only [hld, hst, hlog, hcheck, laneTrap_zip_go, goLanes_zip_go hlen, servedLanes_zip_go, hmaps, hlower, htok, hfence, hahead,
    acqReady_of_quiet hq]
  unfold atPorts at hready ⊢
  simp only [hready, perform_rmw hop hne]
  simp

/-- Settles O25: each lane's word is read and written at its home in turn, and an atomic's old values stand in its record. -/
theorem atomicsAtThePort : Obligations.AtomicsAtThePort := by
  unfold Obligations.AtomicsAtThePort
  intro i q s s1 c las key hi he hq hgo hdet hlas hord hrel hport n w
  obtain ⟨-, -, -, -, -, hg, -⟩ := group_of_bundle he.1.2
  have hlanes : las.map LaneAcc.lane = c.lanes := hgo.lanes.trans (lanes_of_atomicOf hi c)
  have hnd : (las.map LaneAcc.lane).Nodup := hlanes ▸ nodup_lanes c
  have hne : las ≠ [] := fun hnil => lanes_ne_nil he.2.2 (by rw [← hlanes, hnil]; rfl)
  have hop := isRmw_of_atomicOf hi
  obtain ⟨body, hexec, hbody⟩ := exec_atomic hi hdet
  have hbody := hbody.trans (gmem_rmw hop hq hgo (fun la hla => (hlas la hla).2.1) hord hrel hport hne)
  -- the state at the port, whose memory is that of the granted one
  obtain ⟨s2, hs2⟩ : ∃ s2, s2 = atPorts s1 c q.op las := ⟨_, rfl⟩
  have hcache : CacheOnly s1 { s2 with serial := s2.serial + 1 } := by
    refine CacheOnly.trans ?_ (rfl : CacheOnly s2 _)
    rw [hs2]
    unfold atPorts
    refine CacheOnly.trans ?_ (cacheOnly_flushLanes _ _ _ _)
    split
    · exact (cacheOnly_relAct _ _ _).trans (cacheOnly_relDone _ _ _)
    · exact CacheOnly.refl s1
  rw [← hs2] at hbody
  -- its lanes in turn
  obtain ⟨hseen, hmem, hvals⟩ := rmwStep_foldl (c := c) hop (key := key) (f := q.f c)
    (at_ := fun j => ((las.find? (fun la => la.lane == j)).map (·.pa)).getD 0) las { s2 with serial := s2.serial + 1 } []
    (fun la hla => by
      obtain ⟨hkey, -, hbad⟩ := hlas la hla
      obtain ⟨acc, hacc, u, v, hcheck⟩ := hgo.acc_of_mem hla
      refine ⟨hkey, fun j hj => hcache.homeOnly.bad _ (hbad j hj), ?_, fun old hold => ?_⟩
      · simp only [find_lane hnd hla]; rfl
      · rw [laneCheck_keeps hcheck]
        exact rmwNew_of_atomicOf hi c hacc hold) hnd
  have hstart : readPa { s2 with serial := s2.serial + 1 } key = readPa s1 key := funext fun a => hcache.memory key a
  rw [hlanes, hstart] at hmem hvals
  obtain ⟨st, hacted⟩ := hseen.seen c.grp (((hcache.group _ _).trans (hgo.translates.group _ _)).trans hg)
  obtain ⟨s4, hs4⟩ : ∃ s4, s4 = rmwIssued s2 c q.op las := ⟨_, rfl⟩
  obtain ⟨y, hy⟩ : ∃ y : Group, y = { c.grp with seen := st, loads := if q.writes = [] then [] else
      [(s2.serial, { op := q.op, act := c.act, lanes := las, vals := (rmwActed s2 c q.op las).2 })] } := ⟨_, rfl⟩
  have hissued : OnlyGroupIn s1 s4 c ∧ group s4 c.tid c.g = some y ∧ SameMemory (rmwActed s2 c q.op las).1 s4 := by
    have honly : OnlyGroupIn s1 (rmwActed s2 c q.op las).1 c := (hcache.homeOnly.onlyGroupIn c).trans hseen.only
    rw [hs4, rmwIssued, loads_of_atomicOf hi, hy]
    by_cases hw : q.writes = []
    · simp only [hw, ne_eq, not_true_eq_false, decide_false, Bool.false_eq_true, if_false, if_true, ← hq.1]
      exact ⟨honly, hacted, fun _ _ => rfl⟩
    · simp only [hw, ne_eq, not_false_eq_true, decide_true, if_true, if_false]
      refine ⟨honly.trans (onlyGroupIn_modGroup _ c _), (group_modGroup_some _ hacted).trans ?_, fun _ _ => rfl⟩
      rw [Group.loading, hq.1]
      rfl
  obtain ⟨honly, hgroup, hsame⟩ := hissued
  rw [← hs4] at hbody
  obtain ⟨s5, hs5⟩ : ∃ s5, s5 = (if ordAcq (opOrder q.op).2 then acqSeen s4 c.tid c.g c.task.core (opOrder q.op).1 else s4) :=
    ⟨_, rfl⟩
  have hacq : CacheOnly s4 s5 := by
    rw [hs5]
    split
    · exact cacheOnly_acqSeen _ _ _ _ _
    · exact CacheOnly.refl _
  rw [← hs5] at hbody
  refine ⟨_, c.stepped (fairOn s5 c.ten) y, s2.serial, hexec.trans (run_ok he hbody),
    honly.trans ((hacq.homeOnly.onlyGroupIn c).trans (onlyGroupIn_modGroup s5 c _)),
    group_modGroup_some _ ((hacq.group _ _).trans hgroup), moved_stepped c _ (by rw [hy]; rfl) (by rw [hy]; exact fun _ hn => hn),
    fun r i _ => ?_, fun p => ?_, ?_, fun a => ?_, ?_⟩
  · rw [stepped_reg, hy]
    cases r <;> rfl
  · rw [stepped_pred, hy]
    rfl
  · have hold : c.grp.rest.loads = [] := hq.1
    rw [rest_stepped, hy, ← hold]
    rfl
  · exact (hacq.memory key a).trans ((hsame key a).trans (hmem a))
  · have hloads := congrArg Group.loads (rest_stepped c (fairOn s5 c.ten) y)
    refine Eq.trans hloads ?_
    rw [hy]
    refine if_congr Iff.rfl rfl ?_
    have hwords : (if opBytes q.op = 8 then 2 else 1) = opBytes q.op / 4 := opBytes_of_rmw hop
    have hkept : (rmwActed s2 c q.op las).2 = c.lanes.map (fun j => (j, natWords (opBytes q.op / 4) (w.2 j))) := by
      rw [← hlanes, List.map_map, ← hwords]
      exact hvals.trans (List.nil_append _)
    rw [hkept]
    rfl

end Sys2Proof.Machine
end

section
/-! SUPPORT. What a core sees of memory (R81): under a store held in its L1, and under a write on its way to the port. -/

namespace Sys2Proof.Machine

open Host

/-! ### The bytes that a store stores (R225, R231) -/

theorem byte_of_wordsNat (ws : List Word) (j : Nat) : BitVec.ofNat 8 (wordsNat ws / 256 ^ j) = wordByte ws j := by
  have hstep : ∀ (w : Word) (n j : Nat), BitVec.ofNat 8 ((w.toNat + 2 ^ 32 * n) / 256 ^ j) =
      if j < 4 then (w >>> (8 * j)).setWidth 8 else BitVec.ofNat 8 (n / 256 ^ (j - 4)) := fun w n j => by
    have hw := w.isLt
    split
    · next hj =>
      refine BitVec.eq_of_toNat_eq ?_
      rw [BitVec.toNat_ofNat, BitVec.toNat_setWidth, BitVec.toNat_ushiftRight, Nat.shiftRight_eq_div_pow, Nat.pow_mul]
      interval_cases j <;> omega
    · next hj =>
      obtain ⟨i, rfl⟩ : ∃ i, j = 4 + i := ⟨j - 4, by omega⟩
      have hword : (w.toNat + 2 ^ 32 * n) / 256 ^ 4 = n := by omega
      rw [Nat.pow_add, ← Nat.div_div_eq_div_mul, hword, Nat.add_sub_cancel_left]
  induction ws generalizing j with
  | nil => simp [wordsNat, wordByte]
  | cons w ws ih =>
    rw [wordsNat, hstep]
    by_cases hj : j < 4
    · rw [if_pos hj, wordByte, Nat.div_eq_of_lt hj, Nat.mod_eq_of_lt hj]
      rfl
    · obtain ⟨i, rfl⟩ : ∃ i, j = 4 + i := ⟨j - 4, by omega⟩
      have hword : (4 + i) / 4 = i / 4 + 1 := by omega
      have hbyte : (4 + i) % 4 = i % 4 := by omega
      rw [if_neg hj, Nat.add_sub_cancel_left, ih, wordByte, wordByte, hword, hbyte, List.getD_cons_succ]

/-- The bytes of a store's lane. -/
def storedBytes (op : MemOp) (data : List Word) : List Byte := (List.range (opBytes op)).map (storedByte op data)

theorem leBytes_wordsNat (sz : Size) (home : Bool) (data : List Word) :
    leBytes (sizeBytes sz) (wordsNat data) = storedBytes (.store sz home) data := by
  rw [leBytes_eq_map]
  exact List.map_congr_left fun j _ => byte_of_wordsNat data j

theorem leBytes_stxCode (f : Fmt) (g : Geom) (sat : Bool) (data : List Word) :
    leBytes (elemBytes f) (stxCode f sat (data.headD 0)) = storedBytes (.storex f g sat) data := by
  rw [leBytes_eq_map]
  refine List.map_congr_left fun j _ => ?_
  cases data <;> rfl

theorem length_storedBytes (op : MemOp) (data : List Word) : (storedBytes op data).length = opBytes op := by simp [storedBytes]

theorem bytesAt_map (pa n : Nat) (b : Nat → Byte) :
    bytesAt pa ((List.range n).map b) = (List.range n).map (fun j => (pa + j, b j)) := by
  unfold bytesAt
  refine List.ext_getElem (by simp) (fun j _ _ => ?_)
  simp

/-! ### A core's view of a byte -/

/-- The byte that stands in a die's writes on their way, or else at home. -/
def homeByte (s : State) (d key pa : Nat) : Byte :=
  s.wq.foldl (fun b w => if w.die == d && w.keyid == key then mgetD b w.bytes pa else b) (readPa s key pa)

/-- The bytes of a line that the core's L1 holds written. -/
def dirtyOf (s : State) (c k : Nat) : Map Byte := ((mget (core s c).l1 k).map (·.dirty)).getD []

theorem coreByte_eq (s : State) (c key pa : Nat) :
    coreByte s c key pa = (mget (dirtyOf s c (cacheKey pa key)) pa).getD (homeByte s (dieOf c) key pa) := rfl

theorem cacheKey_eq_iff {pa qa key k : Nat} (hkey : key < 256) (hk : k < 256) :
    cacheKey pa key = cacheKey qa k ↔ pa / lineBytes = qa / lineBytes ∧ key = k := by
  unfold cacheKey
  omega

/-- A view whose cores, writes and memory stay is the same view. -/
theorem coreByte_congr {s t : State} (hc : t.cores = s.cores) (hw : t.wq = s.wq) (hm : SameMemory s t) (c key pa : Nat) :
    coreByte t c key pa = coreByte s c key pa := by
  simp only [coreByte_eq, homeByte, dirtyOf, core, hc, hw, hm key pa]

/-! ### A store held in the L1 -/

theorem mget_puts (ws m : Map Byte) (hnd : (ws.map Prod.fst).Nodup) (x : Nat) :
    mget (ws.foldl (fun m p => mput m p.1 p.2) m) x = (mget ws x).or (mget m x) := by
  refine (get_foldl_puts (put := mput) (get := mget) (val := some) (fun m k v x => mget_mput m k x v) ws m hnd x).trans ?_
  cases mget ws x <;> rfl

theorem length_mput_le {α : Type} (m : Map α) (k : Nat) (v : α) : (mput m k v).length ≤ m.length + 1 := by
  induction m with
  | nil => simp [mput]
  | cons p m ih =>
    unfold mput
    split
    · simp
    split
    · simp
    · simpa using ih

theorem l1Room_of_lt {s : State} {c : Nat} (h : (core s c).l1.length < l1Lines) (k : Nat) : l1Room s c k = s := by
  unfold l1Room
  rw [if_neg]
  simp only [Bool.and_eq_true, decide_eq_true_eq, not_and]
  omega

theorem l1Store_of_lt {s : State} {c : Nat} (h : (core s c).l1.length < l1Lines) (t pa key n : Nat) (b : Nat → Byte)
    (gs : List Gran) : ∃ l : L1Line, l1Store s c t pa key ((List.range n).map b) gs =
      setCore s c { core s c with l1 := mput (core s c).l1 (cacheKey pa key) l } ∧
      l.dirty = ((List.range n).map (fun j => (pa + j, b j))).foldl (fun m p => mput m p.1 p.2) (dirtyOf s c (cacheKey pa key)) := by
  unfold l1Store
  dsimp only
  rw [l1Room_of_lt h]
  refine ⟨_, rfl, ?_⟩
  have hidx : ((List.range n).map b).mapIdx (fun i x => (i, x)) = (List.range n).map (fun j => (j, b j)) :=
    List.ext_getElem (by simp) (fun j _ _ => by simp)
  have hdirty : ∀ (o : Option L1Line) (d : L1Line), d.dirty = [] → (o.getD d).dirty = (o.map (·.dirty)).getD [] := fun o d hd => by
    cases o with
    | none => exact hd
    | some l => rfl
  rw [hidx, List.foldl_map, List.foldl_map, hdirty _ _ rfl]
  rfl

theorem coreByte_l1Store {s : State} {c : Nat} (h : (core s c).l1.length < l1Lines) {pa key n : Nat} (hkey : key < 256)
    (hfit : pa % lineBytes + n ≤ lineBytes) (t : Nat) (b : Nat → Byte) (gs : List Gran) {k : Nat} (hk : k < 256) (x : Nat) :
    coreByte (l1Store s c t pa key ((List.range n).map b) gs) c k x =
      if key = k ∧ pa ≤ x ∧ x < pa + n then b (x - pa) else coreByte s c k x := by
  obtain ⟨l, hstore, hl⟩ := l1Store_of_lt h t pa key n b gs
  have hhome : homeByte (l1Store s c t pa key ((List.range n).map b) gs) (dieOf c) k x = homeByte s (dieOf c) k x := by
    rw [hstore]; rfl
  have hdirty : dirtyOf (l1Store s c t pa key ((List.range n).map b) gs) c (cacheKey x k) =
      if cacheKey x k = cacheKey pa key then l.dirty else dirtyOf s c (cacheKey x k) := by
    unfold dirtyOf
    rw [hstore, core_setCore, if_pos rfl, mget_mput]
    split <;> rfl
  rw [coreByte_eq, coreByte_eq, hhome, hdirty]
  by_cases hline : cacheKey x k = cacheKey pa key
  · obtain ⟨-, hkk⟩ := (cacheKey_eq_iff hk hkey).mp hline
    rw [if_pos hline, hl, mget_puts _ _ (nodup_bytes pa n b), mget_bytes, hline]
    by_cases hx : pa ≤ x ∧ x < pa + n
    · rw [if_pos hx, if_pos ⟨hkk.symm, hx⟩]
      rfl
    · rw [if_neg hx, if_neg fun hr => hx hr.2]
      rfl
  · rw [if_neg hline, if_neg]
    rintro ⟨rfl, hle, hlt⟩
    refine hline ((cacheKey_eq_iff hk hk).mpr ⟨?_, rfl⟩)
    simp only [lineBytes] at hfit ⊢
    omega

theorem l1_l1Store {s : State} {c : Nat} (h : (core s c).l1.length < l1Lines) (t pa key n : Nat) (b : Nat → Byte)
    (gs : List Gran) : let u := l1Store s c t pa key ((List.range n).map b) gs
      (core u c).l1.length ≤ (core s c).l1.length + 1 ∧ CacheOnly s u ∧ u.wq = s.wq ∧
        ∀ p ∈ (core u c).l1, p.1 = cacheKey pa key ∨ p ∈ (core s c).l1 := by
  obtain ⟨l, hstore, -⟩ := l1Store_of_lt h t pa key n b gs
  dsimp only
  rw [hstore, core_setCore, if_pos rfl]
  refine ⟨length_mput_le _ _ _, cacheOnly_setCore _ _ _, rfl, fun p hp => ?_⟩
  rcases mem_mput hp with rfl | hp
  · exact .inl rfl
  · exact .inr hp

/-! ### A write on its way to the port -/

theorem homeByte_sent {s t : State} {w : Wr} (hw : t.wq = s.wq ++ [w]) (hm : SameMemory s t) (d key pa : Nat) :
    homeByte t d key pa = if w.die = d ∧ w.keyid = key then mgetD (homeByte s d key pa) w.bytes pa else homeByte s d key pa := by
  unfold homeByte
  rw [hw, List.foldl_append, hm key pa, List.foldl_cons, List.foldl_nil]
  simp only [Bool.and_eq_true, beq_iff_eq]

theorem dirtyOf_of_absent {s : State} {c pa : Nat} (h : ∀ p ∈ (core s c).l1, lineOfKey p.1 ≠ pa / lineBytes) {key : Nat}
    (hkey : key < 256) : dirtyOf s c (cacheKey pa key) = [] := by
  unfold dirtyOf
  cases hl : mget (core s c).l1 (cacheKey pa key) with
  | none => rfl
  | some l =>
    refine absurd ?_ (h _ (mem_of_mget hl))
    unfold lineOfKey cacheKey
    omega

end Sys2Proof.Machine
end

section
/-! PROOFS. Stores that issue (R81, R226, R227, R231). -/

namespace Sys2Proof.Machine

open Host

/-! ### One lane of a store -/

/-- What a lane's write on its way to the port carries. -/
def sentView (t : Task) (own : Nat × Nat × Nat) (op : MemOp) (la : LaneAcc) :
    Nat × Nat × Nat × Nat × Map Byte × Option (Nat × Nat × Nat) :=
  (dieOf t.core, la.key, t.tenant, la.pa / lineBytes, bytesAt la.pa (storedBytes op la.data), some own)

theorem cores_traceWrite (s : State) (t : Task) (la : LaneAcc) (va n : Nat) : (traceWrite s t la va n).cores = s.cores := by
  rcases traceWrite_eq s t la va n with h | ⟨evs, h⟩ <;> rw [h]
  rfl

theorem countReq_keeps (s : State) (d pa : Nat) : (countReq s d pa).cores = s.cores ∧ (countReq s d pa).wq = s.wq := by
  unfold countReq
  split <;> exact ⟨rfl, rfl⟩

/-- The write that a lane at the port sends. -/
theorem storeLane_port {t : Task} {la : LaneAcc} (h : la.port = true) (s : State) (own : Nat × Nat × Nat) (op : MemOp) :
    let u := storeLane s t own la (storedBytes op la.data)
    Beside s u ∧ u.cores = s.cores ∧ ∃ w : Wr, u.wq = s.wq ++ [w] ∧ w.view = sentView t own op la := by
  dsimp only
  unfold storeLane
  simp only [h, if_true]
  obtain ⟨s1, hs1⟩ : ∃ s1, s1 = countReq (traceWrite s t la la.addr (storedBytes op la.data).length) (dieOf t.core) la.pa := ⟨_, rfl⟩
  have hcount := countReq_keeps (traceWrite s t la la.addr (storedBytes op la.data).length) (dieOf t.core) la.pa
  have hbeside : Beside s s1 := by
    rw [hs1]; exact (beside_traceWrite s t la _ _).trans (cacheOnly_countReq _ _ _).beside
  rw [cores_traceWrite, wq_traceWrite, ← hs1] at hcount
  rw [← hs1]
  exact ⟨hbeside.trans (cacheOnly_sendWriteErr _ _ _ _ _ _ _ _ _).beside, hcount.1, _, congrArg (· ++ [_]) hcount.2, rfl⟩

/-- One lane of a store: its bytes are in the core's view, in the L1 or on their way to the port. -/
theorem storeLane_spec {s : State} {t : Task} {la : LaneAcc} {op : MemOp} (hkey : la.key < 256)
    (hfit : la.pa % lineBytes + opBytes op ≤ lineBytes)
    (hport : la.port = true → ∀ p ∈ (core s t.core).l1, lineOfKey p.1 ≠ la.pa / lineBytes)
    (hroom : (core s t.core).l1.length < l1Lines) (own : Nat × Nat × Nat) :
    let u := storeLane s t own la (storedBytes op la.data)
    Beside s u ∧ u.wq.map Wr.view = s.wq.map Wr.view ++ (if la.port then [sentView t own op la] else []) ∧
      (core u t.core).l1.length ≤ (core s t.core).l1.length + 1 ∧
      (∀ p ∈ (core u t.core).l1, p ∈ (core s t.core).l1 ∨ (la.port = false ∧ lineOfKey p.1 = la.pa / lineBytes)) ∧
      ∀ k x, k < 256 → coreByte u t.core k x =
        if la.key = k ∧ la.pa ≤ x ∧ x < la.pa + opBytes op then storedByte op la.data (x - la.pa) else coreByte s t.core k x := by
  dsimp only
  obtain ⟨u, hu⟩ : ∃ u, u = storeLane s t own la (storedBytes op la.data) := ⟨_, rfl⟩
  rw [← hu]
  by_cases hp : la.port = true
  · obtain ⟨hbeside, hcores, w, hw, hview⟩ := storeLane_port hp s own op
    rw [← hu] at hbeside hcores hw
    have hcore : core u t.core = core s t.core := by unfold core; rw [hcores]
    refine ⟨hbeside, ?_, by rw [hcore]; omega, fun p hpm => .inl (hcore ▸ hpm), fun k x hk => ?_⟩
    · rw [hw, List.map_append, List.map_cons, hview, if_pos hp]; rfl
    · have hdirty : dirtyOf u t.core (cacheKey x k) = dirtyOf s t.core (cacheKey x k) := by unfold dirtyOf; rw [hcore]
      obtain ⟨hdie, hkid, -, -, hbytes, -⟩ : w.die = dieOf t.core ∧ w.keyid = la.key ∧ w.tenant = t.tenant ∧
          w.line = la.pa / lineBytes ∧ w.bytes = bytesAt la.pa (storedBytes op la.data) ∧ w.owner = some own := by
        simpa [Wr.view, sentView] using hview
      rw [coreByte_eq, coreByte_eq, hdirty, homeByte_sent hw hbeside.memory, hdie, hkid, hbytes, mgetD, storedBytes, bytesAt_map, mget_bytes]
      by_cases hx : la.key = k ∧ la.pa ≤ x ∧ x < la.pa + opBytes op
      · have hline : x / lineBytes = la.pa / lineBytes := by
          obtain ⟨-, hle, hlt⟩ := hx
          simp only [lineBytes] at hfit ⊢
          omega
        rw [dirtyOf_of_absent (fun p hpm => hline ▸ hport hp p hpm) hk, if_pos ⟨rfl, hx.1⟩, if_pos hx.2, if_pos hx]
        rfl
      · rw [if_neg hx]
        by_cases hkk : la.key = k
        · rw [if_pos ⟨rfl, hkk⟩, if_neg fun hr => hx ⟨hkk, hr⟩]
          rfl
        · rw [if_neg fun hr => hkk hr.2]
  · obtain ⟨s1, hs1⟩ : ∃ s1, s1 = traceWrite s t la la.addr (storedBytes op la.data).length := ⟨_, rfl⟩
    have hbeside : Beside s s1 := by rw [hs1]; exact beside_traceWrite s t la _ _
    have hcores : s1.cores = s.cores := by rw [hs1]; exact cores_traceWrite s t la _ _
    have hwq : s1.wq = s.wq := by rw [hs1]; exact wq_traceWrite s t la _ _
    have hcore : core s1 t.core = core s t.core := by unfold core; rw [hcores]
    have hstore : ∃ gs, u = l1Store s1 t.core t.tenant la.pa la.key ((List.range (opBytes op)).map (storedByte op la.data)) gs := by
      refine ⟨laneGrans s t la la.addr (storedBytes op la.data).length, ?_⟩
      rw [hu, hs1]
      unfold storeLane
      simp only [hp, Bool.false_eq_true, if_false]
      rfl
    obtain ⟨gs, hstore⟩ := hstore
    have hroom1 : (core s1 t.core).l1.length < l1Lines := by rw [hcore]; exact hroom
    obtain ⟨hlen, hcache, hwq2, hlines⟩ := l1_l1Store hroom1 t.tenant la.pa la.key (opBytes op) (storedByte op la.data) gs
    rw [← hstore] at hlen hcache hwq2 hlines
    refine ⟨hbeside.trans hcache.beside, by rw [hwq2, hwq, if_neg hp, List.append_nil], by rw [← hcore]; exact hlen,
      fun p hpm => ?_, fun k x hk => ?_⟩
    · rcases hlines p hpm with hpk | hpm
      · refine .inr ⟨Bool.eq_false_iff.mpr hp, ?_⟩
        rw [hpk]
        unfold lineOfKey cacheKey
        omega
      · exact .inl (hcore ▸ hpm)
    · rw [hstore, coreByte_l1Store hroom1 hkey hfit _ _ _ hk]
      exact if_congr Iff.rfl rfl (coreByte_congr hcores hwq hbeside.memory _ _ _)

/-! ### All lanes of a store, in ascending order -/

/-- The lanes that store to a byte. -/
def storersOf (n : Nat) (las : List LaneAcc) (key pa : Nat) : List LaneAcc :=
  las.filter (fun la => la.key == key && decide (la.pa ≤ pa) && decide (pa < la.pa + n))

/-- What stands after a store's lanes in a byte that held b. -/
def storedOver (op : MemOp) (las : List LaneAcc) (key pa : Nat) (b : Byte) : Byte :=
  match (storersOf (opBytes op) las key pa).getLast? with
  | some la => storedByte op la.data (pa - la.pa)
  | none => b

theorem storedOver_cons (op : MemOp) (la : LaneAcc) (las : List LaneAcc) (key pa : Nat) (b : Byte) :
    storedOver op (la :: las) key pa b = storedOver op las key pa
      (if la.key = key ∧ la.pa ≤ pa ∧ pa < la.pa + opBytes op then storedByte op la.data (pa - la.pa) else b) := by
  unfold storedOver storersOf
  rw [List.filter_cons]
  by_cases h : la.key = key ∧ la.pa ≤ pa ∧ pa < la.pa + opBytes op
  · rw [if_pos (by simpa [and_assoc] using h), if_pos h, List.getLast?_cons]
    cases (las.filter (fun la => la.key == key && decide (la.pa ≤ pa) && decide (pa < la.pa + opBytes op))).getLast? <;> rfl
  · rw [if_neg (by simpa [and_assoc] using h), if_neg h]

theorem storeLanes_spec {t : Task} {op : MemOp} (own : Nat × Nat × Nat) (las : List LaneAcc) : ∀ s : State,
    (∀ la ∈ las, la.key < 256 ∧ la.pa % lineBytes + opBytes op ≤ lineBytes) →
    (∀ la ∈ las, la.port = true → ∀ p ∈ (core s t.core).l1, lineOfKey p.1 ≠ la.pa / lineBytes) →
    (∀ x ∈ las, ∀ y ∈ las, x.pa / lineBytes = y.pa / lineBytes → x.port = y.port) →
    (core s t.core).l1.length + las.length ≤ l1Lines →
    let u := las.foldl (fun s la => storeLane s t own la (storedBytes op la.data)) s
    Beside s u ∧ u.wq.map Wr.view = s.wq.map Wr.view ++ (las.filter LaneAcc.port).map (sentView t own op) ∧
      ∀ k x, k < 256 → coreByte u t.core k x = storedOver op las k x (coreByte s t.core k x) := by
  induction las with
  | nil => exact fun s _ _ _ _ => ⟨Beside.refl s, (List.append_nil _).symm, fun _ _ _ => rfl⟩
  | cons la las ih =>
    intro s hlas hport hagree hroom
    rw [List.length_cons] at hroom
    obtain ⟨hkey, hfit⟩ := hlas la List.mem_cons_self
    obtain ⟨hbeside, hwq, hlen, hlines, hbyte⟩ :=
      storeLane_spec hkey hfit (hport la List.mem_cons_self) (by omega) own
    obtain ⟨s1, hs1⟩ : ∃ s1, s1 = storeLane s t own la (storedBytes op la.data) := ⟨_, rfl⟩
    rw [← hs1] at hbeside hwq hlen hlines hbyte
    obtain ⟨hbeside2, hwq2, hbyte2⟩ := ih s1 (fun lb hlb => hlas lb (List.mem_cons_of_mem la hlb))
      (fun lb hlb hp p hpm => by
        rcases hlines p hpm with hold | ⟨hnp, hline⟩
        · exact hport lb (List.mem_cons_of_mem la hlb) hp p hold
        · rintro heq
          have := hagree la List.mem_cons_self lb (List.mem_cons_of_mem la hlb) (hline.symm.trans heq)
          rw [hnp, hp] at this
          cases this)
      (fun x hx y hy => hagree x (List.mem_cons_of_mem la hx) y (List.mem_cons_of_mem la hy)) (by omega)
    dsimp only
    rw [List.foldl_cons, ← hs1]
    refine ⟨hbeside.trans hbeside2, ?_, fun k x hk => ?_⟩
    · rw [hwq2, hwq, List.append_assoc, List.filter_cons]
      cases la.port <;> rfl
    · rw [hbyte2 k x hk, hbyte k x hk, storedOver_cons]

/-! ### The instruction -/

/-- The form of an access that only stores. -/
def MemOp.isStore : MemOp → Bool
  | .store _ _ => true
  | .storex _ _ _ => true
  | _ => false

theorem flags_of_isStore {op : MemOp} (h : op.isStore = true) : opOrder op = (.group, .relaxed) ∧ opWrites op = true ∧
    opOrdReads op = false ∧ opCountsLd op = false := by
  cases op with
  | store sz home => exact ⟨rfl, rfl, rfl, rfl⟩
  | storex f g sat => exact ⟨rfl, rfl, rfl, rfl⟩
  | _ => cases h

/-- A group with this many lanes' writes on their way to the port. -/
def Group.sending (id n : Nat) (x : Group) : Group :=
  if n = 0 then x else { x with stores := mput x.stores id (mgetD 0 x.stores id + n) }

/-- The state in which a store has issued: its writes are counted, and its lanes have stored. -/
def storeIssued (s : State) (c : Ctx) (op : MemOp) (las : List LaneAcc) : State :=
  las.foldl (fun v la => storeLane v c.task (c.tid, c.g, s.serial) la (storedBytes op la.data))
    (if (las.filter LaneAcc.port).length = 0 then { s with serial := s.serial + 1 }
     else modGroup { s with serial := s.serial + 1 } c.tid c.g (Group.sending s.serial (las.filter LaneAcc.port).length))

theorem perform_store {op : MemOp} (h : op.isStore = true) (hport : opAtPort op = false) {las : List LaneAcc} (hne : las ≠ [])
    (s : State) (c : Ctx) :
    perform { s with serial := s.serial + 1 } c.tid c.g c.task op s.serial c.act las = storeIssued s c op las := by
  unfold perform storeIssued
  rw [if_neg (by simpa using hne)]
  have hsend : ∀ n, n ≠ 0 → modGroup { s with serial := s.serial + 1 } c.tid c.g
      (fun x => { x with stores := mput x.stores s.serial (mgetD 0 x.stores s.serial + n) }) =
      modGroup { s with serial := s.serial + 1 } c.tid c.g (Group.sending s.serial n) := fun n hn => by
    refine congrArg (modGroup _ c.tid c.g) (funext fun x => ?_)
    rw [Group.sending, if_neg hn]
  cases op with
  | store sz home =>
    simp only [leBytes_wordsNat sz home]
    split
    · rfl
    · next hn => rw [hsend _ hn]
  | storex f g sat =>
    simp only [hport, Bool.false_eq_true, if_false, leBytes_stxCode f g sat]
    split
    · rfl
    · next hn => rw [hsend _ hn]
  | _ => cases h

theorem laneSpans_of_store {op : MemOp} (h : op.isStore = true) (hport : opAtPort op = false) (la : LaneAcc) :
    laneSpans op la = [(la.pa, opBytes op)] := by
  cases op with
  | store sz home => rfl
  | storex f g sat =>
    simp only [opAtPort, Bool.or_eq_false_iff] at hport
    simp [laneSpans, hport.1, opBytes]
  | _ => cases h

theorem flushLanes_of_absent {op : MemOp} (h : op.isStore = true) (hport : opAtPort op = false) {s : State} {c : Nat}
    {las : List LaneAcc} (hl1 : ∀ la ∈ las, la.port = true → ∀ p ∈ (core s c).l1, lineOfKey p.1 ≠ la.pa / lineBytes) :
    flushLanes s c op las = s := by
  unfold flushLanes
  induction las with
  | nil => rfl
  | cons la las ih =>
    rw [List.foldl_cons, laneSpans_of_store h hport, List.foldl_cons, List.foldl_nil]
    have hla : (if la.port then flushLine s c la.pa else s) = s := by
      split
      · next hp => exact flushLine_of_absent (hl1 la List.mem_cons_self hp)
      · rfl
    rw [hla]
    exact ih fun lb hlb => hl1 lb (List.mem_cons_of_mem la hlb)

/-- A store whose lanes all pass their checks issues, where nothing of its group is outstanding. -/
theorem gmem_store {c : Ctx} {s s1 : State} {op : MemOp} {accs las : List LaneAcc} (hop : op.isStore = true)
    (hport : opAtPort op = false) (hq : Quiet c.grp) (hgo : Granted s c op accs s1 las)
    (hmap : ∀ la ∈ las, mapHolds s la.pa = false) (hord : (∃ la ∈ las, la.ordsh = true) → tokenPos s c.task ≠ .before)
    (hl1 : ∀ la ∈ las, la.port = true → ∀ p ∈ (core s1 c.task.core).l1, lineOfKey p.1 ≠ la.pa / lineBytes) (hne : las ≠ []) :
    gmem c s op accs = .ok (storeIssued s1 c op las) := by
  obtain ⟨hcheck, hlen⟩ := hgo
  have hlog : logHolds c.grp (accs.map (fun la => la.addr / 2 ^ 12)) = false := by simp [logHolds, oplog_of_quiet hq]
  have hst : stCount c.grp = 0 := by simp [stCount, hq.2.1, oplog_of_quiet hq]
  have hmaps : las.any (fun la => mapHolds s la.pa) = false := List.any_eq_false.mpr (fun la hla => by simp [hmap la hla])
  have htok : (las.any (·.ordsh) && opOrdWrites op && tokenPos s c.task == .before) = false := by
    by_cases hany : las.any (·.ordsh) = true
    · simp [hord (List.any_eq_true.mp hany)]
    · simp [hany]
  have hahead : (loadAhead c.grp (las.flatMap (laneSpans op)) || tsoAhead c.grp las) = false := by simp [loadAhead, tsoAhead, hq.1]
  obtain ⟨horder, hwrites, hreads, hcounts⟩ := flags_of_isStore hop
  have hrel : ordRel AOrd.relaxed = false := rfl
  have hacq : ordAcq AOrd.relaxed = false := rfl
  unfold gmem
  simp only [hst, hlog, hcheck, laneTrap_zip_go, goLanes_zip_go hlen, servedLanes_zip_go, hmaps, htok, hahead, horder, hreads,
    hcounts, hport, hrel, hacq, perform_store hop hport hne]
  simp [flushLanes_of_absent hop hport hl1]

theorem isStore_of_storeOf {i : Instr} {q : Access} (h : storeOf i = some q) : q.op.isStore = true ∧ q.writes = [] := by
  unfold storeOf at h
  split at h
  case h_3 => cases h
  all_goals
    cases h
    exact ⟨rfl, rfl⟩

theorem length_accs_of_storeOf {i : Instr} {q : Access} (h : storeOf i = some q) (c : Ctx) : (q.accs c).length = c.lanes.length := by
  unfold storeOf at h
  split at h
  case h_3 => cases h
  all_goals
    cases h
    exact List.length_map _

/-- The key of a page is a byte of its entry. -/
theorem key_of_laneCheck {s s1 : State} {t : Task} {user : Bool} {op : MemOp} {acc la : LaneAcc}
    (h : laneCheck s t user op acc = (s1, .go la)) : la.key < 256 := by
  unfold laneCheck at h
  repeat' (split at h <;> try (cases h; exact Nat.mod_lt _ (by decide)))
  all_goals cases h

/-- Settles O24: each lane's bytes come to its core's view, in the L1 or on their way to the port, and its bundle advances. -/
theorem storesIssue : Obligations.StoresIssue := by
  unfold Obligations.StoresIssue
  intro i q s s1 c las hi hport he hq hgo hord hl1 hagree hmap hroom n hfit
  obtain ⟨-, -, -, -, -, hg, -⟩ := group_of_bundle he.1.2
  obtain ⟨hop, hnw⟩ := isStore_of_storeOf hi
  have hlen : las.length = c.lanes.length := hgo.2.trans (length_accs_of_storeOf hi c)
  have hne : las ≠ [] := fun hnil => lanes_ne_nil he.2.2 (List.length_eq_zero_iff.mp (by rw [← hlen, hnil]; rfl))
  have hg1 : group s1 c.tid c.g = some c.grp := (hgo.translates.group _ _).trans hg
  -- the state in which the lanes' writes are counted
  obtain ⟨p, hp⟩ : ∃ p, p = (las.filter LaneAcc.port).length := ⟨_, rfl⟩
  obtain ⟨y, hy⟩ : ∃ y : Group, y = { c.grp with stores := if p = 0 then [] else [(s1.serial, p)] } := ⟨_, rfl⟩
  obtain ⟨s2, hs2⟩ : ∃ s2, s2 = (if p = 0 then { s1 with serial := s1.serial + 1 }
     else modGroup { s1 with serial := s1.serial + 1 } c.tid c.g (Group.sending s1.serial p)) := ⟨_, rfl⟩
  have hcounted : OnlyGroupIn s1 s2 c ∧ SameMemory s1 s2 ∧ s2.cores = s1.cores ∧ s2.wq = s1.wq ∧ group s2 c.tid c.g = some y := by
    have hserial : CacheOnly s1 { s1 with serial := s1.serial + 1 } := rfl
    rw [hs2, hy]
    split
    · rw [← hq.2.1]
      exact ⟨hserial.homeOnly.onlyGroupIn c, hserial.memory, rfl, rfl, (hserial.group _ _).trans hg1⟩
    · next hn =>
      refine ⟨(hserial.homeOnly.onlyGroupIn c).trans (onlyGroupIn_modGroup _ c _), hserial.memory, rfl, rfl,
        (group_modGroup_some _ ((hserial.group _ _).trans hg1)).trans ?_⟩
      rw [Group.sending, if_neg hn, hq.2.1, mgetD]
      simp [mput, mget]
  obtain ⟨honly, hmem, hcores, hwq, hgroup⟩ := hcounted
  have hcore : core s2 c.task.core = core s1 c.task.core := by unfold core; rw [hcores]
  -- its lanes in turn
  obtain ⟨hbeside, hsent, hbytes⟩ := storeLanes_spec (t := c.task) (op := q.op) (c.tid, c.g, s1.serial) las s2
    (fun la hla => by
      obtain ⟨acc, -, u, v, hcheck⟩ := hgo.acc_of_mem hla
      exact ⟨key_of_laneCheck hcheck, hfit la hla⟩)
    (fun la hla => hcore ▸ hl1 la hla) hagree (by rw [hcore]; exact hroom)
  obtain ⟨s3, hs3⟩ : ∃ s3, s3 = storeIssued s1 c q.op las := ⟨_, rfl⟩
  have hissued : las.foldl (fun s la => storeLane s c.task (c.tid, c.g, s1.serial) la (storedBytes q.op la.data)) s2 = s3 := by
    rw [hs3, hs2, hp]; rfl
  rw [hissued] at hbeside hsent hbytes
  have hbody : gmem c s q.op (q.accs c) = .ok s3 := hs3 ▸ gmem_store hop hport hq hgo hmap hord hl1 hne
  have hrest := rest_stepped c (fairOn s3 c.ten) y
  rw [exec_store hi]
  refine ⟨_, c.stepped (fairOn s3 c.ten) y, s1.serial, run_ok (by rw [hnw, List.append_nil]; exact he) hbody,
    honly.trans ((hbeside.onlyGroupIn c).trans (onlyGroupIn_modGroup s3 c _)),
    fun k a => (hbeside.memory k a).trans (hmem k a), group_modGroup_some _ ((hbeside.group _ _).trans hgroup),
    moved_stepped c _ (by rw [hy]; rfl) (by rw [hy]; exact fun _ hn => hn), fun r i _ => ?_, fun r => ?_, ?_, ?_, ?_,
    fun pa key hkey => ?_⟩
  · rw [stepped_reg, hy]
    cases r <;> rfl
  · rw [stepped_pred, hy]
    rfl
  · have hold : c.grp.rest.stores = [] := hq.2.1
    rw [hrest, hy, ← hold]
    rfl
  · have hstores := congrArg Group.stores hrest
    refine Eq.trans hstores ?_
    rw [hy, ← hp]
    rfl
  · refine hsent.trans ?_
    rw [hwq]
    refine congrArg (s1.wq.map Wr.view ++ ·) (List.map_congr_left fun la _ => ?_)
    rw [sentView, storedBytes, bytesAt_map]
  · refine Eq.trans (coreByte_congr rfl rfl (fun _ _ => rfl) _ _ _) ((hbytes key pa hkey).trans ?_)
    rw [coreByte_congr hcores hwq hmem]
    rfl

end Sys2Proof.Machine
end

section
/-! SUPPORT. Reads of engines and copies (R79, R81): the granules of a checked access, and the bytes that they return. -/

namespace Sys2Proof.Machine

open Host

/-! ### Sets of numbers kept in order -/

theorem insertNat_sorted {l : List Nat} (x : Nat) (h : l.Pairwise (· < ·)) : (insertNat x l).Pairwise (· < ·) := by
  induction l with
  | nil => exact List.pairwise_singleton _ _
  | cons y l ih =>
    obtain ⟨hy, hl⟩ := List.pairwise_cons.mp h
    unfold insertNat
    split
    · next hx =>
      refine List.pairwise_cons.mpr ⟨fun z hz => ?_, h⟩
      rcases List.mem_cons.mp hz with rfl | hz
      · exact hx
      · exact hx.trans (hy z hz)
    split
    · exact h
    · next hxy hne =>
      refine List.pairwise_cons.mpr ⟨fun z hz => ?_, ih hl⟩
      rcases mem_insertNat.mp hz with rfl | hz
      · omega
      · exact hy z hz

theorem foldl_insertNat {α : Type} (f : α → Nat) (as : List α) : ∀ l : List Nat, l.Pairwise (· < ·) →
    (as.foldl (fun l a => insertNat (f a) l) l).Pairwise (· < ·) ∧
      ∀ x, x ∈ as.foldl (fun l a => insertNat (f a) l) l ↔ x ∈ l ∨ ∃ a ∈ as, f a = x := by
  induction as with
  | nil => exact fun l h => ⟨h, fun x => by simp⟩
  | cons a as ih =>
    intro l h
    obtain ⟨hsort, hmem⟩ := ih (insertNat (f a) l) (insertNat_sorted _ h)
    refine ⟨hsort, fun x => ?_⟩
    rw [List.foldl_cons, hmem, mem_insertNat, List.exists_mem_cons_iff]
    tauto

theorem granules_sorted (vas : List Nat) : (granules vas).Pairwise (· < ·) :=
  (foldl_insertNat (fun a => a / 32) vas [] .nil).1

theorem mem_granules {vas : List Nat} {g : Nat} : g ∈ granules vas ↔ ∃ va ∈ vas, va / 32 = g := by
  refine ((foldl_insertNat (fun a => a / 32) vas [] .nil).2 g).trans ?_
  simp

/-! ### The granules of a checked access -/

theorem translates_engTouch (s : State) (t : Task) (user rd wr : Bool) (fmt : Option (Fmt × Geom)) (g : Nat) :
    Translates s (engTouch s t user rd wr fmt g).1 := by
  have hacc := translates_access s (.tile t.core) t.tenant (rootOf s t) (32 * g) { r := rd, w := wr, x := false, user := user }
  unfold engTouch
  dsimp only
  split
  · exact Translates.refl s
  · split
    · next hr => rw [hr] at hacc; exact hacc
    · next hr => rw [hr] at hacc; exact hacc
    · next hr =>
      rw [hr] at hacc
      repeat' split
      all_goals exact hacc

theorem translates_engTouches (t : Task) (user rd wr : Bool) (fmt : Option (Fmt × Geom)) (gs : List Nat) (s : State) :
    Translates s (engTouches s t user rd wr fmt gs).1 := by
  induction gs generalizing s with
  | nil => exact Translates.refl s
  | cons g gs ih => exact (translates_engTouch s t user rd wr fmt g).trans (ih _)

/-- A granule that goes on stands at its address, under a key of its page. -/
theorem engTouch_go {s : State} {t : Task} {user rd wr : Bool} {fmt : Option (Fmt × Geom)} {g : Nat} {la : LaneAcc}
    (h : (engTouch s t user rd wr fmt g).2 = .go la) : la.addr = 32 * g ∧ la.key < 256 := by
  unfold engTouch at h
  dsimp only at h
  repeat' (split at h <;> try (cases h; exact ⟨rfl, Nat.mod_lt _ (by decide)⟩))
  all_goals cases h

/-- The granules of a plan that goes on: one after another, each with its place. -/
structure Granules (vas : List Nat) (las : List LaneAcc) : Prop where
  addrs : las.map LaneAcc.addr = (granules vas).map (32 * ·)
  keys : ∀ la ∈ las, la.key < 256

theorem engTouches_go (t : Task) (user rd wr : Bool) (fmt : Option (Fmt × Geom)) (gs : List Nat) : ∀ s : State,
    (∀ p ∈ (engTouches s t user rd wr fmt gs).2, ∃ la, p.2 = .go la) →
    let las := (engTouches s t user rd wr fmt gs).2.filterMap (fun p => match p.2 with
      | .go la => some la
      | _ => none)
    las.map LaneAcc.addr = gs.map (32 * ·) ∧ ∀ la ∈ las, la.key < 256 := by
  induction gs with
  | nil => exact fun s _ => ⟨rfl, fun la hla => nomatch hla⟩
  | cons g gs ih =>
    intro s hgo
    obtain ⟨la, hla⟩ := hgo (32 * g, (engTouch s t user rd wr fmt g).2) List.mem_cons_self
    obtain ⟨haddr, hkey⟩ := engTouch_go hla
    obtain ⟨haddrs, hkeys⟩ := ih (engTouch s t user rd wr fmt g).1 fun p hp => hgo p (List.mem_cons_of_mem _ hp)
    have hcons : (engTouches s t user rd wr fmt (g :: gs)).2 = (32 * g, EngOut.go la) ::
      (engTouches (engTouch s t user rd wr fmt g).1 t user rd wr fmt gs).2 := by rw [← hla]; rfl
    dsimp only
    rw [hcons]
    refine ⟨?_, fun lb hlb => ?_⟩
    · rw [List.filterMap_cons]
      exact congrArg₂ List.cons haddr haddrs
    · rw [List.filterMap_cons] at hlb
      rcases List.mem_cons.mp hlb with rfl | hlb
      · exact hkey
      · exact hkeys lb hlb

theorem engPlan_go {s s1 : State} {t : Task} {user rd wr : Bool} {fmt : Option (Fmt × Geom)} {vas : List Nat} {las : List LaneAcc}
    (h : engPlan s t user rd wr fmt vas = .go s1 las) : Translates s s1 ∧ Granules vas las := by
  have htr := translates_engTouches t user rd wr fmt (granules vas) s
  have hgo := engTouches_go t user rd wr fmt (granules vas) s
  unfold engPlan at h
  dsimp only at h
  split at h
  · cases h
  · cases h
  · next hbads hserves =>
    split at h
    · cases h
    · next hhold =>
      obtain ⟨rfl, rfl⟩ := EngPlan.go.inj h
      refine ⟨htr, ?_⟩
      obtain ⟨haddrs, hkeys⟩ := hgo fun p hp => by
        have hbad := List.filterMap_eq_nil_iff.mp hbads p hp
        have hserve := List.filterMap_eq_nil_iff.mp hserves p hp
        have hhold := List.any_eq_false.mp (Bool.eq_false_iff.mpr hhold) p hp
        cases ho : p.2 with
        | go la => exact ⟨la, rfl⟩
        | serve v => rw [ho] at hserve; cases hserve
        | bad k => rw [ho] at hbad; cases hbad
        | hold => rw [ho] at hhold; exact absurd rfl hhold
      exact ⟨haddrs, hkeys⟩

namespace Granules
variable {vas : List Nat} {las : List LaneAcc}

theorem addr_mod (h : Granules vas las) {la : LaneAcc} (hla : la ∈ las) : la.addr % 32 = 0 := by
  have hmem : la.addr ∈ (granules vas).map (32 * ·) := h.addrs ▸ List.mem_map_of_mem hla
  obtain ⟨g, -, hg⟩ := List.mem_map.mp hmem
  omega

theorem nodup (h : Granules vas las) : (las.map (fun la => la.addr / 32)).Nodup := by
  have hmap : las.map (fun la => la.addr / 32) = granules vas := by
    have := congrArg (List.map (· / 32)) h.addrs
    rw [List.map_map, List.map_map] at this
    refine this.trans ((List.map_congr_left fun g _ => ?_).trans (List.map_id _))
    show 32 * g / 32 = id g
    rw [id, Nat.mul_div_cancel_left g (by decide)]
  rw [hmap]
  exact (granules_sorted vas).imp fun hlt => Nat.ne_of_lt hlt

theorem exists_of_mem (h : Granules vas las) {va : Nat} (hva : va ∈ vas) : ∃ la ∈ las, la.addr / 32 = va / 32 := by
  have hmem : 32 * (va / 32) ∈ las.map LaneAcc.addr := h.addrs ▸ List.mem_map_of_mem (mem_granules.mpr ⟨va, hva, rfl⟩)
  obtain ⟨la, hla, haddr⟩ := List.mem_map.mp hmem
  exact ⟨la, hla, by omega⟩

end Granules

/-- The granule of an address is found by its number. -/
theorem find_granule {las : List LaneAcc} (h : (las.map (fun la => la.addr / 32)).Nodup) {la : LaneAcc} (hla : la ∈ las) {va : Nat}
    (hva : la.addr / 32 = va / 32) : las.find? (fun x => x.addr / 32 == va / 32) = some la := by
  induction las with
  | nil => cases hla
  | cons x las ih =>
    obtain ⟨hx, hnd⟩ := List.nodup_cons.mp (List.map_cons ▸ h)
    rcases List.mem_cons.mp hla with rfl | hla
    · simp [hva]
    · have hne : x.addr / 32 ≠ va / 32 := fun he => hx (he.trans hva.symm ▸ List.mem_map_of_mem hla)
      rw [List.find?_cons_of_neg (by simpa using hne)]
      exact ih hnd hla

/-! ### Lines read through the far-line cache -/

theorem mem_applyUpds {us : List FarUpd} {x : Die} {p : Nat × RLine} (h : p ∈ (us.foldl applyUpd x).far) :
    ∃ q ∈ x.far, q.1 = p.1 ∧ ((∀ u ∈ us, u.line ≠ lineOfKey p.1) → q.2.data = p.2.data) := by
  induction us generalizing x with
  | nil => exact ⟨p, h, rfl, fun _ => rfl⟩
  | cons u us ih =>
    obtain ⟨r, hr, hkey, hdata⟩ := ih h
    obtain ⟨q, hq, hqr⟩ := List.mem_map.mp hr
    refine ⟨q, hq, ?_, fun hlines => ?_⟩
    · rw [← hkey, ← hqr]
      split <;> rfl
    · rw [← hdata fun v hv => hlines v (List.mem_cons_of_mem u hv), ← hqr]
      split
      · next hu =>
        have hline : lineOfKey q.1 = u.line := by simp at hu; exact hu.1
        have hqp : q.1 = p.1 := by rw [← hkey, ← hqr]; split <;> rfl
        exact absurd (hqp ▸ hline.symm) (hlines u List.mem_cons_self)
      · rfl

theorem mem_splitUpds {p : Nat → FarUpd → Bool} {us : List FarUpd} {u : FarUpd}
    (h : u ∈ (splitUpds p us).take ∨ u ∈ (splitUpds p us).keep) : u ∈ us := by
  have hmem : ∀ q ∈ us.zipIdx, q.1 ∈ us := fun q hq => (List.mem_zipIdx' hq).2 ▸ List.getElem_mem _
  unfold splitUpds at h
  generalize us.zipIdx = zs at h hmem
  induction zs with
  | nil => simp at h
  | cons q zs ih =>
    have hq := hmem q List.mem_cons_self
    have hrest := fun h => ih h fun r hr => hmem r (List.mem_cons_of_mem q hr)
    rw [List.foldr_cons] at h
    split at h
    · rcases h with h | h
      · rcases List.mem_cons.mp h with rfl | h
        · exact hq
        · exact hrest (.inl h)
      · exact hrest (.inr h)
    · rcases h with h | h
      · exact hrest (.inl h)
      · rcases List.mem_cons.mp h with rfl | h
        · exact hq
        · exact hrest (.inr h)

/-- What the far-line cache holds of a line is what memory holds, and no update of the line is on its way. -/
def FarTrue (x : Die) (line key : Nat) (data : List Byte) : Prop :=
  ∀ p ∈ x.far, p.1 = 256 * line + key → p.2.data = data ∧ ∀ u ∈ x.farq, u.line ≠ line

theorem FarTrue.catchUp {x : Die} {line key : Nat} {data : List Byte} (hkey : key < 256) (h : FarTrue x line key data)
    (p : Nat → FarUpd → Bool) : FarTrue (catchUp p x) line key data := by
  intro r hr hrk
  obtain ⟨q, hq, hqr, hdata⟩ := mem_applyUpds hr
  obtain ⟨hold, hnone⟩ := h q hq (hqr.trans hrk)
  have hline : lineOfKey r.1 = line := by rw [hrk]; unfold lineOfKey; omega
  refine ⟨(hdata fun u hu => ?_).symm.trans hold, fun u hu => hnone u (mem_splitUpds (.inr (farq_catchUp p x ▸ hu)))⟩
  rw [hline]
  exact hnone u (mem_splitUpds (.inl hu))

theorem farq_caughtUp {p : Nat → FarUpd → Bool} {x : Die} {line : Nat} (h : ∀ i u, u.line = line → p i u = true) :
    ∀ u ∈ (catchUp p x).farq, u.line ≠ line := by
  intro u hu hline
  obtain ⟨i, hi⟩ := not_of_mem_keep (farq_catchUp p x ▸ hu)
  rw [h i u hline] at hi
  cases hi

theorem FarTrue.farPut {x : Die} {line key : Nat} {data : List Byte} (h : FarTrue x line key data) {k : Nat} {l : RLine}
    (hnew : k = 256 * line + key → l.data = data ∧ ∀ u ∈ x.farq, u.line ≠ line) : FarTrue (farPut x k l) line key data := by
  intro p hp hpk
  rcases mem_mput hp with rfl | hp
  · exact hnew hpk
  · refine h p ?_ hpk
    split at hp
    · exact List.mem_of_mem_drop hp
    · exact hp

theorem far_observe (s : State) (d e : Nat) (st : List Nat) :
    (die (observe s d st) e).far = (die s e).far ∧ (die (observe s d st) e).farq = (die s e).farq := by
  unfold observe
  rw [die_setDie]
  split
  · next he => rw [he]; exact ⟨rfl, rfl⟩
  · exact ⟨rfl, rfl⟩

theorem farTrue_observe {s : State} {d line key : Nat} {data : List Byte} (h : FarTrue (die s d) line key data) (st : List Nat) :
    FarTrue (die (observe s d st) d) line key data := by
  obtain ⟨hfar, hq⟩ := far_observe s d d st
  unfold FarTrue
  rw [hfar, hq]
  exact h

theorem cacheKey_line (line key : Nat) : cacheKey (line * lineBytes) key = 256 * line + key := by
  rw [cacheKey, Nat.mul_div_cancel line (by decide)]

/-- A die's read with the far-line cache: through it when the home is another die, and at the home otherwise. -/
theorem cacheOnly_dieRead_far (s : State) (d pa key : Nat) (far : Bool) : CacheOnly s (dieRead s d pa key far).1 := by
  unfold dieRead
  dsimp only
  have hcount := cacheOnly_countReq s d (pa / lineBytes * lineBytes)
  have hobs : ∀ (v : State) (st : List Nat), CacheOnly v (observe v d st) := fun v st => cacheOnly_setDie v d _
  split
  · exact hcount.trans (hobs _ _)
  split
  · exact (hcount.trans (cacheOnly_setDie _ _ _)).trans (hobs _ _)
  split
  · exact (hcount.trans (cacheOnly_setDie _ _ _)).trans (hobs _ _)
  · exact (((hcount.trans (cacheOnly_setDie _ _ _)).trans (cacheOnly_setDie _ _ _)).trans (cacheOnly_setDie _ _ _)).trans (hobs _ _)

/-- A read of a line leaves what the far-line cache holds true. -/
theorem farTrue_dieRead {s : State} {d line key : Nat} (hkey : key < 256)
    (h : FarTrue (die s d) line key (readPas s key (line * lineBytes) lineBytes)) (pa : Nat) {k : Nat} (hk : k < 256) (far : Bool) :
    FarTrue (die (dieRead s d pa k far).1 d) line key (readPas s key (line * lineBytes) lineBytes) := by
  have hcount : FarTrue (die (countReq s d (pa / lineBytes * lineBytes)) d) line key (readPas s key (line * lineBytes) lineBytes) := by
    rw [die_countReq]; exact h
  unfold dieRead
  dsimp only
  generalize hs0 : countReq s d (pa / lineBytes * lineBytes) = s0 at hcount ⊢
  have hmem0 : SameMemory s s0 := hs0 ▸ (cacheOnly_countReq s d _).memory
  split
  · exact farTrue_observe hcount _
  generalize hs1 : setDie s0 d (catchUp (fun _ u => u.line == pa / lineBytes && (!far || u.origin == d)) (die s0 d)) = s1
  have hcaught : FarTrue (die s1 d) line key (readPas s key (line * lineBytes) lineBytes) := by
    rw [← hs1, die_setDie, if_pos rfl]; exact hcount.catchUp hkey _
  have hmem1 : SameMemory s s1 := fun m a => by rw [← hs1]; exact hmem0 m a
  split
  · exact farTrue_observe hcaught _
  split
  · exact farTrue_observe hcaught _
  · generalize hp : (fun (_ : Nat) (u : FarUpd) => u.line == pa / lineBytes || named (lineStamp s1 (pa / lineBytes)) u) = p
    refine farTrue_observe ?_ _
    rw [die_setDie, if_pos rfl, die_setDie, if_pos rfl]
    refine (hcaught.catchUp hkey p).farPut fun hkk => ?_
    rw [cacheKey_line] at hkk
    obtain ⟨hline, hkeys⟩ : pa / lineBytes = line ∧ k = key := by omega
    refine ⟨?_, farq_caughtUp fun i u hu => ?_⟩
    · dsimp only
      rw [hline, hkeys]
      exact readPas_of_memory (fun m a => hmem1 m a) key _ _
    · rw [← hp, hline]
      simp [hu]

/-- A read through a far-line cache that holds nothing stale of the line returns what memory holds. -/
theorem data_dieRead_far {s : State} {d pa key : Nat} (hkey : key < 256)
    (h : FarTrue (die s d) (pa / lineBytes) key (readPas s key (pa / lineBytes * lineBytes) lineBytes)) :
    (dieRead s d pa key true).2 = readPas s key (pa / lineBytes * lineBytes) lineBytes := by
  have hcount : FarTrue (die (countReq s d (pa / lineBytes * lineBytes)) d) (pa / lineBytes) key
      (readPas s key (pa / lineBytes * lineBytes) lineBytes) := by rw [die_countReq]; exact h
  unfold dieRead
  dsimp only
  generalize hs0 : countReq s d (pa / lineBytes * lineBytes) = s0 at hcount ⊢
  have hmem0 : SameMemory s s0 := hs0 ▸ (cacheOnly_countReq s d _).memory
  split
  · exact readPas_of_memory hmem0 _ _ _
  generalize hs1 : setDie s0 d (catchUp (fun _ u => u.line == pa / lineBytes && (!true || u.origin == d)) (die s0 d)) = s1
  have hcaught : FarTrue (die s1 d) (pa / lineBytes) key (readPas s key (pa / lineBytes * lineBytes) lineBytes) := by
    rw [← hs1, die_setDie, if_pos rfl]; exact hcount.catchUp hkey _
  have hmem1 : SameMemory s s1 := fun m a => by rw [← hs1]; exact hmem0 m a
  rw [if_neg (by decide)]
  split
  · next l hl => exact (hcaught _ (mem_of_mget hl) (cacheKey_line _ _)).1
  · exact readPas_of_memory (fun m a => hmem1 m a) key _ _

end Sys2Proof.Machine
end

section
/-! SUPPORT. What engines and copies read and write of global memory, by granules (R79, R81). -/

namespace Sys2Proof.Machine

open Host

/-! ### One granule read -/

theorem line_bytes (s : State) (pa key : Nat) {n : Nat} (h : pa % lineBytes + n ≤ lineBytes) :
    (List.range n).map (fun i => (readPas s key (pa / lineBytes * lineBytes) lineBytes).getD ((pa + i) % lineBytes) 0) =
      readPas s key pa n := by
  have hread := data_homeRead s 0 pa key h
  unfold homeRead at hread
  dsimp only at hread
  rwa [data_dieRead] at hread

/-- A granule read by an engine: at the home port, or through the far-line cache of its die. -/
def granRead (t : Task) (s : State) (la : LaneAcc) : State × List Byte :=
  if la.port then homeRead (traceRead s t la la.addr 32) (dieOf t.core) la.pa la.key 32
  else engRead (traceRead s t la la.addr 32) (dieOf t.core) la.pa la.key 32

theorem die_traceRead (s : State) (t : Task) (la : LaneAcc) (va n d : Nat) : die (traceRead s t la va n) d = die s d := by
  rcases traceRead_eq s t la va n with h | ⟨evs, h⟩ <;> rw [h]
  rfl

/-- The far-line cache holds nothing stale of a granule that is read through it. -/
def GranTrue (s v : State) (t : Task) (la : LaneAcc) : Prop :=
  la.port = true ∨ FarTrue (die v (dieOf t.core)) (la.pa / lineBytes) la.key
    (readPas s la.key (la.pa / lineBytes * lineBytes) lineBytes)

/-- While granules are read, memory, tasks and CSRs stay, and no granule that is still to be read becomes stale. -/
def Reading (s : State) (t : Task) (las : List LaneAcc) (v : State) : Prop := Beside s v ∧ ∀ la ∈ las, GranTrue s v t la

theorem not_mem_of_mget_none {α : Type} {m : Map α} {k : Nat} (h : mget m k = none) {p : Nat × α} (hp : p ∈ m) : p.1 ≠ k := by
  induction m with
  | nil => cases hp
  | cons q m ih =>
    obtain ⟨j, w⟩ := q
    rw [mget] at h
    split at h
    · cases h
    · next hne =>
      rcases List.mem_cons.mp hp with rfl | hp
      · exact Ne.symm hne
      · exact ih h hp

theorem reading_of_fresh {s : State} {t : Task} {las : List LaneAcc} (h : FreshGranules s t las) : Reading s t las s := by
  refine ⟨Beside.refl s, fun la hla => ?_⟩
  rcases (h la hla).2 with hport | hnone
  · exact .inl hport
  · refine .inr fun p hp hk => ?_
    exact absurd hk (not_mem_of_mget_none hnone hp)

theorem granRead_spec {s v : State} {t : Task} {las : List LaneAcc} (hkeys : ∀ la ∈ las, la.key < 256) (h : Reading s t las v)
    {la : LaneAcc} (hla : la ∈ las) (hpa : la.pa % 32 = 0) :
    Reading s t las (granRead t v la).1 ∧ (granRead t v la).2 = readPas s la.key la.pa 32 := by
  obtain ⟨hbeside, htrue⟩ := h
  have hfit : la.pa % lineBytes + 32 ≤ lineBytes := by simp only [lineBytes]; omega
  obtain ⟨w, hw⟩ : ∃ w, w = traceRead v t la la.addr 32 := ⟨_, rfl⟩
  have hbw : Beside s w := hw ▸ hbeside.trans (beside_traceRead v t la la.addr 32)
  have hdw : ∀ d, die w d = die v d := fun d => by rw [hw, die_traceRead]
  have hmem : ∀ k pa n, readPas w k pa n = readPas s k pa n := readPas_of_memory hbw.memory
  have hkeep : ∀ far, ∀ lb ∈ las, GranTrue s (dieRead w (dieOf t.core) la.pa la.key far).1 t lb := fun far lb hlb => by
    refine (htrue lb hlb).imp_right fun hfar => ?_
    have := farTrue_dieRead (s := w) (d := dieOf t.core) (hkeys lb hlb) (by rw [hdw, hmem]; exact hfar) la.pa (hkeys la hla) far
    rwa [hmem] at this
  unfold granRead
  rw [← hw]
  split
  · refine ⟨⟨hbw.trans (cacheOnly_dieRead w _ _ _).beside, hkeep false⟩, ?_⟩
    rw [data_homeRead _ _ _ _ hfit, hmem]
  · next hp =>
    refine ⟨⟨hbw.trans (cacheOnly_dieRead_far w _ _ _ true).beside, hkeep true⟩, ?_⟩
    have hfar := (htrue la hla).resolve_left hp
    unfold engRead
    dsimp only
    rw [data_dieRead_far (hkeys la hla) (by rw [hdw, hmem]; exact hfar), hmem]
    exact line_bytes s la.pa la.key hfit

/-! ### The bytes of all granules -/

/-- The byte of an address as checked granules show it. -/
def granByte (s : State) (las : List LaneAcc) (va : Nat) : Option Byte :=
  (las.find? (fun la => la.addr / 32 == va / 32)).map (fun la => readPa s la.key (la.pa + va % 32))

/-- One granule read by `rd`, its bytes put at their addresses. -/
def granStep (rd : State → LaneAcc → State × List Byte) (acc : State × Map Byte) (la : LaneAcc) : State × Map Byte :=
  ((rd acc.1 la).1, (rd acc.1 la).2.zipIdx.foldl (fun m p => mput m (la.addr + p.2) p.1) acc.2)

theorem zipIdx_map_range (n : Nat) (b : Nat → Byte) : ((List.range n).map b).zipIdx = (List.range n).map (fun j => (b j, j)) :=
  List.ext_getElem (by simp) (fun j _ _ => by simp)

theorem granStep_foldl {rd : State → LaneAcc → State × List Byte} {s : State} {P : State → Prop} (las : List LaneAcc)
    (hrd : ∀ v, P v → ∀ la ∈ las, P (rd v la).1 ∧ (rd v la).2 = readPas s la.key la.pa 32)
    (hmod : ∀ la ∈ las, la.addr % 32 = 0) (hnd : (las.map (fun la => la.addr / 32)).Nodup) : ∀ v m, P v →
      P (las.foldl (granStep rd) (v, m)).1 ∧
        ∀ va, mget (las.foldl (granStep rd) (v, m)).2 va = (granByte s las va).or (mget m va) := by
  induction las with
  | nil => exact fun v m hv => ⟨hv, fun va => rfl⟩
  | cons la las ih =>
    intro v m hv
    obtain ⟨hla, hnd⟩ := List.nodup_cons.mp (List.map_cons ▸ hnd)
    obtain ⟨hP, hbs⟩ := hrd v hv la List.mem_cons_self
    obtain ⟨hP2, hget⟩ := ih (fun v hv lb hlb => hrd v hv lb (List.mem_cons_of_mem la hlb))
      (fun lb hlb => hmod lb (List.mem_cons_of_mem la hlb)) hnd (granStep rd (v, m) la).1 (granStep rd (v, m) la).2 hP
    rw [List.foldl_cons]
    refine ⟨hP2, fun va => (hget va).trans ?_⟩
    have haddr := hmod la List.mem_cons_self
    have hput : mget (granStep rd (v, m) la).2 va =
        if la.addr ≤ va ∧ va < la.addr + 32 then some (readPa s la.key (la.pa + (va - la.addr))) else mget m va := by
      have hput := mget_puts _ m (nodup_bytes la.addr 32 (fun j => readPa s la.key (la.pa + j))) va
      rw [mget_bytes, List.foldl_map] at hput
      unfold granStep
      dsimp only
      rw [hbs, readPas, zipIdx_map_range, List.foldl_map, hput]
      split <;> rfl
    rw [hput, granByte, granByte, List.find?_cons]
    by_cases hva : la.addr / 32 = va / 32
    · have hnone : las.find? (fun x => x.addr / 32 == va / 32) = none :=
        List.find?_eq_none.mpr fun lb hlb hh => hla (List.mem_map.mpr ⟨lb, hlb, (beq_iff_eq.mp hh).trans hva.symm⟩)
      have hoff : va - la.addr = va % 32 := by omega
      rw [if_pos (by omega), hnone, beq_iff_eq.mpr hva, hoff]
      rfl
    · rw [if_neg fun hr => hva (by omega), beq_false_of_ne hva]

theorem engLoad_eq (s : State) (t : Task) (las : List LaneAcc) : engLoad s t las = las.foldl (granStep (granRead t)) (s, []) := rfl

/-- What an engine loads is what memory holds. -/
theorem engLoad_spec {s : State} {t : Task} {vas : List Nat} {las : List LaneAcc} (hg : Granules vas las)
    (hf : FreshGranules s t las) : Beside s (engLoad s t las).1 ∧ ∀ va, mget (engLoad s t las).2 va = granByte s las va := by
  rw [engLoad_eq]
  obtain ⟨⟨hbeside, -⟩, hget⟩ := granStep_foldl (rd := granRead t) (s := s) (P := Reading s t las) las
    (fun v hv la hla => granRead_spec hg.keys hv hla (hf la hla).1) (fun la hla => hg.addr_mod hla) hg.nodup s [] (reading_of_fresh hf)
  refine ⟨hbeside, fun va => (hget va).trans ?_⟩
  exact Option.or_none

theorem leNat_map (f : Nat → Byte) (n : Nat) : leNat ((List.range n).map f) = ((List.range n).map (fun j => (f j).toNat * 256 ^ j)).sum := by
  induction n generalizing f with
  | zero => rfl
  | succ n ih =>
    have htail := ih (fun j => f (j + 1))
    rw [List.range_succ_eq_map, List.map_cons, List.map_cons, List.map_map, List.map_map, List.sum_cons, leNat]
    simp only [Function.comp_def, Nat.succ_eq_add_one] at htail ⊢
    rw [htail, ← List.sum_map_mul_left, pow_zero, Nat.mul_one]
    refine congrArg ((f 0).toNat + ·) (congrArg List.sum (List.map_congr_left fun j _ => ?_))
    rw [Nat.pow_succ']
    ac_rfl

theorem bytesNum_of_granByte {s : State} {las : List LaneAcc} {m : Map Byte} (h : ∀ va, mget m va = granByte s las va) (va n : Nat) :
    bytesNum m va n = granNum s las va n := by
  unfold bytesNum granNum
  rw [leNat_map]
  refine congrArg List.sum (List.map_congr_left fun j _ => congrArg (· * 256 ^ j) ?_)
  rw [mgetD, h, granByte]
  cases las.find? (fun la => la.addr / 32 == (va + j) / 32) <;> rfl

end Sys2Proof.Machine
end

section
/-! SUPPORT. What engines and copies leave: the granules that they write, and the chunks that they give back (R75, R77, R79). -/

namespace Sys2Proof.Machine

open Host

/-! ### The bytes of a granule -/

theorem mget_granBytes {la : LaneAcc} (hmod : la.addr % 32 = 0) (m : Map Byte) (x : Nat) :
    mget (granBytes la m) x = if la.pa ≤ x ∧ x < la.pa + 32 then mget m (la.addr + (x - la.pa)) else none := by
  induction m with
  | nil => simp [granBytes]
  | cons p m ih =>
    obtain ⟨a, v⟩ := p
    have hcons : granBytes la ((a, v) :: m) = if a / 32 = la.addr / 32 then (la.pa + a % 32, v) :: granBytes la m else granBytes la m := by
      unfold granBytes
      rw [List.filter_cons]
      simp only [beq_iff_eq]
      split <;> rfl
    rw [hcons, mget]
    by_cases ha : a / 32 = la.addr / 32
    · rw [if_pos ha, mget, ih]
      by_cases hx : la.pa ≤ x ∧ x < la.pa + 32
      · rw [if_pos hx, if_pos hx]
        exact if_congr ⟨fun h => by omega, fun h => by omega⟩ rfl rfl
      · rw [if_neg hx, if_neg hx, if_neg fun h => hx (by omega)]
    · rw [if_neg ha, ih]
      by_cases hx : la.pa ≤ x ∧ x < la.pa + 32
      · rw [if_pos hx, if_pos hx, if_neg fun h => ha (by omega)]
      · rw [if_neg hx, if_neg hx]

theorem nodup_granBytes {la : LaneAcc} {m : Map Byte} (h : (m.map Prod.fst).Nodup) : ((granBytes la m).map Prod.fst).Nodup := by
  unfold granBytes
  rw [List.map_map]
  refine List.Nodup.map_on ?_ ((List.Nodup.of_map _ h).filter _)
  intro p hp q hq heq
  obtain ⟨hp, hpg⟩ := List.mem_filter.mp hp
  obtain ⟨hq, hqg⟩ := List.mem_filter.mp hq
  simp only [beq_iff_eq] at hpg hqg
  have heq : la.pa + p.1 % 32 = la.pa + q.1 % 32 := heq
  exact List.inj_on_of_nodup_map h hp hq (by omega)

theorem granBytes_range {la : LaneAcc} {m : Map Byte} {p : Nat × Byte} (h : p ∈ granBytes la m) :
    la.pa ≤ p.1 ∧ p.1 < la.pa + 32 := by
  obtain ⟨q, -, rfl⟩ := List.mem_map.mp h
  dsimp only
  omega

/-! ### Granules that leave for their ports -/

theorem wq_writeBack (s : State) (c k : Nat) : ∃ ws, (writeBack s c k).wq = s.wq ++ ws := by
  unfold writeBack
  split
  · exact ⟨[], (List.append_nil _).symm⟩
  split
  · exact ⟨[], (List.append_nil _).symm⟩
  · next l _ _ =>
    refine ⟨_, (?_ : _ = (sendWriteErr s (dieOf c) l.keyid l.tenant (lineOfKey k) l.dirty none l.grans (l.mbad.map (4 * ·))).wq)⟩
    exact (countReq_keeps _ _ _).2

theorem wq_flushLine (s : State) (c pa : Nat) : s.wq ⊆ (flushLine s c pa).wq := by
  unfold flushLine
  dsimp only
  generalize ((core s c).l1.map (·.1)).filter (fun k => lineOfKey k == pa / lineBytes) = ks
  induction ks generalizing s with
  | nil => exact fun w hw => hw
  | cons k ks ih =>
    intro w hw
    obtain ⟨ws, hws⟩ := wq_writeBack s c k
    refine ih (dropLine (writeBack s c k) c k) ?_
    show w ∈ (writeBack s c k).wq
    rw [hws]
    exact List.mem_append_left _ hw

/-- One granule of a copy leaves for its port, if it has bytes. -/
def granStore (t : Task) (own : Nat × Nat × Nat) (bytes : Map Byte) (s : State) (la : LaneAcc) : State :=
  if (granBytes la bytes).isEmpty then s
  else sendWrite (countReq (flushLine (traceWrite s t la la.addr 32) t.core la.pa) (dieOf t.core) la.pa) (dieOf t.core) la.key t.tenant
    (la.pa / lineBytes) (granBytes la bytes) (some own) (laneGrans s t la la.addr 32)

theorem engStore_eq (s : State) (t : Task) (own : Nat × Nat × Nat) (las : List LaneAcc) (bytes : Map Byte) :
    engStore s t own las bytes = las.foldl (granStore t own bytes) s := rfl

theorem granStore_spec (t : Task) (own : Nat × Nat × Nat) (bytes : Map Byte) (s : State) (la : LaneAcc) :
    Beside s (granStore t own bytes s la) ∧ s.wq ⊆ (granStore t own bytes s la).wq ∧ (granBytes la bytes ≠ [] →
      ∃ w ∈ (granStore t own bytes s la).wq, w.owner = some own ∧ w.keyid = la.key ∧ w.bytes = granBytes la bytes) := by
  unfold granStore
  split
  · next he => exact ⟨Beside.refl s, fun w hw => hw, fun hne => absurd (List.isEmpty_iff.mp he) hne⟩
  · obtain ⟨v, hv⟩ : ∃ v, v = countReq (flushLine (traceWrite s t la la.addr 32) t.core la.pa) (dieOf t.core) la.pa := ⟨_, rfl⟩
    have hbeside : Beside s v := by
      rw [hv]
      exact (beside_traceWrite s t la la.addr 32).trans ((cacheOnly_flushLine _ _ _).trans (cacheOnly_countReq _ _ _)).beside
    have hwq : s.wq ⊆ v.wq := by
      rw [hv, (countReq_keeps _ _ _).2, ← wq_traceWrite s t la la.addr 32]
      exact wq_flushLine _ _ _
    rw [← hv]
    refine ⟨hbeside.trans (cacheOnly_sendWriteErr _ _ _ _ _ _ _ _ _).beside, fun w hw => List.mem_append_left _ (hwq hw), fun _ =>
      ⟨_, List.mem_append_right _ (List.mem_singleton_self _), rfl, rfl, rfl⟩⟩

theorem engStore_spec (t : Task) (own : Nat × Nat × Nat) (bytes : Map Byte) (las : List LaneAcc) (s : State) :
    Beside s (engStore s t own las bytes) ∧ s.wq ⊆ (engStore s t own las bytes).wq ∧ ∀ la ∈ las, granBytes la bytes ≠ [] →
      ∃ w ∈ (engStore s t own las bytes).wq, w.owner = some own ∧ w.keyid = la.key ∧ w.bytes = granBytes la bytes := by
  rw [engStore_eq]
  induction las generalizing s with
  | nil => exact ⟨Beside.refl s, fun w hw => hw, fun la hla => nomatch hla⟩
  | cons la las ih =>
    obtain ⟨hbeside, hwq, hsent⟩ := granStore_spec t own bytes s la
    obtain ⟨hbeside2, hwq2, hsent2⟩ := ih (granStore t own bytes s la)
    refine ⟨hbeside.trans hbeside2, fun w hw => hwq2 (hwq hw), fun lb hlb hne => ?_⟩
    rcases List.mem_cons.mp hlb with rfl | hlb
    · obtain ⟨w, hw, hcarries⟩ := hsent hne
      exact ⟨w, hwq2 hw, hcarries⟩
    · exact hsent2 lb hlb hne

/-! ### Granules applied at their ports -/

/-- One granule applied at its port at once, if it has bytes. -/
def granApply (t : Task) (bytes : Map Byte) (s : State) (la : LaneAcc) : State :=
  if (granBytes la bytes).isEmpty then s
  else homeWriteMap (countReq (flushLine (traceWrite s t la la.addr 32) t.core la.pa) (dieOf t.core) la.pa) (dieOf t.core) la.key t.tenant
    (la.pa / lineBytes) (granBytes la bytes) (laneGrans s t la la.addr 32)

theorem engApply_eq (s : State) (t : Task) (las : List LaneAcc) (bytes : Map Byte) :
    engApply s t las bytes = las.foldl (granApply t bytes) s := rfl

theorem granApply_spec {t : Task} {bytes : Map Byte} {s : State} {la : LaneAcc} (hnd : (bytes.map Prod.fst).Nodup)
    (hbad : ∀ j, j < 32 → blockBad s (la.pa + j) = false) :
    HomeOnly s (granApply t bytes s la) ∧
      ∀ x, readPa (granApply t bytes s la) la.key x = (mget (granBytes la bytes) x).getD (readPa s la.key x) := by
  unfold granApply
  split
  · next he => rw [List.isEmpty_iff.mp he]; exact ⟨HomeOnly.refl s, fun x => rfl⟩
  · obtain ⟨v, hv⟩ : ∃ v, v = countReq (flushLine (traceWrite s t la la.addr 32) t.core la.pa) (dieOf t.core) la.pa := ⟨_, rfl⟩
    have hcaches : CacheOnly (traceWrite s t la la.addr 32) v := by
      rw [hv]; exact (cacheOnly_flushLine _ _ _).trans (cacheOnly_countReq _ _ _)
    have hhome : HomeOnly s v := (homeOnly_traced (traceWrite_eq s t la la.addr 32)).trans hcaches.homeOnly
    have hmem : SameMemory s v := ((beside_traceWrite s t la la.addr 32).trans hcaches.beside).memory
    have hdie := cacheOnly_setDie v (dieOf t.core)
      { die v (dieOf t.core) with clock := (die v (dieOf t.core)).clock.set (dieOf t.core) (stampAt (die v (dieOf t.core)).clock (dieOf t.core) + 1) }
    rw [← hv]
    unfold homeWriteMap
    refine ⟨hhome.trans (hdie.homeOnly.trans (homeOnly_applyAtHome _ _ _ _ _ _ _ _)), fun x => ?_⟩
    dsimp only
    rw [readPa_applyAtHome (fun p hp => ?_) (nodup_granBytes hnd), hdie.memory, hmem]
    obtain ⟨hle, hlt⟩ := granBytes_range hp
    have hp1 : la.pa + (p.1 - la.pa) = p.1 := by omega
    exact hdie.homeOnly.bad _ (hhome.bad _ (hp1 ▸ hbad (p.1 - la.pa) (by omega)))

/-- Granules that lie one after another from pa, applied: each byte is what the map names for its address. -/
theorem engApply_spec {t : Task} {bytes : Map Byte} {key va pa : Nat} (hnd : (bytes.map Prod.fst).Nodup) (las : List LaneAcc)
    (hplace : ∀ la ∈ las, la.key = key ∧ la.pa = pa + (la.addr - va) ∧ va ≤ la.addr ∧ la.addr % 32 = 0) : ∀ s : State,
      (∀ la ∈ las, ∀ j, j < 32 → blockBad s (la.pa + j) = false) →
      HomeOnly s (engApply s t las bytes) ∧ ∀ x, readPa (engApply s t las bytes) key x =
        if ∃ la ∈ las, la.pa ≤ x ∧ x < la.pa + 32 then (mget bytes (va + (x - pa))).getD (readPa s key x) else readPa s key x := by
  induction las with
  | nil => exact fun s _ => ⟨HomeOnly.refl s, fun x => by simp [engApply_eq]⟩
  | cons la las ih =>
    intro s hbad
    obtain ⟨hkey, hpa, hva, hmod⟩ := hplace la List.mem_cons_self
    obtain ⟨hhome, hbytes⟩ := granApply_spec (t := t) hnd (hbad la List.mem_cons_self)
    obtain ⟨hhome2, hbytes2⟩ := ih (fun lb hlb => hplace lb (List.mem_cons_of_mem la hlb)) (granApply t bytes s la)
      fun lb hlb j hj => hhome.bad _ (hbad lb (List.mem_cons_of_mem la hlb) j hj)
    rw [engApply_eq, List.foldl_cons, ← engApply_eq]
    refine ⟨hhome.trans hhome2, fun x => ?_⟩
    have hla : readPa (granApply t bytes s la) key x =
        if la.pa ≤ x ∧ x < la.pa + 32 then (mget bytes (va + (x - pa))).getD (readPa s key x) else readPa s key x := by
      rw [← hkey, hbytes, mget_granBytes hmod]
      by_cases hx : la.pa ≤ x ∧ x < la.pa + 32
      · have hplace : la.addr + (x - la.pa) = va + (x - pa) := by omega
        rw [if_pos hx, if_pos hx, hplace]
      · rw [if_neg hx, if_neg hx]
        rfl
    rw [hbytes2, hla]
    by_cases hx : la.pa ≤ x ∧ x < la.pa + 32
    · rw [if_pos hx, if_pos (c := ∃ lb ∈ la :: las, lb.pa ≤ x ∧ x < lb.pa + 32) ⟨la, List.mem_cons_self, hx⟩]
      split
      · cases mget bytes (va + (x - pa)) <;> rfl
      · rfl
    · rw [if_neg hx]
      refine if_congr ⟨fun ⟨lb, hlb, h⟩ => ⟨lb, List.mem_cons_of_mem la hlb, h⟩, fun ⟨lb, hlb, h⟩ => ?_⟩ rfl rfl
      rcases List.mem_cons.mp hlb with rfl | hlb
      · exact absurd h hx
      · exact ⟨lb, hlb, h⟩

/-! ### Chunks given and taken back (R75, R77) -/

/-- A tile after one step of its chunk k, where the chunk is its own. -/
def chunkStep (f : Tile → Nat → Tile) (x : Tile) (k : Nat) : Tile :=
  if x.base ≤ 512 * k ∧ 512 * k < x.base + x.len then f x (k - x.base / 512) else x

theorem modChunks_eq (t : Task) (ks : List Nat) (f : Tile → Nat → Tile) :
    modChunks t ks f = { t with tds := t.tds.map (fun p => (p.1, ks.foldl (chunkStep f) p.2)) } := by
  unfold modChunks
  induction ks generalizing t with
  | nil => simp
  | cons k ks ih =>
    rw [List.foldl_cons, ih]
    unfold modChunk
    rw [List.map_map]
    refine congrArg (fun tds => { t with tds := tds }) (List.map_congr_left fun p _ => ?_)
    dsimp only [Function.comp_apply, List.foldl_cons, chunkStep]
    split <;> rfl

/-- The steps of a copy change which chunks are a tile's own and how many read them, and nothing else of it. -/
def SameTile (x y : Tile) : Prop := { y with own := x.own, rcnt := x.rcnt } = x

theorem SameTile.trans {x y z : Tile} (h : SameTile x y) (k : SameTile y z) : SameTile x z := by
  have hk := congrArg (fun w : Tile => { w with own := x.own, rcnt := x.rcnt }) k
  exact hk.trans h

theorem SameTile.place {x y : Tile} (h : SameTile x y) : y.base = x.base ∧ y.len = x.len := by
  have hbase := congrArg Tile.base h
  have hlen := congrArg Tile.len h
  exact ⟨hbase, hlen⟩

theorem sameTile_chunkSteps {f : Tile → Nat → Tile} (hf : ∀ x j, SameTile x (f x j)) (ks : List Nat) (x : Tile) :
    SameTile x (ks.foldl (chunkStep f) x) := by
  induction ks generalizing x with
  | nil => exact rfl
  | cons k ks ih =>
    refine SameTile.trans ?_ (ih _)
    unfold chunkStep
    split
    · exact hf x _
    · exact rfl

theorem sameTile_ownSet (x : Tile) (j : Nat) : SameTile x (ownSet x j) := rfl
theorem sameTile_ownClear (x : Tile) (j : Nat) : SameTile x (ownClear x j) := rfl
theorem sameTile_readUp (x : Tile) (j : Nat) : SameTile x (readUp x j) := rfl
theorem sameTile_readDown (x : Tile) (j : Nat) : SameTile x (readDown x j) := rfl

theorem getLsbD_pow {n i j : Nat} (hi : i < n) : (BitVec.ofNat n (2 ^ j)).getLsbD i = decide (j = i) := by
  rw [BitVec.getLsbD_ofNat, decide_eq_true hi, Bool.true_and, Nat.testBit_two_pow]

/-- A chunk given back is its tile's own. -/
theorem own_ownSet_steps {x : Tile} {ks : List Nat} {u : Nat} (hb : x.base ≤ 512 * u) (hu : 512 * u < x.base + x.len)
    (hi : u - x.base / 512 < 128) (h : u ∈ ks ∨ x.own.getLsbD (u - x.base / 512) = true) :
    (ks.foldl (chunkStep ownSet) x).own.getLsbD (u - x.base / 512) = true := by
  induction ks generalizing x with
  | nil => simpa using h
  | cons k ks ih =>
    have hsame : SameTile x (chunkStep ownSet x k) := by
      unfold chunkStep
      split
      · exact sameTile_ownSet x _
      · exact rfl
    obtain ⟨hbase, hlen⟩ := hsame.place
    have hnext := ih (x := chunkStep ownSet x k) (by rw [hbase]; exact hb) (by rw [hbase, hlen]; exact hu) (by rw [hbase]; exact hi)
    rw [hbase] at hnext
    refine hnext ?_
    rcases h with hmem | hown
    · rcases List.mem_cons.mp hmem with rfl | hmem
      · right
        unfold chunkStep
        rw [if_pos ⟨hb, hu⟩]
        rw [ownSet, BitVec.getLsbD_or, getLsbD_pow hi, decide_eq_true rfl, Bool.or_true]
      · exact .inl hmem
    · right
      unfold chunkStep
      split
      · simp [ownSet, BitVec.getLsbD_or, hown]
      · exact hown

end Sys2Proof.Machine
end

section
/-! PROOFS. Copies that progress and end (R79, R263, R271 to R274). -/

namespace Sys2Proof.Machine

open Host

/-! ### The bytes of a unit of `cpl` -/

/-- The bytes of the lanes of a unit: n of each, from its place. -/
def laneBytes (n : Nat) (at_ : Nat × Nat × Nat → Nat) (val : Nat × Nat × Nat → Nat → Byte) (ls : List (Nat × Nat × Nat)) : Map Byte :=
  ls.flatMap (fun p => (List.range n).map (fun i => (at_ p + i, val p i)))

theorem mget_of_mem_nodup {m : Map Byte} (hnd : (m.map Prod.fst).Nodup) {x : Nat} {v : Byte} (h : (x, v) ∈ m) : mget m x = some v := by
  induction m with
  | nil => cases h
  | cons p m ih =>
    obtain ⟨k, w⟩ := p
    obtain ⟨hk, hnd⟩ := List.nodup_cons.mp (List.map_cons ▸ hnd)
    rw [mget]
    rcases List.mem_cons.mp h with heq | h
    · obtain ⟨rfl, rfl⟩ := Prod.mk.inj heq
      exact if_pos rfl
    · have hx : x ∈ m.map Prod.fst := List.mem_map_of_mem (f := Prod.fst) h
      have hne : x ≠ k := fun he => hk (he ▸ hx)
      rw [if_neg hne]
      exact ih hnd h

section
variable {n : Nat} {at_ : Nat × Nat × Nat → Nat} {val : Nat × Nat × Nat → Nat → Byte} {ls : List (Nat × Nat × Nat)}

theorem mem_laneBytes {x : Nat} {v : Byte} :
    (x, v) ∈ laneBytes n at_ val ls ↔ ∃ p ∈ ls, ∃ i, i < n ∧ x = at_ p + i ∧ v = val p i := by
  simp only [laneBytes, List.mem_flatMap, List.mem_map, List.mem_range, Prod.mk.injEq]
  exact ⟨fun ⟨p, hp, i, hi, hx, hv⟩ => ⟨p, hp, i, hi, hx.symm, hv.symm⟩, fun ⟨p, hp, i, hi, hx, hv⟩ => ⟨p, hp, i, hi, hx.symm, hv.symm⟩⟩

/-- Lanes at different multiples of n share no byte. -/
theorem nodup_laneBytes (hmul : ∀ p ∈ ls, at_ p % n = 0) (hnd : (ls.map at_).Nodup) :
    ((laneBytes n at_ val ls).map Prod.fst).Nodup := by
  unfold laneBytes
  rw [List.map_flatMap, List.nodup_flatMap]
  refine ⟨fun p _ => nodup_bytes (at_ p) n (val p), ?_⟩
  rw [List.Nodup, List.pairwise_map] at hnd
  refine hnd.imp_of_mem fun {p q} hp hq hne => ?_
  simp only [Function.onFun, List.map_map]
  intro x hxp hxq
  obtain ⟨i, hi, hx⟩ := List.mem_map.mp hxp
  obtain ⟨j, hj, hx'⟩ := List.mem_map.mp hxq
  rw [List.mem_range] at hi hj
  have hx : at_ p + i = x := hx
  have hx' : at_ q + j = x := hx'
  have hdiv : ∀ a k, a % n = 0 → k < n → (a + k) / n * n = a := fun a k ha hk => by
    obtain ⟨m, rfl⟩ := Nat.dvd_of_mod_eq_zero ha
    rw [Nat.mul_add_div (by omega), Nat.div_eq_of_lt hk, Nat.add_zero, Nat.mul_comm]
  exact hne ((hdiv _ i (hmul p hp) hi).symm.trans (hx.trans hx'.symm ▸ hdiv _ j (hmul q hq) hj))

theorem mget_laneBytes (hmul : ∀ p ∈ ls, at_ p % n = 0) (hnd : (ls.map at_).Nodup) {p : Nat × Nat × Nat} (hp : p ∈ ls) {j : Nat}
    (hj : j < n) : mget (laneBytes n at_ val ls) (at_ p + j) = some (val p j) :=
  mget_of_mem_nodup (nodup_laneBytes hmul hnd) (mem_laneBytes.mpr ⟨p, hp, j, hj, rfl, rfl⟩)

theorem mget_laneBytes_none {b : Nat} (h : ∀ p ∈ ls, ¬ (at_ p ≤ b ∧ b < at_ p + n)) : mget (laneBytes n at_ val ls) b = none := by
  cases hget : mget (laneBytes n at_ val ls) b with
  | none => rfl
  | some v =>
    obtain ⟨p, hp, i, hi, hb, -⟩ := mem_laneBytes.mp (mem_of_mget hget)
    exact absurd ⟨by omega, by omega⟩ (h p hp)

/-- Lanes of whole words write whole words. -/
theorem laneBytes_whole (hn : n % 4 = 0) (hmul : ∀ p ∈ ls, at_ p % n = 0) {p : Nat × Byte} (hp : p ∈ laneBytes n at_ val ls) {r : Nat}
    (hr : r < 4) : ∃ q ∈ laneBytes n at_ val ls, q.1 = 4 * (p.1 / 4) + r := by
  obtain ⟨l, hl, i, hi, hx, -⟩ := mem_laneBytes.mp hp
  have hfour : at_ l % 4 = 0 := Nat.mod_eq_zero_of_dvd ((Nat.dvd_of_mod_eq_zero hn).trans (Nat.dvd_of_mod_eq_zero (hmul l hl)))
  exact ⟨(at_ l + (4 * (i / 4) + r), _), mem_laneBytes.mpr ⟨l, hl, 4 * (i / 4) + r, by omega, rfl, rfl⟩, by dsimp only; omega⟩

end

/-! ### Bytes put in a scratchpad -/

theorem spByte_scratchPut {ws : Map Byte} (hnd : (ws.map Prod.fst).Nodup)
    (hwhole : ∀ p ∈ ws, ∀ r, r < 4 → ∃ q ∈ ws, q.1 = 4 * (p.1 / 4) + r) (t : Task) (x : Nat) :
    spByte (scratchPut t ws) x = (mget ws x).getD (spByte t x) := by
  have hall : ws.filter (fun p => !(t.sbad.filter (fun w => !(List.range 4).all (fun i => ws.any (fun p => p.1 == 4 * w + i)))).contains (p.1 / 4)) =
      ws := by
    refine List.filter_eq_self.mpr fun p hp => ?_
    simp only [Bool.not_eq_true', List.contains_eq_mem, decide_eq_false_iff_not, List.mem_filter, not_and]
    intro _
    simp only [List.all_eq_true, List.any_eq_true, List.mem_range, beq_iff_eq, Bool.not_eq_false]
    exact fun r hr => hwhole p hp r hr
  unfold scratchPut spByte
  dsimp only
  rw [hall]
  refine (get_foldl_puts (put := mputD 0) (get := fun m x => mgetD 0 m x) (val := id) (fun m k v x => mgetD_mputD 0 m k x v) ws
    t.scratch hnd x).trans ?_
  rw [Option.map_id]
  rfl

/-! ### A unit that is done -/

/-- A task as a copy's unit leaves it: what it read is given back, and the chunk that it wrote is the threads' again. -/
def unitTask (op : CopyOp) (u : Nat) (t : Task) : Task :=
  modChunks (modChunks t ((copyReads op.kind op.todo).filter
      (fun j => !(copyReads op.kind (op.todo.filter (fun v => v != u))).contains j)) readDown)
    ((copyWrites op.kind op.todo).filter (fun j => j == u)) ownSet

theorem unitTask_keeps (op : CopyOp) (u : Nat) (t : Task) :
    (unitTask op u t).groups = t.groups ∧ ∀ x, spByte (unitTask op u t) x = spByte t x := by
  unfold unitTask
  rw [modChunks_eq, modChunks_eq]
  exact ⟨rfl, fun _ => rfl⟩

/-- The copy as its unit leaves it. -/
def unitCopy (op : CopyOp) (u : Nat) : CopyOp := { op with todo := op.todo.filter (· != u), done := insertNat u op.done }

theorem unitDone_spec {s : State} {op : CopyOp} {t : Task} (ht : task s op.tid = some t) (id u : Nat) :
    SameMemory s (unitDone s id u op) ∧ SameCsrs s (unitDone s id u op) ∧ (unitDone s id u op).wq = s.wq ∧
      task (unitDone s id u op) op.tid = some (unitTask op u t) ∧ mget (unitDone s id u op).copies id = some (unitCopy op u) := by
  refine ⟨fun _ _ => rfl, fun _ _ => rfl, rfl, ?_, ?_⟩
  · unfold unitDone releaseCopy
    dsimp only
    show task (modTask (modTask s op.tid _) op.tid _) op.tid = _
    rw [task_modTask, if_pos rfl, task_modTask, if_pos rfl, ht]
    rfl
  · exact (mget_mput _ _ _ _).trans (if_pos rfl)

/-- The chunk of a unit into the scratchpad is its tiles' own once it has landed. -/
theorem own_unitTask {op : CopyOp} {u : Nat} (hu : u ∈ copyWrites op.kind op.todo) {t : Task} {x : Nat × Tile}
    (hx : x ∈ (unitTask op u t).tds) (hbase : x.2.base % 512 = 0) (hle : x.2.base / 512 ≤ u) (hlt : 512 * u < x.2.base + x.2.len)
    (hlen : x.2.len ≤ 65536) : x.2.own.getLsbD (u - x.2.base / 512) = true := by
  unfold unitTask at hx
  rw [modChunks_eq] at hx
  obtain ⟨y, -, rfl⟩ := List.mem_map.mp hx
  obtain ⟨hb, hl⟩ := (sameTile_chunkSteps sameTile_ownSet ((copyWrites op.kind op.todo).filter (fun j => j == u)) y.2).place
  dsimp only at hbase hle hlt hlen ⊢
  rw [hb] at hbase hle hlt ⊢
  rw [hl] at hlt hlen
  exact own_ownSet_steps (by omega) hlt (by omega) (.inl (List.mem_filter.mpr ⟨hu, by simp⟩))

/-! ### `cpl` into the scratchpad -/

theorem exec_chunkLands (id u : Nat) (s : State) : exec (.chunkLands id u) s = fire (chunkLands s id u) s := rfl
theorem exec_cprChunkApply (id u : Nat) (s : State) : exec (.cprChunkApply id u) s = fire (cprApply s id u) s := rfl
theorem exec_copyComplete (id : Nat) (s : State) : exec (.copyComplete id) s = fire (copyComplete s id) s := rfl

theorem exec_of_fire {o : Option State} {s t : State} (h : o = some t) : fire o s = .next (wakeAll t) := by rw [h]; rfl

theorem chunkLands_in {s s1 : State} {id u : Nat} {op : CopyOp} {tk : Task} {las : List LaneAcc} (hop : mget s.copies id = some op)
    (htk : task s op.tid = some tk) (hgoes : copyGoes s id op tk = true) (hu : u ∈ op.todo) (hin : copyIntoScratch op.kind = true)
    (hplan : engPlan s tk op.user true false (copyFmt op.kind) (inReads op.kind u) = .go s1 las) :
    chunkLands s id u =
      some (unitDone (putScratch (engLoad s1 tk las).1 op.tid (inBytes op.kind u (engLoad s1 tk las).2)) id u op) := by
  unfold chunkLands
  have hcont : op.todo.contains u = true := by simpa using hu
  simp only [hop, htk, hgoes, hcont, hin, hplan]
  rfl

/-- A unit of `cpl` into the scratchpad lands whole. -/
theorem cpl_lands {s s1 : State} {id u n : Nat} {op : CopyOp} {tk : Task} {ls : List (Nat × Nat × Nat)} {las : List LaneAcc}
    (hop : mget s.copies id = some op) (htk : task s op.tid = some tk) (hgoes : copyGoes s id op tk = true) (hu : u ∈ op.todo)
    (hkind : op.kind = .cpl n false ls) (hn : n ∈ [4, 8, 16]) (hmul : ∀ p ∈ ls, p.2.2 % n = 0)
    (hnd : ((ls.filter (fun p => p.2.2 / 512 == u)).map (fun p => p.2.2)).Nodup)
    (hplan : engPlan s tk op.user true false none (inReads op.kind u) = .go s1 las) (hfresh : FreshGranules s1 tk las) :
    ∃ t tk1, exec (.chunkLands id u) s = .next (wakeAll t) ∧ SameMemory s1 t ∧ SameCsrs s1 t ∧ task t op.tid = some tk1 ∧
      (∀ p ∈ ls, p.2.2 / 512 = u → ∀ j, j < n → (spByte tk1 (p.2.2 + j)).toNat = granNum s1 las (p.2.1 + j) 1) ∧
      (∀ b, (∀ p ∈ ls, p.2.2 / 512 = u → ¬ (p.2.2 ≤ b ∧ b < p.2.2 + n)) → spByte tk1 b = spByte tk b) ∧
      tk1.groups = tk.groups ∧ mget t.copies id = some (unitCopy op u) ∧
      ∀ x ∈ tk1.tds, x.2.base % 512 = 0 → x.2.base / 512 ≤ u → 512 * u < x.2.base + x.2.len → x.2.len ≤ 65536 →
        x.2.own.getLsbD (u - x.2.base / 512) = true := by
  obtain ⟨htr, hgran⟩ := engPlan_go hplan
  obtain ⟨hload, hbytes⟩ := engLoad_spec hgran hfresh
  obtain ⟨m, hm⟩ : ∃ m, m = (engLoad s1 tk las).2 := ⟨_, rfl⟩
  obtain ⟨s2, hs2⟩ : ∃ s2, s2 = (engLoad s1 tk las).1 := ⟨_, rfl⟩
  obtain ⟨mine, hmine⟩ : ∃ mine, mine = ls.filter (fun p => p.2.2 / 512 == u) := ⟨_, rfl⟩
  obtain ⟨ws, hws⟩ : ∃ ws, ws = laneBytes n (fun p => p.2.2) (fun p i => mgetD 0 m (p.2.1 + i)) mine := ⟨_, rfl⟩
  have hmem : ∀ p, p ∈ mine ↔ p ∈ ls ∧ p.2.2 / 512 = u := fun p => by simp [hmine]
  have hmul' : ∀ p ∈ mine, p.2.2 % n = 0 := fun p hp => hmul p ((hmem p).mp hp).1
  have hn4 : n % 4 = 0 := by
    simp only [List.mem_cons, List.not_mem_nil, or_false] at hn
    omega
  rw [← hmine] at hnd
  rw [← hs2] at hload
  rw [← hm] at hbytes
  have hin : inBytes op.kind u m = ws := by rw [hkind, hws, hmine]; rfl
  have hlands := chunkLands_in (u := u) hop htk hgoes hu (by rw [hkind]; rfl) (by rw [hkind] at hplan ⊢; exact hplan)
  rw [← hm, ← hs2, hin] at hlands
  have htk2 : task (putScratch s2 op.tid ws) op.tid = some (scratchPut tk ws) := by
    unfold putScratch
    rw [task_modTask, if_pos rfl, task_eq_of_tasks hload.tasks, htr.task, htk]
    rfl
  obtain ⟨hmemory, hcsrs, -, htask, hcopy⟩ := unitDone_spec htk2 id u
  obtain ⟨hgroups, hscratch⟩ := unitTask_keeps op u (scratchPut tk ws)
  have hput := spByte_scratchPut (ws := ws) (hws ▸ nodup_laneBytes hmul' hnd)
    (fun p hp r hr => by rw [hws] at hp ⊢; exact laneBytes_whole hn4 hmul' hp hr) tk
  refine ⟨_, _, (exec_chunkLands id u s).trans (exec_of_fire hlands), fun k a => (hmemory k a).trans (hload.memory k a),
    fun k r => (hcsrs k r).trans (hload.csrs k r), htask, fun p hp hpu j hj => ?_, fun b hb => ?_, hgroups, hcopy,
    fun x hx hbase hle hlt hlen => own_unitTask (by rw [hkind]; exact hu) hx hbase hle hlt hlen⟩
  · rw [hscratch, hput, hws, mget_laneBytes hmul' hnd ((hmem p).mpr ⟨hp, hpu⟩) hj]
    have hone := bytesNum_of_granByte hbytes (p.2.1 + j) 1
    rw [← hone]
    simp [bytesNum, leNat]
  · rw [hscratch, hput, hws, mget_laneBytes_none fun p hp => hb p ((hmem p).mp hp).1 ((hmem p).mp hp).2]
    rfl

/-! ### `cpl` to global memory -/

theorem outBytes_cpl (t : Task) (n : Nat) (ls : List (Nat × Nat × Nat)) (u : Nat) : outBytes t (.cpl n true ls) u =
    ((laneBytes n (fun p => p.2.1) (fun p i => spByte t (p.2.2 + i)) (ls.filter (fun p => p.2.1 / 512 == u))).foldl
      (fun m p => mput m p.1 p.2) [], []) := by
  unfold outBytes laneBytes
  dsimp only
  rw [List.foldl_flatMap]
  simp only [List.foldl_map]
  rfl

theorem chunkLands_out {s s1 : State} {id u n : Nat} {op : CopyOp} {tk : Task} {ls : List (Nat × Nat × Nat)} {las : List LaneAcc}
    (hop : mget s.copies id = some op) (htk : task s op.tid = some tk) (hgoes : copyGoes s id op tk = true) (hu : u ∈ op.todo)
    (hkind : op.kind = .cpl n true ls)
    (hplan : engPlan s tk op.user false true none ((outBytes tk op.kind u).1.map (·.1)) = .go s1 las)
    (hbad : outBad tk op.kind u = false) :
    chunkLands s id u = some (unitDone (engStore s1 tk (op.tid, op.g, id) las (outBytes tk op.kind u).1) id u op) := by
  have hcont : op.todo.contains u = true := by simpa using hu
  have hnibs : (outBytes tk op.kind u).2 = [] := by rw [hkind, outBytes_cpl]
  have hfmt : copyFmt op.kind = none := by rw [hkind]; rfl
  have hin : copyIntoScratch op.kind = false := by rw [hkind]; rfl
  obtain ⟨whole, hwhole⟩ : ∃ whole, outBytes tk op.kind u = (whole, []) := ⟨_, Prod.ext rfl hnibs⟩
  rw [hwhole] at hplan ⊢
  unfold chunkLands
  simp only [hop, htk, hgoes, hcont, hin]
  rw [hkind] at hwhole hfmt hbad ⊢
  simp only [hwhole, hfmt, hbad, List.isEmpty_nil, List.map_nil, List.append_nil, Bool.not_true, hplan]
  rfl

/-- A unit of `cpl` to global memory leaves for its port. -/
theorem cpl_leaves {s s1 : State} {id u n : Nat} {op : CopyOp} {tk : Task} {ls : List (Nat × Nat × Nat)} {las : List LaneAcc}
    (hop : mget s.copies id = some op) (htk : task s op.tid = some tk) (hgoes : copyGoes s id op tk = true) (hu : u ∈ op.todo)
    (hkind : op.kind = .cpl n true ls) (hmul : ∀ p ∈ ls, p.2.1 % n = 0)
    (hnd : ((ls.filter (fun p => p.2.1 / 512 == u)).map (fun p => p.2.1)).Nodup)
    (hplan : engPlan s tk op.user false true none ((outBytes tk op.kind u).1.map (·.1)) = .go s1 las)
    (hbad : outBad tk op.kind u = false) :
    ∃ t, exec (.chunkLands id u) s = .next (wakeAll t) ∧ SameMemory s1 t ∧ SameCsrs s1 t ∧
      (∀ p ∈ ls, p.2.1 / 512 = u → ∀ j, j < n → ∀ la ∈ las, la.addr / 32 = (p.2.1 + j) / 32 →
        ∃ w ∈ t.wq, w.owner = some (op.tid, op.g, id) ∧ w.keyid = la.key ∧
          mget w.bytes (la.pa + (p.2.1 + j) % 32) = some (spByte tk (p.2.2 + j))) ∧
      mget t.copies id = some (unitCopy op u) := by
  obtain ⟨htr, hgran⟩ := engPlan_go hplan
  obtain ⟨hbeside, -, hsent⟩ := engStore_spec tk (op.tid, op.g, id) (outBytes tk op.kind u).1 las s1
  have htk2 : task (engStore s1 tk (op.tid, op.g, id) las (outBytes tk op.kind u).1) op.tid = some tk := by
    rw [task_eq_of_tasks hbeside.tasks, htr.task, htk]
  obtain ⟨hmemory, hcsrs, hwq, -, hcopy⟩ := unitDone_spec htk2 id u
  refine ⟨_, (exec_chunkLands id u s).trans (exec_of_fire (chunkLands_out hop htk hgoes hu hkind hplan hbad)),
    fun k a => (hmemory k a).trans (hbeside.memory k a), fun k r => (hcsrs k r).trans (hbeside.csrs k r),
    fun p hp hpu j hj la hla haddr => ?_, hcopy⟩
  have hmod := hgran.addr_mod hla
  have hbyte : mget (granBytes la (outBytes tk op.kind u).1) (la.pa + (p.2.1 + j) % 32) = some (spByte tk (p.2.2 + j)) := by
    have hplace : la.addr + (la.pa + (p.2.1 + j) % 32 - la.pa) = p.2.1 + j := by omega
    rw [mget_granBytes hmod, if_pos ⟨by omega, by omega⟩, hplace, hkind, outBytes_cpl]
    dsimp only
    rw [mget_puts _ _ (nodup_laneBytes (fun q hq => hmul q (List.mem_filter.mp hq).1) hnd),
      mget_laneBytes (at_ := fun p => p.2.1) (fun q hq => hmul q (List.mem_filter.mp hq).1) hnd
        (List.mem_filter.mpr ⟨hp, by simpa using hpu⟩) hj]
    rfl
  obtain ⟨w, hw, howner, hkey, hbytes⟩ := hsent la hla (fun hnil => by rw [hnil] at hbyte; cases hbyte)
  exact ⟨w, hwq ▸ hw, howner, hkey, hbytes ▸ hbyte⟩

end Sys2Proof.Machine
end

section
/-! PROOFS. Chunks of `cpr` applied at their port, and copies that complete (R79, R273, R274). -/

namespace Sys2Proof.Machine

open Host

/-! ### The words of a chunk -/

theorem range_blocks {α : Type} (g : Nat → α) (m : Nat) :
    (List.range m).flatMap (fun w => (List.range 4).map (fun r => g (4 * w + r))) = (List.range (4 * m)).map g := by
  induction m with
  | zero => rfl
  | succ m ih =>
    rw [List.range_succ (n := m), List.flatMap_append, ih, Nat.mul_succ, List.range_add, List.map_append, List.flatMap_singleton, List.map_map]
    rfl

theorem leNat_leBytes (n v : Nat) : leNat (leBytes n v) = v % 256 ^ n := by
  induction n generalizing v with
  | zero => simp [leBytes, leNat, Nat.mod_one]
  | succ n ih =>
    rw [leBytes, leNat, ih, BitVec.toNat_ofNat]
    exact ((congrArg (v % ·) Nat.pow_succ').trans Nat.mod_mul).symm

/-- A word whose bytes memory reads stands there, as far as its bytes hold it. -/
theorem numAt_of_bytes {s : State} {key pa n v : Nat} (h : ∀ j, j < n → readPa s key (pa + j) = BitVec.ofNat 8 (v / 256 ^ j)) :
    numAt s key pa n = v % 256 ^ n := by
  rw [← leNat_readPas, ← leNat_leBytes, leBytes_eq_map]
  exact congrArg leNat (List.map_congr_left fun j hj => h j (List.mem_range.mp hj))

/-- The bytes that a chunk of `cpr` writes: word w of 128 holds what its operation gives. -/
def cprBytes (va : Nat) (word : Nat → Nat) : Map Byte :=
  (upTo 128).flatMap (fun w => (leBytes 4 (word w)).zipIdx.map (fun p => (va + 4 * w + p.2, p.1)))

theorem cprBytes_eq (va : Nat) (word : Nat → Nat) :
    cprBytes va word = (List.range 512).map (fun j => (va + j, BitVec.ofNat 8 (word (j / 4) / 256 ^ (j % 4)))) := by
  unfold cprBytes upTo
  rw [← range_blocks (fun j => (va + j, BitVec.ofNat 8 (word (j / 4) / 256 ^ (j % 4)))) 128]
  refine List.flatMap_congr fun w _ => ?_
  rw [leBytes_eq_map, zipIdx_map_range, List.map_map]
  refine List.map_congr_left fun r hr => ?_
  have hr4 : r < 4 := List.mem_range.mp hr
  have hword : (4 * w + r) / 4 = w := by omega
  have hbyte : (4 * w + r) % 4 = r := by omega
  dsimp only [Function.comp_apply]
  rw [hword, hbyte, Nat.add_assoc]

/-! ### The chunk's granules -/

/-- The sixteen granules of a chunk, one after another. -/
structure ChunkAt (s : State) (las : List LaneAcc) (key va pa : Nat) : Prop where
  place : ∀ la ∈ las, la.key = key ∧ la.pa = pa + (la.addr - va) ∧ va ≤ la.addr ∧ la.addr % 32 = 0 ∧ la.addr < va + 512
  cover : ∀ j, j < 512 → ∃ la ∈ las, la.addr / 32 = (va + j) / 32
  nodup : (las.map (fun la => la.addr / 32)).Nodup
  sound : ∀ j, j < 512 → blockBad s (pa + j) = false

theorem chunkAt_of_plan {s : State} {las : List LaneAcc} {key va pa : Nat}
    (hg : Granules ((List.range 16).map (fun i => va + 32 * i)) las) (hva : va % 32 = 0)
    (hplace : ∀ la ∈ las, la.key = key ∧ la.pa = pa + (la.addr - va)) (hbad : ∀ j, j < 512 → blockBad s (pa + j) = false) :
    ChunkAt s las key va pa := by
  refine ⟨fun la hla => ?_, fun j hj => ?_, hg.nodup, hbad⟩
  · obtain ⟨hkey, hpa⟩ := hplace la hla
    have hmem : la.addr ∈ (granules ((List.range 16).map (fun i => va + 32 * i))).map (32 * ·) := hg.addrs ▸ List.mem_map_of_mem hla
    obtain ⟨g, hgr, haddr⟩ := List.mem_map.mp hmem
    obtain ⟨v, hv, rfl⟩ := mem_granules.mp hgr
    obtain ⟨i, hi, rfl⟩ := List.mem_map.mp hv
    have hi := List.mem_range.mp hi
    exact ⟨hkey, hpa, by omega, by omega, by omega⟩
  · obtain ⟨la, hla, haddr⟩ := hg.exists_of_mem (va := va + 32 * (j / 32))
      (List.mem_map.mpr ⟨j / 32, List.mem_range.mpr (by omega), rfl⟩)
    exact ⟨la, hla, by omega⟩

section
variable {s : State} {las : List LaneAcc} {key va pa : Nat} (h : ChunkAt s las key va pa)
include h

theorem ChunkAt.granByte {j : Nat} (hj : j < 512) : granByte s las (va + j) = some (readPa s key (pa + j)) := by
  obtain ⟨la, hla, haddr⟩ := h.cover j hj
  obtain ⟨hkey, hpa, hle, hmod, -⟩ := h.place la hla
  have hplace : la.pa + (va + j) % 32 = pa + j := by omega
  rw [Machine.granByte, find_granule h.nodup hla haddr, Option.map_some, hkey, hplace]

theorem ChunkAt.word {m : Map Byte} (hm : ∀ a, mget m a = Machine.granByte s las a) {w : Nat} (hw : w < 128) :
    bytesNum m (va + 4 * w) 4 = numAt s key (pa + 4 * w) 4 := by
  rw [← leNat_readPas]
  refine congrArg leNat (List.map_congr_left fun i hi => ?_)
  have hi4 : i < 4 := List.mem_range.mp hi
  rw [mgetD, hm, Nat.add_assoc, h.granByte (by omega), Nat.add_assoc]
  rfl

end

/-! ### Reading and applying a chunk -/

/-- A granule of a chunk read at its home. -/
def cprRead (t : Task) (s : State) (la : LaneAcc) : State × List Byte :=
  homeRead (traceRead s t la la.addr 32) (dieOf t.core) la.pa la.key 32

theorem cprRead_spec {s v : State} (h : HomeOnly s v ∧ SameMemory s v) (t : Task) {la : LaneAcc} (hpa : la.pa % 32 = 0) :
    (HomeOnly s (cprRead t v la).1 ∧ SameMemory s (cprRead t v la).1) ∧ (cprRead t v la).2 = readPas s la.key la.pa 32 := by
  obtain ⟨hhome, hmem⟩ := h
  have htraced := homeOnly_traced (traceRead_eq v t la la.addr 32)
  have hmem2 : SameMemory s (traceRead v t la la.addr 32) := fun k a => ((beside_traceRead v t la la.addr 32).memory k a).trans (hmem k a)
  have hread : CacheOnly (traceRead v t la la.addr 32) (cprRead t v la).1 := cacheOnly_dieRead _ _ _ _
  refine ⟨⟨hhome.trans (htraced.trans hread.homeOnly), fun k a => (hread.memory k a).trans (hmem2 k a)⟩, ?_⟩
  have hfit : la.pa % lineBytes + 32 ≤ lineBytes := by simp only [lineBytes]; omega
  exact (data_homeRead _ _ _ _ hfit).trans (readPas_of_memory hmem2 _ _ _)

/-- What a chunk of `cpr` reads, with the lines that it touches written back first. -/
def cprLoad (s : State) (t : Task) (las : List LaneAcc) : State × Map Byte :=
  las.foldl (granStep (cprRead t)) (las.foldl (fun s la => flushLine s t.core la.pa) s, [])

theorem cprLoad_spec {s : State} {las : List LaneAcc} {key va pa : Nat} (h : ChunkAt s las key va pa) (hpa : pa % 512 = 0)
    (hva : va % 32 = 0) (t : Task) : (HomeOnly s (cprLoad s t las).1 ∧ SameMemory s (cprLoad s t las).1) ∧
      ∀ a, mget (cprLoad s t las).2 a = granByte s las a := by
  have hflush : CacheOnly s (las.foldl (fun s la => flushLine s t.core la.pa) s) :=
    CacheOnly.foldl (fun s la => cacheOnly_flushLine s t.core la.pa) las s
  obtain ⟨hkept, hget⟩ := granStep_foldl (rd := cprRead t) (s := s) (P := fun v => HomeOnly s v ∧ SameMemory s v) las
    (fun v hv la hla => cprRead_spec hv t (by obtain ⟨-, hplace, hle, hmod, -⟩ := h.place la hla; omega))
    (fun la hla => (h.place la hla).2.2.2.1) h.nodup _ [] ⟨hflush.homeOnly, hflush.memory⟩
  exact ⟨hkept, fun a => (hget a).trans Option.or_none⟩

theorem cprApply_eq {s s1 : State} {id u dst first count td : Nat} {a : AOp} {tile : Tile} {op : CopyOp} {tk : Task}
    {las : List LaneAcc} (hop : mget s.copies id = some op) (htk : task s op.tid = some tk) (hgoes : copyGoes s id op tk = true)
    (hu : u ∈ op.todo) (hkind : op.kind = .cpr a td tile dst first count)
    (hplan : engPlan s tk op.user true true none
      ((List.range 16).map (fun i => dst + 512 * (u - (tile.base / 512 + first)) + 32 * i)) = .go s1 las)
    (hready : portReady s1 tk.core las = true) (hbad : outBad tk op.kind u = false) :
    cprApply s id u = some (unitDone (engApply (cprLoad s1 tk las).1 tk las
      (cprBytes (dst + 512 * (u - (tile.base / 512 + first))) (fun w => aopNew a
        (bytesNum (cprLoad s1 tk las).2 (dst + 512 * (u - (tile.base / 512 + first)) + 4 * w) 4)
        (scratchRead tk (512 * u + 4 * w) 4)))) id u op) := by
  have hcont : op.todo.contains u = true := by simpa using hu
  unfold cprApply
  simp only [hop, htk, hkind, hgoes, hcont, upTo, hplan, hready]
  rw [hkind] at hbad
  simp only [hbad]
  rfl

/-- A chunk of `cpr` applies its 128 word operations at the port at once. -/
theorem cpr_applies {s s1 : State} {id u dst first count key pa td : Nat} {a : AOp} {tile : Tile} {op : CopyOp} {tk : Task}
    {las : List LaneAcc} (hop : mget s.copies id = some op) (htk : task s op.tid = some tk) (hgoes : copyGoes s id op tk = true)
    (hu : u ∈ op.todo) (hkind : op.kind = .cpr a td tile dst first count) (hdst : dst % 512 = 0) (hpa : pa % 512 = 0)
    {va : Nat} (hva : va = dst + 512 * (u - (tile.base / 512 + first)))
    (hplan : engPlan s tk op.user true true none ((List.range 16).map (fun i => va + 32 * i)) = .go s1 las)
    (hplace : ∀ la ∈ las, la.key = key ∧ la.pa = pa + (la.addr - va)) (hsound : ∀ j, j < 512 → blockBad s1 (pa + j) = false)
    (hready : portReady s1 tk.core las = true) (hbad : outBad tk op.kind u = false) :
    ∃ t, exec (.cprChunkApply id u) s = .next (wakeAll t) ∧ SameCsrs s1 t ∧
      (∀ w, w < 128 → numAt t key (pa + 4 * w) 4 =
        atomicResult a (numAt s1 key (pa + 4 * w) 4) (spNum tk (512 * u + 4 * w) 4) % 2 ^ 32) ∧
      (∀ b, ¬ (pa ≤ b ∧ b < pa + 512) → readPa t key b = readPa s1 key b) ∧ mget t.copies id = some (unitCopy op u) := by
  obtain ⟨htr, hgran⟩ := engPlan_go hplan
  have hva32 : va % 32 = 0 := by omega
  have hchunk := chunkAt_of_plan hgran hva32 hplace hsound
  obtain ⟨⟨hload, hmem⟩, hbytes⟩ := cprLoad_spec hchunk hpa hva32 tk
  have happly := cprApply_eq hop htk hgoes hu hkind (hva ▸ hplan) hready hbad
  rw [← hva] at happly
  obtain ⟨word, hword⟩ : ∃ word : Nat → Nat, word = fun w => aopNew a (bytesNum (cprLoad s1 tk las).2 (va + 4 * w) 4)
    (scratchRead tk (512 * u + 4 * w) 4) := ⟨_, rfl⟩
  rw [← hword] at happly
  have hnd : ((cprBytes va word).map Prod.fst).Nodup := by rw [cprBytes_eq]; exact nodup_bytes va 512 _
  obtain ⟨hhome, hput⟩ := engApply_spec (t := tk) (key := key) (va := va) (pa := pa) hnd las
    (fun la hla => by obtain ⟨hk, hp, hle, hmod, -⟩ := hchunk.place la hla; exact ⟨hk, hp, hle, hmod⟩) (cprLoad s1 tk las).1
    (fun la hla j hj => hload.bad _ (by
      obtain ⟨-, hp, hle, hmod, hlt⟩ := hchunk.place la hla
      have := hsound (la.addr - va + j) (by omega)
      rwa [← Nat.add_assoc, ← hp] at this))
  have htk2 : task (engApply (cprLoad s1 tk las).1 tk las (cprBytes va word)) op.tid = some tk := by
    rw [task_eq_of_tasks (hload.trans hhome).tasks, htr.task, htk]
  obtain ⟨hmemory, hcsrs, -, -, hcopy⟩ := unitDone_spec htk2 id u
  -- the bytes of the chunk, and those beside it
  have hin : ∀ j, j < 512 → readPa (unitDone (engApply (cprLoad s1 tk las).1 tk las (cprBytes va word)) id u op) key (pa + j) =
      BitVec.ofNat 8 (word (j / 4) / 256 ^ (j % 4)) := fun j hj => by
    obtain ⟨la, hla, haddr⟩ := hchunk.cover j hj
    obtain ⟨-, hp, hle, hmod, -⟩ := hchunk.place la hla
    have hoff : va + (pa + j - pa) = va + j := by omega
    have hidx : va + j - va = j := by omega
    rw [hmemory, hput, if_pos ⟨la, hla, by omega, by omega⟩, hoff, cprBytes_eq, mget_bytes, if_pos ⟨by omega, by omega⟩, hidx]
    rfl
  have hbeside : ∀ b, ¬ (pa ≤ b ∧ b < pa + 512) →
      readPa (unitDone (engApply (cprLoad s1 tk las).1 tk las (cprBytes va word)) id u op) key b = readPa s1 key b := fun b hb => by
    rw [hmemory, hput, if_neg, hmem]
    rintro ⟨la, hla, hlo, hhi⟩
    obtain ⟨-, hp, hle, hmod, hlt⟩ := hchunk.place la hla
    exact hb ⟨by omega, by omega⟩
  refine ⟨_, (exec_cprChunkApply id u s).trans (exec_of_fire happly),
    fun k r => (hcsrs k r).trans ((hload.trans hhome).csrs k r), fun w hw => ?_, hbeside, hcopy⟩
  have hscratch : scratchRead tk (512 * u + 4 * w) 4 = spNum tk (512 * u + 4 * w) 4 := leNat_map _ 4
  have hpow : (256 : Nat) ^ 4 ≤ 2 ^ (32 * aopRegs a) := by
    unfold aopRegs
    split <;> norm_num
  have hnew : word w = atomicResult a (numAt s1 key (pa + 4 * w) 4) (spNum tk (512 * u + 4 * w) 4) := by
    rw [hword]
    dsimp only
    rw [hchunk.word hbytes hw]
    refine (aopNew_eq_atomicResult ((numAt_lt s1 key _ 4).trans_le hpow) ?_).trans (by rw [hscratch])
    have hlt := leNat_lt ((List.range 4).map (fun i => mgetD 0 tk.scratch (512 * u + 4 * w + i)))
    rw [List.length_map, List.length_range] at hlt
    exact hlt.trans_le hpow
  rw [← hnew]
  refine numAt_of_bytes fun j hj => ?_
  have hw4 : (4 * w + j) / 4 = w := by omega
  have hj4 : (4 * w + j) % 4 = j := by omega
  rw [Nat.add_assoc, hin (4 * w + j) (by omega), hw4, hj4]

/-! ### A copy that completes -/

theorem tokenWritten_writeToken {s : State} {tid g : Nat} {x0 : Group} (h : group s tid g = some x0) (tok : Nat) (w : Word) :
    ∃ x, group (writeToken s tid g tok w) tid g = some x ∧ TokenWritten x0 x tok w := by
  obtain ⟨s1, hs1, heq⟩ := writeToken_eq s tid g tok w
  rw [heq]
  refine ⟨_, group_modGroup_some _ ((hs1.group tid g).trans h), rfl, ?_, ?_, fun n => ?_, fun r lane hr => ?_⟩
  · exact (mgetD_mputD (0 : Word) x0.sr tok tok w).trans (if_pos rfl)
  · exact List.filter_congr fun k _ => rfl
  · simp [List.mem_filter]
  · cases r with
    | v n => rfl
    | s n => exact (mgetD_mputD (0 : Word) x0.sr tok n w).trans (if_neg fun (he : n = tok) => hr (by rw [he]))

/-- A copy with nothing left, whose writes have arrived, writes its token. -/
theorem copy_completes {s : State} {id : Nat} {op : CopyOp} {tk : Task} {x0 : Group} (hop : mget s.copies id = some op)
    (htk : task s op.tid = some tk) (hx0 : mget tk.groups op.g = some x0) (htodo : op.todo = []) (hsaved : tk.saved = false)
    (hwq : ∀ w ∈ s.wq, w.owner ≠ some (op.tid, op.g, id)) :
    ∃ t x, exec (.copyComplete id) s = .next (wakeAll t) ∧ SameMemory s t ∧ SameCsrs s t ∧ SameGroups s t op.tid op.g ∧
      group t op.tid op.g = some x ∧ TokenWritten x0 x op.tok (status (op.ending.getD 0) op.done.length) ∧
      Acquired t tk.core .package ∧ ∀ n, mget t.copies n = if n = id then none else mget s.copies n := by
  obtain ⟨v, hv⟩ : ∃ v, v = { s with copies := mdel s.copies id } := ⟨_, rfl⟩
  have hout : opWritesOut s op.tid op.g id = false := List.any_eq_false.mpr fun w hw => by simpa using hwq w hw
  have hgroup : group v op.tid op.g = some x0 := by
    rw [hv]
    unfold group
    show (task s op.tid).bind _ = _
    rw [htk]
    exact hx0
  obtain ⟨x, hx, hwritten⟩ := tokenWritten_writeToken hgroup op.tok (statusWord (op.ending.getD 0) op.done.length)
  rw [statusWord_eq] at hx hwritten
  have hdone : copyComplete s id = some (writeToken v op.tid op.g op.tok (status (op.ending.getD 0) op.done.length)) := by
    unfold copyComplete
    simp only [hop, htk, htodo, hout, hsaved, ← statusWord_eq, ← hv]
    rfl
  have hcore : writeToken v op.tid op.g op.tok (status (op.ending.getD 0) op.done.length) =
      modGroup (acqAct v tk.core .package) op.tid op.g (fun x =>
        { x with sr := mputD 0 x.sr op.tok (status (op.ending.getD 0) op.done.length), toks := x.toks.filter (fun k => k != op.tok),
                 stall := false, rbad := x.rbad.filter (fun k => k != 16384 + op.tok) }) := by
    have htask : mget v.tasks op.tid = some tk := by rw [hv]; exact htk
    unfold writeToken
    simp only [htask]
  have hacq := cacheOnly_acqAct v tk.core .package
  have hcopies : (acqAct v tk.core .package).copies = v.copies := by
    have := congrArg State.copies hacq
    exact this
  obtain ⟨-, -, ⟨hothers, hgroups⟩, -⟩ :=
    onlyGroup_modGroup (acqAct v tk.core .package) op.tid op.g (fun x =>
        { x with sr := mputD 0 x.sr op.tok (status (op.ending.getD 0) op.done.length), toks := x.toks.filter (fun k => k != op.tok),
                 stall := false, rbad := x.rbad.filter (fun k => k != 16384 + op.tok) })
  refine ⟨_, x, (exec_copyComplete id s).trans (exec_of_fire hdone), fun k a => ?_, fun n r => ?_, ⟨fun n hn => ?_, fun j hj => ?_⟩,
    hx, hwritten, ?_, fun n => ?_⟩
  · exact (sameMemory_writeToken v _ _ _ _ k a).trans (by rw [hv]; rfl)
  · exact (sameCsrs_writeToken v _ _ _ _ n r).trans (by rw [hv]; rfl)
  · rw [hcore, hothers n hn, task_eq_of_tasks hacq.tasks, hv]
    rfl
  · rw [hcore, hgroups j hj, hacq.group, hv]
    rfl
  · rw [hcore]
    exact acquired_acqAct v tk.core .package
  · rw [hcore]
    show mget (acqAct v tk.core .package).copies n = _
    rw [hcopies, hv]
    exact mget_mdel _ _ _

/-- Settles O39: units of `cpl` and `cpr` land, leave or are applied whole, and a finished copy writes its token. -/
theorem copiesProgress : Obligations.CopiesProgress := by
  unfold Obligations.CopiesProgress
  refine ⟨?_, ?_, ?_, ?_⟩
  · intro s s1 id u n op tk ls las hop htk hgoes hu hkind hn hmul hnd hplan hfresh
    exact cpl_lands hop htk hgoes hu hkind hn hmul hnd hplan hfresh
  · intro s s1 id u n op tk ls las hop htk hgoes hu hkind _ hmul hnd hplan hbad
    exact cpl_leaves hop htk hgoes hu hkind hmul hnd hplan hbad
  · intro s s1 id u dst first count key pa a td tile op tk las hop htk hgoes hu hkind hdst hpa va hplan hplace hsound hready hbad
    exact cpr_applies hop htk hgoes hu hkind hdst hpa rfl hplan hplace hsound hready hbad
  · intro s id op tk x0 hop htk hx0 htodo hsaved hwq
    exact copy_completes hop htk hx0 htodo hsaved hwq

end Sys2Proof.Machine
end

section
/-! SUPPORT. Instructions that change their task, and the chunks that they take (R72, R75). -/

namespace Sys2Proof.Machine

open Host

/-! ### A task changed, and its bundle advanced -/

/-- Beside the task and the group of bundle c nothing differs; the task is T but for its groups, and the group is y. -/
structure TaskIs (c : Ctx) (s v : State) (T : Task) (y : Group) : Prop where
  memory : SameMemory s v
  csrs : SameCsrs s v
  groups : SameGroups s v c.tid c.g
  task : ∃ tk, task v c.tid = some tk ∧ { tk with groups := c.task.groups } = T
  group : group v c.tid c.g = some y

namespace TaskIs
variable {c : Ctx} {s v : State} {T : Task} {y : Group}

/-- A state whose tasks are those of s, the bundle's own changed beside its groups. -/
theorem of_modTask (f : Task → Task) (hf : ∀ t, (f t).groups = t.groups) (ht : Machine.task s c.tid = some c.task)
    (hg : Machine.group s c.tid c.g = some c.grp) (htasks : v.tasks = (modTask s c.tid f).tasks) (hm : SameMemory s v)
    (hc : SameCsrs s v) : TaskIs c s v { f c.task with groups := c.task.groups } c.grp := by
  have htask : ∀ u, Machine.task v u = if u = c.tid then (Machine.task s c.tid).map f else Machine.task s u := fun u => by
    rw [task_eq_of_tasks htasks, task_modTask]
  have hgroup : ∀ j, Machine.group v c.tid j = Machine.group s c.tid j := fun j => by
    unfold Machine.group
    rw [htask, if_pos rfl, ht]
    show mget (f c.task).groups j = mget c.task.groups j
    rw [hf]
  exact ⟨hm, hc, ⟨fun u hu => (htask u).trans (if_neg hu), fun j _ => hgroup j⟩, ⟨f c.task, by rw [htask, if_pos rfl, ht]; rfl, rfl⟩,
    (hgroup c.g).trans hg⟩

theorem modGroup (h : TaskIs c s v T y) (P : Group → Group) : TaskIs c s (Machine.modGroup v c.tid c.g P) T (P y) := by
  obtain ⟨hm, hc, ⟨hothers, hgroups⟩, ⟨tk, htk, hT⟩, hg⟩ := h
  obtain ⟨-, -, ⟨kothers, kgroups⟩, -⟩ := onlyGroup_modGroup v c.tid c.g P
  exact ⟨hm, hc, ⟨fun u hu => (kothers u hu).trans (hothers u hu), fun j hj => (kgroups j hj).trans (hgroups j hj)⟩,
    ⟨_, task_modGroup_some _ htk, hT⟩, group_modGroup_some _ hg⟩

end TaskIs

/-- A bundle that advances leaves its group's registers and predicates as they were. -/
theorem advanced_stepped (c : Ctx) (fair : Bool) : Advanced c (c.stepped fair c.grp) ∧ SameRegs c (c.stepped fair c.grp) ∧
    SamePreds c (c.stepped fair c.grp) := by
  obtain ⟨-, hregs, hpreds⟩ := stepped_of_alike c fair (Group.Alike.refl c.grp)
  exact ⟨stepped_advanced c fair c.grp rfl rfl (fun _ hn => hn), hregs, hpreds⟩

/-- An instruction that changes its task, beside the groups, and advances. -/
theorem task_completes {s s1 : State} {c : Ctx} {h : Hdr} {n : Nat} {reads writes : List Use} {body : Ctx → State → Res}
    {b : State} {T : Task} (he : Executes s c h n (reads ++ writes)) (hbody : body c s = .ok s1) (hT : TaskIs c b s1 T c.grp) :
    ∃ t x, run h n reads writes body s = .next t ∧ t = modGroup s1 c.tid c.g (c.stepped (fairOn s1 c.ten)) ∧ TaskIs c b t T x ∧
      Advanced c x ∧ SameRegs c x ∧ SamePreds c x :=
  ⟨_, _, run_ok he hbody, rfl, hT.modGroup _, advanced_stepped c _⟩

/-! ### The chunks of a tile (R75, R263, R276) -/

theorem idleTile_iff {x : Tile} {js : List Nat} : IdleTile x js ↔ js.all (chunkIdle x) = true := by
  simp [IdleTile, chunkIdle, List.all_eq_true]

theorem maskChunks_eq (x : Tile) (mask : Word) (first : Nat) : maskChunks x mask.toNat first = namedChunks x mask first := by
  have hbit : ∀ i, (nb mask.toNat i 1 == 1) = mask.getLsbD i := fun i => by
    rw [BitVec.getLsbD, Nat.testBit_eq_decide_div_mod_eq, nb, pow_one]
    rfl
  simp only [maskChunks, namedChunks, hbit]
  rfl

theorem own_ownClear_steps {x : Tile} (ks : List Nat) {j : Nat} (hbase : x.base % 512 = 0) (hj : j < x.len / 512) (hi : j < 128) :
    (ks.foldl (chunkStep ownClear) x).own.getLsbD j = (x.own.getLsbD j && !ks.contains (x.base / 512 + j)) := by
  induction ks generalizing x with
  | nil => simp
  | cons k ks ih =>
    have hsame : SameTile x (chunkStep ownClear x k) := by
      unfold chunkStep
      split
      · exact sameTile_ownClear x _
      · exact rfl
    obtain ⟨hb, hl⟩ := hsame.place
    have hown : (chunkStep ownClear x k).own.getLsbD j = (x.own.getLsbD j && !(x.base / 512 + j == k)) := by
      unfold chunkStep
      split
      · next hin =>
        rw [ownClear, BitVec.getLsbD_and, BitVec.getLsbD_not, decide_eq_true hi, Bool.true_and, getLsbD_pow hi]
        have hiff : k - x.base / 512 = j ↔ x.base / 512 + j = k := by omega
        by_cases he : x.base / 512 + j = k <;> simp [hiff, he]
      · next hout =>
        have hne : x.base / 512 + j ≠ k := fun he => hout (by omega)
        simp [hne]
    rw [List.foldl_cons, ih (by rw [hb]; exact hbase) (by rw [hl]; exact hj), hown, hb, List.contains_cons, Bool.not_or, Bool.and_assoc]

theorem rcnt_ownClear_steps (ks : List Nat) (x : Tile) : (ks.foldl (chunkStep ownClear) x).rcnt = x.rcnt := by
  induction ks generalizing x with
  | nil => rfl
  | cons k ks ih =>
    rw [List.foldl_cons, ih]
    unfold chunkStep
    split <;> rfl

theorem own_readUp_steps (ks : List Nat) (x : Tile) : (ks.foldl (chunkStep readUp) x).own = x.own := by
  induction ks generalizing x with
  | nil => rfl
  | cons k ks ih =>
    rw [List.foldl_cons, ih]
    unfold chunkStep
    split <;> rfl

theorem rcnt_readUp_steps {x : Tile} {ks : List Nat} (hnd : ks.Nodup) {j : Nat} (hbase : x.base % 512 = 0) (hj : j < x.len / 512) :
    mgetD 0 (ks.foldl (chunkStep readUp) x).rcnt j = mgetD 0 x.rcnt j + (if ks.contains (x.base / 512 + j) then 1 else 0) := by
  induction ks generalizing x with
  | nil => rfl
  | cons k ks ih =>
    obtain ⟨hk, hnd⟩ := List.nodup_cons.mp hnd
    have hsame : SameTile x (chunkStep readUp x k) := by
      unfold chunkStep
      split
      · exact sameTile_readUp x _
      · exact rfl
    obtain ⟨hb, hl⟩ := hsame.place
    have hrcnt : mgetD 0 (chunkStep readUp x k).rcnt j = mgetD 0 x.rcnt j + (if x.base / 512 + j = k then 1 else 0) := by
      unfold chunkStep
      split
      · next hin =>
        rw [readUp, mgetD_mputD]
        have hiff : j = k - x.base / 512 ↔ x.base / 512 + j = k := by omega
        by_cases he : x.base / 512 + j = k
        · rw [if_pos (hiff.mpr he), if_pos he, ← hiff.mpr he]
        · rw [if_neg fun h => he (hiff.mp h), if_neg he, Nat.add_zero]
      · next hout => rw [if_neg fun he => hout (by omega), Nat.add_zero]
    rw [List.foldl_cons, ih hnd (by rw [hb]; exact hbase) (by rw [hl]; exact hj), hrcnt, hb, Nat.add_assoc, List.contains_cons]
    refine congrArg (mgetD 0 x.rcnt j + ·) ?_
    by_cases he : x.base / 512 + j = k
    · have hnot : ks.contains (x.base / 512 + j) = false := by simpa [he] using hk
      rw [if_pos he, hnot, beq_iff_eq.mpr he]
      rfl
    · rw [if_neg he, beq_false_of_ne he, Bool.false_or, Nat.zero_add]

/-- The chunks that an engine writes are taken from the threads, and those that it reads have one more reader. -/
theorem taken_modChunks (t : Task) (writes : List Nat) {reads : List Nat} (hnd : reads.Nodup) :
    Taken t (modChunks (modChunks t writes ownClear) reads readUp) writes reads := by
  intro d
  have htile : mget (modChunks (modChunks t writes ownClear) reads readUp).tds d =
      (mget t.tds d).map (fun x => reads.foldl (chunkStep readUp) (writes.foldl (chunkStep ownClear) x)) := by
    rw [modChunks_eq, modChunks_eq]
    dsimp only
    rw [mget_map_values (fun x => reads.foldl (chunkStep readUp) x), mget_map_values (fun x => writes.foldl (chunkStep ownClear) x),
      Option.map_map]
    rfl
  rw [htile]
  cases mget t.tds d with
  | none => rfl
  | some x =>
    intro hbase _ hlen
    have hcleared := sameTile_chunkSteps sameTile_ownClear writes x
    obtain ⟨hb, hl⟩ := hcleared.place
    refine ⟨_, rfl, hcleared.trans (sameTile_chunkSteps sameTile_readUp reads _), fun j hj => ⟨?_, ?_⟩⟩
    · rw [own_readUp_steps]
      exact own_ownClear_steps writes hbase hj (by omega)
    · rw [rcnt_readUp_steps hnd (by rw [hb]; exact hbase) (by rw [hl]; exact hj), rcnt_ownClear_steps, hb]

theorem modChunks_keeps (t : Task) (ks : List Nat) (f : Tile → Nat → Tile) :
    { modChunks t ks f with tds := t.tds } = t ∧ (modChunks t ks f).groups = t.groups := by
  rw [modChunks_eq]
  exact ⟨rfl, rfl⟩

/-- The chunks that a copy reads are named once each. -/
theorem nodup_copyReads (k : CopyKind) (us : List Nat) : (copyReads k us).Nodup := by
  have hunit : ∀ (ks l : List Nat), l.Pairwise (· < ·) → (ks.foldl (fun l j => insertNat j l) l).Pairwise (· < ·) := fun ks l hl =>
    (foldl_insertNat (fun j => j) ks l hl).1
  have hall : ∀ l : List Nat, l.Pairwise (· < ·) →
      (us.foldl (fun l u => (unitReads k u).foldl (fun l j => insertNat j l) l) l).Pairwise (· < ·) := by
    induction us with
    | nil => exact fun l hl => hl
    | cons u us ih => exact fun l hl => ih _ (hunit _ _ hl)
  exact (hall [] .nil).imp fun hlt => Nat.ne_of_lt hlt

end Sys2Proof.Machine
end

section
/-! PROOFS. Tiles and tensor records (R72, R266, R269, R276). -/

namespace Sys2Proof.Machine

open Host

theorem exec_tdesc (h : Hdr) (td : BitVec 4) (a : Reg) (len : Byte) (fmt geom : BitVec 4) (pitch rows cols : Half) (s : State) :
    exec (.tdesc h td a len fmt geom pitch rows cols) s = execTdesc h td a len fmt geom pitch rows cols s := rfl
theorem exec_tfree (h : Hdr) (td : BitVec 4) (s : State) : exec (.tfree h td) s = execTfree h td s := rfl
theorem exec_chkwait (h : Hdr) (td : BitVec 4) (mask : Word) (first : BitVec 7) (s : State) :
    exec (.chkwait h td mask first) s = execChkwait h td mask first s := rfl
theorem exec_chktest (h : Hdr) (p : BitVec 3) (td : BitVec 4) (mask : Word) (first : BitVec 7) (s : State) :
    exec (.chktest h p td mask first) s = execChktest h p td mask first s := rfl
theorem exec_trec (h : Hdr) (tx : BitVec 3) (a : Reg) (off : SrcB) (s : State) : exec (.trec h tx a off) s = execTrec h tx a off s := rfl

/-! ### `tdesc` -/

theorem code_of_fmt {n : Nat} {f : Fmt} (h : Fmt.ofCode n = some f) : f.code = n := by
  unfold Fmt.ofCode at h
  split at h <;> cases h <;> rfl

theorem code_of_geom {n : Nat} {g : Geom} (h : Geom.ofCode n = some g) : g.code = n := by
  unfold Geom.ofCode at h
  split at h <;> cases h <;> rfl

/-- A descriptor that obeys its rules names a format and a geometry. -/
theorem codes_of_tdescBad {t : Task} {td base len fmt geom pitch rows cols : Nat}
    (h : tdescBad t td base len fmt geom pitch rows cols = false) :
    len ≤ 128 ∧ ∃ f g, Fmt.ofCode fmt = some f ∧ Geom.ofCode (geom % 8) = some g ∧ g.code = geom := by
  unfold tdescBad at h
  simp only [Bool.or_eq_false_iff, decide_eq_false_iff_not] at h
  obtain ⟨⟨⟨⟨⟨⟨⟨-, -⟩, hlen⟩, -⟩, -⟩, -⟩, -⟩, hcodes⟩ := h
  refine ⟨by omega, ?_⟩
  split at hcodes
  · next f g hf hg =>
    simp only [Bool.or_eq_false_iff, decide_eq_false_iff_not] at hcodes
    obtain ⟨⟨⟨⟨⟨⟨⟨hgeom, -⟩, -⟩, -⟩, -⟩, -⟩, -⟩, -⟩ := hcodes
    exact ⟨f, g, hf, hg, (code_of_geom hg).trans (Nat.mod_eq_of_lt (by omega))⟩
  · cases hcodes

theorem own_of_len {n j : Nat} (hj : j < 128) : (BitVec.ofNat 128 (2 ^ n - 1)).getLsbD j = decide (j < n) := by
  rw [BitVec.getLsbD_ofNat, decide_eq_true hj, Bool.true_and, Nat.testBit_two_pow_sub_one]

/-- The tile that a descriptor in order defines: its threads own all its chunks (R72, R269). -/
def tileOf (base : Word) (len : Byte) (f : Fmt) (g : Geom) (pitch rows cols : Half) : Tile where
  base := base.toNat
  len := 512 * len.toNat
  fmt := f
  geom := g
  pitch := pitch.toNat
  rows := rows.toNat
  cols := cols.toNat
  own := BitVec.ofNat 128 (2 ^ len.toNat - 1)
  rcnt := []

section
variable {h : Hdr} {td : BitVec 4} {a : Reg} {len : Byte} {fmt geom : BitVec 4} {pitch rows cols : Half} {s : State} {c : Ctx}

theorem tdesc_defines (he : Executes s c h 16 [⟨h.u, a, 1⟩])
    (hbad : tdescBad c.task td.toNat (c.ra a 0 (lowest c.act)).toNat len.toNat fmt.toNat geom.toNat pitch.toNat rows.toNat cols.toNat = false) :
    ∃ t tk x tile, exec (.tdesc h td a len fmt geom pitch rows cols) s = .next t ∧ SameMemory s t ∧
      SameCsrs s t ∧ SameGroups s t c.tid c.g ∧ task t c.tid = some tk ∧ group t c.tid c.g = some x ∧ Advanced c x ∧
      SameRegs c x ∧ SamePreds c x ∧ { tk with groups := c.task.groups, tds := c.task.tds } = c.task ∧
      (∀ n, mget tk.tds n = if n = td.toNat then some tile else mget c.task.tds n) ∧
      (tile.base, tile.len, tile.pitch, tile.rows, tile.cols) =
        ((c.ra a 0 (lowest c.act)).toNat, 512 * len.toNat, pitch.toNat, rows.toNat, cols.toNat) ∧
      tile.fmt.code = fmt.toNat ∧ tile.geom.code = geom.toNat ∧ (∀ j, j < 128 → tile.own.getLsbD j = decide (j < len.toNat)) ∧
      tile.rcnt = [] := by
  obtain ⟨-, -, -, -, ht, hg, -⟩ := group_of_bundle he.1.2
  obtain ⟨-, f, g, hf, hgeom, hcode⟩ := codes_of_tdescBad hbad
  obtain ⟨tile, htile⟩ : ∃ tile, tile = tileOf (c.ra a 0 (lowest c.act)) len f g pitch rows cols := ⟨_, rfl⟩
  obtain ⟨body, hexec, hbody⟩ : ∃ body, exec (.tdesc h td a len fmt geom pitch rows cols) s = run h 16 [⟨h.u, a, 1⟩] [] body s ∧
      body c s = .ok (modTask s c.tid (fun t => { t with tds := mput t.tds td.toNat tile })) := by
    refine ⟨_, (exec_tdesc h td a len fmt geom pitch rows cols s).trans rfl, ?_⟩
    simp only [Ctx.lead, hbad, hf, hgeom, htile]
    rfl
  obtain ⟨t, x, hrun, -, ⟨hm, hc, hgroups, ⟨tk, htk, hkeep⟩, hx⟩, hadv, hregs, hpreds⟩ := task_completes
    (reads := [⟨h.u, a, 1⟩]) (writes := []) he hbody
    (TaskIs.of_modTask (fun t => { t with tds := mput t.tds td.toNat tile }) (fun _ => rfl) ht hg rfl (fun _ _ => rfl) (fun _ _ => rfl))
  have htds : tk.tds = mput c.task.tds td.toNat tile := congrArg Task.tds hkeep
  refine ⟨t, tk, x, tile, hexec.trans hrun, hm, hc, hgroups, htk, hx, hadv, hregs, hpreds,
    congrArg (fun t : Task => { t with tds := c.task.tds }) hkeep, fun n => by rw [htds, mget_mput], ?_⟩
  rw [htile]
  exact ⟨rfl, code_of_fmt hf, hcode, fun j hj => own_of_len hj, rfl⟩

theorem tdesc_refuses (he : Executes s c h 16 [⟨h.u, a, 1⟩])
    (hbad : tdescBad c.task td.toNat (c.ra a 0 (lowest c.act)).toNat len.toNat fmt.toNat geom.toNat pitch.toNat rows.toNat cols.toNat = true)
    (htrap : c.grp.trap = none) (hv : hvec s c.task.tenant ≠ 0) :
    Traps s c (exec (.tdesc h td a len fmt geom pitch rows cols) s) 0x13 (oneLane (lowest c.act)) 0 := by
  rw [exec_tdesc]
  exact traps_of_body (writes := []) he htrap hv (if_pos hbad)

end

/-! ### `tfree`, `chkwait` and `chktest` -/

section
variable {h : Hdr} {td : BitVec 4} {s : State} {c : Ctx} {tile : Tile} (htile : mget c.task.tds td.toNat = some tile)
include htile

theorem tfree_frees (he : Executes s c h 8 []) (hidle : IdleTile tile (List.range (tile.len / 512))) :
    ∃ t tk x, exec (.tfree h td) s = .next t ∧ SameMemory s t ∧ SameCsrs s t ∧ SameGroups s t c.tid c.g ∧
      task t c.tid = some tk ∧ group t c.tid c.g = some x ∧ Advanced c x ∧ SameRegs c x ∧ SamePreds c x ∧
      { tk with groups := c.task.groups, tds := c.task.tds } = c.task ∧
      ∀ n, mget tk.tds n = if n = td.toNat then none else mget c.task.tds n := by
  obtain ⟨-, -, -, -, ht, hg, -⟩ := group_of_bundle he.1.2
  obtain ⟨body, hexec, hbody⟩ : ∃ body, exec (.tfree h td) s = run h 8 [] [] body s ∧
      body c s = .ok (modTask s c.tid (fun t => { t with tds := mdel t.tds td.toNat })) := by
    refine ⟨_, (exec_tfree h td s).trans rfl, ?_⟩
    simp only [htile, upTo, idleTile_iff.mp hidle, if_true]
  obtain ⟨t, x, hrun, -, ⟨hm, hc, hgroups, ⟨tk, htk, hkeep⟩, hx⟩, hadv, hregs, hpreds⟩ := task_completes
    (reads := []) (writes := []) he hbody
    (TaskIs.of_modTask (fun t => { t with tds := mdel t.tds td.toNat }) (fun _ => rfl) ht hg rfl (fun _ _ => rfl) (fun _ _ => rfl))
  have htds : tk.tds = mdel c.task.tds td.toNat := congrArg Task.tds hkeep
  exact ⟨t, tk, x, hexec.trans hrun, hm, hc, hgroups, htk, hx, hadv, hregs, hpreds,
    congrArg (fun t : Task => { t with tds := c.task.tds }) hkeep, fun n => by rw [htds, mget_mdel]⟩

variable {mask : Word} {first : BitVec 7}

theorem chkwait_goes_on (he : Executes s c h 12 []) (hidle : IdleTile tile (namedChunks tile mask first.toNat)) :
    Leaves s c (exec (.chkwait h td mask first) s) (fun x => SameRegs c x ∧ SamePreds c x) := by
  rw [exec_chkwait]
  refine leaves_unchanged (writes := []) he ?_
  simp only [htile, maskChunks_eq, idleTile_iff.mp hidle, if_true]

theorem chkwait_stalls (he : Executes s c h 12 []) (hidle : ¬ IdleTile tile (namedChunks tile mask first.toNat)) :
    Stalls s c (exec (.chkwait h td mask first) s) := by
  rw [exec_chkwait]
  refine run_wait (writes := []) he ?_
  simp only [htile, maskChunks_eq, mt idleTile_iff.mpr hidle]
  rfl

theorem chktest_tests (he : Executes s c h 12 []) (p : BitVec 3) {v : Bool}
    (hv : (namedChunks tile mask first.toNat).all (chunkIdle tile) = v) :
    Leaves s c (exec (.chktest h p td mask first) s) (fun x => SameRegs c x ∧ WritesPred c p.toNat (fun _ => v) x) := by
  rw [exec_chktest]
  refine leaves_ok (F := fun x => x.setPred p.toNat c.act (if v then 0xFFFFFFFF else 0)) (writes := []) he ?_ (live_setPred _ _ _ _)
    (rest_setPred _ _ _ _) (errors_setPred _ _ _ _) ⟨fun r i _ => (stepped_reg c _ _ r i).trans (reg_setPred _ _ _ _ _ _), ?_⟩
  · simp only [htile, maskChunks_eq, hv]
  · intro q lane hlane
    have hones : has (if v then 0xFFFFFFFF else 0 : Lanes) lane = v := by
      cases v
      · simp [has]
      · simp only [has, if_true]
        interval_cases lane <;> rfl
    rw [stepped_pred, pred_setPred]
    by_cases hq : q = p.toNat ∧ q ≠ 7
    · obtain ⟨rfl, h7⟩ := hq
      rw [if_pos ⟨rfl, h7⟩, has_or, has_and, has_and, has_not _ _ hlane, hones]
      cases has c.act lane <;> simp [h7]
    · rw [if_neg hq, if_neg fun hh => hq ⟨hh.1, hh.2.1⟩]

end

/-! ### `trec` -/

/-- A root hangs on the counters, roots, CSRs and traces of its tenant only. -/
structure SameRoots (s v : State) : Prop where
  ctr : ∀ n, (tenant v n).ctr = (tenant s n).ctr
  roots : ∀ n, (tenant v n).roots = (tenant s n).roots
  csr : ∀ n, (tenant v n).csr = (tenant s n).csr
  traces : ∀ n, (tenant v n).traces = (tenant s n).traces

namespace SameRoots
variable {s v w : State}

theorem of_tens (h : v.tens = s.tens) : SameRoots s v := by
  have hten : ∀ n, tenant v n = tenant s n := fun n => by unfold tenant; rw [h]
  exact ⟨fun n => by rw [hten], fun n => by rw [hten], fun n => by rw [hten], fun n => by rw [hten]⟩

theorem trans (h : SameRoots s v) (k : SameRoots v w) : SameRoots s w :=
  ⟨fun n => (k.ctr n).trans (h.ctr n), fun n => (k.roots n).trans (h.roots n), fun n => (k.csr n).trans (h.csr n),
    fun n => (k.traces n).trans (h.traces n)⟩

theorem rootOf (h : SameRoots s v) (t : Task) : Machine.rootOf v t = Machine.rootOf s t := by
  have hchain : ∀ n m i, chainFrom v n m i = chainFrom s n m i := fun n m => by
    induction m with
    | zero => exact fun _ => rfl
    | succ m ih =>
      intro i
      have hctr : counter v n i = counter s n i := by unfold counter; rw [h.ctr]
      rw [chainFrom, chainFrom, hctr]
      cases counter s n i with
      | none => rfl
      | some c => exact congrArg (i :: ·) (ih _)
  unfold Machine.rootOf propRoot rootOfEntry tenantRoot chainOf csrGet
  simp only [hchain, h.roots, h.csr, h.traces]

end SameRoots

theorem sameRoots_traceRead (s : State) (t : Task) (la : LaneAcc) (va n : Nat) : SameRoots s (traceRead s t la va n) := by
  rcases traceRead_eq s t la va n with h | ⟨evs, h⟩ <;> rw [h]
  · exact SameRoots.of_tens rfl
  · refine ⟨fun k => ?_, fun k => ?_, fun k => ?_, fun k => ?_⟩
    all_goals
      rw [tenant_modTenant]
      split
      · next he => rw [he]; rfl
      · rfl

theorem sameRoots_engLoad (t : Task) (las : List LaneAcc) (s : State) (m : Map Byte) :
    SameRoots s (las.foldl (granStep (granRead t)) (s, m)).1 := by
  induction las generalizing s m with
  | nil => exact SameRoots.of_tens rfl
  | cons la las ih =>
    refine SameRoots.trans ?_ (ih _ _)
    refine (sameRoots_traceRead s t la la.addr 32).trans (SameRoots.of_tens ?_)
    unfold granRead
    dsimp only
    split
    · exact (cacheOnly_dieRead _ _ _ _).tens
    · exact (cacheOnly_dieRead_far _ _ _ _ _).tens

/-- A record that is read as a whole is what memory holds. -/
theorem recordRead_go {c : Ctx} {s s1 : State} {va n : Nat} {las : List LaneAcc} {k : State → Nat → Res} (hq : Quiet c.grp)
    (hd : Drained s c.task.core) (hmod : va % n = 0) (hva : va < 2 ^ 57)
    (hplan : engPlan s c.task c.user true false none ((List.range (n / 32)).map (fun i => va + 32 * i)) = .go s1 las)
    (hfresh : FreshGranules s1 c.task las) :
    recordRead c s va n k = k (engLoad s1 c.task las).1 (granNum s1 las va n) := by
  have hlog : logHolds c.grp [va / 2 ^ 12] = false := by simp [logHolds, oplog_of_quiet hq]
  have hahead : ∀ spans, loadAhead c.grp spans = false := fun spans => by simp [loadAhead, hq.1]
  have hclean : writeBackAll s c.task.core = s := writeBackAll_of_clean hd.1
  obtain ⟨-, hgran⟩ := engPlan_go hplan
  obtain ⟨-, hbytes⟩ := engLoad_spec hgran hfresh
  unfold recordRead
  rw [if_neg (by simp [hmod]), if_neg (Nat.not_le.mpr hva), hlog, hclean, upTo, hplan]
  dsimp only
  rw [hahead, bytesNum_of_granByte hbytes]
  rfl

theorem trec_loads {h : Hdr} {tx : BitVec 3} {a : Reg} {off : SrcB} {s s1 s2 : State} {c : Ctx} {las : List LaneAcc} {pa : Nat}
    {xl : Xl} {f : Fmt} {g : Geom} (he : Executes s c h off.len (⟨h.u, a, 2⟩ :: useB h.u off 1)) (hq : Quiet c.grp)
    (hd : Drained s c.task.core) {va n : Nat} (hva : va = address c a off (lowest c.act)) (hmod : va % 64 = 0) (hlt : va < 2 ^ 57)
    (hplan : engPlan s c.task c.user true false none [va, va + 32] = .go s1 las) (hfresh : FreshGranules s1 c.task las)
    (hn : n = granNum s1 las va 64)
    (hacc : Machine.access (engLoad s1 c.task las).1 (.tile c.task.core) c.task.tenant (rootOf s c.task) (n / 2 ^ 455 % 2 ^ 57)
      { r := true, w := false, x := false, user := c.user } = (s2, .ok pa xl))
    (hf : Fmt.ofCode xl.fmt = some f) (hg : Geom.ofCode xl.geom = some g) (hok : pairOk f g = true)
    (hbad : trecBad n (trecOf n f g) = false) :
    ∃ t tk x, exec (.trec h tx a off) s = .next t ∧ SameCsrs s2 t ∧ SameGroups s2 t c.tid c.g ∧ task t c.tid = some tk ∧
      group t c.tid c.g = some x ∧ Advanced c x ∧ SameRegs c x ∧ SamePreds c x ∧ SameMemory s2 t ∧
      ∀ k, mget tk.txs k = if k = tx.toNat then some (recordOf n f g) else mget c.task.txs k := by
  obtain ⟨-, -, -, -, ht, hgrp, -⟩ := group_of_bundle he.1.2
  obtain ⟨htr, hgran⟩ := engPlan_go hplan
  obtain ⟨hload, -⟩ := engLoad_spec hgran hfresh
  have hroot : rootOf (engLoad s1 c.task las).1 c.task = rootOf s c.task :=
    ((SameRoots.of_tens htr.tens).trans (sameRoots_engLoad c.task las s1 [])).rootOf c.task
  have htr2 := translates_access (engLoad s1 c.task las).1 (.tile c.task.core) c.task.tenant (rootOf s c.task) (n / 2 ^ 455 % 2 ^ 57)
    { r := true, w := false, x := false, user := c.user }
  rw [hacc] at htr2
  have htasks : s2.tasks = s.tasks := htr2.tasks.trans (hload.tasks.trans htr.tasks)
  have ht2 : task s2 c.tid = some c.task := (task_eq_of_tasks htasks _).trans ht
  have hg2 : group s2 c.tid c.g = some c.grp := by rw [← hgrp]; unfold group; rw [task_eq_of_tasks htasks]
  obtain ⟨body, hexec, hbody⟩ : ∃ body, exec (.trec h tx a off) s = run h off.len (⟨h.u, a, 2⟩ :: useB h.u off 1) [] body s ∧
      body c s = .ok (modTask s2 c.tid (fun t => { t with txs := mput t.txs tx.toNat (recordOf n f g) })) := by
    refine ⟨_, (exec_trec h tx a off s).trans rfl, ?_⟩
    dsimp only
    rw [gaddr_eq_address, Ctx.lead, ← hva, recordRead_go hq hd hmod hlt hplan hfresh, ← hn, hroot]
    have hbase : nb n 455 57 = n / 2 ^ 455 % 2 ^ 57 := rfl
    simp only [hbase, Ctx.ten, hacc, hf, hg, hok, hbad]
    rfl
  obtain ⟨t, x, hrun, -, ⟨hm, hc, hgroups, ⟨tk, htk, hkeep⟩, hx⟩, hadv, hregs, hpreds⟩ := task_completes (writes := [])
    (by rw [List.append_nil]; exact he) hbody
    (TaskIs.of_modTask (fun t => { t with txs := mput t.txs tx.toNat (recordOf n f g) }) (fun _ => rfl) ht2 hg2 rfl
      (fun _ _ => rfl) (fun _ _ => rfl))
  have htxs : tk.txs = mput c.task.txs tx.toNat (recordOf n f g) := congrArg Task.txs hkeep
  exact ⟨t, tk, x, hexec.trans hrun, hc, hgroups, htk, hx, hadv, hregs, hpreds, hm, fun k => by rw [htxs, mget_mput]⟩

end Sys2Proof.Machine
end

section
/-! PROOFS. Copies that start, and their cancellation (R263, R271 to R275). -/

namespace Sys2Proof.Machine

open Host

theorem exec_cpl (h : Hdr) (tok a : Reg) (off : Word) (so : Reg) (sz : CSz) (s2g : Bool) (scope : Scope) (s : State) :
    exec (.cpl h tok a off so sz s2g scope) s = execCpl h tok a off so sz s2g scope s := rfl
theorem exec_cpt (h : Hdr) (tok row : Reg) (col : SrcC) (td : BitVec 4) (tx : BitVec 3) (s2g : Bool) (scope : Scope) (s : State) :
    exec (.cpt h tok row col td tx s2g scope) s = execCpt h tok row col td tx s2g scope s := rfl
theorem exec_cpr (h : Hdr) (tok a : Reg) (td : BitVec 4) (op : AOp) (first count : Byte) (scope : Scope) (s : State) :
    exec (.cpr h tok a td op first count scope) s = execCpr h tok a td op first count scope s := rfl
theorem exec_cpcancel (h : Hdr) (tok : Reg) (s : State) : exec (.cpcancel h tok) s = execCpcancel h tok s := rfl

/-! ### A copy starts -/

/-- A task whose chunks a copy has taken. -/
def takenTask (k : CopyKind) (t : Task) : Task :=
  modChunks (modChunks t (copyWrites k (copyUnits k)) ownClear) (copyReads k (copyUnits k)) readUp

/-- A group with one more pending token. -/
def Group.pending (tok serial : Nat) (x : Group) : Group :=
  { x with toks := x.toks ++ [tok], passed := mput x.passed tok serial }

/-- The state in which a copy has started. -/
def copyStarted (s : State) (c : Ctx) (tok : Reg) (scope : Scope) (k : CopyKind) : State :=
  let b := writeBackAll s c.task.core
  { modGroup (modTask b c.tid (takenTask k)) c.tid c.g (Group.pending (tok.toNat - 448) b.serial) with
    serial := b.serial + 1, copies := mput b.copies b.serial (newCopy c tok scope k) }

theorem startCopy_goes {s : State} {c : Ctx} {k : CopyKind} (h : MayTake s c (copyWrites k (copyUnits k)) (copyReads k (copyUnits k)))
    (tok : Reg) (scope : Scope) : startCopy c s tok scope k = .ok (copyStarted s c tok scope k) := by
  obtain ⟨hwrites, hreads, hcp, -⟩ := h
  have hw : writersGo c.task (copyWrites k (copyUnits k)) = true := by
    refine List.all_eq_true.mpr fun j hj => ?_
    obtain ⟨p, hp, hidle⟩ := hwrites j hj
    rw [hp]
    simpa using idleTile_iff.mp hidle
  have hr : readersGo c.task (copyReads k (copyUnits k)) = true := by
    refine List.all_eq_true.mpr fun j hj => ?_
    obtain ⟨p, hp, hown, hfew⟩ := hreads j hj
    rw [hp]
    simp [chunkReadable, hown, hfew]
  unfold startCopy
  dsimp only
  rw [if_neg (Nat.not_le.mpr hcp), hw, hr]
  rfl

/-- A copy that starts leaves its token pending and its chunks taken, and stands among the copies. -/
theorem copy_starts {s : State} {c : Ctx} {h : Hdr} {n : Nat} {reads : List Use} {body : Ctx → State → Res} {tok : Reg}
    {scope : Scope} {k : CopyKind} (he : Executes s c h n reads) (hbody : body c s = startCopy c s tok scope k)
    (hmay : MayTake s c (copyWrites k (copyUnits k)) (copyReads k (copyUnits k))) :
    ∃ t, run h n reads [] body s = .next t ∧ CopyStarts s t c tok scope k := by
  obtain ⟨-, -, -, -, ht, hg, -⟩ := group_of_bundle he.1.2
  obtain ⟨b, hb⟩ : ∃ b, b = writeBackAll s c.task.core := ⟨_, rfl⟩
  have hcache : CacheOnly s b := hb ▸ cacheOnly_writeBackAll s c.task.core
  have hcopies : b.copies = s.copies := by
    have := congrArg State.copies hcache
    exact this
  obtain ⟨v, hv⟩ : ∃ v, v = copyStarted s c tok scope k := ⟨_, rfl⟩
  have hstart : v = { modGroup (modTask b c.tid (takenTask k)) c.tid c.g (Group.pending (tok.toNat - 448) b.serial) with
      serial := b.serial + 1, copies := mput b.copies b.serial (newCopy c tok scope k) } := by rw [hv, hb]; rfl
  have hgroups : ∀ t, (takenTask k t).groups = t.groups := fun t =>
    (modChunks_keeps _ _ _).2.trans (modChunks_keeps _ _ _).2
  have htaken : TaskIs c s (modTask b c.tid (takenTask k)) { takenTask k c.task with groups := c.task.groups } c.grp :=
    TaskIs.of_modTask (takenTask k) hgroups ht hg (by unfold modTask; rw [hcache.tasks]) hcache.memory hcache.csrs
  have hpend := htaken.modGroup (Group.pending (tok.toNat - 448) b.serial)
  have hstarted : TaskIs c s v { takenTask k c.task with groups := c.task.groups } (c.grp.pending (tok.toNat - 448) b.serial) := by
    rw [hstart]
    exact ⟨hpend.memory, hpend.csrs, hpend.groups, hpend.task, hpend.group⟩
  obtain ⟨hm, hc, hgs, ⟨tk, htk, hkeep⟩, hx⟩ := hstarted.modGroup (c.stepped (fairOn v c.ten))
  have hrest := rest_stepped c (fairOn v c.ten) (c.grp.pending (tok.toNat - 448) b.serial)
  have htds : tk.tds = (takenTask k c.task).tds := by
    have h := congrArg Task.tds hkeep
    exact h
  have hkept : { takenTask k c.task with tds := c.task.tds } = c.task := by
    unfold takenTask
    rw [modChunks_eq, modChunks_eq]
  refine ⟨_, run_ok (writes := []) (by rw [List.append_nil]; exact he) ((hbody.trans (startCopy_goes hmay tok scope)).trans (by rw [hv])),
    _, tk, b.serial, hm, hc, hgs, hx, htk, moved_stepped c _ rfl (fun _ hn => hn), fun r i _ => ?_, fun p => ?_, ?_, ?_, ?_, ?_, fun n => ?_⟩
  · rw [stepped_reg]
    cases r <;> rfl
  · rw [stepped_pred]
    rfl
  · exact congrArg Group.toks hrest
  · unfold Group.restTok
    rw [hrest]
    rfl
  · have hall := congrArg (fun t : Task => { t with tds := c.task.tds }) hkeep
    refine hall.trans ?_
    have hsame := congrArg (fun t : Task => { t with groups := c.task.groups }) hkept
    exact hsame
  · intro d
    rw [htds]
    exact taken_modChunks c.task _ (nodup_copyReads k (copyUnits k)) d
  · show mget v.copies n = _
    rw [hstart]
    dsimp only
    rw [mget_mput, hcopies]

/-! ### `cpl`, `cpt` and `cpr` -/

theorem tokenTaken_iff {c : Ctx} {tok : Reg} : tokenTaken c tok = true ↔ tok.toNat - 448 ∈ c.grp.toks :=
  List.contains_iff_mem

theorem tokenTaken_eq_false {c : Ctx} {tok : Reg} (h : tok.toNat - 448 ∉ c.grp.toks) : tokenTaken c tok = false :=
  Bool.eq_false_iff.mpr (mt tokenTaken_iff.mp h)

theorem lanesCause_none {xs : List (Nat × Option (Byte × Nat))} (h : ∀ x ∈ xs, x.2 = none) : lanesCause xs = none := by
  have hbads : xs.filterMap (fun x => x.2.map (fun k => (x.1, k))) = [] :=
    List.filterMap_eq_nil_iff.mpr fun x hx => by rw [h x hx]; rfl
  unfold lanesCause
  dsimp only
  rw [hbads]

theorem cplCause_none {t : Task} {va o n : Nat} (hva : va % n = 0) (ho : o % n = 0) (hlt : va < 2 ^ 57) (hsize : o + n ≤ t.scratchSize)
    (htile : ∃ p ∈ t.tds, p.2.base ≤ o ∧ o + n ≤ p.2.base + p.2.len) : cplCause t va o n = none := by
  obtain ⟨p, hp, hle, hend⟩ := htile
  have hin : inTiles t o n = true := List.any_eq_true.mpr ⟨p, hp, by simp [hle, hend]⟩
  unfold cplCause
  rw [if_neg (not_not.mpr hva), if_neg (not_not.mpr ho), if_neg (Nat.not_lt.mpr hsize), if_neg (Nat.not_le.mpr hlt), hin]
  rfl

theorem cpl_starts {h : Hdr} {tok a : Reg} {off : Word} {so : Reg} {sz : CSz} {s2g : Bool} {scope : Scope} {s : State} {c : Ctx}
    (he : Executes s c h 12 [⟨h.u, a, 2⟩, ⟨h.u, so, 1⟩]) (htok : tok.toNat - 448 ∉ c.grp.toks) {n : Nat} (hn : n = cszBytes sz)
    {ls : List (Nat × Nat × Nat)} (hls : ls = c.lanes.map (fun i => (i, address c a (.imm off) i, (c.ra so 0 i).toNat)))
    (hall : ∀ l ∈ ls, l.2.1 % n = 0 ∧ l.2.2 % n = 0 ∧ l.2.1 < 2 ^ 57 ∧ l.2.2 + n ≤ c.task.scratchSize ∧
      ∃ p ∈ c.task.tds, p.2.base ≤ l.2.2 ∧ l.2.2 + n ≤ p.2.base + p.2.len)
    (hmay : MayTake s c (copyWrites (.cpl n s2g ls) (copyUnits (.cpl n s2g ls))) (copyReads (.cpl n s2g ls) (copyUnits (.cpl n s2g ls)))) :
    ∃ t, exec (.cpl h tok a off so sz s2g scope) s = .next t ∧ CopyStarts s t c tok scope (.cpl n s2g ls) := by
  have hcause : lanesCause (ls.map (fun l => (l.1, cplCause c.task l.2.1 l.2.2 n))) = none := by
    refine lanesCause_none fun x hx => ?_
    obtain ⟨l, hl, rfl⟩ := List.mem_map.mp hx
    obtain ⟨hva, ho, hlt, hsize, htile⟩ := hall l hl
    exact cplCause_none hva ho hlt hsize htile
  rw [exec_cpl]
  refine copy_starts he ?_ hmay
  simp only [gaddr_eq_address, ← hls, ← hn, hcause, tokenTaken_eq_false htok]
  rfl

theorem cpt_starts {h : Hdr} {tok row : Reg} {col : SrcC} {td : BitVec 4} {tx : BitVec 3} {s2g : Bool} {scope : Scope} {s : State}
    {c : Ctx} {tile : Tile} {r : TRec} (he : Executes s c h 12 (⟨h.u, row, 1⟩ :: useC h.u col 1)) (htok : tok.toNat - 448 ∉ c.grp.toks)
    (htile : mget c.task.tds td.toNat = some tile) (hrec : mget c.task.txs tx.toNat = some r) {i j : Nat}
    (hi : i = (c.ra row 0 (lowest c.act)).toNat) (hj : j = (c.c col (lowest c.act)).toNat) (hrows : tile.rows ≠ 0)
    (hraw : tile.fmt ≠ .raw) (hfmt : tile.fmt = r.fmt) (hgeom : tile.geom = r.geom)
    (hblock : blockFmt tile.fmt = true → j % blockSize tile.geom = 0)
    (hmay : MayTake s c (copyWrites (.cpt s2g td.toNat tile r i j) (copyUnits (.cpt s2g td.toNat tile r i j)))
      (copyReads (.cpt s2g td.toNat tile r i j) (copyUnits (.cpt s2g td.toNat tile r i j)))) :
    ∃ t, exec (.cpt h tok row col td tx s2g scope) s = .next t ∧ CopyStarts s t c tok scope (.cpt s2g td.toNat tile r i j) := by
  have hkind : cptKind c.task td.toNat tx.toNat s2g i j = some (.cpt s2g td.toNat tile r i j) := by
    have hshaped : tile.shaped = true := by simpa [Tile.shaped] using hrows
    have haligned : (blockFmt tile.fmt && j % blockSize tile.geom != 0) = false := by
      by_cases hb : blockFmt tile.fmt = true
      · simp [hblock hb]
      · simp [hb]
    unfold cptKind
    simp only [htile, hrec, hshaped, beq_false_of_ne hraw, haligned, beq_iff_eq.mpr hfmt, beq_iff_eq.mpr hgeom]
    rfl
  rw [exec_cpt]
  refine copy_starts he ?_ hmay
  simp only [tokenTaken_eq_false htok, Ctx.lead, ← hi, ← hj, hkind]
  rfl

theorem rpair_eq (c : Ctx) (a : Reg) (i : Nat) : c.rpair a i = (c.ra a 1 i ++ c.ra a 0 i : BitVec 64).toNat := by
  have hlt : c.rpair a i < 2 ^ 64 := by
    have hlo := (c.ra a 0 i).isLt
    have hhi := (c.ra a 1 i).isLt
    unfold Ctx.rpair pair
    omega
  rw [← pair_eq_append, BitVec.toNat_ofNat]
  exact (Nat.mod_eq_of_lt hlt).symm

theorem cpr_starts {h : Hdr} {tok a : Reg} {td : BitVec 4} {op : AOp} {first count : Byte} {scope : Scope} {s : State} {c : Ctx}
    {tile : Tile} (he : Executes s c h 12 [⟨h.u, a, 2⟩]) (htok : tok.toNat - 448 ∉ c.grp.toks)
    (htile : mget c.task.tds td.toNat = some tile) {va : Nat}
    (hva : va = (c.ra a 1 (lowest c.act) ++ c.ra a 0 (lowest c.act) : BitVec 64).toNat) (hmod : va % 512 = 0) (hlt : va < 2 ^ 57)
    (hcount : 1 ≤ count.toNat) (hfits : first.toNat + count.toNat ≤ tile.len / 512)
    (hmay : MayTake s c (copyWrites (.cpr op td.toNat tile va first.toNat count.toNat) (copyUnits (.cpr op td.toNat tile va first.toNat count.toNat)))
      (copyReads (.cpr op td.toNat tile va first.toNat count.toNat) (copyUnits (.cpr op td.toNat tile va first.toNat count.toNat)))) :
    ∃ t, exec (.cpr h tok a td op first count scope) s = .next t ∧
      CopyStarts s t c tok scope (.cpr op td.toNat tile va first.toNat count.toNat) := by
  have hpass : ∀ k : Res, firstCause c s [(va % 512 != 0, causeMisaligned, va % 2 ^ 57), (decide (2 ^ 57 ≤ va), causeProt, va % 2 ^ 57),
      (tokenTaken c tok, causeToken, 0)] k = k := fun k => by
    have hlow : decide (2 ^ 57 ≤ va) = false := decide_eq_false (Nat.not_le.mpr hlt)
    unfold firstCause
    simp only [hmod, hlow, tokenTaken_eq_false htok]
    rfl
  have hok : ¬ (count.toNat = 0 ∨ tile.len / 512 < first.toNat + count.toNat) := by omega
  rw [exec_cpr]
  refine copy_starts he ?_ hmay
  dsimp only
  rw [Ctx.lead, rpair_eq, ← hva, hpass, htile]
  exact if_neg hok

/-! ### `cpcancel` -/

theorem cpcancel_stops {h : Hdr} {tok : Reg} {s : State} {c : Ctx} (he : Executes s c h 8 []) {id : Nat} {op : CopyOp}
    (htok : tok.toNat - 448 ∈ c.grp.toks)
    (hfind : s.copies.find? (fun p => p.2.tid == c.tid && p.2.g == c.g && p.2.tok == tok.toNat - 448) = some (id, op))
    (hending : op.ending = none) :
    ∃ t x, exec (.cpcancel h tok) s = .next t ∧ SameMemory s t ∧ SameCsrs s t ∧ SameGroups s t c.tid c.g ∧
      group t c.tid c.g = some x ∧ Advanced c x ∧ SameRegs c x ∧ SamePreds c x ∧
      ∀ n, mget t.copies n = if n = id then some { op with todo := [], ending := some 1 } else mget s.copies n := by
  obtain ⟨-, -, -, -, ht, hg, -⟩ := group_of_bundle he.1.2
  have htid : op.tid = c.tid := by
    have := List.find?_some hfind
    simp only [Bool.and_eq_true, beq_iff_eq] at this
    exact this.1.1
  obtain ⟨body, hexec, hbody⟩ : ∃ body, exec (.cpcancel h tok) s = run h 8 [] [] body s ∧ body c s = .ok (stopCopy s id 1 op) := by
    refine ⟨_, (exec_cpcancel h tok s).trans rfl, ?_⟩
    have htaken : tokenTaken c tok = true := tokenTaken_iff.mpr htok
    have hfind' : s.copies.find? (fun p => p.2.tid == c.tid && p.2.g == c.g && p.2.tok == scalIdx tok) = some (id, op) := hfind
    simp only [htaken, hfind', hending]
    rfl
  have hgroups : ∀ t, (modChunks (modChunks t (copyWrites op.kind op.todo) ownSet) (copyReads op.kind op.todo) readDown).groups =
      t.groups := fun t => (modChunks_keeps _ _ _).2.trans (modChunks_keeps _ _ _).2
  obtain ⟨t, x, hrun, ht', ⟨hm, hc, hgs, -, hx⟩, hadv, hregs, hpreds⟩ := task_completes (reads := []) (writes := []) he hbody
    (TaskIs.of_modTask _ hgroups ht hg (by rw [← htid]; rfl) (fun _ _ => rfl) (fun _ _ => rfl))
  refine ⟨t, x, hexec.trans hrun, hm, hc, hgs, hx, hadv, hregs, hpreds, fun n => ?_⟩
  rw [ht']
  exact mget_mput s.copies id n _

theorem cpcancel_idle {h : Hdr} {tok : Reg} {s : State} {c : Ctx} (he : Executes s c h 8 []) (htok : tok.toNat - 448 ∉ c.grp.toks) :
    Leaves s c (exec (.cpcancel h tok) s) (fun x => SameRegs c x ∧ SamePreds c x) := by
  rw [exec_cpcancel]
  refine leaves_unchanged (writes := []) he ?_
  simp only [tokenTaken_eq_false htok]
  rfl

/-- Settles O38: tiles and records, the three copies that start, and the copy that is cancelled. -/
theorem tilesAndCopies : Obligations.TilesAndCopies := by
  unfold Obligations.TilesAndCopies
  refine ⟨?_, ?_, ?_, ?_, ?_, ?_, ?_⟩
  · intro h td a len fmt geom pitch rows cols s c he base bad
    exact ⟨fun hbad => tdesc_defines he hbad, fun hbad htrap hv => tdesc_refuses he hbad htrap hv⟩
  · intro h td mask first p s c tile htile
    refine ⟨fun he hidle => tfree_frees htile he hidle, fun he => ⟨fun hidle => ?_, fun hidle => ?_⟩⟩
    · exact ⟨chkwait_goes_on htile he hidle, chktest_tests htile he p (idleTile_iff.mp hidle)⟩
    · exact ⟨chkwait_stalls htile he hidle, chktest_tests htile he p (Bool.eq_false_iff.mpr (mt idleTile_iff.mpr hidle))⟩
  · intro h tx a off s s1 s2 c las pa xl f g he hq hd va hmod hlt hplan hfresh n base hacc hf hg hok hbad
    exact trec_loads he hq hd rfl hmod hlt hplan hfresh rfl hacc hf hg hok hbad
  · intro h tok a off so sz s2g scope s c he htok n ls k hall hmay
    exact cpl_starts he htok rfl rfl hall hmay
  · intro h tok row col td tx s2g scope s c tile r he htok htile hrec i j k hrows hraw hfmt hgeom hblock hmay
    exact cpt_starts he htok htile hrec rfl rfl hrows hraw hfmt hgeom hblock hmay
  · intro h tok a td op first count scope s c tile he htok htile va k hmod hlt hcount hfits hmay
    exact cpr_starts he htok htile rfl hmod hlt hcount hfits hmay
  · intro h tok s c he
    exact ⟨fun htok => cpcancel_idle he htok, fun id op htok hfind hending => cpcancel_stops he htok hfind hending⟩

end Sys2Proof.Machine
end
